-- ==== Sys2Proof/Word.lean ====
section
/-! DEFINITION. The word types and the one sparse-map type of the model. -/

namespace Sys2Proof

/-- One byte. -/
abbrev W8 := BitVec 8
/-- A half word. -/
abbrev W16 := BitVec 16
/-- An instruction word and a vector element (R19, R52). -/
abbrev W32 := BitVec 32
/-- A scalar register, a virtual address, a name (R154, R174, R298). -/
abbrev W64 := BitVec 64

/-- Sparse data by key: at most one entry a key, keys rising, no entry equal to what an
unlisted key reads as. -/
abbrev FMap (β : Type) := List (Nat × β)

end Sys2Proof
end

