-- ==== Sys2Proof/Syntax.lean ====
section
/-! DEFINITION. The abstract syntax: one constructor of `Instr` for each row of the opcode table, the
118 steps that carry no instruction word among them (chapter "What each step holds"). -/

namespace Sys2Proof

/-- Operand fields of the HIMM word, named as the opcode table names them. -/
structure FHimm where
  h : BitVec 20
  deriving DecidableEq, Repr

/-- Operand fields of the HPRED word, named as the opcode table names them. -/
structure FHpred where
  p : BitVec 3
  s : Bool
  c : BitVec 3
  deriving DecidableEq, Repr

/-- Operand fields of the HMODE word, named as the opcode table names them. -/
structure FHmode where
  v : Bool
  r : BitVec 2
  s : Bool
  f : Bool
  m : BitVec 3
  deriving DecidableEq, Repr

/-- Operand fields of the HORD word, named as the opcode table names them. -/
structure FHord where
  o : BitVec 3
  c : BitVec 3
  deriving DecidableEq, Repr

/-- Operand fields of the HCACHE word, named as the opcode table names them. -/
structure FHcache where
  p : BitVec 2
  deriving DecidableEq, Repr

/-- Operand fields of the HTYPE word, named as the opcode table names them. -/
structure FHtype where
  t : BitVec 5
  deriving DecidableEq, Repr

/-- Operand fields of the format C (R22), branch and call, named as the opcode table names them. -/
structure FC where
  z : Bool
  u : Bool
  p : BitVec 3
  s : Bool
  o : BitVec 19
  deriving DecidableEq, Repr

/-- Operand fields of the format S3 (R22) with no operand field, named as the opcode table names them. -/
structure FZ where
  z : Bool
  deriving DecidableEq, Repr

/-- Operand fields of the format S3 (R22), one scalar source, named as the opcode table names them. -/
structure FA where
  z : Bool
  l : Bool
  a : BitVec 6
  deriving DecidableEq, Repr

/-- Operand fields of the format SI (R22), scalar source and immediate, named as the opcode table names them. -/
structure FAI where
  z : Bool
  l : Bool
  a : BitVec 6
  i : BitVec 11
  deriving DecidableEq, Repr

/-- Operand fields of the format SI (R22), scalar destination and immediate, named as the opcode table names them. -/
structure FDI where
  z : Bool
  d : BitVec 6
  i : BitVec 11
  deriving DecidableEq, Repr

/-- Operand fields of the format E (R22), named as the opcode table names them. -/
structure FE where
  z : Bool
  t : BitVec 6
  p : BitVec 6
  l : Bool
  q : BitVec 6
  k : Bool
  h : BitVec 4
  deriving DecidableEq, Repr

/-- Operand fields of the format S3 (R22), named as the opcode table names them. -/
structure FS3 where
  z : Bool
  d : BitVec 6
  l : Bool
  a : BitVec 6
  m : Bool
  b : BitVec 6
  deriving DecidableEq, Repr

/-- Operand fields of the format S3 (R22), unary, named as the opcode table names them. -/
structure FS2 where
  z : Bool
  d : BitVec 6
  l : Bool
  a : BitVec 6
  deriving DecidableEq, Repr

/-- Operand fields of the SCMP word, named as the opcode table names them. -/
structure FScmp where
  z : Bool
  p : BitVec 3
  l : Bool
  a : BitVec 6
  m : Bool
  b : BitVec 6
  c : BitVec 4
  deriving DecidableEq, Repr

/-- Operand fields of the format SI (R22), named as the opcode table names them. -/
structure FSI where
  z : Bool
  d : BitVec 6
  l : Bool
  a : BitVec 6
  i : BitVec 11
  deriving DecidableEq, Repr

/-- Operand fields of the SHLI word, named as the opcode table names them. -/
structure FSN where
  z : Bool
  d : BitVec 6
  l : Bool
  a : BitVec 6
  n : BitVec 6
  deriving DecidableEq, Repr

/-- Operand fields of the VGIVE word, named as the opcode table names them. -/
structure FDN where
  z : Bool
  d : BitVec 6
  n : BitVec 11
  deriving DecidableEq, Repr

/-- Operand fields of the VFREE word, named as the opcode table names them. -/
structure FVfree where
  z : Bool
  c : BitVec 4
  f : BitVec 7
  deriving DecidableEq, Repr

/-- Operand fields of the VSTAT word, named as the opcode table names them. -/
structure FDK where
  z : Bool
  d : BitVec 6
  k : BitVec 11
  deriving DecidableEq, Repr

/-- Operand fields of the VMOVS word, named as the opcode table names them. -/
structure FVmk where
  z : Bool
  d : BitVec 5
  l : Bool
  a : BitVec 7
  k : BitVec 7
  deriving DecidableEq, Repr

/-- Operand fields of the VMOVS_FIRST word, named as the opcode table names them. -/
structure FVm where
  z : Bool
  d : BitVec 5
  l : Bool
  a : BitVec 7
  deriving DecidableEq, Repr

/-- Operand fields of the format V3 (R22), named as the opcode table names them. -/
structure FV3 where
  z : Bool
  d : BitVec 7
  l : Bool
  a : BitVec 7
  m : Bool
  b : BitVec 7
  deriving DecidableEq, Repr

/-- Operand fields of the ICMP word, named as the opcode table names them. -/
structure FVC where
  z : Bool
  c : BitVec 4
  p : BitVec 3
  l : Bool
  a : BitVec 7
  m : Bool
  b : BitVec 7
  deriving DecidableEq, Repr

/-- Operand fields of the format VI (R22), named as the opcode table names them. -/
structure FVI where
  z : Bool
  d : BitVec 7
  l : Bool
  a : BitVec 7
  i : BitVec 8
  deriving DecidableEq, Repr

/-- Operand fields of the format V2 (R22), named as the opcode table names them. -/
structure FV2 where
  z : Bool
  d : BitVec 7
  l : Bool
  a : BitVec 7
  deriving DecidableEq, Repr

/-- Operand fields of the IUN_XNIB word, named as the opcode table names them. -/
structure FVK3 where
  z : Bool
  d : BitVec 7
  l : Bool
  a : BitVec 7
  k : BitVec 3
  deriving DecidableEq, Repr

/-- Operand fields of the IUN_XBYTE word, named as the opcode table names them. -/
structure FVK2 where
  z : Bool
  d : BitVec 7
  l : Bool
  a : BitVec 7
  k : BitVec 2
  deriving DecidableEq, Repr

/-- Operand fields of the CVT word, named as the opcode table names them. -/
structure FCvt where
  z : Bool
  d : BitVec 7
  l : Bool
  a : BitVec 7
  g : BitVec 3
  t : BitVec 4
  u : Bool
  deriving DecidableEq, Repr

/-- Operand fields of the CVTN word, named as the opcode table names them. -/
structure FCvtn where
  z : Bool
  d : BitVec 7
  l : Bool
  a : BitVec 7
  c : BitVec 3
  deriving DecidableEq, Repr

/-- Operand fields of the CVTB word, named as the opcode table names them. -/
structure FCvtb where
  z : Bool
  d : BitVec 7
  l : Bool
  a : BitVec 7
  m : Bool
  c : BitVec 5
  deriving DecidableEq, Repr

/-- Operand fields of the CVTM word, named as the opcode table names them. -/
structure FVK8 where
  z : Bool
  d : BitVec 7
  l : Bool
  a : BitVec 7
  k : BitVec 8
  deriving DecidableEq, Repr

/-- Operand fields of the SHFLI_BC word, named as the opcode table names them. -/
structure FVK6 where
  z : Bool
  d : BitVec 7
  l : Bool
  a : BitVec 7
  k : BitVec 6
  deriving DecidableEq, Repr

/-- Operand fields of the VOTE_MASK word, named as the opcode table names them. -/
structure FVote where
  z : Bool
  d : BitVec 5
  p : BitVec 3
  deriving DecidableEq, Repr

/-- Operand fields of the REDUX_ADD word, named as the opcode table names them. -/
structure FRedux where
  z : Bool
  d : BitVec 7
  l : Bool
  a : BitVec 7
  s : BitVec 3
  deriving DecidableEq, Repr

/-- Operand fields of the SCAN_ADD word, named as the opcode table names them. -/
structure FScan where
  z : Bool
  d : BitVec 7
  l : Bool
  a : BitVec 7
  s : BitVec 3
  e : Bool
  deriving DecidableEq, Repr

/-- Operand fields of the PMOV_TOP word, named as the opcode table names them. -/
structure FPtop where
  z : Bool
  l : Bool
  a : BitVec 7
  k : BitVec 3
  deriving DecidableEq, Repr

/-- Operand fields of the PMOV_FROMP word, named as the opcode table names them. -/
structure FPfrom where
  z : Bool
  d : BitVec 7
  k : BitVec 3
  deriving DecidableEq, Repr

/-- Operand fields of the PMOV_AND word, named as the opcode table names them. -/
structure FPP where
  z : Bool
  j : BitVec 3
  k : BitVec 3
  deriving DecidableEq, Repr

/-- Operand fields of the PMOV_FROMS word, named as the opcode table names them. -/
structure FPfroms where
  z : Bool
  l : Bool
  a : BitVec 5
  k : BitVec 3
  deriving DecidableEq, Repr

/-- Operand fields of the format M (R22), loads, named as the opcode table names them. -/
structure FML where
  z : Bool
  d : BitVec 7
  a : BitVec 7
  l : Bool
  s : BitVec 3
  k : Bool
  h : BitVec 4
  deriving DecidableEq, Repr

/-- Operand fields of the format M (R22), stores, named as the opcode table names them. -/
structure FMS where
  z : Bool
  d : BitVec 7
  n : Bool
  a : BitVec 7
  l : Bool
  s : BitVec 3
  k : Bool
  deriving DecidableEq, Repr

/-- Operand fields of the PREF word, named as the opcode table names them. -/
structure FMP where
  z : Bool
  a : BitVec 7
  l : Bool
  s : BitVec 3
  k : Bool
  deriving DecidableEq, Repr

/-- Operand fields of the format M (R22), atomics and keep writes, named as the opcode table names them. -/
structure FMA where
  z : Bool
  d : BitVec 7
  n : Bool
  a : BitVec 7
  l : Bool
  s : BitVec 3
  k : Bool
  h : BitVec 4
  deriving DecidableEq, Repr

/-- Operand fields of the format E (R22) without the Q operand, named as the opcode table names them. -/
structure FEP where
  z : Bool
  t : BitVec 6
  p : BitVec 6
  l : Bool
  h : BitVec 4
  deriving DecidableEq, Repr

/-- Operand fields of the CWAIT word, named as the opcode table names them. -/
structure FEW where
  z : Bool
  t : BitVec 6
  p : BitVec 6
  l : Bool
  q : BitVec 6
  k : Bool
  deriving DecidableEq, Repr

/-- Operand fields of the MWAIT word, named as the opcode table names them. -/
structure FE1 where
  z : Bool
  t : BitVec 6
  p : BitVec 6
  l : Bool
  deriving DecidableEq, Repr

/-- Operand fields of the WLOAD word, named as the opcode table names them. -/
structure FWload where
  z : Bool
  l : Bool
  a : BitVec 7
  c : BitVec 6
  w : BitVec 2
  deriving DecidableEq, Repr

/-- Operand fields of the WUPD word, named as the opcode table names them. -/
structure FWupd where
  z : Bool
  d : BitVec 7
  l : Bool
  a : BitVec 7
  w : BitVec 2
  x : Bool
  deriving DecidableEq, Repr

/-- Operand fields of the WQRY word, named as the opcode table names them. -/
structure FWq where
  z : Bool
  d : BitVec 7
  l : Bool
  a : BitVec 7
  w : BitVec 2
  deriving DecidableEq, Repr

/-- Operand fields of the WFIND word, named as the opcode table names them. -/
structure FWfind where
  z : Bool
  d : BitVec 7
  l : Bool
  a : BitVec 7
  p : BitVec 3
  w : BitVec 2
  deriving DecidableEq, Repr

/-- Operand fields of the WOP_ROOT word, named as the opcode table names them. -/
structure FWD where
  z : Bool
  d : BitVec 7
  w : BitVec 2
  deriving DecidableEq, Repr

/-- Operand fields of the WOP_CLEAR word, named as the opcode table names them. -/
structure FW where
  z : Bool
  w : BitVec 2
  deriving DecidableEq, Repr

/-- Operand fields of the WOP_SAVE word, named as the opcode table names them. -/
structure FWA where
  z : Bool
  l : Bool
  a : BitVec 5
  w : BitVec 2
  deriving DecidableEq, Repr

/-- Operand fields of the NJOIN word, named as the opcode table names them. -/
structure FNjoin where
  z : Bool
  t : BitVec 5
  p : BitVec 6
  l : Bool
  q : BitVec 6
  k : Bool
  deriving DecidableEq, Repr

/-- Where a run is issued: a partition of a core (R12) or a milliner core (R17). -/
inductive Site where
  | part (core : Fin 192) (p : Fin 8)
  | milliner (m : Fin 16)
  deriving DecidableEq, Repr

/-- The host's answer to a Translation Request (R218, R219): an error completion, or a page of
2^log2 bytes at the translated address `ta` with the permissions the host grants. -/
inductive HostAnswer where
  | refused
  | page (ta : W64) (log2 : Nat) (r w x : Bool)
  deriving DecidableEq, Repr

/-- Page Request Group response codes (R218, R221). -/
inductive PrgResponse where
  | success | invalidRequest | responseFailure
  deriving DecidableEq, Repr

/-- PCI Express AtomicOps that the device completes (R364). -/
inductive AtomOp where
  | fetchAdd | swap | cas | cas128
  deriving DecidableEq, Repr

/-- Where an uncorrectable storage error lies (R350): the unit code and the group, team or keep cell
it strikes. -/
inductive StorageSite where
  | registers (gid : Nat)
  | teamStore (team : Nat)
  | treeStore (gid : Nat)
  | syncState (team : Nat)
  | readData (team : Nat)
  | keepState (cell : Nat)
  deriving DecidableEq, Repr

/-- A frame as an ingest port receives it (R384, R387); the checks the port makes are given by their
outcomes, the payload by its bytes. -/
structure EthFrame where
  fcsOk : Bool
  ipOk : Bool
  udp : Bool
  fragment : Bool
  size : Nat
  ipv6 : Bool
  vlan : Bool
  pcp : BitVec 3
  dport : W16
  sport : W16
  payload : List W8
  deriving DecidableEq, Repr

/-- An inbound remote read or write of a fabric window (R380), or one appended row (R382). -/
structure PeerAccess where
  window : Fin 64
  peer : W16
  offset : Nat
  write : Bool
  append : Bool
  size : Nat
  data : List W8
  deriving DecidableEq, Repr

/-- A command of the invalidation port (R215), its reserved bytes taken together in `rsv`. -/
structure InvCmd where
  domain : W16
  start : W64
  len : W64
  done : W64
  rsv : W64
  deriving DecidableEq, Repr

/-- A request of a name port (R314), its reserved fields taken together in `rsv`. -/
structure PortReq where
  port : Fin 4096
  name : W64
  gen : W16
  reg : W8
  value : W64
  caddr : W64
  ticket : W32
  time : W64
  rsv : W64
  deriving DecidableEq, Repr

/-- A command of the management port (R368), its reserved bytes taken together in `rsv`. -/
structure MgmtCmd where
  ld : Fin 16
  a0 : W64
  a1 : W64
  a2 : W64
  a3 : W64
  a4 : W64
  a5 : W64
  done : W64
  rsv : W64
  deriving DecidableEq, Repr

/-- The path a debug command arrives on (R391) fixes its level (R390). -/
inductive Level where
  | user | guest | hypervisor | maker
  deriving DecidableEq, Repr

/-- A command of the debug DVSEC (R391), laid out as a management command. -/
structure DbgCmd where
  level : Level
  c : MgmtCmd
  deriving DecidableEq, Repr

/-- The signature checks of the images in slots A and B (R406): for each image, whether both of its
signatures verify. -/
structure ImageCheck where
  preutA : Bool
  preutB : Bool
  millinerA : Bool
  millinerB : Bool
  microA : Bool := true
  microB : Bool := true
  deriving DecidableEq, Repr

/-- Where a corrected storage error was met (R404): the CEU columns, or an HBM stack. -/
inductive ErrUnit where
  | l2 | scratchpad | accumulator | registers
  | stack (s : Fin 2)
  deriving DecidableEq, Repr

/-- The instructions and steps of the part, one constructor for each row of the opcode table. -/
inductive Instr where
  | himm (f : FHimm)
  | hpred (f : FHpred)
  | hmode (f : FHmode)
  | hord (f : FHord)
  | hcache (f : FHcache)
  | htype (f : FHtype)
  | bra (f : FC)
  | call (f : FC)
  | ret (f : FZ)
  | jmpi (f : FA)
  | exit (f : FZ)
  | yield (f : FZ)
  | sleep (f : FA)
  | nop (f : FZ)
  | bkpt (f : FZ)
  | trap (f : FA)
  | trapret (f : FZ)
  | drain (f : FZ)
  | loop (f : FAI)
  | csrr (f : FDI)
  | csrw (f : FAI)
  | tlaunch (f : FE)
  | tsucc (f : FE)
  | icinv (f : FE)
  | ifence (f : FZ)
  | fence (f : FZ)
  | salu0Add (f : FS3)
  | salu0Sub (f : FS3)
  | salu0And (f : FS3)
  | salu0Or (f : FS3)
  | salu0Xor (f : FS3)
  | salu0Andn (f : FS3)
  | salu0Shl (f : FS3)
  | salu0Shr (f : FS3)
  | salu0Sar (f : FS3)
  | rotl (f : FS3)
  | salu0Min (f : FS3)
  | salu0Max (f : FS3)
  | minn (f : FS3)
  | maxn (f : FS3)
  | salu0Mov (f : FS2)
  | mul (f : FS3)
  | mulh (f : FS3)
  | mulhn (f : FS3)
  | div (f : FS3)
  | divn (f : FS3)
  | rem (f : FS3)
  | remn (f : FS3)
  | popc (f : FS2)
  | clz (f : FS2)
  | ctz (f : FS2)
  | brev (f : FS2)
  | bfe (f : FS3)
  | bfi (f : FS3)
  | abs (f : FS2)
  | neg (f : FS2)
  | scmp (f : FScmp)
  | addi (f : FSI)
  | andi (f : FSI)
  | ori (f : FSI)
  | xori (f : FSI)
  | shli (f : FSN)
  | shri (f : FSN)
  | sari (f : FSN)
  | rotli (f : FSN)
  | movi (f : FDI)
  | lea (f : FDI)
  | vgive (f : FDN)
  | vclaim (f : FDN)
  | vfree (f : FVfree)
  | vstat (f : FDK)
  | vmovs (f : FVmk)
  | vmovsFirst (f : FVm)
  | vmovsD (f : FVmk)
  | vmovsFirstD (f : FVm)
  | iadd (f : FV3)
  | isub (f : FV3)
  | imul (f : FV3)
  | imulh (f : FV3)
  | imad (f : FV3)
  | idiv (f : FV3)
  | irem (f : FV3)
  | imin (f : FV3)
  | imax (f : FV3)
  | and (f : FV3)
  | andn (f : FV3)
  | or (f : FV3)
  | orn (f : FV3)
  | xor (f : FV3)
  | xnor (f : FV3)
  | shl (f : FV3)
  | shr (f : FV3)
  | sar (f : FV3)
  | icmp (f : FVC)
  | icmpand (f : FVC)
  | sel (f : FV3)
  | selNotP0 (f : FV3)
  | iaddi (f : FVI)
  | fadd (f : FV3)
  | fsub (f : FV3)
  | fmul (f : FV3)
  | ffma (f : FV3)
  | fnma (f : FV3)
  | fmin (f : FV3)
  | fminnan (f : FV3)
  | fmax (f : FV3)
  | fmaxnan (f : FV3)
  | fcmp (f : FVC)
  | fcmpand (f : FVC)
  | fdiv (f : FV3)
  | funAbs (f : FV2)
  | funNeg (f : FV2)
  | funSqrt (f : FV2)
  | funRcp (f : FV2)
  | funRsq (f : FV2)
  | funExp2 (f : FV2)
  | funLog2 (f : FV2)
  | funSin (f : FV2)
  | funCos (f : FV2)
  | funTanh (f : FV2)
  | funFloor (f : FV2)
  | funCeil (f : FV2)
  | funTrunc (f : FV2)
  | funRint (f : FV2)
  | funFrac (f : FV2)
  | dadd (f : FV3)
  | dsub (f : FV3)
  | dmul (f : FV3)
  | dfma (f : FV3)
  | dnma (f : FV3)
  | iunMov (f : FV2)
  | iunNot (f : FV2)
  | iunNeg (f : FV2)
  | iunAbs (f : FV2)
  | iunPopc (f : FV2)
  | iunClz (f : FV2)
  | iunCtz (f : FV2)
  | iunBrev (f : FV2)
  | iunBswap (f : FV2)
  | iunXnib (f : FVK3)
  | iunXnibn (f : FVK3)
  | iunXbyte (f : FVK2)
  | iunXbyten (f : FVK2)
  | iunInsnib (f : FVK3)
  | dcmp (f : FVC)
  | dcmpand (f : FVC)
  | dunAbs (f : FV2)
  | dunNeg (f : FV2)
  | dunSqrt (f : FV2)
  | dunFloor (f : FV2)
  | dunCeil (f : FV2)
  | dunTrunc (f : FV2)
  | dunRint (f : FV2)
  | ddiv (f : FV3)
  | cvt (f : FCvt)
  | cvtn (f : FCvtn)
  | cvtb (f : FCvtb)
  | cvtbHdr (f : FCvtb)
  | cvtm (f : FVK8)
  | shflAbs (f : FV3)
  | shflRel (f : FV3)
  | shfliBc (f : FVK6)
  | shfliRot (f : FVK6)
  | shfliRev (f : FVK6)
  | shfliSwap (f : FVK6)
  | voteMask (f : FVote)
  | voteCount (f : FVote)
  | voteFirst (f : FVote)
  | voteLast (f : FVote)
  | voteParity (f : FVote)
  | voteFull (f : FVote)
  | voteEmpty (f : FVote)
  | reduxAdd (f : FRedux)
  | reduxMin (f : FRedux)
  | reduxMax (f : FRedux)
  | reduxAnd (f : FRedux)
  | reduxOr (f : FRedux)
  | reduxXor (f : FRedux)
  | scanAdd (f : FScan)
  | scanMin (f : FScan)
  | scanMax (f : FScan)
  | scanAnd (f : FScan)
  | scanOr (f : FScan)
  | scanXor (f : FScan)
  | matchPair (f : FV3)
  | matchMask (f : FV3)
  | pmovTop (f : FPtop)
  | pmovFromp (f : FPfrom)
  | pmovAnd (f : FPP)
  | pmovOr (f : FPP)
  | pmovXor (f : FPP)
  | pmovNot (f : FPP)
  | pmovFroms (f : FPfroms)
  | ldb (f : FML)
  | ldh (f : FML)
  | ldw (f : FML)
  | ldd (f : FML)
  | ldq (f : FML)
  | stb (f : FMS)
  | sth (f : FMS)
  | stw (f : FMS)
  | std (f : FMS)
  | stq (f : FMS)
  | ldv (f : FML)
  | pref (f : FMP)
  | aadd (f : FMA)
  | amin (f : FMA)
  | amax (f : FMA)
  | aand (f : FMA)
  | aor (f : FMA)
  | axor (f : FMA)
  | axchg (f : FMA)
  | acas (f : FMA)
  | afadd (f : FMA)
  | kld (f : FML)
  | kst (f : FMA)
  | krec (f : FMA)
  | cpy (f : FEP)
  | cpyq (f : FE)
  | cwait (f : FEW)
  | ctest (f : FE)
  | ccancel (f : FEP)
  | mma (f : FEP)
  | mrdy (f : FE)
  | mwait (f : FE1)
  | macc (f : FE)
  | mstat (f : FEP)
  | wload (f : FWload)
  | wloadScratch (f : FWload)
  | wupd (f : FWupd)
  | wqry (f : FWq)
  | wqryExcl (f : FWq)
  | wfind (f : FWfind)
  | wcut (f : FWq)
  | wopRoot (f : FWD)
  | wopClear (f : FW)
  | wopGet (f : FWq)
  | wopSet (f : FWupd)
  | wopSave (f : FWA)
  | wopRestore (f : FWA)
  | wopStat (f : FWD)
  | wopCutptr (f : FWD)
  | nwake (f : FEP)
  | nsig (f : FE)
  | ndep (f : FE)
  | njoin (f : FNjoin)
  | nwait (f : FE1)
  | barInit (f : FA)
  | barArv (f : FS2)
  | barWait (f : FA)
  | barSync (f : FA)
  | barFarv (f : FS2)
  | barFwait (f : FA)
  | barFsync (f : FA)
  | barTest (f : FS2)
  | bandInit (f : FA)
  | bandPut (f : FA)
  | bandTake (f : FA)
  | bandDone (f : FA)
  | bandTest (f : FS2)
  | runSelect (at_ : Site)
  | longLatencyResult (op : Nat)
  | storeAcknowledge (gid entry : Nat) (scope : Fin 6)
  | atomicPerform (op : Nat)
  | keepWriteApply (op : Nat)
  | keepReconcileApply (op : Nat)
  | translationAnswer (ld : Fin 16) (pasid : BitVec 20) (page : W64) (ans : HostAnswer)
  | pageRequestResponse (ld : Fin 16) (prg : Nat) (resp : PrgResponse)
  | pageRequestTimeout (ld : Fin 16) (prg : Nat)
  | parkTimeout (gid : Nat)
  | sleepExpiry (gid : Nat)
  | nwaitTimeout (gid : Nat)
  | njoinTimeout (gid : Nat)
  | claimDeadlockDetect (core : Fin 192) (part : Fin 8)
  | fpThreshold (task : Nat)
  | nameOperationApply (op : Nat)
  | groupNameDead (gid : Nat)
  | teamRetire (team : Nat)
  | taskRetire (task : Nat)
  | launchPacketConsume (queue : Nat)
  | feltPlacement (ld : Fin 16)
  | drainLimit (task : Nat)
  | saveGroup (gid : Nat)
  | placeSavedGroup (gid : Nat)
  | copyCommandStart (cmd : Nat)
  | copyUnitChunk (core : Fin 192) (pick : Nat)
  | copyQueueConsume (queue : Nat)
  | sharedEngineChunk (die : Fin 8) (pick : Nat)
  | fabricRequestTimeout (cmd : Nat)
  | matrixOperationStart (team : Nat)
  | matrixOperationComplete (team : Nat) (differs : Bool)
  | maccPerform (team : Nat)
  | storageError (where_ : StorageSite)
  | budgetPeriod (die : Fin 8)
  | sampleTag (core : Fin 192) (part : Fin 8)
  | ethernetFrameReceive (die : Fin 8) (port : Fin 2) (frame : EthFrame)
  | ingestRoffPoll (die : Fin 8) (port : Fin 2)
  | fileskWindowAccess (ld : Fin 16) (port : Fin 96) (acc : PeerAccess)
  | hostMemoryRead (ld : Fin 16) (addr : W64) (size : Nat)
  | hostMemoryWrite (ld : Fin 16) (addr : W64) (bytes : List W8)
  | hostAtomicop (ld : Fin 16) (op : AtomOp) (addr : W64) (size : Nat) (a b : W64)
  | registerWrite (ld : Fin 16) (offset : Nat) (bytes : List W8)
  | invalidateRange (ld : Fin 16) (c : InvCmd)
  | invalidateDomain (ld : Fin 16) (c : InvCmd)
  | invalidateAll (ld : Fin 16) (c : InvCmd)
  | invalidationComplete (ld : Fin 16)
  | atsInvalidateRequest (ld : Fin 16) (pasid : BitVec 20) (page : W64) (log2 : Nat)
  | atsInvalidateCompletion (ld : Fin 16)
  | wake (ld : Fin 16) (r : PortReq)
  | sig (ld : Fin 16) (r : PortReq)
  | dep (ld : Fin 16) (r : PortReq)
  | join (ld : Fin 16) (r : PortReq)
  | portJoinTimeout (ld : Fin 16) (port : Fin 4096) (ticket : W32)
  | clear (ld : Fin 16) (r : PortReq)
  | regq (c : MgmtCmd)
  | resetq (c : MgmtCmd)
  | faultring (c : MgmtCmd)
  | ctxpool (c : MgmtCmd)
  | preempt (c : MgmtCmd)
  | release (c : MgmtCmd)
  | swapout (c : MgmtCmd)
  | swapin (c : MgmtCmd)
  | endtask (c : MgmtCmd)
  | namehost (c : MgmtCmd)
  | namedrop (c : MgmtCmd)
  | namerights (c : MgmtCmd)
  | namefree (c : MgmtCmd)
  | pagereq (c : MgmtCmd)
  | attach (c : DbgCmd)
  | halt (c : DbgCmd)
  | resume (c : DbgCmd)
  | step (c : DbgCmd)
  | brk (c : DbgCmd)
  | watch (c : DbgCmd)
  | readreg (c : DbgCmd)
  | writereg (c : DbgCmd)
  | sample (c : DbgCmd)
  | trace (c : DbgCmd)
  | readctr (c : DbgCmd)
  | timesnap (c : DbgCmd)
  | lifetime (c : DbgCmd)
  | mhalt (c : DbgCmd)
  | fwset (c : DbgCmd)
  | budgetset (c : DbgCmd)
  | preset (c : DbgCmd)
  | avoidset (c : DbgCmd)
  | portmode (c : DbgCmd)
  | sliceset (c : DbgCmd)
  | cfgread (c : DbgCmd)
  | lockInterfaceRequest (ld : Fin 16)
  | startInterfaceRequest (ld : Fin 16)
  | stopInterfaceRequest (ld : Fin 16)
  | functionLevelReset (ld : Fin 16)
  | ideIntegrityFailure (ld : Fin 16)
  | interfaceReport (ld : Fin 16)
  | moduleReset (img : ImageCheck)
  | dieJoin (die : Fin 8)
  | dieJoinTimeout (die : Fin 8)
  | fileskLinkTrain (port : Fin 96) (peer : W16)
  | fileskPartnerTimeout (port : Fin 96)
  | powerLimit (exceeded : Bool)
  | thermalThrottle (die : Fin 8) (hot : Bool)
  | thermalShutdown (die : Fin 8)
  | coolantExcursion (outside : Bool)
  | coreRetire (core : Fin 192)
  | hbmChannelSpare (die : Fin 8) (channel : Nat)
  | fileskLaneLoss (port : Fin 96)
  | millinerFirmwareUpdate (img : ImageCheck)
  | microcodeUpdate (die : Fin 8) (rejoin : Bool)
  | hbmCalibration (die : Fin 8) (channel : Nat)
  | fileskRetraining (port : Fin 96) (done : Bool)
  | lifetimeHistogramUpdate (bins : List (Nat × Nat))
  | reservedWord (w : W32)
  | millinerRestart (m : Fin 16) (pc : W64)
  | correctedError (die : Fin 8) (site : ErrUnit)
  | fileskPartnerHalt (port : Fin 96) (halted : Bool)
  | makerSessionOpen (ld : Fin 16) (rsaOk slhOk : Bool)
  | peerNumberAssign (level : Level) (n : W16)
  deriving DecidableEq, Repr

/-- The steps that carry no instruction word: inputs from outside, and steps that engines, agents and
timers take on their own. -/
def Instr.isEvent : Instr → Bool
  | .himm _ => false
  | .hpred _ => false
  | .hmode _ => false
  | .hord _ => false
  | .hcache _ => false
  | .htype _ => false
  | .bra _ => false
  | .call _ => false
  | .ret _ => false
  | .jmpi _ => false
  | .exit _ => false
  | .yield _ => false
  | .sleep _ => false
  | .nop _ => false
  | .bkpt _ => false
  | .trap _ => false
  | .trapret _ => false
  | .drain _ => false
  | .loop _ => false
  | .csrr _ => false
  | .csrw _ => false
  | .tlaunch _ => false
  | .tsucc _ => false
  | .icinv _ => false
  | .ifence _ => false
  | .fence _ => false
  | .salu0Add _ => false
  | .salu0Sub _ => false
  | .salu0And _ => false
  | .salu0Or _ => false
  | .salu0Xor _ => false
  | .salu0Andn _ => false
  | .salu0Shl _ => false
  | .salu0Shr _ => false
  | .salu0Sar _ => false
  | .rotl _ => false
  | .salu0Min _ => false
  | .salu0Max _ => false
  | .minn _ => false
  | .maxn _ => false
  | .salu0Mov _ => false
  | .mul _ => false
  | .mulh _ => false
  | .mulhn _ => false
  | .div _ => false
  | .divn _ => false
  | .rem _ => false
  | .remn _ => false
  | .popc _ => false
  | .clz _ => false
  | .ctz _ => false
  | .brev _ => false
  | .bfe _ => false
  | .bfi _ => false
  | .abs _ => false
  | .neg _ => false
  | .scmp _ => false
  | .addi _ => false
  | .andi _ => false
  | .ori _ => false
  | .xori _ => false
  | .shli _ => false
  | .shri _ => false
  | .sari _ => false
  | .rotli _ => false
  | .movi _ => false
  | .lea _ => false
  | .vgive _ => false
  | .vclaim _ => false
  | .vfree _ => false
  | .vstat _ => false
  | .vmovs _ => false
  | .vmovsFirst _ => false
  | .vmovsD _ => false
  | .vmovsFirstD _ => false
  | .iadd _ => false
  | .isub _ => false
  | .imul _ => false
  | .imulh _ => false
  | .imad _ => false
  | .idiv _ => false
  | .irem _ => false
  | .imin _ => false
  | .imax _ => false
  | .and _ => false
  | .andn _ => false
  | .or _ => false
  | .orn _ => false
  | .xor _ => false
  | .xnor _ => false
  | .shl _ => false
  | .shr _ => false
  | .sar _ => false
  | .icmp _ => false
  | .icmpand _ => false
  | .sel _ => false
  | .selNotP0 _ => false
  | .iaddi _ => false
  | .fadd _ => false
  | .fsub _ => false
  | .fmul _ => false
  | .ffma _ => false
  | .fnma _ => false
  | .fmin _ => false
  | .fminnan _ => false
  | .fmax _ => false
  | .fmaxnan _ => false
  | .fcmp _ => false
  | .fcmpand _ => false
  | .fdiv _ => false
  | .funAbs _ => false
  | .funNeg _ => false
  | .funSqrt _ => false
  | .funRcp _ => false
  | .funRsq _ => false
  | .funExp2 _ => false
  | .funLog2 _ => false
  | .funSin _ => false
  | .funCos _ => false
  | .funTanh _ => false
  | .funFloor _ => false
  | .funCeil _ => false
  | .funTrunc _ => false
  | .funRint _ => false
  | .funFrac _ => false
  | .dadd _ => false
  | .dsub _ => false
  | .dmul _ => false
  | .dfma _ => false
  | .dnma _ => false
  | .iunMov _ => false
  | .iunNot _ => false
  | .iunNeg _ => false
  | .iunAbs _ => false
  | .iunPopc _ => false
  | .iunClz _ => false
  | .iunCtz _ => false
  | .iunBrev _ => false
  | .iunBswap _ => false
  | .iunXnib _ => false
  | .iunXnibn _ => false
  | .iunXbyte _ => false
  | .iunXbyten _ => false
  | .iunInsnib _ => false
  | .dcmp _ => false
  | .dcmpand _ => false
  | .dunAbs _ => false
  | .dunNeg _ => false
  | .dunSqrt _ => false
  | .dunFloor _ => false
  | .dunCeil _ => false
  | .dunTrunc _ => false
  | .dunRint _ => false
  | .ddiv _ => false
  | .cvt _ => false
  | .cvtn _ => false
  | .cvtb _ => false
  | .cvtbHdr _ => false
  | .cvtm _ => false
  | .shflAbs _ => false
  | .shflRel _ => false
  | .shfliBc _ => false
  | .shfliRot _ => false
  | .shfliRev _ => false
  | .shfliSwap _ => false
  | .voteMask _ => false
  | .voteCount _ => false
  | .voteFirst _ => false
  | .voteLast _ => false
  | .voteParity _ => false
  | .voteFull _ => false
  | .voteEmpty _ => false
  | .reduxAdd _ => false
  | .reduxMin _ => false
  | .reduxMax _ => false
  | .reduxAnd _ => false
  | .reduxOr _ => false
  | .reduxXor _ => false
  | .scanAdd _ => false
  | .scanMin _ => false
  | .scanMax _ => false
  | .scanAnd _ => false
  | .scanOr _ => false
  | .scanXor _ => false
  | .matchPair _ => false
  | .matchMask _ => false
  | .pmovTop _ => false
  | .pmovFromp _ => false
  | .pmovAnd _ => false
  | .pmovOr _ => false
  | .pmovXor _ => false
  | .pmovNot _ => false
  | .pmovFroms _ => false
  | .ldb _ => false
  | .ldh _ => false
  | .ldw _ => false
  | .ldd _ => false
  | .ldq _ => false
  | .stb _ => false
  | .sth _ => false
  | .stw _ => false
  | .std _ => false
  | .stq _ => false
  | .ldv _ => false
  | .pref _ => false
  | .aadd _ => false
  | .amin _ => false
  | .amax _ => false
  | .aand _ => false
  | .aor _ => false
  | .axor _ => false
  | .axchg _ => false
  | .acas _ => false
  | .afadd _ => false
  | .kld _ => false
  | .kst _ => false
  | .krec _ => false
  | .cpy _ => false
  | .cpyq _ => false
  | .cwait _ => false
  | .ctest _ => false
  | .ccancel _ => false
  | .mma _ => false
  | .mrdy _ => false
  | .mwait _ => false
  | .macc _ => false
  | .mstat _ => false
  | .wload _ => false
  | .wloadScratch _ => false
  | .wupd _ => false
  | .wqry _ => false
  | .wqryExcl _ => false
  | .wfind _ => false
  | .wcut _ => false
  | .wopRoot _ => false
  | .wopClear _ => false
  | .wopGet _ => false
  | .wopSet _ => false
  | .wopSave _ => false
  | .wopRestore _ => false
  | .wopStat _ => false
  | .wopCutptr _ => false
  | .nwake _ => false
  | .nsig _ => false
  | .ndep _ => false
  | .njoin _ => false
  | .nwait _ => false
  | .barInit _ => false
  | .barArv _ => false
  | .barWait _ => false
  | .barSync _ => false
  | .barFarv _ => false
  | .barFwait _ => false
  | .barFsync _ => false
  | .barTest _ => false
  | .bandInit _ => false
  | .bandPut _ => false
  | .bandTake _ => false
  | .bandDone _ => false
  | .bandTest _ => false
  | .runSelect _ => true
  | .longLatencyResult _ => true
  | .storeAcknowledge _ _ _ => true
  | .atomicPerform _ => true
  | .keepWriteApply _ => true
  | .keepReconcileApply _ => true
  | .translationAnswer _ _ _ _ => true
  | .pageRequestResponse _ _ _ => true
  | .pageRequestTimeout _ _ => true
  | .parkTimeout _ => true
  | .sleepExpiry _ => true
  | .nwaitTimeout _ => true
  | .njoinTimeout _ => true
  | .claimDeadlockDetect _ _ => true
  | .fpThreshold _ => true
  | .nameOperationApply _ => true
  | .groupNameDead _ => true
  | .teamRetire _ => true
  | .taskRetire _ => true
  | .launchPacketConsume _ => true
  | .feltPlacement _ => true
  | .drainLimit _ => true
  | .saveGroup _ => true
  | .placeSavedGroup _ => true
  | .copyCommandStart _ => true
  | .copyUnitChunk _ _ => true
  | .copyQueueConsume _ => true
  | .sharedEngineChunk _ _ => true
  | .fabricRequestTimeout _ => true
  | .matrixOperationStart _ => true
  | .matrixOperationComplete _ _ => true
  | .maccPerform _ => true
  | .storageError _ => true
  | .budgetPeriod _ => true
  | .sampleTag _ _ => true
  | .ethernetFrameReceive _ _ _ => true
  | .ingestRoffPoll _ _ => true
  | .fileskWindowAccess _ _ _ => true
  | .hostMemoryRead _ _ _ => true
  | .hostMemoryWrite _ _ _ => true
  | .hostAtomicop _ _ _ _ _ _ => true
  | .registerWrite _ _ _ => true
  | .invalidateRange _ _ => true
  | .invalidateDomain _ _ => true
  | .invalidateAll _ _ => true
  | .invalidationComplete _ => true
  | .atsInvalidateRequest _ _ _ _ => true
  | .atsInvalidateCompletion _ => true
  | .wake _ _ => true
  | .sig _ _ => true
  | .dep _ _ => true
  | .join _ _ => true
  | .portJoinTimeout _ _ _ => true
  | .clear _ _ => true
  | .regq _ => true
  | .resetq _ => true
  | .faultring _ => true
  | .ctxpool _ => true
  | .preempt _ => true
  | .release _ => true
  | .swapout _ => true
  | .swapin _ => true
  | .endtask _ => true
  | .namehost _ => true
  | .namedrop _ => true
  | .namerights _ => true
  | .namefree _ => true
  | .pagereq _ => true
  | .attach _ => true
  | .halt _ => true
  | .resume _ => true
  | .step _ => true
  | .brk _ => true
  | .watch _ => true
  | .readreg _ => true
  | .writereg _ => true
  | .sample _ => true
  | .trace _ => true
  | .readctr _ => true
  | .timesnap _ => true
  | .lifetime _ => true
  | .mhalt _ => true
  | .fwset _ => true
  | .budgetset _ => true
  | .preset _ => true
  | .avoidset _ => true
  | .portmode _ => true
  | .sliceset _ => true
  | .cfgread _ => true
  | .lockInterfaceRequest _ => true
  | .startInterfaceRequest _ => true
  | .stopInterfaceRequest _ => true
  | .functionLevelReset _ => true
  | .ideIntegrityFailure _ => true
  | .interfaceReport _ => true
  | .moduleReset _ => true
  | .dieJoin _ => true
  | .dieJoinTimeout _ => true
  | .fileskLinkTrain _ _ => true
  | .fileskPartnerTimeout _ => true
  | .powerLimit _ => true
  | .thermalThrottle _ _ => true
  | .thermalShutdown _ => true
  | .coolantExcursion _ => true
  | .coreRetire _ => true
  | .hbmChannelSpare _ _ => true
  | .fileskLaneLoss _ => true
  | .millinerFirmwareUpdate _ => true
  | .microcodeUpdate _ _ => true
  | .hbmCalibration _ _ => true
  | .fileskRetraining _ _ => true
  | .lifetimeHistogramUpdate _ => true
  | .reservedWord _ => false
  | .millinerRestart _ _ => true
  | .correctedError _ _ => true
  | .fileskPartnerHalt _ _ => true
  | .makerSessionOpen _ _ _ => true
  | .peerNumberAssign _ _ => true

end Sys2Proof
end

