-- ==== Sys2Proof/WellFormed.lean ====
section
/-! DEFINITION. The static limits of a word: the field values the spec reserves (R22, R33, R34, R36, R40). -/

namespace Sys2Proof

/-- HMODE: MERGE 7 is reserved (R33). -/
def FHmode.ok (f : FHmode) : Bool := f.m != 7#3
/-- HORD: orders 5 to 7 and scopes 6 and 7 are reserved (R34). -/
def FHord.ok (f : FHord) : Bool := f.o.toNat ≤ 4 && f.c.toNat ≤ 5
/-- HTYPE: types 15 to 31 are reserved (R36). -/
def FHtype.ok (f : FHtype) : Bool := f.t.toNat ≤ 14
/-- Format C: U = 0 with P or S nonzero is reserved (R22). -/
def FC.ok (f : FC) : Bool := f.u || (f.p == 0#3 && !f.s)
/-- SCMP: conditions 0 to 9 (R129). -/
def FScmp.ok (f : FScmp) : Bool := f.c.toNat ≤ 9
/-- ICMP, FCMP and DCMP: conditions 0 to 7 (R136). -/
def FVC.ok (f : FVC) : Bool := f.c.toNat ≤ 7
/-- CVT: source codes 0 to 11; U only with the float destinations (R68). -/
def FCvt.ok (f : FCvt) : Bool := f.t.toNat ≤ 11 && !(f.u && 4 ≤ f.g.toNat)
/-- VSTAT: counters 0 to 6 (R172). -/
def FDK.ok (f : FDK) : Bool := f.k.toNat ≤ 6

/-- The static check of an instruction: `false` where R40 makes the word ILLEGAL_INSTRUCTION. -/
def Instr.wf : Instr → Bool
  | .hmode f => f.ok
  | .hord f => f.ok
  | .htype f => f.ok
  | .bra f => f.ok
  | .call f => f.ok
  | .scmp f => f.ok
  | .vstat f => f.ok
  | .icmp f => f.ok
  | .icmpand f => f.ok
  | .fcmp f => f.ok
  | .fcmpand f => f.ok
  | .dcmp f => f.ok
  | .dcmpand f => f.ok
  | .cvt f => f.ok
  | _ => true

end Sys2Proof
end

