-- ==== Sys2Proof/Decode.lean ====
section
/-! DEFINITION. The decoder, total on 32-bit words, and the encoder, both from the encoding tables of R22 and
R38. The decoder is marked noncomputable only because the compiler cannot number more than 244 constructors; the
kernel evaluates it. -/

namespace Sys2Proof

/-- Words with OP = 0x01. -/
def decodeOp01 (w : W32) : Option Instr :=
  if w.getLsbD 31 = false ∧ w.extractLsb' 20 4 = 0#4 then some (.himm ⟨w.extractLsb' 0 20⟩) else
  if w.getLsbD 31 = false ∧ w.extractLsb' 20 4 = 1#4 ∧ w.extractLsb' 0 13 = 0#13 then some (.hpred ⟨w.extractLsb' 17 3, w.getLsbD 16, w.extractLsb' 13 3⟩) else
  if w.getLsbD 31 = false ∧ w.extractLsb' 20 4 = 2#4 ∧ w.extractLsb' 0 12 = 0#12 then some (.hmode ⟨w.getLsbD 19, w.extractLsb' 17 2, w.getLsbD 16, w.getLsbD 15, w.extractLsb' 12 3⟩) else
  if w.getLsbD 31 = false ∧ w.extractLsb' 20 4 = 3#4 ∧ w.extractLsb' 0 14 = 0#14 then some (.hord ⟨w.extractLsb' 17 3, w.extractLsb' 14 3⟩) else
  if w.getLsbD 31 = false ∧ w.extractLsb' 20 4 = 4#4 ∧ w.extractLsb' 0 18 = 0#18 then some (.hcache ⟨w.extractLsb' 18 2⟩) else
  if w.getLsbD 31 = false ∧ w.extractLsb' 20 4 = 5#4 ∧ w.extractLsb' 0 15 = 0#15 then some (.htype ⟨w.extractLsb' 15 5⟩) else
  none

/-- Words with OP = 0x02. -/
def decodeOp02 (w : W32) : Option Instr :=
  some (.bra ⟨w.getLsbD 31, w.getLsbD 23, w.extractLsb' 20 3, w.getLsbD 19, w.extractLsb' 0 19⟩)

/-- Words with OP = 0x03. -/
def decodeOp03 (w : W32) : Option Instr :=
  some (.call ⟨w.getLsbD 31, w.getLsbD 23, w.extractLsb' 20 3, w.getLsbD 19, w.extractLsb' 0 19⟩)

/-- Words with OP = 0x04. -/
def decodeOp04 (w : W32) : Option Instr :=
  if w.extractLsb' 0 24 = 0#24 then some (.ret ⟨w.getLsbD 31⟩) else
  if w.extractLsb' 18 6 = 0#6 ∧ w.extractLsb' 0 11 = 1#11 then some (.jmpi ⟨w.getLsbD 31, w.getLsbD 17, w.extractLsb' 11 6⟩) else
  if w.extractLsb' 0 24 = 2#24 then some (.exit ⟨w.getLsbD 31⟩) else
  if w.extractLsb' 0 24 = 3#24 then some (.yield ⟨w.getLsbD 31⟩) else
  if w.extractLsb' 18 6 = 0#6 ∧ w.extractLsb' 0 11 = 4#11 then some (.sleep ⟨w.getLsbD 31, w.getLsbD 17, w.extractLsb' 11 6⟩) else
  if w.extractLsb' 0 24 = 5#24 then some (.nop ⟨w.getLsbD 31⟩) else
  if w.extractLsb' 0 24 = 6#24 then some (.bkpt ⟨w.getLsbD 31⟩) else
  if w.extractLsb' 18 6 = 0#6 ∧ w.extractLsb' 0 11 = 7#11 then some (.trap ⟨w.getLsbD 31, w.getLsbD 17, w.extractLsb' 11 6⟩) else
  if w.extractLsb' 0 24 = 8#24 then some (.trapret ⟨w.getLsbD 31⟩) else
  if w.extractLsb' 0 24 = 9#24 then some (.drain ⟨w.getLsbD 31⟩) else
  none

/-- Words with OP = 0x05. -/
def decodeOp05 (w : W32) : Option Instr :=
  if w.extractLsb' 18 6 = 0#6 then some (.loop ⟨w.getLsbD 31, w.getLsbD 17, w.extractLsb' 11 6, w.extractLsb' 0 11⟩) else
  none

/-- Words with OP = 0x06. -/
def decodeOp06 (w : W32) : Option Instr :=
  if w.extractLsb' 11 7 = 0#7 then some (.csrr ⟨w.getLsbD 31, w.extractLsb' 18 6, w.extractLsb' 0 11⟩) else
  none

/-- Words with OP = 0x07. -/
def decodeOp07 (w : W32) : Option Instr :=
  if w.extractLsb' 18 6 = 0#6 then some (.csrw ⟨w.getLsbD 31, w.getLsbD 17, w.extractLsb' 11 6, w.extractLsb' 0 11⟩) else
  none

/-- Words with OP = 0x08. -/
def decodeOp08 (w : W32) : Option Instr :=
  some (.tlaunch ⟨w.getLsbD 31, w.extractLsb' 18 6, w.extractLsb' 12 6, w.getLsbD 11, w.extractLsb' 5 6, w.getLsbD 4, w.extractLsb' 0 4⟩)

/-- Words with OP = 0x09. -/
def decodeOp09 (w : W32) : Option Instr :=
  some (.tsucc ⟨w.getLsbD 31, w.extractLsb' 18 6, w.extractLsb' 12 6, w.getLsbD 11, w.extractLsb' 5 6, w.getLsbD 4, w.extractLsb' 0 4⟩)

/-- Words with OP = 0x0A. -/
def decodeOp0A (w : W32) : Option Instr :=
  some (.icinv ⟨w.getLsbD 31, w.extractLsb' 18 6, w.extractLsb' 12 6, w.getLsbD 11, w.extractLsb' 5 6, w.getLsbD 4, w.extractLsb' 0 4⟩)

/-- Words with OP = 0x0B. -/
def decodeOp0B (w : W32) : Option Instr :=
  if w.extractLsb' 0 24 = 0#24 then some (.ifence ⟨w.getLsbD 31⟩) else
  none

/-- Words with OP = 0x0C. -/
def decodeOp0C (w : W32) : Option Instr :=
  if w.extractLsb' 0 24 = 0#24 then some (.fence ⟨w.getLsbD 31⟩) else
  none

/-- Words with OP = 0x10. -/
def decodeOp10 (w : W32) : Option Instr :=
  if w.extractLsb' 0 4 = 0#4 then some (.salu0Add ⟨w.getLsbD 31, w.extractLsb' 18 6, w.getLsbD 17, w.extractLsb' 11 6, w.getLsbD 10, w.extractLsb' 4 6⟩) else
  if w.extractLsb' 0 4 = 1#4 then some (.salu0Sub ⟨w.getLsbD 31, w.extractLsb' 18 6, w.getLsbD 17, w.extractLsb' 11 6, w.getLsbD 10, w.extractLsb' 4 6⟩) else
  if w.extractLsb' 0 4 = 2#4 then some (.salu0And ⟨w.getLsbD 31, w.extractLsb' 18 6, w.getLsbD 17, w.extractLsb' 11 6, w.getLsbD 10, w.extractLsb' 4 6⟩) else
  if w.extractLsb' 0 4 = 3#4 then some (.salu0Or ⟨w.getLsbD 31, w.extractLsb' 18 6, w.getLsbD 17, w.extractLsb' 11 6, w.getLsbD 10, w.extractLsb' 4 6⟩) else
  if w.extractLsb' 0 4 = 4#4 then some (.salu0Xor ⟨w.getLsbD 31, w.extractLsb' 18 6, w.getLsbD 17, w.extractLsb' 11 6, w.getLsbD 10, w.extractLsb' 4 6⟩) else
  if w.extractLsb' 0 4 = 5#4 then some (.salu0Andn ⟨w.getLsbD 31, w.extractLsb' 18 6, w.getLsbD 17, w.extractLsb' 11 6, w.getLsbD 10, w.extractLsb' 4 6⟩) else
  if w.extractLsb' 0 4 = 6#4 then some (.salu0Shl ⟨w.getLsbD 31, w.extractLsb' 18 6, w.getLsbD 17, w.extractLsb' 11 6, w.getLsbD 10, w.extractLsb' 4 6⟩) else
  if w.extractLsb' 0 4 = 7#4 then some (.salu0Shr ⟨w.getLsbD 31, w.extractLsb' 18 6, w.getLsbD 17, w.extractLsb' 11 6, w.getLsbD 10, w.extractLsb' 4 6⟩) else
  if w.extractLsb' 0 4 = 8#4 then some (.salu0Sar ⟨w.getLsbD 31, w.extractLsb' 18 6, w.getLsbD 17, w.extractLsb' 11 6, w.getLsbD 10, w.extractLsb' 4 6⟩) else
  if w.extractLsb' 0 4 = 9#4 then some (.rotl ⟨w.getLsbD 31, w.extractLsb' 18 6, w.getLsbD 17, w.extractLsb' 11 6, w.getLsbD 10, w.extractLsb' 4 6⟩) else
  if w.extractLsb' 0 4 = 10#4 then some (.salu0Min ⟨w.getLsbD 31, w.extractLsb' 18 6, w.getLsbD 17, w.extractLsb' 11 6, w.getLsbD 10, w.extractLsb' 4 6⟩) else
  if w.extractLsb' 0 4 = 11#4 then some (.salu0Max ⟨w.getLsbD 31, w.extractLsb' 18 6, w.getLsbD 17, w.extractLsb' 11 6, w.getLsbD 10, w.extractLsb' 4 6⟩) else
  if w.extractLsb' 0 4 = 12#4 then some (.minn ⟨w.getLsbD 31, w.extractLsb' 18 6, w.getLsbD 17, w.extractLsb' 11 6, w.getLsbD 10, w.extractLsb' 4 6⟩) else
  if w.extractLsb' 0 4 = 13#4 then some (.maxn ⟨w.getLsbD 31, w.extractLsb' 18 6, w.getLsbD 17, w.extractLsb' 11 6, w.getLsbD 10, w.extractLsb' 4 6⟩) else
  if w.extractLsb' 0 11 = 14#11 then some (.salu0Mov ⟨w.getLsbD 31, w.extractLsb' 18 6, w.getLsbD 17, w.extractLsb' 11 6⟩) else
  none

/-- Words with OP = 0x11. -/
def decodeOp11 (w : W32) : Option Instr :=
  if w.extractLsb' 0 4 = 0#4 then some (.mul ⟨w.getLsbD 31, w.extractLsb' 18 6, w.getLsbD 17, w.extractLsb' 11 6, w.getLsbD 10, w.extractLsb' 4 6⟩) else
  if w.extractLsb' 0 4 = 1#4 then some (.mulh ⟨w.getLsbD 31, w.extractLsb' 18 6, w.getLsbD 17, w.extractLsb' 11 6, w.getLsbD 10, w.extractLsb' 4 6⟩) else
  if w.extractLsb' 0 4 = 2#4 then some (.mulhn ⟨w.getLsbD 31, w.extractLsb' 18 6, w.getLsbD 17, w.extractLsb' 11 6, w.getLsbD 10, w.extractLsb' 4 6⟩) else
  if w.extractLsb' 0 4 = 3#4 then some (.div ⟨w.getLsbD 31, w.extractLsb' 18 6, w.getLsbD 17, w.extractLsb' 11 6, w.getLsbD 10, w.extractLsb' 4 6⟩) else
  if w.extractLsb' 0 4 = 4#4 then some (.divn ⟨w.getLsbD 31, w.extractLsb' 18 6, w.getLsbD 17, w.extractLsb' 11 6, w.getLsbD 10, w.extractLsb' 4 6⟩) else
  if w.extractLsb' 0 4 = 5#4 then some (.rem ⟨w.getLsbD 31, w.extractLsb' 18 6, w.getLsbD 17, w.extractLsb' 11 6, w.getLsbD 10, w.extractLsb' 4 6⟩) else
  if w.extractLsb' 0 4 = 6#4 then some (.remn ⟨w.getLsbD 31, w.extractLsb' 18 6, w.getLsbD 17, w.extractLsb' 11 6, w.getLsbD 10, w.extractLsb' 4 6⟩) else
  if w.extractLsb' 0 11 = 7#11 then some (.popc ⟨w.getLsbD 31, w.extractLsb' 18 6, w.getLsbD 17, w.extractLsb' 11 6⟩) else
  if w.extractLsb' 0 11 = 8#11 then some (.clz ⟨w.getLsbD 31, w.extractLsb' 18 6, w.getLsbD 17, w.extractLsb' 11 6⟩) else
  if w.extractLsb' 0 11 = 9#11 then some (.ctz ⟨w.getLsbD 31, w.extractLsb' 18 6, w.getLsbD 17, w.extractLsb' 11 6⟩) else
  if w.extractLsb' 0 11 = 10#11 then some (.brev ⟨w.getLsbD 31, w.extractLsb' 18 6, w.getLsbD 17, w.extractLsb' 11 6⟩) else
  if w.extractLsb' 0 4 = 11#4 then some (.bfe ⟨w.getLsbD 31, w.extractLsb' 18 6, w.getLsbD 17, w.extractLsb' 11 6, w.getLsbD 10, w.extractLsb' 4 6⟩) else
  if w.extractLsb' 0 4 = 12#4 then some (.bfi ⟨w.getLsbD 31, w.extractLsb' 18 6, w.getLsbD 17, w.extractLsb' 11 6, w.getLsbD 10, w.extractLsb' 4 6⟩) else
  if w.extractLsb' 0 11 = 13#11 then some (.abs ⟨w.getLsbD 31, w.extractLsb' 18 6, w.getLsbD 17, w.extractLsb' 11 6⟩) else
  if w.extractLsb' 0 11 = 14#11 then some (.neg ⟨w.getLsbD 31, w.extractLsb' 18 6, w.getLsbD 17, w.extractLsb' 11 6⟩) else
  none

/-- Words with OP = 0x12. -/
def decodeOp12 (w : W32) : Option Instr :=
  if w.extractLsb' 21 3 = 0#3 then some (.scmp ⟨w.getLsbD 31, w.extractLsb' 18 3, w.getLsbD 17, w.extractLsb' 11 6, w.getLsbD 10, w.extractLsb' 4 6, w.extractLsb' 0 4⟩) else
  none

/-- Words with OP = 0x13. -/
def decodeOp13 (w : W32) : Option Instr :=
  some (.addi ⟨w.getLsbD 31, w.extractLsb' 18 6, w.getLsbD 17, w.extractLsb' 11 6, w.extractLsb' 0 11⟩)

/-- Words with OP = 0x14. -/
def decodeOp14 (w : W32) : Option Instr :=
  some (.andi ⟨w.getLsbD 31, w.extractLsb' 18 6, w.getLsbD 17, w.extractLsb' 11 6, w.extractLsb' 0 11⟩)

/-- Words with OP = 0x15. -/
def decodeOp15 (w : W32) : Option Instr :=
  some (.ori ⟨w.getLsbD 31, w.extractLsb' 18 6, w.getLsbD 17, w.extractLsb' 11 6, w.extractLsb' 0 11⟩)

/-- Words with OP = 0x16. -/
def decodeOp16 (w : W32) : Option Instr :=
  some (.xori ⟨w.getLsbD 31, w.extractLsb' 18 6, w.getLsbD 17, w.extractLsb' 11 6, w.extractLsb' 0 11⟩)

/-- Words with OP = 0x17. -/
def decodeOp17 (w : W32) : Option Instr :=
  if w.extractLsb' 6 5 = 0#5 then some (.shli ⟨w.getLsbD 31, w.extractLsb' 18 6, w.getLsbD 17, w.extractLsb' 11 6, w.extractLsb' 0 6⟩) else
  if w.extractLsb' 6 5 = 8#5 then some (.shri ⟨w.getLsbD 31, w.extractLsb' 18 6, w.getLsbD 17, w.extractLsb' 11 6, w.extractLsb' 0 6⟩) else
  if w.extractLsb' 6 5 = 16#5 then some (.sari ⟨w.getLsbD 31, w.extractLsb' 18 6, w.getLsbD 17, w.extractLsb' 11 6, w.extractLsb' 0 6⟩) else
  if w.extractLsb' 6 5 = 24#5 then some (.rotli ⟨w.getLsbD 31, w.extractLsb' 18 6, w.getLsbD 17, w.extractLsb' 11 6, w.extractLsb' 0 6⟩) else
  none

/-- Words with OP = 0x18. -/
def decodeOp18 (w : W32) : Option Instr :=
  if w.extractLsb' 11 7 = 0#7 then some (.movi ⟨w.getLsbD 31, w.extractLsb' 18 6, w.extractLsb' 0 11⟩) else
  none

/-- Words with OP = 0x19. -/
def decodeOp19 (w : W32) : Option Instr :=
  if w.extractLsb' 11 7 = 0#7 then some (.lea ⟨w.getLsbD 31, w.extractLsb' 18 6, w.extractLsb' 0 11⟩) else
  none

/-- Words with OP = 0x1A. -/
def decodeOp1A (w : W32) : Option Instr :=
  if w.extractLsb' 11 7 = 0#7 then some (.vgive ⟨w.getLsbD 31, w.extractLsb' 18 6, w.extractLsb' 0 11⟩) else
  none

/-- Words with OP = 0x1B. -/
def decodeOp1B (w : W32) : Option Instr :=
  if w.extractLsb' 11 7 = 0#7 then some (.vclaim ⟨w.getLsbD 31, w.extractLsb' 18 6, w.extractLsb' 0 11⟩) else
  none

/-- Words with OP = 0x1C. -/
def decodeOp1C (w : W32) : Option Instr :=
  if w.extractLsb' 11 13 = 0#13 then some (.vfree ⟨w.getLsbD 31, w.extractLsb' 7 4, w.extractLsb' 0 7⟩) else
  none

/-- Words with OP = 0x1D. -/
def decodeOp1D (w : W32) : Option Instr :=
  if w.extractLsb' 11 7 = 0#7 then some (.vstat ⟨w.getLsbD 31, w.extractLsb' 18 6, w.extractLsb' 0 11⟩) else
  none

/-- Words with OP = 0x1E. -/
def decodeOp1E (w : W32) : Option Instr :=
  if w.extractLsb' 22 2 = 3#2 ∧ w.getLsbD 8 = false ∧ w.getLsbD 0 = false then some (.vmovs ⟨w.getLsbD 31, w.extractLsb' 17 5, w.getLsbD 16, w.extractLsb' 9 7, w.extractLsb' 1 7⟩) else
  if w.extractLsb' 22 2 = 3#2 ∧ w.extractLsb' 0 9 = 256#9 then some (.vmovsFirst ⟨w.getLsbD 31, w.extractLsb' 17 5, w.getLsbD 16, w.extractLsb' 9 7⟩) else
  if w.extractLsb' 22 2 = 3#2 ∧ w.getLsbD 8 = false ∧ w.getLsbD 0 = true then some (.vmovsD ⟨w.getLsbD 31, w.extractLsb' 17 5, w.getLsbD 16, w.extractLsb' 9 7, w.extractLsb' 1 7⟩) else
  if w.extractLsb' 22 2 = 3#2 ∧ w.extractLsb' 0 9 = 257#9 then some (.vmovsFirstD ⟨w.getLsbD 31, w.extractLsb' 17 5, w.getLsbD 16, w.extractLsb' 9 7⟩) else
  none

/-- Words with OP = 0x20. -/
def decodeOp20 (w : W32) : Option Instr :=
  if w.getLsbD 0 = false then some (.iadd ⟨w.getLsbD 31, w.extractLsb' 17 7, w.getLsbD 16, w.extractLsb' 9 7, w.getLsbD 8, w.extractLsb' 1 7⟩) else
  none

/-- Words with OP = 0x21. -/
def decodeOp21 (w : W32) : Option Instr :=
  if w.getLsbD 0 = false then some (.isub ⟨w.getLsbD 31, w.extractLsb' 17 7, w.getLsbD 16, w.extractLsb' 9 7, w.getLsbD 8, w.extractLsb' 1 7⟩) else
  none

/-- Words with OP = 0x22. -/
def decodeOp22 (w : W32) : Option Instr :=
  if w.getLsbD 0 = false then some (.imul ⟨w.getLsbD 31, w.extractLsb' 17 7, w.getLsbD 16, w.extractLsb' 9 7, w.getLsbD 8, w.extractLsb' 1 7⟩) else
  if w.getLsbD 0 = true then some (.imulh ⟨w.getLsbD 31, w.extractLsb' 17 7, w.getLsbD 16, w.extractLsb' 9 7, w.getLsbD 8, w.extractLsb' 1 7⟩) else
  none

/-- Words with OP = 0x23. -/
def decodeOp23 (w : W32) : Option Instr :=
  if w.getLsbD 0 = false then some (.imad ⟨w.getLsbD 31, w.extractLsb' 17 7, w.getLsbD 16, w.extractLsb' 9 7, w.getLsbD 8, w.extractLsb' 1 7⟩) else
  none

/-- Words with OP = 0x24. -/
def decodeOp24 (w : W32) : Option Instr :=
  if w.getLsbD 0 = false then some (.idiv ⟨w.getLsbD 31, w.extractLsb' 17 7, w.getLsbD 16, w.extractLsb' 9 7, w.getLsbD 8, w.extractLsb' 1 7⟩) else
  none

/-- Words with OP = 0x25. -/
def decodeOp25 (w : W32) : Option Instr :=
  if w.getLsbD 0 = false then some (.irem ⟨w.getLsbD 31, w.extractLsb' 17 7, w.getLsbD 16, w.extractLsb' 9 7, w.getLsbD 8, w.extractLsb' 1 7⟩) else
  none

/-- Words with OP = 0x26. -/
def decodeOp26 (w : W32) : Option Instr :=
  if w.getLsbD 0 = false then some (.imin ⟨w.getLsbD 31, w.extractLsb' 17 7, w.getLsbD 16, w.extractLsb' 9 7, w.getLsbD 8, w.extractLsb' 1 7⟩) else
  none

/-- Words with OP = 0x27. -/
def decodeOp27 (w : W32) : Option Instr :=
  if w.getLsbD 0 = false then some (.imax ⟨w.getLsbD 31, w.extractLsb' 17 7, w.getLsbD 16, w.extractLsb' 9 7, w.getLsbD 8, w.extractLsb' 1 7⟩) else
  none

/-- Words with OP = 0x28. -/
def decodeOp28 (w : W32) : Option Instr :=
  if w.getLsbD 0 = false then some (.and ⟨w.getLsbD 31, w.extractLsb' 17 7, w.getLsbD 16, w.extractLsb' 9 7, w.getLsbD 8, w.extractLsb' 1 7⟩) else
  if w.getLsbD 0 = true then some (.andn ⟨w.getLsbD 31, w.extractLsb' 17 7, w.getLsbD 16, w.extractLsb' 9 7, w.getLsbD 8, w.extractLsb' 1 7⟩) else
  none

/-- Words with OP = 0x29. -/
def decodeOp29 (w : W32) : Option Instr :=
  if w.getLsbD 0 = false then some (.or ⟨w.getLsbD 31, w.extractLsb' 17 7, w.getLsbD 16, w.extractLsb' 9 7, w.getLsbD 8, w.extractLsb' 1 7⟩) else
  if w.getLsbD 0 = true then some (.orn ⟨w.getLsbD 31, w.extractLsb' 17 7, w.getLsbD 16, w.extractLsb' 9 7, w.getLsbD 8, w.extractLsb' 1 7⟩) else
  none

/-- Words with OP = 0x2A. -/
def decodeOp2A (w : W32) : Option Instr :=
  if w.getLsbD 0 = false then some (.xor ⟨w.getLsbD 31, w.extractLsb' 17 7, w.getLsbD 16, w.extractLsb' 9 7, w.getLsbD 8, w.extractLsb' 1 7⟩) else
  if w.getLsbD 0 = true then some (.xnor ⟨w.getLsbD 31, w.extractLsb' 17 7, w.getLsbD 16, w.extractLsb' 9 7, w.getLsbD 8, w.extractLsb' 1 7⟩) else
  none

/-- Words with OP = 0x2B. -/
def decodeOp2B (w : W32) : Option Instr :=
  if w.getLsbD 0 = false then some (.shl ⟨w.getLsbD 31, w.extractLsb' 17 7, w.getLsbD 16, w.extractLsb' 9 7, w.getLsbD 8, w.extractLsb' 1 7⟩) else
  none

/-- Words with OP = 0x2C. -/
def decodeOp2C (w : W32) : Option Instr :=
  if w.getLsbD 0 = false then some (.shr ⟨w.getLsbD 31, w.extractLsb' 17 7, w.getLsbD 16, w.extractLsb' 9 7, w.getLsbD 8, w.extractLsb' 1 7⟩) else
  if w.getLsbD 0 = true then some (.sar ⟨w.getLsbD 31, w.extractLsb' 17 7, w.getLsbD 16, w.extractLsb' 9 7, w.getLsbD 8, w.extractLsb' 1 7⟩) else
  none

/-- Words with OP = 0x2D. -/
def decodeOp2D (w : W32) : Option Instr :=
  if w.getLsbD 0 = false then some (.icmp ⟨w.getLsbD 31, w.extractLsb' 20 4, w.extractLsb' 17 3, w.getLsbD 16, w.extractLsb' 9 7, w.getLsbD 8, w.extractLsb' 1 7⟩) else
  if w.getLsbD 0 = true then some (.icmpand ⟨w.getLsbD 31, w.extractLsb' 20 4, w.extractLsb' 17 3, w.getLsbD 16, w.extractLsb' 9 7, w.getLsbD 8, w.extractLsb' 1 7⟩) else
  none

/-- Words with OP = 0x2E. -/
def decodeOp2E (w : W32) : Option Instr :=
  if w.getLsbD 0 = false then some (.sel ⟨w.getLsbD 31, w.extractLsb' 17 7, w.getLsbD 16, w.extractLsb' 9 7, w.getLsbD 8, w.extractLsb' 1 7⟩) else
  if w.getLsbD 0 = true then some (.selNotP0 ⟨w.getLsbD 31, w.extractLsb' 17 7, w.getLsbD 16, w.extractLsb' 9 7, w.getLsbD 8, w.extractLsb' 1 7⟩) else
  none

/-- Words with OP = 0x2F. -/
def decodeOp2F (w : W32) : Option Instr :=
  if w.getLsbD 0 = false then some (.iaddi ⟨w.getLsbD 31, w.extractLsb' 17 7, w.getLsbD 16, w.extractLsb' 9 7, w.extractLsb' 1 8⟩) else
  none

/-- Words with OP = 0x30. -/
def decodeOp30 (w : W32) : Option Instr :=
  if w.getLsbD 0 = false then some (.fadd ⟨w.getLsbD 31, w.extractLsb' 17 7, w.getLsbD 16, w.extractLsb' 9 7, w.getLsbD 8, w.extractLsb' 1 7⟩) else
  none

/-- Words with OP = 0x31. -/
def decodeOp31 (w : W32) : Option Instr :=
  if w.getLsbD 0 = false then some (.fsub ⟨w.getLsbD 31, w.extractLsb' 17 7, w.getLsbD 16, w.extractLsb' 9 7, w.getLsbD 8, w.extractLsb' 1 7⟩) else
  none

/-- Words with OP = 0x32. -/
def decodeOp32 (w : W32) : Option Instr :=
  if w.getLsbD 0 = false then some (.fmul ⟨w.getLsbD 31, w.extractLsb' 17 7, w.getLsbD 16, w.extractLsb' 9 7, w.getLsbD 8, w.extractLsb' 1 7⟩) else
  none

/-- Words with OP = 0x33. -/
def decodeOp33 (w : W32) : Option Instr :=
  if w.getLsbD 0 = false then some (.ffma ⟨w.getLsbD 31, w.extractLsb' 17 7, w.getLsbD 16, w.extractLsb' 9 7, w.getLsbD 8, w.extractLsb' 1 7⟩) else
  if w.getLsbD 0 = true then some (.fnma ⟨w.getLsbD 31, w.extractLsb' 17 7, w.getLsbD 16, w.extractLsb' 9 7, w.getLsbD 8, w.extractLsb' 1 7⟩) else
  none

/-- Words with OP = 0x34. -/
def decodeOp34 (w : W32) : Option Instr :=
  if w.getLsbD 0 = false then some (.fmin ⟨w.getLsbD 31, w.extractLsb' 17 7, w.getLsbD 16, w.extractLsb' 9 7, w.getLsbD 8, w.extractLsb' 1 7⟩) else
  if w.getLsbD 0 = true then some (.fminnan ⟨w.getLsbD 31, w.extractLsb' 17 7, w.getLsbD 16, w.extractLsb' 9 7, w.getLsbD 8, w.extractLsb' 1 7⟩) else
  none

/-- Words with OP = 0x35. -/
def decodeOp35 (w : W32) : Option Instr :=
  if w.getLsbD 0 = false then some (.fmax ⟨w.getLsbD 31, w.extractLsb' 17 7, w.getLsbD 16, w.extractLsb' 9 7, w.getLsbD 8, w.extractLsb' 1 7⟩) else
  if w.getLsbD 0 = true then some (.fmaxnan ⟨w.getLsbD 31, w.extractLsb' 17 7, w.getLsbD 16, w.extractLsb' 9 7, w.getLsbD 8, w.extractLsb' 1 7⟩) else
  none

/-- Words with OP = 0x36. -/
def decodeOp36 (w : W32) : Option Instr :=
  if w.getLsbD 0 = false then some (.fcmp ⟨w.getLsbD 31, w.extractLsb' 20 4, w.extractLsb' 17 3, w.getLsbD 16, w.extractLsb' 9 7, w.getLsbD 8, w.extractLsb' 1 7⟩) else
  if w.getLsbD 0 = true then some (.fcmpand ⟨w.getLsbD 31, w.extractLsb' 20 4, w.extractLsb' 17 3, w.getLsbD 16, w.extractLsb' 9 7, w.getLsbD 8, w.extractLsb' 1 7⟩) else
  none

/-- Words with OP = 0x37. -/
def decodeOp37 (w : W32) : Option Instr :=
  if w.getLsbD 0 = false then some (.fdiv ⟨w.getLsbD 31, w.extractLsb' 17 7, w.getLsbD 16, w.extractLsb' 9 7, w.getLsbD 8, w.extractLsb' 1 7⟩) else
  none

/-- Words with OP = 0x38. -/
def decodeOp38 (w : W32) : Option Instr :=
  if w.extractLsb' 0 9 = 0#9 then some (.funAbs ⟨w.getLsbD 31, w.extractLsb' 17 7, w.getLsbD 16, w.extractLsb' 9 7⟩) else
  if w.extractLsb' 0 9 = 2#9 then some (.funNeg ⟨w.getLsbD 31, w.extractLsb' 17 7, w.getLsbD 16, w.extractLsb' 9 7⟩) else
  if w.extractLsb' 0 9 = 4#9 then some (.funSqrt ⟨w.getLsbD 31, w.extractLsb' 17 7, w.getLsbD 16, w.extractLsb' 9 7⟩) else
  if w.extractLsb' 0 9 = 6#9 then some (.funRcp ⟨w.getLsbD 31, w.extractLsb' 17 7, w.getLsbD 16, w.extractLsb' 9 7⟩) else
  if w.extractLsb' 0 9 = 8#9 then some (.funRsq ⟨w.getLsbD 31, w.extractLsb' 17 7, w.getLsbD 16, w.extractLsb' 9 7⟩) else
  if w.extractLsb' 0 9 = 10#9 then some (.funExp2 ⟨w.getLsbD 31, w.extractLsb' 17 7, w.getLsbD 16, w.extractLsb' 9 7⟩) else
  if w.extractLsb' 0 9 = 12#9 then some (.funLog2 ⟨w.getLsbD 31, w.extractLsb' 17 7, w.getLsbD 16, w.extractLsb' 9 7⟩) else
  if w.extractLsb' 0 9 = 14#9 then some (.funSin ⟨w.getLsbD 31, w.extractLsb' 17 7, w.getLsbD 16, w.extractLsb' 9 7⟩) else
  if w.extractLsb' 0 9 = 16#9 then some (.funCos ⟨w.getLsbD 31, w.extractLsb' 17 7, w.getLsbD 16, w.extractLsb' 9 7⟩) else
  if w.extractLsb' 0 9 = 18#9 then some (.funTanh ⟨w.getLsbD 31, w.extractLsb' 17 7, w.getLsbD 16, w.extractLsb' 9 7⟩) else
  if w.extractLsb' 0 9 = 20#9 then some (.funFloor ⟨w.getLsbD 31, w.extractLsb' 17 7, w.getLsbD 16, w.extractLsb' 9 7⟩) else
  if w.extractLsb' 0 9 = 22#9 then some (.funCeil ⟨w.getLsbD 31, w.extractLsb' 17 7, w.getLsbD 16, w.extractLsb' 9 7⟩) else
  if w.extractLsb' 0 9 = 24#9 then some (.funTrunc ⟨w.getLsbD 31, w.extractLsb' 17 7, w.getLsbD 16, w.extractLsb' 9 7⟩) else
  if w.extractLsb' 0 9 = 26#9 then some (.funRint ⟨w.getLsbD 31, w.extractLsb' 17 7, w.getLsbD 16, w.extractLsb' 9 7⟩) else
  if w.extractLsb' 0 9 = 28#9 then some (.funFrac ⟨w.getLsbD 31, w.extractLsb' 17 7, w.getLsbD 16, w.extractLsb' 9 7⟩) else
  none

/-- Words with OP = 0x39. -/
def decodeOp39 (w : W32) : Option Instr :=
  if w.getLsbD 0 = false then some (.dadd ⟨w.getLsbD 31, w.extractLsb' 17 7, w.getLsbD 16, w.extractLsb' 9 7, w.getLsbD 8, w.extractLsb' 1 7⟩) else
  if w.getLsbD 0 = true then some (.dsub ⟨w.getLsbD 31, w.extractLsb' 17 7, w.getLsbD 16, w.extractLsb' 9 7, w.getLsbD 8, w.extractLsb' 1 7⟩) else
  none

/-- Words with OP = 0x3A. -/
def decodeOp3A (w : W32) : Option Instr :=
  if w.getLsbD 0 = false then some (.dmul ⟨w.getLsbD 31, w.extractLsb' 17 7, w.getLsbD 16, w.extractLsb' 9 7, w.getLsbD 8, w.extractLsb' 1 7⟩) else
  none

/-- Words with OP = 0x3B. -/
def decodeOp3B (w : W32) : Option Instr :=
  if w.getLsbD 0 = false then some (.dfma ⟨w.getLsbD 31, w.extractLsb' 17 7, w.getLsbD 16, w.extractLsb' 9 7, w.getLsbD 8, w.extractLsb' 1 7⟩) else
  if w.getLsbD 0 = true then some (.dnma ⟨w.getLsbD 31, w.extractLsb' 17 7, w.getLsbD 16, w.extractLsb' 9 7, w.getLsbD 8, w.extractLsb' 1 7⟩) else
  none

/-- Words with OP = 0x3C. -/
def decodeOp3C (w : W32) : Option Instr :=
  if w.extractLsb' 0 9 = 0#9 then some (.iunMov ⟨w.getLsbD 31, w.extractLsb' 17 7, w.getLsbD 16, w.extractLsb' 9 7⟩) else
  if w.extractLsb' 0 9 = 2#9 then some (.iunNot ⟨w.getLsbD 31, w.extractLsb' 17 7, w.getLsbD 16, w.extractLsb' 9 7⟩) else
  if w.extractLsb' 0 9 = 4#9 then some (.iunNeg ⟨w.getLsbD 31, w.extractLsb' 17 7, w.getLsbD 16, w.extractLsb' 9 7⟩) else
  if w.extractLsb' 0 9 = 6#9 then some (.iunAbs ⟨w.getLsbD 31, w.extractLsb' 17 7, w.getLsbD 16, w.extractLsb' 9 7⟩) else
  if w.extractLsb' 0 9 = 8#9 then some (.iunPopc ⟨w.getLsbD 31, w.extractLsb' 17 7, w.getLsbD 16, w.extractLsb' 9 7⟩) else
  if w.extractLsb' 0 9 = 10#9 then some (.iunClz ⟨w.getLsbD 31, w.extractLsb' 17 7, w.getLsbD 16, w.extractLsb' 9 7⟩) else
  if w.extractLsb' 0 9 = 12#9 then some (.iunCtz ⟨w.getLsbD 31, w.extractLsb' 17 7, w.getLsbD 16, w.extractLsb' 9 7⟩) else
  if w.extractLsb' 0 9 = 14#9 then some (.iunBrev ⟨w.getLsbD 31, w.extractLsb' 17 7, w.getLsbD 16, w.extractLsb' 9 7⟩) else
  if w.extractLsb' 0 9 = 16#9 then some (.iunBswap ⟨w.getLsbD 31, w.extractLsb' 17 7, w.getLsbD 16, w.extractLsb' 9 7⟩) else
  if w.extractLsb' 4 5 = 2#5 ∧ w.getLsbD 0 = false then some (.iunXnib ⟨w.getLsbD 31, w.extractLsb' 17 7, w.getLsbD 16, w.extractLsb' 9 7, w.extractLsb' 1 3⟩) else
  if w.extractLsb' 4 5 = 3#5 ∧ w.getLsbD 0 = false then some (.iunXnibn ⟨w.getLsbD 31, w.extractLsb' 17 7, w.getLsbD 16, w.extractLsb' 9 7, w.extractLsb' 1 3⟩) else
  if w.extractLsb' 3 6 = 8#6 ∧ w.getLsbD 0 = false then some (.iunXbyte ⟨w.getLsbD 31, w.extractLsb' 17 7, w.getLsbD 16, w.extractLsb' 9 7, w.extractLsb' 1 2⟩) else
  if w.extractLsb' 3 6 = 9#6 ∧ w.getLsbD 0 = false then some (.iunXbyten ⟨w.getLsbD 31, w.extractLsb' 17 7, w.getLsbD 16, w.extractLsb' 9 7, w.extractLsb' 1 2⟩) else
  if w.extractLsb' 4 5 = 6#5 ∧ w.getLsbD 0 = false then some (.iunInsnib ⟨w.getLsbD 31, w.extractLsb' 17 7, w.getLsbD 16, w.extractLsb' 9 7, w.extractLsb' 1 3⟩) else
  none

/-- Words with OP = 0x3D. -/
def decodeOp3D (w : W32) : Option Instr :=
  if w.getLsbD 0 = false then some (.dcmp ⟨w.getLsbD 31, w.extractLsb' 20 4, w.extractLsb' 17 3, w.getLsbD 16, w.extractLsb' 9 7, w.getLsbD 8, w.extractLsb' 1 7⟩) else
  if w.getLsbD 0 = true then some (.dcmpand ⟨w.getLsbD 31, w.extractLsb' 20 4, w.extractLsb' 17 3, w.getLsbD 16, w.extractLsb' 9 7, w.getLsbD 8, w.extractLsb' 1 7⟩) else
  none

/-- Words with OP = 0x3E. -/
def decodeOp3E (w : W32) : Option Instr :=
  if w.extractLsb' 0 9 = 0#9 then some (.dunAbs ⟨w.getLsbD 31, w.extractLsb' 17 7, w.getLsbD 16, w.extractLsb' 9 7⟩) else
  if w.extractLsb' 0 9 = 2#9 then some (.dunNeg ⟨w.getLsbD 31, w.extractLsb' 17 7, w.getLsbD 16, w.extractLsb' 9 7⟩) else
  if w.extractLsb' 0 9 = 4#9 then some (.dunSqrt ⟨w.getLsbD 31, w.extractLsb' 17 7, w.getLsbD 16, w.extractLsb' 9 7⟩) else
  if w.extractLsb' 0 9 = 6#9 then some (.dunFloor ⟨w.getLsbD 31, w.extractLsb' 17 7, w.getLsbD 16, w.extractLsb' 9 7⟩) else
  if w.extractLsb' 0 9 = 8#9 then some (.dunCeil ⟨w.getLsbD 31, w.extractLsb' 17 7, w.getLsbD 16, w.extractLsb' 9 7⟩) else
  if w.extractLsb' 0 9 = 10#9 then some (.dunTrunc ⟨w.getLsbD 31, w.extractLsb' 17 7, w.getLsbD 16, w.extractLsb' 9 7⟩) else
  if w.extractLsb' 0 9 = 12#9 then some (.dunRint ⟨w.getLsbD 31, w.extractLsb' 17 7, w.getLsbD 16, w.extractLsb' 9 7⟩) else
  none

/-- Words with OP = 0x3F. -/
def decodeOp3F (w : W32) : Option Instr :=
  if w.getLsbD 0 = false then some (.ddiv ⟨w.getLsbD 31, w.extractLsb' 17 7, w.getLsbD 16, w.extractLsb' 9 7, w.getLsbD 8, w.extractLsb' 1 7⟩) else
  none

/-- Words with OP = 0x40. -/
def decodeOp40 (w : W32) : Option Instr :=
  if w.getLsbD 8 = false then some (.cvt ⟨w.getLsbD 31, w.extractLsb' 17 7, w.getLsbD 16, w.extractLsb' 9 7, w.extractLsb' 5 3, w.extractLsb' 1 4, w.getLsbD 0⟩) else
  none

/-- Words with OP = 0x41. -/
def decodeOp41 (w : W32) : Option Instr :=
  if w.extractLsb' 4 5 = 10#5 ∧ w.getLsbD 0 = false then some (.cvtn ⟨w.getLsbD 31, w.extractLsb' 17 7, w.getLsbD 16, w.extractLsb' 9 7, w.extractLsb' 1 3⟩) else
  none

/-- Words with OP = 0x42. -/
def decodeOp42 (w : W32) : Option Instr :=
  if w.extractLsb' 6 2 = 3#2 ∧ w.getLsbD 0 = false then some (.cvtb ⟨w.getLsbD 31, w.extractLsb' 17 7, w.getLsbD 16, w.extractLsb' 9 7, w.getLsbD 8, w.extractLsb' 1 5⟩) else
  if w.extractLsb' 6 2 = 3#2 ∧ w.getLsbD 0 = true then some (.cvtbHdr ⟨w.getLsbD 31, w.extractLsb' 17 7, w.getLsbD 16, w.extractLsb' 9 7, w.getLsbD 8, w.extractLsb' 1 5⟩) else
  none

/-- Words with OP = 0x43. -/
def decodeOp43 (w : W32) : Option Instr :=
  if w.getLsbD 0 = false then some (.cvtm ⟨w.getLsbD 31, w.extractLsb' 17 7, w.getLsbD 16, w.extractLsb' 9 7, w.extractLsb' 1 8⟩) else
  none

/-- Words with OP = 0x44. -/
def decodeOp44 (w : W32) : Option Instr :=
  if w.getLsbD 0 = false then some (.shflAbs ⟨w.getLsbD 31, w.extractLsb' 17 7, w.getLsbD 16, w.extractLsb' 9 7, w.getLsbD 8, w.extractLsb' 1 7⟩) else
  if w.getLsbD 0 = true then some (.shflRel ⟨w.getLsbD 31, w.extractLsb' 17 7, w.getLsbD 16, w.extractLsb' 9 7, w.getLsbD 8, w.extractLsb' 1 7⟩) else
  none

/-- Words with OP = 0x45. -/
def decodeOp45 (w : W32) : Option Instr :=
  if w.extractLsb' 7 2 = 0#2 ∧ w.getLsbD 0 = false then some (.shfliBc ⟨w.getLsbD 31, w.extractLsb' 17 7, w.getLsbD 16, w.extractLsb' 9 7, w.extractLsb' 1 6⟩) else
  if w.extractLsb' 7 2 = 1#2 ∧ w.getLsbD 0 = false then some (.shfliRot ⟨w.getLsbD 31, w.extractLsb' 17 7, w.getLsbD 16, w.extractLsb' 9 7, w.extractLsb' 1 6⟩) else
  if w.extractLsb' 7 2 = 2#2 ∧ w.getLsbD 0 = false then some (.shfliRev ⟨w.getLsbD 31, w.extractLsb' 17 7, w.getLsbD 16, w.extractLsb' 9 7, w.extractLsb' 1 6⟩) else
  if w.extractLsb' 7 2 = 3#2 ∧ w.getLsbD 0 = false then some (.shfliSwap ⟨w.getLsbD 31, w.extractLsb' 17 7, w.getLsbD 16, w.extractLsb' 9 7, w.extractLsb' 1 6⟩) else
  none

/-- Words with OP = 0x46. -/
def decodeOp46 (w : W32) : Option Instr :=
  if w.extractLsb' 22 2 = 3#2 ∧ w.extractLsb' 4 13 = 0#13 ∧ w.getLsbD 0 = false then some (.voteMask ⟨w.getLsbD 31, w.extractLsb' 17 5, w.extractLsb' 1 3⟩) else
  if w.extractLsb' 22 2 = 3#2 ∧ w.extractLsb' 4 13 = 1#13 ∧ w.getLsbD 0 = false then some (.voteCount ⟨w.getLsbD 31, w.extractLsb' 17 5, w.extractLsb' 1 3⟩) else
  if w.extractLsb' 22 2 = 3#2 ∧ w.extractLsb' 4 13 = 2#13 ∧ w.getLsbD 0 = false then some (.voteFirst ⟨w.getLsbD 31, w.extractLsb' 17 5, w.extractLsb' 1 3⟩) else
  if w.extractLsb' 22 2 = 3#2 ∧ w.extractLsb' 4 13 = 3#13 ∧ w.getLsbD 0 = false then some (.voteLast ⟨w.getLsbD 31, w.extractLsb' 17 5, w.extractLsb' 1 3⟩) else
  if w.extractLsb' 22 2 = 3#2 ∧ w.extractLsb' 4 13 = 4#13 ∧ w.getLsbD 0 = false then some (.voteParity ⟨w.getLsbD 31, w.extractLsb' 17 5, w.extractLsb' 1 3⟩) else
  if w.extractLsb' 22 2 = 3#2 ∧ w.extractLsb' 4 13 = 5#13 ∧ w.getLsbD 0 = false then some (.voteFull ⟨w.getLsbD 31, w.extractLsb' 17 5, w.extractLsb' 1 3⟩) else
  if w.extractLsb' 22 2 = 3#2 ∧ w.extractLsb' 4 13 = 6#13 ∧ w.getLsbD 0 = false then some (.voteEmpty ⟨w.getLsbD 31, w.extractLsb' 17 5, w.extractLsb' 1 3⟩) else
  none

/-- Words with OP = 0x47. -/
def decodeOp47 (w : W32) : Option Instr :=
  if w.getLsbD 8 = false ∧ w.extractLsb' 0 5 = 0#5 then some (.reduxAdd ⟨w.getLsbD 31, w.extractLsb' 17 7, w.getLsbD 16, w.extractLsb' 9 7, w.extractLsb' 5 3⟩) else
  if w.getLsbD 8 = false ∧ w.extractLsb' 0 5 = 2#5 then some (.reduxMin ⟨w.getLsbD 31, w.extractLsb' 17 7, w.getLsbD 16, w.extractLsb' 9 7, w.extractLsb' 5 3⟩) else
  if w.getLsbD 8 = false ∧ w.extractLsb' 0 5 = 4#5 then some (.reduxMax ⟨w.getLsbD 31, w.extractLsb' 17 7, w.getLsbD 16, w.extractLsb' 9 7, w.extractLsb' 5 3⟩) else
  if w.getLsbD 8 = false ∧ w.extractLsb' 0 5 = 6#5 then some (.reduxAnd ⟨w.getLsbD 31, w.extractLsb' 17 7, w.getLsbD 16, w.extractLsb' 9 7, w.extractLsb' 5 3⟩) else
  if w.getLsbD 8 = false ∧ w.extractLsb' 0 5 = 8#5 then some (.reduxOr ⟨w.getLsbD 31, w.extractLsb' 17 7, w.getLsbD 16, w.extractLsb' 9 7, w.extractLsb' 5 3⟩) else
  if w.getLsbD 8 = false ∧ w.extractLsb' 0 5 = 10#5 then some (.reduxXor ⟨w.getLsbD 31, w.extractLsb' 17 7, w.getLsbD 16, w.extractLsb' 9 7, w.extractLsb' 5 3⟩) else
  none

/-- Words with OP = 0x48. -/
def decodeOp48 (w : W32) : Option Instr :=
  if w.getLsbD 8 = false ∧ w.extractLsb' 0 4 = 0#4 then some (.scanAdd ⟨w.getLsbD 31, w.extractLsb' 17 7, w.getLsbD 16, w.extractLsb' 9 7, w.extractLsb' 5 3, w.getLsbD 4⟩) else
  if w.getLsbD 8 = false ∧ w.extractLsb' 0 4 = 2#4 then some (.scanMin ⟨w.getLsbD 31, w.extractLsb' 17 7, w.getLsbD 16, w.extractLsb' 9 7, w.extractLsb' 5 3, w.getLsbD 4⟩) else
  if w.getLsbD 8 = false ∧ w.extractLsb' 0 4 = 4#4 then some (.scanMax ⟨w.getLsbD 31, w.extractLsb' 17 7, w.getLsbD 16, w.extractLsb' 9 7, w.extractLsb' 5 3, w.getLsbD 4⟩) else
  if w.getLsbD 8 = false ∧ w.extractLsb' 0 4 = 6#4 then some (.scanAnd ⟨w.getLsbD 31, w.extractLsb' 17 7, w.getLsbD 16, w.extractLsb' 9 7, w.extractLsb' 5 3, w.getLsbD 4⟩) else
  if w.getLsbD 8 = false ∧ w.extractLsb' 0 4 = 8#4 then some (.scanOr ⟨w.getLsbD 31, w.extractLsb' 17 7, w.getLsbD 16, w.extractLsb' 9 7, w.extractLsb' 5 3, w.getLsbD 4⟩) else
  if w.getLsbD 8 = false ∧ w.extractLsb' 0 4 = 10#4 then some (.scanXor ⟨w.getLsbD 31, w.extractLsb' 17 7, w.getLsbD 16, w.extractLsb' 9 7, w.extractLsb' 5 3, w.getLsbD 4⟩) else
  none

/-- Words with OP = 0x49. -/
def decodeOp49 (w : W32) : Option Instr :=
  if w.getLsbD 0 = false then some (.matchPair ⟨w.getLsbD 31, w.extractLsb' 17 7, w.getLsbD 16, w.extractLsb' 9 7, w.getLsbD 8, w.extractLsb' 1 7⟩) else
  if w.getLsbD 0 = true then some (.matchMask ⟨w.getLsbD 31, w.extractLsb' 17 7, w.getLsbD 16, w.extractLsb' 9 7, w.getLsbD 8, w.extractLsb' 1 7⟩) else
  none

/-- Words with OP = 0x4A. -/
def decodeOp4A (w : W32) : Option Instr :=
  if w.extractLsb' 17 7 = 0#7 ∧ w.extractLsb' 4 5 = 0#5 ∧ w.getLsbD 0 = false then some (.pmovTop ⟨w.getLsbD 31, w.getLsbD 16, w.extractLsb' 9 7, w.extractLsb' 1 3⟩) else
  if w.extractLsb' 4 13 = 2#13 ∧ w.getLsbD 0 = false then some (.pmovFromp ⟨w.getLsbD 31, w.extractLsb' 17 7, w.extractLsb' 1 3⟩) else
  if w.extractLsb' 12 12 = 0#12 ∧ w.extractLsb' 4 5 = 4#5 ∧ w.getLsbD 0 = false then some (.pmovAnd ⟨w.getLsbD 31, w.extractLsb' 9 3, w.extractLsb' 1 3⟩) else
  if w.extractLsb' 12 12 = 0#12 ∧ w.extractLsb' 4 5 = 6#5 ∧ w.getLsbD 0 = false then some (.pmovOr ⟨w.getLsbD 31, w.extractLsb' 9 3, w.extractLsb' 1 3⟩) else
  if w.extractLsb' 12 12 = 0#12 ∧ w.extractLsb' 4 5 = 8#5 ∧ w.getLsbD 0 = false then some (.pmovXor ⟨w.getLsbD 31, w.extractLsb' 9 3, w.extractLsb' 1 3⟩) else
  if w.extractLsb' 12 12 = 0#12 ∧ w.extractLsb' 4 5 = 10#5 ∧ w.getLsbD 0 = false then some (.pmovNot ⟨w.getLsbD 31, w.extractLsb' 9 3, w.extractLsb' 1 3⟩) else
  if w.extractLsb' 17 7 = 0#7 ∧ w.extractLsb' 14 2 = 3#2 ∧ w.extractLsb' 4 5 = 12#5 ∧ w.getLsbD 0 = false then some (.pmovFroms ⟨w.getLsbD 31, w.getLsbD 16, w.extractLsb' 9 5, w.extractLsb' 1 3⟩) else
  none

/-- Words with OP = 0x50. -/
def decodeOp50 (w : W32) : Option Instr :=
  if w.getLsbD 16 = false then some (.ldb ⟨w.getLsbD 31, w.extractLsb' 17 7, w.extractLsb' 9 7, w.getLsbD 8, w.extractLsb' 5 3, w.getLsbD 4, w.extractLsb' 0 4⟩) else
  none

/-- Words with OP = 0x51. -/
def decodeOp51 (w : W32) : Option Instr :=
  if w.getLsbD 16 = false then some (.ldh ⟨w.getLsbD 31, w.extractLsb' 17 7, w.extractLsb' 9 7, w.getLsbD 8, w.extractLsb' 5 3, w.getLsbD 4, w.extractLsb' 0 4⟩) else
  none

/-- Words with OP = 0x52. -/
def decodeOp52 (w : W32) : Option Instr :=
  if w.getLsbD 16 = false then some (.ldw ⟨w.getLsbD 31, w.extractLsb' 17 7, w.extractLsb' 9 7, w.getLsbD 8, w.extractLsb' 5 3, w.getLsbD 4, w.extractLsb' 0 4⟩) else
  none

/-- Words with OP = 0x53. -/
def decodeOp53 (w : W32) : Option Instr :=
  if w.getLsbD 16 = false then some (.ldd ⟨w.getLsbD 31, w.extractLsb' 17 7, w.extractLsb' 9 7, w.getLsbD 8, w.extractLsb' 5 3, w.getLsbD 4, w.extractLsb' 0 4⟩) else
  none

/-- Words with OP = 0x54. -/
def decodeOp54 (w : W32) : Option Instr :=
  if w.getLsbD 16 = false then some (.ldq ⟨w.getLsbD 31, w.extractLsb' 17 7, w.extractLsb' 9 7, w.getLsbD 8, w.extractLsb' 5 3, w.getLsbD 4, w.extractLsb' 0 4⟩) else
  none

/-- Words with OP = 0x55. -/
def decodeOp55 (w : W32) : Option Instr :=
  if w.extractLsb' 0 4 = 0#4 then some (.stb ⟨w.getLsbD 31, w.extractLsb' 17 7, w.getLsbD 16, w.extractLsb' 9 7, w.getLsbD 8, w.extractLsb' 5 3, w.getLsbD 4⟩) else
  none

/-- Words with OP = 0x56. -/
def decodeOp56 (w : W32) : Option Instr :=
  if w.extractLsb' 0 4 = 0#4 then some (.sth ⟨w.getLsbD 31, w.extractLsb' 17 7, w.getLsbD 16, w.extractLsb' 9 7, w.getLsbD 8, w.extractLsb' 5 3, w.getLsbD 4⟩) else
  none

/-- Words with OP = 0x57. -/
def decodeOp57 (w : W32) : Option Instr :=
  if w.extractLsb' 0 4 = 0#4 then some (.stw ⟨w.getLsbD 31, w.extractLsb' 17 7, w.getLsbD 16, w.extractLsb' 9 7, w.getLsbD 8, w.extractLsb' 5 3, w.getLsbD 4⟩) else
  none

/-- Words with OP = 0x58. -/
def decodeOp58 (w : W32) : Option Instr :=
  if w.extractLsb' 0 4 = 0#4 then some (.std ⟨w.getLsbD 31, w.extractLsb' 17 7, w.getLsbD 16, w.extractLsb' 9 7, w.getLsbD 8, w.extractLsb' 5 3, w.getLsbD 4⟩) else
  none

/-- Words with OP = 0x59. -/
def decodeOp59 (w : W32) : Option Instr :=
  if w.extractLsb' 0 4 = 0#4 then some (.stq ⟨w.getLsbD 31, w.extractLsb' 17 7, w.getLsbD 16, w.extractLsb' 9 7, w.getLsbD 8, w.extractLsb' 5 3, w.getLsbD 4⟩) else
  none

/-- Words with OP = 0x5A. -/
def decodeOp5A (w : W32) : Option Instr :=
  if w.getLsbD 16 = false then some (.ldv ⟨w.getLsbD 31, w.extractLsb' 17 7, w.extractLsb' 9 7, w.getLsbD 8, w.extractLsb' 5 3, w.getLsbD 4, w.extractLsb' 0 4⟩) else
  none

/-- Words with OP = 0x5B. -/
def decodeOp5B (w : W32) : Option Instr :=
  if w.extractLsb' 16 8 = 0#8 ∧ w.extractLsb' 0 4 = 0#4 then some (.pref ⟨w.getLsbD 31, w.extractLsb' 9 7, w.getLsbD 8, w.extractLsb' 5 3, w.getLsbD 4⟩) else
  none

/-- Words with OP = 0x5C. -/
def decodeOp5C (w : W32) : Option Instr :=
  some (.aadd ⟨w.getLsbD 31, w.extractLsb' 17 7, w.getLsbD 16, w.extractLsb' 9 7, w.getLsbD 8, w.extractLsb' 5 3, w.getLsbD 4, w.extractLsb' 0 4⟩)

/-- Words with OP = 0x5D. -/
def decodeOp5D (w : W32) : Option Instr :=
  some (.amin ⟨w.getLsbD 31, w.extractLsb' 17 7, w.getLsbD 16, w.extractLsb' 9 7, w.getLsbD 8, w.extractLsb' 5 3, w.getLsbD 4, w.extractLsb' 0 4⟩)

/-- Words with OP = 0x5E. -/
def decodeOp5E (w : W32) : Option Instr :=
  some (.amax ⟨w.getLsbD 31, w.extractLsb' 17 7, w.getLsbD 16, w.extractLsb' 9 7, w.getLsbD 8, w.extractLsb' 5 3, w.getLsbD 4, w.extractLsb' 0 4⟩)

/-- Words with OP = 0x5F. -/
def decodeOp5F (w : W32) : Option Instr :=
  some (.aand ⟨w.getLsbD 31, w.extractLsb' 17 7, w.getLsbD 16, w.extractLsb' 9 7, w.getLsbD 8, w.extractLsb' 5 3, w.getLsbD 4, w.extractLsb' 0 4⟩)

/-- Words with OP = 0x60. -/
def decodeOp60 (w : W32) : Option Instr :=
  some (.aor ⟨w.getLsbD 31, w.extractLsb' 17 7, w.getLsbD 16, w.extractLsb' 9 7, w.getLsbD 8, w.extractLsb' 5 3, w.getLsbD 4, w.extractLsb' 0 4⟩)

/-- Words with OP = 0x61. -/
def decodeOp61 (w : W32) : Option Instr :=
  some (.axor ⟨w.getLsbD 31, w.extractLsb' 17 7, w.getLsbD 16, w.extractLsb' 9 7, w.getLsbD 8, w.extractLsb' 5 3, w.getLsbD 4, w.extractLsb' 0 4⟩)

/-- Words with OP = 0x62. -/
def decodeOp62 (w : W32) : Option Instr :=
  some (.axchg ⟨w.getLsbD 31, w.extractLsb' 17 7, w.getLsbD 16, w.extractLsb' 9 7, w.getLsbD 8, w.extractLsb' 5 3, w.getLsbD 4, w.extractLsb' 0 4⟩)

/-- Words with OP = 0x63. -/
def decodeOp63 (w : W32) : Option Instr :=
  some (.acas ⟨w.getLsbD 31, w.extractLsb' 17 7, w.getLsbD 16, w.extractLsb' 9 7, w.getLsbD 8, w.extractLsb' 5 3, w.getLsbD 4, w.extractLsb' 0 4⟩)

/-- Words with OP = 0x64. -/
def decodeOp64 (w : W32) : Option Instr :=
  some (.afadd ⟨w.getLsbD 31, w.extractLsb' 17 7, w.getLsbD 16, w.extractLsb' 9 7, w.getLsbD 8, w.extractLsb' 5 3, w.getLsbD 4, w.extractLsb' 0 4⟩)

/-- Words with OP = 0x65. -/
def decodeOp65 (w : W32) : Option Instr :=
  if w.getLsbD 16 = false then some (.kld ⟨w.getLsbD 31, w.extractLsb' 17 7, w.extractLsb' 9 7, w.getLsbD 8, w.extractLsb' 5 3, w.getLsbD 4, w.extractLsb' 0 4⟩) else
  none

/-- Words with OP = 0x66. -/
def decodeOp66 (w : W32) : Option Instr :=
  some (.kst ⟨w.getLsbD 31, w.extractLsb' 17 7, w.getLsbD 16, w.extractLsb' 9 7, w.getLsbD 8, w.extractLsb' 5 3, w.getLsbD 4, w.extractLsb' 0 4⟩)

/-- Words with OP = 0x67. -/
def decodeOp67 (w : W32) : Option Instr :=
  some (.krec ⟨w.getLsbD 31, w.extractLsb' 17 7, w.getLsbD 16, w.extractLsb' 9 7, w.getLsbD 8, w.extractLsb' 5 3, w.getLsbD 4, w.extractLsb' 0 4⟩)

/-- Words with OP = 0x68. -/
def decodeOp68 (w : W32) : Option Instr :=
  if w.extractLsb' 4 7 = 0#7 then some (.cpy ⟨w.getLsbD 31, w.extractLsb' 18 6, w.extractLsb' 12 6, w.getLsbD 11, w.extractLsb' 0 4⟩) else
  none

/-- Words with OP = 0x69. -/
def decodeOp69 (w : W32) : Option Instr :=
  some (.cpyq ⟨w.getLsbD 31, w.extractLsb' 18 6, w.extractLsb' 12 6, w.getLsbD 11, w.extractLsb' 5 6, w.getLsbD 4, w.extractLsb' 0 4⟩)

/-- Words with OP = 0x6A. -/
def decodeOp6A (w : W32) : Option Instr :=
  if w.extractLsb' 0 4 = 0#4 then some (.cwait ⟨w.getLsbD 31, w.extractLsb' 18 6, w.extractLsb' 12 6, w.getLsbD 11, w.extractLsb' 5 6, w.getLsbD 4⟩) else
  none

/-- Words with OP = 0x6B. -/
def decodeOp6B (w : W32) : Option Instr :=
  some (.ctest ⟨w.getLsbD 31, w.extractLsb' 18 6, w.extractLsb' 12 6, w.getLsbD 11, w.extractLsb' 5 6, w.getLsbD 4, w.extractLsb' 0 4⟩)

/-- Words with OP = 0x6C. -/
def decodeOp6C (w : W32) : Option Instr :=
  if w.extractLsb' 4 7 = 0#7 then some (.ccancel ⟨w.getLsbD 31, w.extractLsb' 18 6, w.extractLsb' 12 6, w.getLsbD 11, w.extractLsb' 0 4⟩) else
  none

/-- Words with OP = 0x6D. -/
def decodeOp6D (w : W32) : Option Instr :=
  if w.extractLsb' 4 7 = 0#7 then some (.mma ⟨w.getLsbD 31, w.extractLsb' 18 6, w.extractLsb' 12 6, w.getLsbD 11, w.extractLsb' 0 4⟩) else
  none

/-- Words with OP = 0x6E. -/
def decodeOp6E (w : W32) : Option Instr :=
  some (.mrdy ⟨w.getLsbD 31, w.extractLsb' 18 6, w.extractLsb' 12 6, w.getLsbD 11, w.extractLsb' 5 6, w.getLsbD 4, w.extractLsb' 0 4⟩)

/-- Words with OP = 0x6F. -/
def decodeOp6F (w : W32) : Option Instr :=
  if w.extractLsb' 0 11 = 0#11 then some (.mwait ⟨w.getLsbD 31, w.extractLsb' 18 6, w.extractLsb' 12 6, w.getLsbD 11⟩) else
  none

/-- Words with OP = 0x70. -/
def decodeOp70 (w : W32) : Option Instr :=
  some (.macc ⟨w.getLsbD 31, w.extractLsb' 18 6, w.extractLsb' 12 6, w.getLsbD 11, w.extractLsb' 5 6, w.getLsbD 4, w.extractLsb' 0 4⟩)

/-- Words with OP = 0x71. -/
def decodeOp71 (w : W32) : Option Instr :=
  if w.extractLsb' 4 7 = 0#7 then some (.mstat ⟨w.getLsbD 31, w.extractLsb' 18 6, w.extractLsb' 12 6, w.getLsbD 11, w.extractLsb' 0 4⟩) else
  none

/-- Words with OP = 0x72. -/
def decodeOp72 (w : W32) : Option Instr :=
  if w.extractLsb' 17 7 = 0#7 ∧ w.getLsbD 0 = false then some (.wload ⟨w.getLsbD 31, w.getLsbD 16, w.extractLsb' 9 7, w.extractLsb' 3 6, w.extractLsb' 1 2⟩) else
  if w.extractLsb' 17 7 = 0#7 ∧ w.getLsbD 0 = true then some (.wloadScratch ⟨w.getLsbD 31, w.getLsbD 16, w.extractLsb' 9 7, w.extractLsb' 3 6, w.extractLsb' 1 2⟩) else
  none

/-- Words with OP = 0x73. -/
def decodeOp73 (w : W32) : Option Instr :=
  if w.extractLsb' 3 6 = 0#6 then some (.wupd ⟨w.getLsbD 31, w.extractLsb' 17 7, w.getLsbD 16, w.extractLsb' 9 7, w.extractLsb' 1 2, w.getLsbD 0⟩) else
  none

/-- Words with OP = 0x74. -/
def decodeOp74 (w : W32) : Option Instr :=
  if w.extractLsb' 3 6 = 0#6 ∧ w.getLsbD 0 = false then some (.wqry ⟨w.getLsbD 31, w.extractLsb' 17 7, w.getLsbD 16, w.extractLsb' 9 7, w.extractLsb' 1 2⟩) else
  if w.extractLsb' 3 6 = 0#6 ∧ w.getLsbD 0 = true then some (.wqryExcl ⟨w.getLsbD 31, w.extractLsb' 17 7, w.getLsbD 16, w.extractLsb' 9 7, w.extractLsb' 1 2⟩) else
  none

/-- Words with OP = 0x75. -/
def decodeOp75 (w : W32) : Option Instr :=
  if w.extractLsb' 6 3 = 0#3 ∧ w.getLsbD 0 = false then some (.wfind ⟨w.getLsbD 31, w.extractLsb' 17 7, w.getLsbD 16, w.extractLsb' 9 7, w.extractLsb' 3 3, w.extractLsb' 1 2⟩) else
  none

/-- Words with OP = 0x76. -/
def decodeOp76 (w : W32) : Option Instr :=
  if w.extractLsb' 3 6 = 0#6 ∧ w.getLsbD 0 = false then some (.wcut ⟨w.getLsbD 31, w.extractLsb' 17 7, w.getLsbD 16, w.extractLsb' 9 7, w.extractLsb' 1 2⟩) else
  none

/-- Words with OP = 0x77. -/
def decodeOp77 (w : W32) : Option Instr :=
  if w.extractLsb' 3 14 = 0#14 ∧ w.getLsbD 0 = false then some (.wopRoot ⟨w.getLsbD 31, w.extractLsb' 17 7, w.extractLsb' 1 2⟩) else
  if w.extractLsb' 3 21 = 1#21 ∧ w.getLsbD 0 = false then some (.wopClear ⟨w.getLsbD 31, w.extractLsb' 1 2⟩) else
  if w.extractLsb' 3 6 = 2#6 ∧ w.getLsbD 0 = false then some (.wopGet ⟨w.getLsbD 31, w.extractLsb' 17 7, w.getLsbD 16, w.extractLsb' 9 7, w.extractLsb' 1 2⟩) else
  if w.extractLsb' 3 6 = 3#6 then some (.wopSet ⟨w.getLsbD 31, w.extractLsb' 17 7, w.getLsbD 16, w.extractLsb' 9 7, w.extractLsb' 1 2, w.getLsbD 0⟩) else
  if w.extractLsb' 17 7 = 0#7 ∧ w.extractLsb' 14 2 = 3#2 ∧ w.extractLsb' 3 6 = 4#6 ∧ w.getLsbD 0 = false then some (.wopSave ⟨w.getLsbD 31, w.getLsbD 16, w.extractLsb' 9 5, w.extractLsb' 1 2⟩) else
  if w.extractLsb' 17 7 = 0#7 ∧ w.extractLsb' 14 2 = 3#2 ∧ w.extractLsb' 3 6 = 5#6 ∧ w.getLsbD 0 = false then some (.wopRestore ⟨w.getLsbD 31, w.getLsbD 16, w.extractLsb' 9 5, w.extractLsb' 1 2⟩) else
  if w.extractLsb' 3 14 = 6#14 ∧ w.getLsbD 0 = false then some (.wopStat ⟨w.getLsbD 31, w.extractLsb' 17 7, w.extractLsb' 1 2⟩) else
  if w.extractLsb' 3 14 = 7#14 ∧ w.getLsbD 0 = false then some (.wopCutptr ⟨w.getLsbD 31, w.extractLsb' 17 7, w.extractLsb' 1 2⟩) else
  none

/-- Words with OP = 0x78. -/
def decodeOp78 (w : W32) : Option Instr :=
  if w.extractLsb' 4 7 = 0#7 then some (.nwake ⟨w.getLsbD 31, w.extractLsb' 18 6, w.extractLsb' 12 6, w.getLsbD 11, w.extractLsb' 0 4⟩) else
  none

/-- Words with OP = 0x79. -/
def decodeOp79 (w : W32) : Option Instr :=
  some (.nsig ⟨w.getLsbD 31, w.extractLsb' 18 6, w.extractLsb' 12 6, w.getLsbD 11, w.extractLsb' 5 6, w.getLsbD 4, w.extractLsb' 0 4⟩)

/-- Words with OP = 0x7A. -/
noncomputable def decodeOp7A (w : W32) : Option Instr :=
  some (.ndep ⟨w.getLsbD 31, w.extractLsb' 18 6, w.extractLsb' 12 6, w.getLsbD 11, w.extractLsb' 5 6, w.getLsbD 4, w.extractLsb' 0 4⟩)

/-- Words with OP = 0x7B. -/
noncomputable def decodeOp7B (w : W32) : Option Instr :=
  if w.getLsbD 18 = false ∧ w.extractLsb' 0 4 = 0#4 then some (.njoin ⟨w.getLsbD 31, w.extractLsb' 19 5, w.extractLsb' 12 6, w.getLsbD 11, w.extractLsb' 5 6, w.getLsbD 4⟩) else
  none

/-- Words with OP = 0x7C. -/
noncomputable def decodeOp7C (w : W32) : Option Instr :=
  if w.extractLsb' 0 11 = 0#11 then some (.nwait ⟨w.getLsbD 31, w.extractLsb' 18 6, w.extractLsb' 12 6, w.getLsbD 11⟩) else
  none

/-- Words with OP = 0x7D. -/
noncomputable def decodeOp7D (w : W32) : Option Instr :=
  if w.extractLsb' 18 6 = 0#6 ∧ w.extractLsb' 0 11 = 0#11 then some (.barInit ⟨w.getLsbD 31, w.getLsbD 17, w.extractLsb' 11 6⟩) else
  if w.extractLsb' 0 11 = 1#11 then some (.barArv ⟨w.getLsbD 31, w.extractLsb' 18 6, w.getLsbD 17, w.extractLsb' 11 6⟩) else
  if w.extractLsb' 18 6 = 0#6 ∧ w.extractLsb' 0 11 = 2#11 then some (.barWait ⟨w.getLsbD 31, w.getLsbD 17, w.extractLsb' 11 6⟩) else
  if w.extractLsb' 18 6 = 0#6 ∧ w.extractLsb' 0 11 = 3#11 then some (.barSync ⟨w.getLsbD 31, w.getLsbD 17, w.extractLsb' 11 6⟩) else
  if w.extractLsb' 0 11 = 4#11 then some (.barFarv ⟨w.getLsbD 31, w.extractLsb' 18 6, w.getLsbD 17, w.extractLsb' 11 6⟩) else
  if w.extractLsb' 18 6 = 0#6 ∧ w.extractLsb' 0 11 = 5#11 then some (.barFwait ⟨w.getLsbD 31, w.getLsbD 17, w.extractLsb' 11 6⟩) else
  if w.extractLsb' 18 6 = 0#6 ∧ w.extractLsb' 0 11 = 6#11 then some (.barFsync ⟨w.getLsbD 31, w.getLsbD 17, w.extractLsb' 11 6⟩) else
  if w.extractLsb' 0 11 = 7#11 then some (.barTest ⟨w.getLsbD 31, w.extractLsb' 18 6, w.getLsbD 17, w.extractLsb' 11 6⟩) else
  none

/-- Words with OP = 0x7E. -/
noncomputable def decodeOp7E (w : W32) : Option Instr :=
  if w.extractLsb' 18 6 = 0#6 ∧ w.extractLsb' 0 11 = 0#11 then some (.bandInit ⟨w.getLsbD 31, w.getLsbD 17, w.extractLsb' 11 6⟩) else
  if w.extractLsb' 18 6 = 0#6 ∧ w.extractLsb' 0 11 = 1#11 then some (.bandPut ⟨w.getLsbD 31, w.getLsbD 17, w.extractLsb' 11 6⟩) else
  if w.extractLsb' 18 6 = 0#6 ∧ w.extractLsb' 0 11 = 2#11 then some (.bandTake ⟨w.getLsbD 31, w.getLsbD 17, w.extractLsb' 11 6⟩) else
  if w.extractLsb' 18 6 = 0#6 ∧ w.extractLsb' 0 11 = 3#11 then some (.bandDone ⟨w.getLsbD 31, w.getLsbD 17, w.extractLsb' 11 6⟩) else
  if w.extractLsb' 0 11 = 4#11 then some (.bandTest ⟨w.getLsbD 31, w.extractLsb' 18 6, w.getLsbD 17, w.extractLsb' 11 6⟩) else
  none

/-- The row of the opcode map (R37) that OP selects. -/
noncomputable def decodeRow : Nat → W32 → Option Instr
  | 0x01, w => decodeOp01 w
  | 0x02, w => decodeOp02 w
  | 0x03, w => decodeOp03 w
  | 0x04, w => decodeOp04 w
  | 0x05, w => decodeOp05 w
  | 0x06, w => decodeOp06 w
  | 0x07, w => decodeOp07 w
  | 0x08, w => decodeOp08 w
  | 0x09, w => decodeOp09 w
  | 0x0A, w => decodeOp0A w
  | 0x0B, w => decodeOp0B w
  | 0x0C, w => decodeOp0C w
  | 0x10, w => decodeOp10 w
  | 0x11, w => decodeOp11 w
  | 0x12, w => decodeOp12 w
  | 0x13, w => decodeOp13 w
  | 0x14, w => decodeOp14 w
  | 0x15, w => decodeOp15 w
  | 0x16, w => decodeOp16 w
  | 0x17, w => decodeOp17 w
  | 0x18, w => decodeOp18 w
  | 0x19, w => decodeOp19 w
  | 0x1A, w => decodeOp1A w
  | 0x1B, w => decodeOp1B w
  | 0x1C, w => decodeOp1C w
  | 0x1D, w => decodeOp1D w
  | 0x1E, w => decodeOp1E w
  | 0x20, w => decodeOp20 w
  | 0x21, w => decodeOp21 w
  | 0x22, w => decodeOp22 w
  | 0x23, w => decodeOp23 w
  | 0x24, w => decodeOp24 w
  | 0x25, w => decodeOp25 w
  | 0x26, w => decodeOp26 w
  | 0x27, w => decodeOp27 w
  | 0x28, w => decodeOp28 w
  | 0x29, w => decodeOp29 w
  | 0x2A, w => decodeOp2A w
  | 0x2B, w => decodeOp2B w
  | 0x2C, w => decodeOp2C w
  | 0x2D, w => decodeOp2D w
  | 0x2E, w => decodeOp2E w
  | 0x2F, w => decodeOp2F w
  | 0x30, w => decodeOp30 w
  | 0x31, w => decodeOp31 w
  | 0x32, w => decodeOp32 w
  | 0x33, w => decodeOp33 w
  | 0x34, w => decodeOp34 w
  | 0x35, w => decodeOp35 w
  | 0x36, w => decodeOp36 w
  | 0x37, w => decodeOp37 w
  | 0x38, w => decodeOp38 w
  | 0x39, w => decodeOp39 w
  | 0x3A, w => decodeOp3A w
  | 0x3B, w => decodeOp3B w
  | 0x3C, w => decodeOp3C w
  | 0x3D, w => decodeOp3D w
  | 0x3E, w => decodeOp3E w
  | 0x3F, w => decodeOp3F w
  | 0x40, w => decodeOp40 w
  | 0x41, w => decodeOp41 w
  | 0x42, w => decodeOp42 w
  | 0x43, w => decodeOp43 w
  | 0x44, w => decodeOp44 w
  | 0x45, w => decodeOp45 w
  | 0x46, w => decodeOp46 w
  | 0x47, w => decodeOp47 w
  | 0x48, w => decodeOp48 w
  | 0x49, w => decodeOp49 w
  | 0x4A, w => decodeOp4A w
  | 0x50, w => decodeOp50 w
  | 0x51, w => decodeOp51 w
  | 0x52, w => decodeOp52 w
  | 0x53, w => decodeOp53 w
  | 0x54, w => decodeOp54 w
  | 0x55, w => decodeOp55 w
  | 0x56, w => decodeOp56 w
  | 0x57, w => decodeOp57 w
  | 0x58, w => decodeOp58 w
  | 0x59, w => decodeOp59 w
  | 0x5A, w => decodeOp5A w
  | 0x5B, w => decodeOp5B w
  | 0x5C, w => decodeOp5C w
  | 0x5D, w => decodeOp5D w
  | 0x5E, w => decodeOp5E w
  | 0x5F, w => decodeOp5F w
  | 0x60, w => decodeOp60 w
  | 0x61, w => decodeOp61 w
  | 0x62, w => decodeOp62 w
  | 0x63, w => decodeOp63 w
  | 0x64, w => decodeOp64 w
  | 0x65, w => decodeOp65 w
  | 0x66, w => decodeOp66 w
  | 0x67, w => decodeOp67 w
  | 0x68, w => decodeOp68 w
  | 0x69, w => decodeOp69 w
  | 0x6A, w => decodeOp6A w
  | 0x6B, w => decodeOp6B w
  | 0x6C, w => decodeOp6C w
  | 0x6D, w => decodeOp6D w
  | 0x6E, w => decodeOp6E w
  | 0x6F, w => decodeOp6F w
  | 0x70, w => decodeOp70 w
  | 0x71, w => decodeOp71 w
  | 0x72, w => decodeOp72 w
  | 0x73, w => decodeOp73 w
  | 0x74, w => decodeOp74 w
  | 0x75, w => decodeOp75 w
  | 0x76, w => decodeOp76 w
  | 0x77, w => decodeOp77 w
  | 0x78, w => decodeOp78 w
  | 0x79, w => decodeOp79 w
  | 0x7A, w => decodeOp7A w
  | 0x7B, w => decodeOp7B w
  | 0x7C, w => decodeOp7C w
  | 0x7D, w => decodeOp7D w
  | 0x7E, w => decodeOp7E w
  | _, _ => none

-- DEDUCED: log 94
/-- The instruction of a word, `none` where the word is reserved (R40). -/
noncomputable def decode (w : W32) : Option Instr :=
  (decodeRow (w.extractLsb' 24 7).toNat w).filter Instr.wf

/-- The instruction of a word of the opcode table, its bits numbered as the table numbers them. -/
noncomputable def decodeTableWord (nbits w : Nat) : Option Instr :=
  if nbits ≤ 32 then decode (BitVec.ofNat 32 (w % 2 ^ nbits)) else none

/-- The word of an instruction; no word for the steps that carry none. -/
def encodeWord : Instr → Option W32
  | .himm f => some (16#12 ++ f.h)
  | .hpred f => some (17#12 ++ f.p ++ BitVec.ofBool f.s ++ f.c ++ 0#13)
  | .hmode f => some (18#12 ++ BitVec.ofBool f.v ++ f.r ++ BitVec.ofBool f.s ++ BitVec.ofBool f.f ++ f.m ++ 0#12)
  | .hord f => some (19#12 ++ f.o ++ f.c ++ 0#14)
  | .hcache f => some (20#12 ++ f.p ++ 0#18)
  | .htype f => some (21#12 ++ f.t ++ 0#15)
  | .bra f => some (BitVec.ofBool f.z ++ 2#7 ++ BitVec.ofBool f.u ++ f.p ++ BitVec.ofBool f.s ++ f.o)
  | .call f => some (BitVec.ofBool f.z ++ 3#7 ++ BitVec.ofBool f.u ++ f.p ++ BitVec.ofBool f.s ++ f.o)
  | .ret f => some (BitVec.ofBool f.z ++ 67108864#31)
  | .jmpi f => some (BitVec.ofBool f.z ++ 256#13 ++ BitVec.ofBool f.l ++ f.a ++ 1#11)
  | .exit f => some (BitVec.ofBool f.z ++ 67108866#31)
  | .yield f => some (BitVec.ofBool f.z ++ 67108867#31)
  | .sleep f => some (BitVec.ofBool f.z ++ 256#13 ++ BitVec.ofBool f.l ++ f.a ++ 4#11)
  | .nop f => some (BitVec.ofBool f.z ++ 67108869#31)
  | .bkpt f => some (BitVec.ofBool f.z ++ 67108870#31)
  | .trap f => some (BitVec.ofBool f.z ++ 256#13 ++ BitVec.ofBool f.l ++ f.a ++ 7#11)
  | .trapret f => some (BitVec.ofBool f.z ++ 67108872#31)
  | .drain f => some (BitVec.ofBool f.z ++ 67108873#31)
  | .loop f => some (BitVec.ofBool f.z ++ 320#13 ++ BitVec.ofBool f.l ++ f.a ++ f.i)
  | .csrr f => some (BitVec.ofBool f.z ++ 6#7 ++ f.d ++ 0#7 ++ f.i)
  | .csrw f => some (BitVec.ofBool f.z ++ 448#13 ++ BitVec.ofBool f.l ++ f.a ++ f.i)
  | .tlaunch f => some (BitVec.ofBool f.z ++ 8#7 ++ f.t ++ f.p ++ BitVec.ofBool f.l ++ f.q ++ BitVec.ofBool f.k ++ f.h)
  | .tsucc f => some (BitVec.ofBool f.z ++ 9#7 ++ f.t ++ f.p ++ BitVec.ofBool f.l ++ f.q ++ BitVec.ofBool f.k ++ f.h)
  | .icinv f => some (BitVec.ofBool f.z ++ 10#7 ++ f.t ++ f.p ++ BitVec.ofBool f.l ++ f.q ++ BitVec.ofBool f.k ++ f.h)
  | .ifence f => some (BitVec.ofBool f.z ++ 184549376#31)
  | .fence f => some (BitVec.ofBool f.z ++ 201326592#31)
  | .salu0Add f => some (BitVec.ofBool f.z ++ 16#7 ++ f.d ++ BitVec.ofBool f.l ++ f.a ++ BitVec.ofBool f.m ++ f.b ++ 0#4)
  | .salu0Sub f => some (BitVec.ofBool f.z ++ 16#7 ++ f.d ++ BitVec.ofBool f.l ++ f.a ++ BitVec.ofBool f.m ++ f.b ++ 1#4)
  | .salu0And f => some (BitVec.ofBool f.z ++ 16#7 ++ f.d ++ BitVec.ofBool f.l ++ f.a ++ BitVec.ofBool f.m ++ f.b ++ 2#4)
  | .salu0Or f => some (BitVec.ofBool f.z ++ 16#7 ++ f.d ++ BitVec.ofBool f.l ++ f.a ++ BitVec.ofBool f.m ++ f.b ++ 3#4)
  | .salu0Xor f => some (BitVec.ofBool f.z ++ 16#7 ++ f.d ++ BitVec.ofBool f.l ++ f.a ++ BitVec.ofBool f.m ++ f.b ++ 4#4)
  | .salu0Andn f => some (BitVec.ofBool f.z ++ 16#7 ++ f.d ++ BitVec.ofBool f.l ++ f.a ++ BitVec.ofBool f.m ++ f.b ++ 5#4)
  | .salu0Shl f => some (BitVec.ofBool f.z ++ 16#7 ++ f.d ++ BitVec.ofBool f.l ++ f.a ++ BitVec.ofBool f.m ++ f.b ++ 6#4)
  | .salu0Shr f => some (BitVec.ofBool f.z ++ 16#7 ++ f.d ++ BitVec.ofBool f.l ++ f.a ++ BitVec.ofBool f.m ++ f.b ++ 7#4)
  | .salu0Sar f => some (BitVec.ofBool f.z ++ 16#7 ++ f.d ++ BitVec.ofBool f.l ++ f.a ++ BitVec.ofBool f.m ++ f.b ++ 8#4)
  | .rotl f => some (BitVec.ofBool f.z ++ 16#7 ++ f.d ++ BitVec.ofBool f.l ++ f.a ++ BitVec.ofBool f.m ++ f.b ++ 9#4)
  | .salu0Min f => some (BitVec.ofBool f.z ++ 16#7 ++ f.d ++ BitVec.ofBool f.l ++ f.a ++ BitVec.ofBool f.m ++ f.b ++ 10#4)
  | .salu0Max f => some (BitVec.ofBool f.z ++ 16#7 ++ f.d ++ BitVec.ofBool f.l ++ f.a ++ BitVec.ofBool f.m ++ f.b ++ 11#4)
  | .minn f => some (BitVec.ofBool f.z ++ 16#7 ++ f.d ++ BitVec.ofBool f.l ++ f.a ++ BitVec.ofBool f.m ++ f.b ++ 12#4)
  | .maxn f => some (BitVec.ofBool f.z ++ 16#7 ++ f.d ++ BitVec.ofBool f.l ++ f.a ++ BitVec.ofBool f.m ++ f.b ++ 13#4)
  | .salu0Mov f => some (BitVec.ofBool f.z ++ 16#7 ++ f.d ++ BitVec.ofBool f.l ++ f.a ++ 14#11)
  | .mul f => some (BitVec.ofBool f.z ++ 17#7 ++ f.d ++ BitVec.ofBool f.l ++ f.a ++ BitVec.ofBool f.m ++ f.b ++ 0#4)
  | .mulh f => some (BitVec.ofBool f.z ++ 17#7 ++ f.d ++ BitVec.ofBool f.l ++ f.a ++ BitVec.ofBool f.m ++ f.b ++ 1#4)
  | .mulhn f => some (BitVec.ofBool f.z ++ 17#7 ++ f.d ++ BitVec.ofBool f.l ++ f.a ++ BitVec.ofBool f.m ++ f.b ++ 2#4)
  | .div f => some (BitVec.ofBool f.z ++ 17#7 ++ f.d ++ BitVec.ofBool f.l ++ f.a ++ BitVec.ofBool f.m ++ f.b ++ 3#4)
  | .divn f => some (BitVec.ofBool f.z ++ 17#7 ++ f.d ++ BitVec.ofBool f.l ++ f.a ++ BitVec.ofBool f.m ++ f.b ++ 4#4)
  | .rem f => some (BitVec.ofBool f.z ++ 17#7 ++ f.d ++ BitVec.ofBool f.l ++ f.a ++ BitVec.ofBool f.m ++ f.b ++ 5#4)
  | .remn f => some (BitVec.ofBool f.z ++ 17#7 ++ f.d ++ BitVec.ofBool f.l ++ f.a ++ BitVec.ofBool f.m ++ f.b ++ 6#4)
  | .popc f => some (BitVec.ofBool f.z ++ 17#7 ++ f.d ++ BitVec.ofBool f.l ++ f.a ++ 7#11)
  | .clz f => some (BitVec.ofBool f.z ++ 17#7 ++ f.d ++ BitVec.ofBool f.l ++ f.a ++ 8#11)
  | .ctz f => some (BitVec.ofBool f.z ++ 17#7 ++ f.d ++ BitVec.ofBool f.l ++ f.a ++ 9#11)
  | .brev f => some (BitVec.ofBool f.z ++ 17#7 ++ f.d ++ BitVec.ofBool f.l ++ f.a ++ 10#11)
  | .bfe f => some (BitVec.ofBool f.z ++ 17#7 ++ f.d ++ BitVec.ofBool f.l ++ f.a ++ BitVec.ofBool f.m ++ f.b ++ 11#4)
  | .bfi f => some (BitVec.ofBool f.z ++ 17#7 ++ f.d ++ BitVec.ofBool f.l ++ f.a ++ BitVec.ofBool f.m ++ f.b ++ 12#4)
  | .abs f => some (BitVec.ofBool f.z ++ 17#7 ++ f.d ++ BitVec.ofBool f.l ++ f.a ++ 13#11)
  | .neg f => some (BitVec.ofBool f.z ++ 17#7 ++ f.d ++ BitVec.ofBool f.l ++ f.a ++ 14#11)
  | .scmp f => some (BitVec.ofBool f.z ++ 144#10 ++ f.p ++ BitVec.ofBool f.l ++ f.a ++ BitVec.ofBool f.m ++ f.b ++ f.c)
  | .addi f => some (BitVec.ofBool f.z ++ 19#7 ++ f.d ++ BitVec.ofBool f.l ++ f.a ++ f.i)
  | .andi f => some (BitVec.ofBool f.z ++ 20#7 ++ f.d ++ BitVec.ofBool f.l ++ f.a ++ f.i)
  | .ori f => some (BitVec.ofBool f.z ++ 21#7 ++ f.d ++ BitVec.ofBool f.l ++ f.a ++ f.i)
  | .xori f => some (BitVec.ofBool f.z ++ 22#7 ++ f.d ++ BitVec.ofBool f.l ++ f.a ++ f.i)
  | .shli f => some (BitVec.ofBool f.z ++ 23#7 ++ f.d ++ BitVec.ofBool f.l ++ f.a ++ 0#5 ++ f.n)
  | .shri f => some (BitVec.ofBool f.z ++ 23#7 ++ f.d ++ BitVec.ofBool f.l ++ f.a ++ 8#5 ++ f.n)
  | .sari f => some (BitVec.ofBool f.z ++ 23#7 ++ f.d ++ BitVec.ofBool f.l ++ f.a ++ 16#5 ++ f.n)
  | .rotli f => some (BitVec.ofBool f.z ++ 23#7 ++ f.d ++ BitVec.ofBool f.l ++ f.a ++ 24#5 ++ f.n)
  | .movi f => some (BitVec.ofBool f.z ++ 24#7 ++ f.d ++ 0#7 ++ f.i)
  | .lea f => some (BitVec.ofBool f.z ++ 25#7 ++ f.d ++ 0#7 ++ f.i)
  | .vgive f => some (BitVec.ofBool f.z ++ 26#7 ++ f.d ++ 0#7 ++ f.n)
  | .vclaim f => some (BitVec.ofBool f.z ++ 27#7 ++ f.d ++ 0#7 ++ f.n)
  | .vfree f => some (BitVec.ofBool f.z ++ 229376#20 ++ f.c ++ f.f)
  | .vstat f => some (BitVec.ofBool f.z ++ 29#7 ++ f.d ++ 0#7 ++ f.k)
  | .vmovs f => some (BitVec.ofBool f.z ++ 123#9 ++ f.d ++ BitVec.ofBool f.l ++ f.a ++ 0#1 ++ f.k ++ 0#1)
  | .vmovsFirst f => some (BitVec.ofBool f.z ++ 123#9 ++ f.d ++ BitVec.ofBool f.l ++ f.a ++ 256#9)
  | .vmovsD f => some (BitVec.ofBool f.z ++ 123#9 ++ f.d ++ BitVec.ofBool f.l ++ f.a ++ 0#1 ++ f.k ++ 1#1)
  | .vmovsFirstD f => some (BitVec.ofBool f.z ++ 123#9 ++ f.d ++ BitVec.ofBool f.l ++ f.a ++ 257#9)
  | .iadd f => some (BitVec.ofBool f.z ++ 32#7 ++ f.d ++ BitVec.ofBool f.l ++ f.a ++ BitVec.ofBool f.m ++ f.b ++ 0#1)
  | .isub f => some (BitVec.ofBool f.z ++ 33#7 ++ f.d ++ BitVec.ofBool f.l ++ f.a ++ BitVec.ofBool f.m ++ f.b ++ 0#1)
  | .imul f => some (BitVec.ofBool f.z ++ 34#7 ++ f.d ++ BitVec.ofBool f.l ++ f.a ++ BitVec.ofBool f.m ++ f.b ++ 0#1)
  | .imulh f => some (BitVec.ofBool f.z ++ 34#7 ++ f.d ++ BitVec.ofBool f.l ++ f.a ++ BitVec.ofBool f.m ++ f.b ++ 1#1)
  | .imad f => some (BitVec.ofBool f.z ++ 35#7 ++ f.d ++ BitVec.ofBool f.l ++ f.a ++ BitVec.ofBool f.m ++ f.b ++ 0#1)
  | .idiv f => some (BitVec.ofBool f.z ++ 36#7 ++ f.d ++ BitVec.ofBool f.l ++ f.a ++ BitVec.ofBool f.m ++ f.b ++ 0#1)
  | .irem f => some (BitVec.ofBool f.z ++ 37#7 ++ f.d ++ BitVec.ofBool f.l ++ f.a ++ BitVec.ofBool f.m ++ f.b ++ 0#1)
  | .imin f => some (BitVec.ofBool f.z ++ 38#7 ++ f.d ++ BitVec.ofBool f.l ++ f.a ++ BitVec.ofBool f.m ++ f.b ++ 0#1)
  | .imax f => some (BitVec.ofBool f.z ++ 39#7 ++ f.d ++ BitVec.ofBool f.l ++ f.a ++ BitVec.ofBool f.m ++ f.b ++ 0#1)
  | .and f => some (BitVec.ofBool f.z ++ 40#7 ++ f.d ++ BitVec.ofBool f.l ++ f.a ++ BitVec.ofBool f.m ++ f.b ++ 0#1)
  | .andn f => some (BitVec.ofBool f.z ++ 40#7 ++ f.d ++ BitVec.ofBool f.l ++ f.a ++ BitVec.ofBool f.m ++ f.b ++ 1#1)
  | .or f => some (BitVec.ofBool f.z ++ 41#7 ++ f.d ++ BitVec.ofBool f.l ++ f.a ++ BitVec.ofBool f.m ++ f.b ++ 0#1)
  | .orn f => some (BitVec.ofBool f.z ++ 41#7 ++ f.d ++ BitVec.ofBool f.l ++ f.a ++ BitVec.ofBool f.m ++ f.b ++ 1#1)
  | .xor f => some (BitVec.ofBool f.z ++ 42#7 ++ f.d ++ BitVec.ofBool f.l ++ f.a ++ BitVec.ofBool f.m ++ f.b ++ 0#1)
  | .xnor f => some (BitVec.ofBool f.z ++ 42#7 ++ f.d ++ BitVec.ofBool f.l ++ f.a ++ BitVec.ofBool f.m ++ f.b ++ 1#1)
  | .shl f => some (BitVec.ofBool f.z ++ 43#7 ++ f.d ++ BitVec.ofBool f.l ++ f.a ++ BitVec.ofBool f.m ++ f.b ++ 0#1)
  | .shr f => some (BitVec.ofBool f.z ++ 44#7 ++ f.d ++ BitVec.ofBool f.l ++ f.a ++ BitVec.ofBool f.m ++ f.b ++ 0#1)
  | .sar f => some (BitVec.ofBool f.z ++ 44#7 ++ f.d ++ BitVec.ofBool f.l ++ f.a ++ BitVec.ofBool f.m ++ f.b ++ 1#1)
  | .icmp f => some (BitVec.ofBool f.z ++ 45#7 ++ f.c ++ f.p ++ BitVec.ofBool f.l ++ f.a ++ BitVec.ofBool f.m ++ f.b ++ 0#1)
  | .icmpand f => some (BitVec.ofBool f.z ++ 45#7 ++ f.c ++ f.p ++ BitVec.ofBool f.l ++ f.a ++ BitVec.ofBool f.m ++ f.b ++ 1#1)
  | .sel f => some (BitVec.ofBool f.z ++ 46#7 ++ f.d ++ BitVec.ofBool f.l ++ f.a ++ BitVec.ofBool f.m ++ f.b ++ 0#1)
  | .selNotP0 f => some (BitVec.ofBool f.z ++ 46#7 ++ f.d ++ BitVec.ofBool f.l ++ f.a ++ BitVec.ofBool f.m ++ f.b ++ 1#1)
  | .iaddi f => some (BitVec.ofBool f.z ++ 47#7 ++ f.d ++ BitVec.ofBool f.l ++ f.a ++ f.i ++ 0#1)
  | .fadd f => some (BitVec.ofBool f.z ++ 48#7 ++ f.d ++ BitVec.ofBool f.l ++ f.a ++ BitVec.ofBool f.m ++ f.b ++ 0#1)
  | .fsub f => some (BitVec.ofBool f.z ++ 49#7 ++ f.d ++ BitVec.ofBool f.l ++ f.a ++ BitVec.ofBool f.m ++ f.b ++ 0#1)
  | .fmul f => some (BitVec.ofBool f.z ++ 50#7 ++ f.d ++ BitVec.ofBool f.l ++ f.a ++ BitVec.ofBool f.m ++ f.b ++ 0#1)
  | .ffma f => some (BitVec.ofBool f.z ++ 51#7 ++ f.d ++ BitVec.ofBool f.l ++ f.a ++ BitVec.ofBool f.m ++ f.b ++ 0#1)
  | .fnma f => some (BitVec.ofBool f.z ++ 51#7 ++ f.d ++ BitVec.ofBool f.l ++ f.a ++ BitVec.ofBool f.m ++ f.b ++ 1#1)
  | .fmin f => some (BitVec.ofBool f.z ++ 52#7 ++ f.d ++ BitVec.ofBool f.l ++ f.a ++ BitVec.ofBool f.m ++ f.b ++ 0#1)
  | .fminnan f => some (BitVec.ofBool f.z ++ 52#7 ++ f.d ++ BitVec.ofBool f.l ++ f.a ++ BitVec.ofBool f.m ++ f.b ++ 1#1)
  | .fmax f => some (BitVec.ofBool f.z ++ 53#7 ++ f.d ++ BitVec.ofBool f.l ++ f.a ++ BitVec.ofBool f.m ++ f.b ++ 0#1)
  | .fmaxnan f => some (BitVec.ofBool f.z ++ 53#7 ++ f.d ++ BitVec.ofBool f.l ++ f.a ++ BitVec.ofBool f.m ++ f.b ++ 1#1)
  | .fcmp f => some (BitVec.ofBool f.z ++ 54#7 ++ f.c ++ f.p ++ BitVec.ofBool f.l ++ f.a ++ BitVec.ofBool f.m ++ f.b ++ 0#1)
  | .fcmpand f => some (BitVec.ofBool f.z ++ 54#7 ++ f.c ++ f.p ++ BitVec.ofBool f.l ++ f.a ++ BitVec.ofBool f.m ++ f.b ++ 1#1)
  | .fdiv f => some (BitVec.ofBool f.z ++ 55#7 ++ f.d ++ BitVec.ofBool f.l ++ f.a ++ BitVec.ofBool f.m ++ f.b ++ 0#1)
  | .funAbs f => some (BitVec.ofBool f.z ++ 56#7 ++ f.d ++ BitVec.ofBool f.l ++ f.a ++ 0#9)
  | .funNeg f => some (BitVec.ofBool f.z ++ 56#7 ++ f.d ++ BitVec.ofBool f.l ++ f.a ++ 2#9)
  | .funSqrt f => some (BitVec.ofBool f.z ++ 56#7 ++ f.d ++ BitVec.ofBool f.l ++ f.a ++ 4#9)
  | .funRcp f => some (BitVec.ofBool f.z ++ 56#7 ++ f.d ++ BitVec.ofBool f.l ++ f.a ++ 6#9)
  | .funRsq f => some (BitVec.ofBool f.z ++ 56#7 ++ f.d ++ BitVec.ofBool f.l ++ f.a ++ 8#9)
  | .funExp2 f => some (BitVec.ofBool f.z ++ 56#7 ++ f.d ++ BitVec.ofBool f.l ++ f.a ++ 10#9)
  | .funLog2 f => some (BitVec.ofBool f.z ++ 56#7 ++ f.d ++ BitVec.ofBool f.l ++ f.a ++ 12#9)
  | .funSin f => some (BitVec.ofBool f.z ++ 56#7 ++ f.d ++ BitVec.ofBool f.l ++ f.a ++ 14#9)
  | .funCos f => some (BitVec.ofBool f.z ++ 56#7 ++ f.d ++ BitVec.ofBool f.l ++ f.a ++ 16#9)
  | .funTanh f => some (BitVec.ofBool f.z ++ 56#7 ++ f.d ++ BitVec.ofBool f.l ++ f.a ++ 18#9)
  | .funFloor f => some (BitVec.ofBool f.z ++ 56#7 ++ f.d ++ BitVec.ofBool f.l ++ f.a ++ 20#9)
  | .funCeil f => some (BitVec.ofBool f.z ++ 56#7 ++ f.d ++ BitVec.ofBool f.l ++ f.a ++ 22#9)
  | .funTrunc f => some (BitVec.ofBool f.z ++ 56#7 ++ f.d ++ BitVec.ofBool f.l ++ f.a ++ 24#9)
  | .funRint f => some (BitVec.ofBool f.z ++ 56#7 ++ f.d ++ BitVec.ofBool f.l ++ f.a ++ 26#9)
  | .funFrac f => some (BitVec.ofBool f.z ++ 56#7 ++ f.d ++ BitVec.ofBool f.l ++ f.a ++ 28#9)
  | .dadd f => some (BitVec.ofBool f.z ++ 57#7 ++ f.d ++ BitVec.ofBool f.l ++ f.a ++ BitVec.ofBool f.m ++ f.b ++ 0#1)
  | .dsub f => some (BitVec.ofBool f.z ++ 57#7 ++ f.d ++ BitVec.ofBool f.l ++ f.a ++ BitVec.ofBool f.m ++ f.b ++ 1#1)
  | .dmul f => some (BitVec.ofBool f.z ++ 58#7 ++ f.d ++ BitVec.ofBool f.l ++ f.a ++ BitVec.ofBool f.m ++ f.b ++ 0#1)
  | .dfma f => some (BitVec.ofBool f.z ++ 59#7 ++ f.d ++ BitVec.ofBool f.l ++ f.a ++ BitVec.ofBool f.m ++ f.b ++ 0#1)
  | .dnma f => some (BitVec.ofBool f.z ++ 59#7 ++ f.d ++ BitVec.ofBool f.l ++ f.a ++ BitVec.ofBool f.m ++ f.b ++ 1#1)
  | .iunMov f => some (BitVec.ofBool f.z ++ 60#7 ++ f.d ++ BitVec.ofBool f.l ++ f.a ++ 0#9)
  | .iunNot f => some (BitVec.ofBool f.z ++ 60#7 ++ f.d ++ BitVec.ofBool f.l ++ f.a ++ 2#9)
  | .iunNeg f => some (BitVec.ofBool f.z ++ 60#7 ++ f.d ++ BitVec.ofBool f.l ++ f.a ++ 4#9)
  | .iunAbs f => some (BitVec.ofBool f.z ++ 60#7 ++ f.d ++ BitVec.ofBool f.l ++ f.a ++ 6#9)
  | .iunPopc f => some (BitVec.ofBool f.z ++ 60#7 ++ f.d ++ BitVec.ofBool f.l ++ f.a ++ 8#9)
  | .iunClz f => some (BitVec.ofBool f.z ++ 60#7 ++ f.d ++ BitVec.ofBool f.l ++ f.a ++ 10#9)
  | .iunCtz f => some (BitVec.ofBool f.z ++ 60#7 ++ f.d ++ BitVec.ofBool f.l ++ f.a ++ 12#9)
  | .iunBrev f => some (BitVec.ofBool f.z ++ 60#7 ++ f.d ++ BitVec.ofBool f.l ++ f.a ++ 14#9)
  | .iunBswap f => some (BitVec.ofBool f.z ++ 60#7 ++ f.d ++ BitVec.ofBool f.l ++ f.a ++ 16#9)
  | .iunXnib f => some (BitVec.ofBool f.z ++ 60#7 ++ f.d ++ BitVec.ofBool f.l ++ f.a ++ 2#5 ++ f.k ++ 0#1)
  | .iunXnibn f => some (BitVec.ofBool f.z ++ 60#7 ++ f.d ++ BitVec.ofBool f.l ++ f.a ++ 3#5 ++ f.k ++ 0#1)
  | .iunXbyte f => some (BitVec.ofBool f.z ++ 60#7 ++ f.d ++ BitVec.ofBool f.l ++ f.a ++ 8#6 ++ f.k ++ 0#1)
  | .iunXbyten f => some (BitVec.ofBool f.z ++ 60#7 ++ f.d ++ BitVec.ofBool f.l ++ f.a ++ 9#6 ++ f.k ++ 0#1)
  | .iunInsnib f => some (BitVec.ofBool f.z ++ 60#7 ++ f.d ++ BitVec.ofBool f.l ++ f.a ++ 6#5 ++ f.k ++ 0#1)
  | .dcmp f => some (BitVec.ofBool f.z ++ 61#7 ++ f.c ++ f.p ++ BitVec.ofBool f.l ++ f.a ++ BitVec.ofBool f.m ++ f.b ++ 0#1)
  | .dcmpand f => some (BitVec.ofBool f.z ++ 61#7 ++ f.c ++ f.p ++ BitVec.ofBool f.l ++ f.a ++ BitVec.ofBool f.m ++ f.b ++ 1#1)
  | .dunAbs f => some (BitVec.ofBool f.z ++ 62#7 ++ f.d ++ BitVec.ofBool f.l ++ f.a ++ 0#9)
  | .dunNeg f => some (BitVec.ofBool f.z ++ 62#7 ++ f.d ++ BitVec.ofBool f.l ++ f.a ++ 2#9)
  | .dunSqrt f => some (BitVec.ofBool f.z ++ 62#7 ++ f.d ++ BitVec.ofBool f.l ++ f.a ++ 4#9)
  | .dunFloor f => some (BitVec.ofBool f.z ++ 62#7 ++ f.d ++ BitVec.ofBool f.l ++ f.a ++ 6#9)
  | .dunCeil f => some (BitVec.ofBool f.z ++ 62#7 ++ f.d ++ BitVec.ofBool f.l ++ f.a ++ 8#9)
  | .dunTrunc f => some (BitVec.ofBool f.z ++ 62#7 ++ f.d ++ BitVec.ofBool f.l ++ f.a ++ 10#9)
  | .dunRint f => some (BitVec.ofBool f.z ++ 62#7 ++ f.d ++ BitVec.ofBool f.l ++ f.a ++ 12#9)
  | .ddiv f => some (BitVec.ofBool f.z ++ 63#7 ++ f.d ++ BitVec.ofBool f.l ++ f.a ++ BitVec.ofBool f.m ++ f.b ++ 0#1)
  | .cvt f => some (BitVec.ofBool f.z ++ 64#7 ++ f.d ++ BitVec.ofBool f.l ++ f.a ++ 0#1 ++ f.g ++ f.t ++ BitVec.ofBool f.u)
  | .cvtn f => some (BitVec.ofBool f.z ++ 65#7 ++ f.d ++ BitVec.ofBool f.l ++ f.a ++ 10#5 ++ f.c ++ 0#1)
  | .cvtb f => some (BitVec.ofBool f.z ++ 66#7 ++ f.d ++ BitVec.ofBool f.l ++ f.a ++ BitVec.ofBool f.m ++ 3#2 ++ f.c ++ 0#1)
  | .cvtbHdr f => some (BitVec.ofBool f.z ++ 66#7 ++ f.d ++ BitVec.ofBool f.l ++ f.a ++ BitVec.ofBool f.m ++ 3#2 ++ f.c ++ 1#1)
  | .cvtm f => some (BitVec.ofBool f.z ++ 67#7 ++ f.d ++ BitVec.ofBool f.l ++ f.a ++ f.k ++ 0#1)
  | .shflAbs f => some (BitVec.ofBool f.z ++ 68#7 ++ f.d ++ BitVec.ofBool f.l ++ f.a ++ BitVec.ofBool f.m ++ f.b ++ 0#1)
  | .shflRel f => some (BitVec.ofBool f.z ++ 68#7 ++ f.d ++ BitVec.ofBool f.l ++ f.a ++ BitVec.ofBool f.m ++ f.b ++ 1#1)
  | .shfliBc f => some (BitVec.ofBool f.z ++ 69#7 ++ f.d ++ BitVec.ofBool f.l ++ f.a ++ 0#2 ++ f.k ++ 0#1)
  | .shfliRot f => some (BitVec.ofBool f.z ++ 69#7 ++ f.d ++ BitVec.ofBool f.l ++ f.a ++ 1#2 ++ f.k ++ 0#1)
  | .shfliRev f => some (BitVec.ofBool f.z ++ 69#7 ++ f.d ++ BitVec.ofBool f.l ++ f.a ++ 2#2 ++ f.k ++ 0#1)
  | .shfliSwap f => some (BitVec.ofBool f.z ++ 69#7 ++ f.d ++ BitVec.ofBool f.l ++ f.a ++ 3#2 ++ f.k ++ 0#1)
  | .voteMask f => some (BitVec.ofBool f.z ++ 283#9 ++ f.d ++ 0#13 ++ f.p ++ 0#1)
  | .voteCount f => some (BitVec.ofBool f.z ++ 283#9 ++ f.d ++ 1#13 ++ f.p ++ 0#1)
  | .voteFirst f => some (BitVec.ofBool f.z ++ 283#9 ++ f.d ++ 2#13 ++ f.p ++ 0#1)
  | .voteLast f => some (BitVec.ofBool f.z ++ 283#9 ++ f.d ++ 3#13 ++ f.p ++ 0#1)
  | .voteParity f => some (BitVec.ofBool f.z ++ 283#9 ++ f.d ++ 4#13 ++ f.p ++ 0#1)
  | .voteFull f => some (BitVec.ofBool f.z ++ 283#9 ++ f.d ++ 5#13 ++ f.p ++ 0#1)
  | .voteEmpty f => some (BitVec.ofBool f.z ++ 283#9 ++ f.d ++ 6#13 ++ f.p ++ 0#1)
  | .reduxAdd f => some (BitVec.ofBool f.z ++ 71#7 ++ f.d ++ BitVec.ofBool f.l ++ f.a ++ 0#1 ++ f.s ++ 0#5)
  | .reduxMin f => some (BitVec.ofBool f.z ++ 71#7 ++ f.d ++ BitVec.ofBool f.l ++ f.a ++ 0#1 ++ f.s ++ 2#5)
  | .reduxMax f => some (BitVec.ofBool f.z ++ 71#7 ++ f.d ++ BitVec.ofBool f.l ++ f.a ++ 0#1 ++ f.s ++ 4#5)
  | .reduxAnd f => some (BitVec.ofBool f.z ++ 71#7 ++ f.d ++ BitVec.ofBool f.l ++ f.a ++ 0#1 ++ f.s ++ 6#5)
  | .reduxOr f => some (BitVec.ofBool f.z ++ 71#7 ++ f.d ++ BitVec.ofBool f.l ++ f.a ++ 0#1 ++ f.s ++ 8#5)
  | .reduxXor f => some (BitVec.ofBool f.z ++ 71#7 ++ f.d ++ BitVec.ofBool f.l ++ f.a ++ 0#1 ++ f.s ++ 10#5)
  | .scanAdd f => some (BitVec.ofBool f.z ++ 72#7 ++ f.d ++ BitVec.ofBool f.l ++ f.a ++ 0#1 ++ f.s ++ BitVec.ofBool f.e ++ 0#4)
  | .scanMin f => some (BitVec.ofBool f.z ++ 72#7 ++ f.d ++ BitVec.ofBool f.l ++ f.a ++ 0#1 ++ f.s ++ BitVec.ofBool f.e ++ 2#4)
  | .scanMax f => some (BitVec.ofBool f.z ++ 72#7 ++ f.d ++ BitVec.ofBool f.l ++ f.a ++ 0#1 ++ f.s ++ BitVec.ofBool f.e ++ 4#4)
  | .scanAnd f => some (BitVec.ofBool f.z ++ 72#7 ++ f.d ++ BitVec.ofBool f.l ++ f.a ++ 0#1 ++ f.s ++ BitVec.ofBool f.e ++ 6#4)
  | .scanOr f => some (BitVec.ofBool f.z ++ 72#7 ++ f.d ++ BitVec.ofBool f.l ++ f.a ++ 0#1 ++ f.s ++ BitVec.ofBool f.e ++ 8#4)
  | .scanXor f => some (BitVec.ofBool f.z ++ 72#7 ++ f.d ++ BitVec.ofBool f.l ++ f.a ++ 0#1 ++ f.s ++ BitVec.ofBool f.e ++ 10#4)
  | .matchPair f => some (BitVec.ofBool f.z ++ 73#7 ++ f.d ++ BitVec.ofBool f.l ++ f.a ++ BitVec.ofBool f.m ++ f.b ++ 0#1)
  | .matchMask f => some (BitVec.ofBool f.z ++ 73#7 ++ f.d ++ BitVec.ofBool f.l ++ f.a ++ BitVec.ofBool f.m ++ f.b ++ 1#1)
  | .pmovTop f => some (BitVec.ofBool f.z ++ 9472#14 ++ BitVec.ofBool f.l ++ f.a ++ 0#5 ++ f.k ++ 0#1)
  | .pmovFromp f => some (BitVec.ofBool f.z ++ 74#7 ++ f.d ++ 2#13 ++ f.k ++ 0#1)
  | .pmovAnd f => some (BitVec.ofBool f.z ++ 303104#19 ++ f.j ++ 4#5 ++ f.k ++ 0#1)
  | .pmovOr f => some (BitVec.ofBool f.z ++ 303104#19 ++ f.j ++ 6#5 ++ f.k ++ 0#1)
  | .pmovXor f => some (BitVec.ofBool f.z ++ 303104#19 ++ f.j ++ 8#5 ++ f.k ++ 0#1)
  | .pmovNot f => some (BitVec.ofBool f.z ++ 303104#19 ++ f.j ++ 10#5 ++ f.k ++ 0#1)
  | .pmovFroms f => some (BitVec.ofBool f.z ++ 9472#14 ++ BitVec.ofBool f.l ++ 3#2 ++ f.a ++ 12#5 ++ f.k ++ 0#1)
  | .ldb f => some (BitVec.ofBool f.z ++ 80#7 ++ f.d ++ 0#1 ++ f.a ++ BitVec.ofBool f.l ++ f.s ++ BitVec.ofBool f.k ++ f.h)
  | .ldh f => some (BitVec.ofBool f.z ++ 81#7 ++ f.d ++ 0#1 ++ f.a ++ BitVec.ofBool f.l ++ f.s ++ BitVec.ofBool f.k ++ f.h)
  | .ldw f => some (BitVec.ofBool f.z ++ 82#7 ++ f.d ++ 0#1 ++ f.a ++ BitVec.ofBool f.l ++ f.s ++ BitVec.ofBool f.k ++ f.h)
  | .ldd f => some (BitVec.ofBool f.z ++ 83#7 ++ f.d ++ 0#1 ++ f.a ++ BitVec.ofBool f.l ++ f.s ++ BitVec.ofBool f.k ++ f.h)
  | .ldq f => some (BitVec.ofBool f.z ++ 84#7 ++ f.d ++ 0#1 ++ f.a ++ BitVec.ofBool f.l ++ f.s ++ BitVec.ofBool f.k ++ f.h)
  | .stb f => some (BitVec.ofBool f.z ++ 85#7 ++ f.d ++ BitVec.ofBool f.n ++ f.a ++ BitVec.ofBool f.l ++ f.s ++ BitVec.ofBool f.k ++ 0#4)
  | .sth f => some (BitVec.ofBool f.z ++ 86#7 ++ f.d ++ BitVec.ofBool f.n ++ f.a ++ BitVec.ofBool f.l ++ f.s ++ BitVec.ofBool f.k ++ 0#4)
  | .stw f => some (BitVec.ofBool f.z ++ 87#7 ++ f.d ++ BitVec.ofBool f.n ++ f.a ++ BitVec.ofBool f.l ++ f.s ++ BitVec.ofBool f.k ++ 0#4)
  | .std f => some (BitVec.ofBool f.z ++ 88#7 ++ f.d ++ BitVec.ofBool f.n ++ f.a ++ BitVec.ofBool f.l ++ f.s ++ BitVec.ofBool f.k ++ 0#4)
  | .stq f => some (BitVec.ofBool f.z ++ 89#7 ++ f.d ++ BitVec.ofBool f.n ++ f.a ++ BitVec.ofBool f.l ++ f.s ++ BitVec.ofBool f.k ++ 0#4)
  | .ldv f => some (BitVec.ofBool f.z ++ 90#7 ++ f.d ++ 0#1 ++ f.a ++ BitVec.ofBool f.l ++ f.s ++ BitVec.ofBool f.k ++ f.h)
  | .pref f => some (BitVec.ofBool f.z ++ 23296#15 ++ f.a ++ BitVec.ofBool f.l ++ f.s ++ BitVec.ofBool f.k ++ 0#4)
  | .aadd f => some (BitVec.ofBool f.z ++ 92#7 ++ f.d ++ BitVec.ofBool f.n ++ f.a ++ BitVec.ofBool f.l ++ f.s ++ BitVec.ofBool f.k ++ f.h)
  | .amin f => some (BitVec.ofBool f.z ++ 93#7 ++ f.d ++ BitVec.ofBool f.n ++ f.a ++ BitVec.ofBool f.l ++ f.s ++ BitVec.ofBool f.k ++ f.h)
  | .amax f => some (BitVec.ofBool f.z ++ 94#7 ++ f.d ++ BitVec.ofBool f.n ++ f.a ++ BitVec.ofBool f.l ++ f.s ++ BitVec.ofBool f.k ++ f.h)
  | .aand f => some (BitVec.ofBool f.z ++ 95#7 ++ f.d ++ BitVec.ofBool f.n ++ f.a ++ BitVec.ofBool f.l ++ f.s ++ BitVec.ofBool f.k ++ f.h)
  | .aor f => some (BitVec.ofBool f.z ++ 96#7 ++ f.d ++ BitVec.ofBool f.n ++ f.a ++ BitVec.ofBool f.l ++ f.s ++ BitVec.ofBool f.k ++ f.h)
  | .axor f => some (BitVec.ofBool f.z ++ 97#7 ++ f.d ++ BitVec.ofBool f.n ++ f.a ++ BitVec.ofBool f.l ++ f.s ++ BitVec.ofBool f.k ++ f.h)
  | .axchg f => some (BitVec.ofBool f.z ++ 98#7 ++ f.d ++ BitVec.ofBool f.n ++ f.a ++ BitVec.ofBool f.l ++ f.s ++ BitVec.ofBool f.k ++ f.h)
  | .acas f => some (BitVec.ofBool f.z ++ 99#7 ++ f.d ++ BitVec.ofBool f.n ++ f.a ++ BitVec.ofBool f.l ++ f.s ++ BitVec.ofBool f.k ++ f.h)
  | .afadd f => some (BitVec.ofBool f.z ++ 100#7 ++ f.d ++ BitVec.ofBool f.n ++ f.a ++ BitVec.ofBool f.l ++ f.s ++ BitVec.ofBool f.k ++ f.h)
  | .kld f => some (BitVec.ofBool f.z ++ 101#7 ++ f.d ++ 0#1 ++ f.a ++ BitVec.ofBool f.l ++ f.s ++ BitVec.ofBool f.k ++ f.h)
  | .kst f => some (BitVec.ofBool f.z ++ 102#7 ++ f.d ++ BitVec.ofBool f.n ++ f.a ++ BitVec.ofBool f.l ++ f.s ++ BitVec.ofBool f.k ++ f.h)
  | .krec f => some (BitVec.ofBool f.z ++ 103#7 ++ f.d ++ BitVec.ofBool f.n ++ f.a ++ BitVec.ofBool f.l ++ f.s ++ BitVec.ofBool f.k ++ f.h)
  | .cpy f => some (BitVec.ofBool f.z ++ 104#7 ++ f.t ++ f.p ++ BitVec.ofBool f.l ++ 0#7 ++ f.h)
  | .cpyq f => some (BitVec.ofBool f.z ++ 105#7 ++ f.t ++ f.p ++ BitVec.ofBool f.l ++ f.q ++ BitVec.ofBool f.k ++ f.h)
  | .cwait f => some (BitVec.ofBool f.z ++ 106#7 ++ f.t ++ f.p ++ BitVec.ofBool f.l ++ f.q ++ BitVec.ofBool f.k ++ 0#4)
  | .ctest f => some (BitVec.ofBool f.z ++ 107#7 ++ f.t ++ f.p ++ BitVec.ofBool f.l ++ f.q ++ BitVec.ofBool f.k ++ f.h)
  | .ccancel f => some (BitVec.ofBool f.z ++ 108#7 ++ f.t ++ f.p ++ BitVec.ofBool f.l ++ 0#7 ++ f.h)
  | .mma f => some (BitVec.ofBool f.z ++ 109#7 ++ f.t ++ f.p ++ BitVec.ofBool f.l ++ 0#7 ++ f.h)
  | .mrdy f => some (BitVec.ofBool f.z ++ 110#7 ++ f.t ++ f.p ++ BitVec.ofBool f.l ++ f.q ++ BitVec.ofBool f.k ++ f.h)
  | .mwait f => some (BitVec.ofBool f.z ++ 111#7 ++ f.t ++ f.p ++ BitVec.ofBool f.l ++ 0#11)
  | .macc f => some (BitVec.ofBool f.z ++ 112#7 ++ f.t ++ f.p ++ BitVec.ofBool f.l ++ f.q ++ BitVec.ofBool f.k ++ f.h)
  | .mstat f => some (BitVec.ofBool f.z ++ 113#7 ++ f.t ++ f.p ++ BitVec.ofBool f.l ++ 0#7 ++ f.h)
  | .wload f => some (BitVec.ofBool f.z ++ 14592#14 ++ BitVec.ofBool f.l ++ f.a ++ f.c ++ f.w ++ 0#1)
  | .wloadScratch f => some (BitVec.ofBool f.z ++ 14592#14 ++ BitVec.ofBool f.l ++ f.a ++ f.c ++ f.w ++ 1#1)
  | .wupd f => some (BitVec.ofBool f.z ++ 115#7 ++ f.d ++ BitVec.ofBool f.l ++ f.a ++ 0#6 ++ f.w ++ BitVec.ofBool f.x)
  | .wqry f => some (BitVec.ofBool f.z ++ 116#7 ++ f.d ++ BitVec.ofBool f.l ++ f.a ++ 0#6 ++ f.w ++ 0#1)
  | .wqryExcl f => some (BitVec.ofBool f.z ++ 116#7 ++ f.d ++ BitVec.ofBool f.l ++ f.a ++ 0#6 ++ f.w ++ 1#1)
  | .wfind f => some (BitVec.ofBool f.z ++ 117#7 ++ f.d ++ BitVec.ofBool f.l ++ f.a ++ 0#3 ++ f.p ++ f.w ++ 0#1)
  | .wcut f => some (BitVec.ofBool f.z ++ 118#7 ++ f.d ++ BitVec.ofBool f.l ++ f.a ++ 0#6 ++ f.w ++ 0#1)
  | .wopRoot f => some (BitVec.ofBool f.z ++ 119#7 ++ f.d ++ 0#14 ++ f.w ++ 0#1)
  | .wopClear f => some (BitVec.ofBool f.z ++ 249561089#28 ++ f.w ++ 0#1)
  | .wopGet f => some (BitVec.ofBool f.z ++ 119#7 ++ f.d ++ BitVec.ofBool f.l ++ f.a ++ 2#6 ++ f.w ++ 0#1)
  | .wopSet f => some (BitVec.ofBool f.z ++ 119#7 ++ f.d ++ BitVec.ofBool f.l ++ f.a ++ 3#6 ++ f.w ++ BitVec.ofBool f.x)
  | .wopSave f => some (BitVec.ofBool f.z ++ 15232#14 ++ BitVec.ofBool f.l ++ 3#2 ++ f.a ++ 4#6 ++ f.w ++ 0#1)
  | .wopRestore f => some (BitVec.ofBool f.z ++ 15232#14 ++ BitVec.ofBool f.l ++ 3#2 ++ f.a ++ 5#6 ++ f.w ++ 0#1)
  | .wopStat f => some (BitVec.ofBool f.z ++ 119#7 ++ f.d ++ 6#14 ++ f.w ++ 0#1)
  | .wopCutptr f => some (BitVec.ofBool f.z ++ 119#7 ++ f.d ++ 7#14 ++ f.w ++ 0#1)
  | .nwake f => some (BitVec.ofBool f.z ++ 120#7 ++ f.t ++ f.p ++ BitVec.ofBool f.l ++ 0#7 ++ f.h)
  | .nsig f => some (BitVec.ofBool f.z ++ 121#7 ++ f.t ++ f.p ++ BitVec.ofBool f.l ++ f.q ++ BitVec.ofBool f.k ++ f.h)
  | .ndep f => some (BitVec.ofBool f.z ++ 122#7 ++ f.t ++ f.p ++ BitVec.ofBool f.l ++ f.q ++ BitVec.ofBool f.k ++ f.h)
  | .njoin f => some (BitVec.ofBool f.z ++ 123#7 ++ f.t ++ 0#1 ++ f.p ++ BitVec.ofBool f.l ++ f.q ++ BitVec.ofBool f.k ++ 0#4)
  | .nwait f => some (BitVec.ofBool f.z ++ 124#7 ++ f.t ++ f.p ++ BitVec.ofBool f.l ++ 0#11)
  | .barInit f => some (BitVec.ofBool f.z ++ 8000#13 ++ BitVec.ofBool f.l ++ f.a ++ 0#11)
  | .barArv f => some (BitVec.ofBool f.z ++ 125#7 ++ f.d ++ BitVec.ofBool f.l ++ f.a ++ 1#11)
  | .barWait f => some (BitVec.ofBool f.z ++ 8000#13 ++ BitVec.ofBool f.l ++ f.a ++ 2#11)
  | .barSync f => some (BitVec.ofBool f.z ++ 8000#13 ++ BitVec.ofBool f.l ++ f.a ++ 3#11)
  | .barFarv f => some (BitVec.ofBool f.z ++ 125#7 ++ f.d ++ BitVec.ofBool f.l ++ f.a ++ 4#11)
  | .barFwait f => some (BitVec.ofBool f.z ++ 8000#13 ++ BitVec.ofBool f.l ++ f.a ++ 5#11)
  | .barFsync f => some (BitVec.ofBool f.z ++ 8000#13 ++ BitVec.ofBool f.l ++ f.a ++ 6#11)
  | .barTest f => some (BitVec.ofBool f.z ++ 125#7 ++ f.d ++ BitVec.ofBool f.l ++ f.a ++ 7#11)
  | .bandInit f => some (BitVec.ofBool f.z ++ 8064#13 ++ BitVec.ofBool f.l ++ f.a ++ 0#11)
  | .bandPut f => some (BitVec.ofBool f.z ++ 8064#13 ++ BitVec.ofBool f.l ++ f.a ++ 1#11)
  | .bandTake f => some (BitVec.ofBool f.z ++ 8064#13 ++ BitVec.ofBool f.l ++ f.a ++ 2#11)
  | .bandDone f => some (BitVec.ofBool f.z ++ 8064#13 ++ BitVec.ofBool f.l ++ f.a ++ 3#11)
  | .bandTest f => some (BitVec.ofBool f.z ++ 126#7 ++ f.d ++ BitVec.ofBool f.l ++ f.a ++ 4#11)
  | .reservedWord w => some w
  | _ => none

/-- The words of an instruction (R19: one word). -/
def encode (i : Instr) : List W32 := (encodeWord i).toList

end Sys2Proof
end

