-- ==== Sys2Proof/Machine/State.lean ====
section
/-! DEFINITION. The state of the module: plain data, sparse, holding every piece of state the spec names. -/

namespace Sys2Proof.Machine

/-- Why a step stops with a fault. -/
inductive Fault where
  /-- Raised by the meaning of an instruction word run where no run of a group is in progress: no machine
  ever issues a word outside a run (R19, R77). Safe: the machine has no such step. -/
  | noRun
  /-- Raised by the step when the head of the agenda is an instruction word: words are fetched, never
  scheduled from outside (R99). Safe: the machine has no such input. -/
  | wordInAgenda
  deriving DecidableEq, Repr

/-- Why a step is refused. -/
inductive Refusal where
  /-- Raised by an arm of `exec` whose instruction has no meaning yet. Safe: nothing runs. -/
  | notModelled (mnemonic : String)
  deriving DecidableEq, Repr

/-- A sparse byte store: addresses rising, no entry equal to 0, what an unlisted address reads as. -/
abbrev Mem := List Host.Cell

/-- The HPRED shadow (R32): predicate, sense and the non-hint instructions left to cover. -/
structure Shadow where
  p : BitVec 3
  sense : Bool
  left : Nat
  deriving DecidableEq, Repr

/-- The hints of the unit in progress, gathered until its target (R21, R30). -/
structure Hints where
  imm : List (BitVec 20) := []
  pred : Option FHpred := none
  mode : Option FHmode := none
  ord : Option FHord := none
  cache : Option FHcache := none
  type : Option FHtype := none
  bad : Bool := false
  n : Nat := 0
  deriving DecidableEq, Repr

/-- A run in progress (R20, R77). `last` is the address of the last word issued; `probe` marks a run that only finds out whether a
word that stalled still does (R107). -/
structure Run where
  gid : Nat
  act : W64
  words : Nat
  pc : W64
  upc : W64
  hints : Hints
  held : Bool
  rur : Option Nat
  last : W64 := 0#64
  probe : Bool := false
  deriving DecidableEq, Repr

/-- One level of the loop stack (R113). -/
structure Loop where
  start : W64
  stop : W64
  deriving DecidableEq, Repr

/-- What a handler entry sets aside (R342). -/
structure Handler where
  trapset : W64
  entered : W64
  resume : List W64
  shadow : Option Shadow
  loops : List Loop
  lc : List W64
  deriving DecidableEq, Repr

/-- The kinds of long-latency operation (R110, R353). -/
inductive OpKind where
  | load | cxlLoad | kld | atomic | kst | krec | name | icinv | tlaunch | tsucc | cpyq
  | cpy | matrix | cancel
  deriving DecidableEq, Repr

/-- One register of the destination set of a long-latency operation (R28, R110). `reg` is the specifier:
0–79 for a v register, 80–87 for q, 96 + n for s(n). `mask` holds the threads whose result is still to be taken, `was` whether
the register was UNMAPPED at issue, `vals` the results once they have arrived (one element for a scalar). `copy` is the second entry
a v register holds beside that of the result (R160): 0 none, 1 its window copy, 2 that of a value written since issue. -/
structure Dest where
  reg : Nat
  mask : W64
  was : Bool
  vals : List W64
  copy : Nat := 0
  deriving DecidableEq, Repr

/-- Where an access goes (R177): device memory or a keep page by device physical address, host or CXL
memory of a logical device, a team's scratchpad. -/
inductive Target where
  | dev (a : Nat)
  | keep (a : Nat) (merge : BitVec 3)
  | host (ld : Nat) (a : Nat)
  | cxl (ld : Nat) (a : Nat)
  | scr (team : Nat) (a : Nat)
  deriving DecidableEq, Repr

/-- Which leaf and which host page a translated access used, for invalidation (R216, R222). -/
structure Used where
  ld : Nat
  dom : W16
  va : Nat
  pasid : Option (BitVec 20)
  page : Nat
  deriving DecidableEq, Repr

/-- What an operation in flight still has to do at its home or at its agent. -/
inductive Work where
  /-- nothing left: only the result is on its way -/
  | done
  /-- an atomic: operation code, 8-byte form, signed, per thread (thread, target, operand, second operand) -/
  | atomic (op : Nat) (wide : Bool) (signed : Bool) (lanes : List (Nat × Target × W64 × W64))
  /-- a load sent again after a save (R353): per thread targets, size in bytes and placement -/
  | load (size : Nat) (signed : Bool) (narrow : Bool) (lanes : List (Nat × Target))
  /-- KLD again after a save -/
  | kld (sib : Nat) (lanes : List (Nat × Target))
  | kst (lanes : List (Nat × Target × W64 × W64))
  | krec (op : BitVec 3) (lanes : List (Nat × Target × W64))
  /-- a name operation: kind 1 wake, 2 signal, 3 deposit; register and value -/
  | name (kind : Nat) (target : W64) (gen : W16) (reg : Nat) (value : W64)
  /-- a queue append: descriptor and the 63 bytes 1–63 of the slot; `copy` for CPYQ -/
  | append (copy : Bool) (desc : W64) (bytes : List W8) (site seq : W64)
  | succ (p s : W64)
  | icinv (a len : Nat) (scope : Nat)
  /-- the result comes from a copy or matrix command, which writes it when it ends -/
  | command
  deriving DecidableEq, Repr

/-- A long-latency operation in flight (R110), with its AHEAD window: the remaining count of each thread. `acq` says that it acquires,
`sees` that it does so at team scope or wider. -/
structure LOp where
  id : Nat
  kind : OpKind
  site : W64
  seq : W64
  base : Nat
  dests : List Dest
  win : List Nat
  work : Work
  again : Work
  acq : Bool
  ready : Bool
  disc : List Nat
  used : List Used
  sees : Bool := false
  deriving DecidableEq, Repr

/-- A store-buffer entry (R184): its writes in thread order, the tokens of its keep writes, the scopes that have acknowledged it, and
whether all of it has reached its homes; `done` lists the writes that have while others wait for theirs (R295). -/
structure SbEntry where
  id : Nat
  writes : List (Target × List W8)
  tokens : List W64
  acked : BitVec 6
  landed : Bool
  used : List Used
  site : W64
  seq : W64
  done : List Nat := []
  deriving DecidableEq, Repr

/-- An imprecise event waiting for its group (R343). -/
structure Event where
  cause : Nat
  info : W64
  detail : W64
  site : W64
  seq : W64
  deriving DecidableEq, Repr

/-- A host page an access found missing (R220). -/
structure Miss where
  ld : Nat
  pasid : BitVec 20
  page : W64
  write : Bool
  exec : Bool
  read : Bool
  deriving DecidableEq, Repr

/-- What a blocked group waits for (R20, R107, R355). -/
inductive Wait where
  | none
  | nwait (t : Nat) (limit : Option Nat) (set : W64)
  | njoin (t : Nat) (target : W64) (limit : Option Nat) (set : W64)
  | vclaim (d : Nat) (n : Nat) (order : Nat) (set : W64) (pc : W64)
  | cwait (t : Nat) (off : Nat) (mask : W64) (set : W64)
  /-- `acc` gathers the tokens written so far: STATUS and FLAGS (R267) -/
  | mwait (t : Nat) (cmds : List Nat) (acc : Nat) (set : W64)
  | bar (idx : Nat) (ph : Bool)
  | fbar (idx : Nat) (ph : Bool)
  | band (b st : Nat) (ph e : Bool)
  | sleep (left : Nat)
  | xlat (miss : List Miss) (code : Nat)
  | peer (teams : List Nat)
  deriving DecidableEq, Repr

/-- A PC breakpoint (R394). -/
structure Brk where
  addr : W64
  on : Bool
  deriving DecidableEq, Repr

/-- One weight tree (R272): leaves by index, the cut pointer and the status word. -/
structure Tree where
  leaves : FMap Nat
  cut : Nat
  status : BitVec 32
  deriving DecidableEq, Repr

/-- Where a group is in its life. -/
inductive Place where
  | resident | moving | saved | swapped | exited | ended
  deriving DecidableEq, Repr

/-- A group, or a milliner as a group of one thread (R42, R73, R154). `clocks` holds its counts of clocks by counter id as they were last
read, and under 64 + id that one is final (R401, R402). `pinned` lists the registers matrix commands have open, by
command; `pinheld` those unmapped since, whose entries the pins hold (R251); `saw` the chunks of copy commands whose bits the group
has observed (R236). -/
structure Group where
  mill : Option Nat := none
  ld : Nat
  dom : W16
  team : Nat
  task : Nat
  gidx : Nat
  name : W64
  w : Nat
  role : Nat
  core : Nat
  part : Nat
  slot : Nat
  lane0 : Nat
  place : Place
  started : Bool
  floor : Nat
  vval : FMap (List W32)
  spilled : List Nat
  lastw : FMap Nat
  stamp : Nat
  wspill : List Nat
  spillimg : FMap (List W8)
  sval : FMap W64
  q : FMap (List W32)
  y0 : List W64
  y1 : List W64
  p : FMap W64
  lc : List W64
  loops : List Loop
  gstatus : W64
  sigword : W32
  latch : Bool
  sighandler : W64
  traphandler : W64
  trappc : W64
  trapcause : W64
  trapinfo : W64
  trapmask : W64
  cmdseq : W64
  pcs : List W64
  exited : W64
  exitval : W64
  ages : List Nat
  shadow : Option Shadow
  handler : Option Handler
  ops : List LOp
  sb : List SbEntry
  events : List Event
  wait : Wait
  sat : Bool
  stalled : Bool
  retry : Bool
  xfault : List (Miss × Nat)
  halted : Bool
  dstop : Bool
  brks : FMap Brk
  unmatched : Option (W64 × Bool)
  stepping : Bool
  stopNext : Bool
  stopping : Bool
  hold : Bool
  woken : Bool
  waited : Nat
  trees : FMap Tree
  fetched : FMap (List W32)
  word : W32
  pinned : List (Nat × Nat)
  pinheld : List Nat := []
  saw : List (Nat × Nat) := []
  clocks : FMap Nat := []
  ctxrec : W64
  ctximg : List W8
  spills : Nat
  refills : Nat
  luign : Nat
  runs : Nat
  words : List Nat
  saves : Nat
  icinvs : List Nat
  deriving DecidableEq, Repr

-- DESIGN CHOICE: log 2
/-- No group: what a look at an absent handle reads. -/
def Group.blank : Group where
  ld := 0
  dom := 0#16
  team := 0
  task := 0
  gidx := 0
  name := 0#64
  w := 0
  role := 0
  core := 0
  part := 0
  slot := 0
  lane0 := 0
  place := .ended
  started := false
  floor := 0
  vval := []
  spilled := []
  lastw := []
  stamp := 0
  wspill := []
  spillimg := []
  sval := []
  q := []
  y0 := []
  y1 := []
  p := []
  lc := [0#64, 0#64, 0#64]
  loops := []
  gstatus := 0#64
  sigword := 0#32
  latch := false
  sighandler := 0#64
  traphandler := 0#64
  trappc := 0#64
  trapcause := 0#64
  trapinfo := 0#64
  trapmask := 0#64
  cmdseq := 0#64
  pcs := []
  exited := 0#64
  exitval := 0#64
  ages := []
  shadow := none
  handler := none
  ops := []
  sb := []
  events := []
  wait := .none
  sat := false
  stalled := false
  retry := false
  xfault := []
  halted := false
  dstop := false
  brks := []
  unmatched := none
  stepping := false
  stopNext := false
  stopping := false
  hold := false
  woken := false
  waited := 0
  trees := []
  fetched := []
  word := 0#32
  pinned := []
  ctxrec := 0#64
  ctximg := []
  spills := 0
  refills := 0
  luign := 0
  runs := 0
  words := [0, 0, 0, 0]
  saves := 0
  icinvs := []

/-- A team barrier or a felt barrier (R285, R286): waiter masks by team handle for a felt barrier. -/
structure Bar where
  expect : Nat
  arrived : Nat
  phase : Bool
  wmask : FMap W32
  deriving DecidableEq, Repr

/-- A band (R291). -/
structure Band where
  count : Nat
  full : BitVec 16
  phase : BitVec 16
  wmask : W32
  deriving DecidableEq, Repr

/-- The captured A rows of a contributor: (thread row) registers as read at issue, with the registers written
since (R251, R259). -/
structure ARows where
  gid : Nat
  base : Nat
  ns : Nat
  rows : List (List W32)
  dirty : W64
  deriving DecidableEq, Repr

/-- A matrix command of a team's queue (R247): kind 0 MMA, 1 MRDY, 2 MACC. `a` holds the rows of its own group, `chain` the opener of
its reuse chain, `taken` the MMA that took an MRDY, `srcs` what a MACC read from registers, `dirtyS` the lanes of them written since;
`regions` are the scratchpad ranges it reads, `img` what they held at issue, `spoilt` the ranges written since (R259); `token` is set once its token is written,
`res` the status and flags of its operation. -/
structure MCmd where
  id : Nat
  gid : Nat
  site : W64
  seq : W64
  kind : Nat
  opid : Nat
  pb : List W8
  a : Option ARows
  chain : Option Nat
  closing : Bool
  slot : Nat
  taken : Option Nat
  act : W64
  ctl : W64
  opw : W64
  srcs : List (List W32)
  dirtyS : List (Nat × Nat)
  regions : List (Nat × Nat)
  img : Mem := []
  spoilt : List (Nat × Nat)
  started : Bool
  token : Bool
  res : Nat × Nat
  deriving DecidableEq, Repr

/-- A team (R73, R285–R291): its place, its two stores, its barriers and bands, its matrix queue. -/
structure Team where
  task : Nat
  gridpos : Nat
  felt : Nat
  peer : Nat
  core : Nat
  resident : Bool
  retired : Bool
  scrBase : Nat
  accBase : Nat
  scr : Mem
  acc : Mem
  bars : FMap Bar
  bands : FMap Band
  mq : List MCmd
  mdone : List (Nat × Nat × Nat)
  chain : Option Nat
  mstat : W64
  gids : List Nat
  recAddr : W64
  deriving DecidableEq, Repr

/-- A felt (R76). -/
structure Felt where
  task : Nat
  index : Nat
  die : Nat
  row : Nat
  col : Nat
  teams : List Nat
  bars : FMap Bar
  released : Bool
  deriving DecidableEq, Repr

-- DESIGN CHOICE: log 2
/-- No team and no felt. -/
def Team.blank : Team where
  task := 0
  gridpos := 0
  felt := 0
  peer := 0
  core := 0
  resident := false
  retired := true
  scrBase := 0
  accBase := 0
  scr := []
  acc := []
  bars := []
  bands := []
  mq := []
  mdone := []
  chain := none
  mstat := 0#64
  gids := []
  recAddr := 0#64

-- DESIGN CHOICE: log 2
def Felt.blank : Felt where
  task := 0
  index := 0
  die := 0
  row := 0
  col := 0
  teams := []
  bars := []
  released := true

/-- The fields of a TCB that validation captures (R80, R81). -/
structure Tcb where
  args : W64
  dreg : BitVec 32
  dname : W64
  done : W64
  gdesc : List W16
  trapen : BitVec 32
  fpthresh : BitVec 32
  exitarea : W64
  spill : W64
  namebase : W64
  mem : BitVec 32
  budget : BitVec 32
  sched : BitVec 32
  felts : BitVec 32
  shape : BitVec 32
  entry : BitVec 32
  code : W64
  deriving DecidableEq, Repr

/-- A task known to the milliner complex (R84). `readyAt` is how many memories of the past were kept when it turned READY (R188). -/
structure Task where
  ld : Nat
  dom : W16
  tcbva : W64
  tcb : Tcb
  state : Nat
  prio : Nat
  arrival : Nat
  nextFelt : Nat
  retired : Nat
  placed : Bool
  completion : Nat
  relaunches : Nat
  ended : Bool
  site : W64
  seq : W64
  fp : FMap Nat
  idivz : Nat
  keepRefusals : Nat
  fpstatus : BitVec 16
  fpfired : Bool
  fpcross : Option (Nat × W64 × W64 × W64)
  attached : Bool
  bkptstop : Bool
  again : List Nat
  readyAt : Nat := 0
  deriving DecidableEq, Repr

-- DESIGN CHOICE: log 2
def Tcb.blank : Tcb where
  args := 0#64
  dreg := 0#32
  dname := 0#64
  done := 0#64
  gdesc := []
  trapen := 0#32
  fpthresh := 0#32
  exitarea := 0#64
  spill := 0#64
  namebase := 0#64
  mem := 0#32
  budget := 0#32
  sched := 0#32
  felts := 0#32
  shape := 0#32
  entry := 0#32
  code := 0#64

-- DESIGN CHOICE: log 2
/-- No task. -/
def Task.blank : Task where
  ld := 0
  dom := 0#16
  tcbva := 0#64
  tcb := Tcb.blank
  state := 5
  prio := 0
  arrival := 0
  nextFelt := 0
  retired := 0
  placed := false
  completion := 0
  relaunches := 0
  ended := true
  site := 0#64
  seq := 0#64
  fp := []
  idivz := 0
  keepRefusals := 0
  fpstatus := 0#16
  fpfired := false
  fpcross := none
  attached := false
  bkptstop := false
  again := []

/-- A registered queue (R88, R369); `sites` holds, by slot index, the launch-site pair and the group of a device producer. -/
structure Queue where
  ld : Nat
  desc : W64
  dom : W16
  kind : Nat
  die : Nat
  peerAppend : Bool
  peer : Option Nat
  window : Nat
  ftime : Nat
  stalled : Bool
  sites : FMap (W64 × W64 × Nat)
  deriving DecidableEq, Repr

/-- A copy command in service (R227, R239, R242). `gid` is the issuing group, 0 where there is none; `susp` is the chunk whose
fabric requests are out, plus 1; `lost` says that no port carried them; `paid` the chunks started, which the budget has been charged for (R243); `left` holds the chunks each receiver still lacks, `heldData` chunks
that were read and wait for a receiver (R234). -/
structure Copy where
  id : Nat
  queue : Option Nat
  slot : Nat
  gid : Nat
  name : W64
  ld : Nat
  dom : W16
  core : Nat
  die : Nat
  site : W64
  seq : W64
  pk : List W8
  pkva : W64
  team : Nat
  receivers : List Nat
  started : Bool
  cleared : Bool
  index : List W32
  left : List (Nat × List Nat)
  heldData : FMap (List W8)
  heldRanges : FMap (List (W64 × Nat)) := []
  sparse : Option Nat
  cancel : Bool
  fault : Option (Nat × Nat × W64)
  susp : Nat
  prio : Nat
  turn : Nat
  fabric : Bool
  awaiting : List Miss
  spoilt : List (Nat × Nat × Nat)
  paid : List Nat := []
  lost : Bool := false
  deriving DecidableEq, Repr

/-- A keep cell's home state (R318): its die is that of its address. -/
structure Keep where
  g : W16
  writer : List (Option Nat)
  c : List Nat
  sibs : List (W64 × Option (Nat × Nat))
  deriving DecidableEq, Repr

/-- A waiting join (R312, R315): of a group, or of a name port with its limit in µs. -/
structure Join where
  ld : Nat
  target : W64
  gid : Option Nat
  dom : W16
  port : Nat
  ticket : W32
  caddr : W64
  limit : Nat
  deriving DecidableEq, Repr

/-- A ring of records (R349): descriptor address in the management domain; a trace or sample ring also has
its filter (R396, R400). -/
structure Ring where
  desc : W64
  mask : W64
  dom0 : Nat
  domn : Nat
  deriving DecidableEq, Repr

/-- A record of a tagged unit (R400) that waits for its run to end: its bytes below and above RUNLEN. -/
structure SampleRec where
  site : Nat
  ld : Nat
  ring : Ring
  below : List W8
  above : List W8
  deriving DecidableEq, Repr

/-- A line of an instruction cache (R99): which cache, the address space and address it is tagged with, and its 32 words. -/
structure CacheLine where
  cache : Nat
  ld : Nat
  dom : W16
  va : Nat
  words : List W32
  deriving DecidableEq, Repr

/-- A cached translation (R214): a leaf or non-leaf entry found by a walk. -/
structure TlbEnt where
  ld : Nat
  dom : W16
  va : Nat
  level : Nat
  pte : W64
  deriving DecidableEq, Repr

/-- What the memories held before some step while a task lived (R188): device memory, host memory, each team's scratchpad. -/
structure Past where
  dmem : Mem
  hmem : Mem
  scr : FMap Mem
  deriving DecidableEq, Repr

structure AtcEnt where
  ld : Nat
  pasid : BitVec 20
  page : Nat
  log2 : Nat
  ta : Nat
  r : Bool
  w : Bool
  x : Bool
  deriving DecidableEq, Repr

/-- A page request group the host has not answered (R218, R221); `sent` is false while it waits for the host's allocation. -/
structure PageReq where
  prg : Nat
  owner : Option Nat
  miss : List Miss
  sent : Bool := true
  deriving DecidableEq, Repr

/-- An invalidation command accepted and not yet complete (R215, R216), or an ATS invalidation (R222). -/
structure Inval where
  kind : Nat
  dom : W16
  start : W64
  len : W64
  done : W64
  bad : Bool
  deriving DecidableEq, Repr

structure AtsInval where
  pasid : BitVec 20
  page : W64
  log2 : Nat
  deriving DecidableEq, Repr

/-- TDISP interface states (R370). -/
inductive Tdisp where
  | unlocked | locked | run | error
  deriving DecidableEq, Repr

/-- A frame held in PAUSE mode (R389). -/
structure HeldFrame where
  win : Nat
  pcp : BitVec 3
  frame : EthFrame
  time : W64
  deriving DecidableEq, Repr

/-- An Ethernet port in ingest mode (R384–R389): per window state and counters. -/
structure Ingest where
  held : List HeldFrame
  xoff : BitVec 8
  stopped : FMap Nat
  counts : FMap Nat
  frames : Nat
  dropped : Nat
  deriving DecidableEq, Repr

/-- One logical device (R365). `cfg` holds its BAR registers by their place in configuration space, `window` the request window of its
debug DVSEC (R371, R391). -/
structure Ld where
  tdisp : Tdisp := .unlocked
  bar0 : Mem := []
  fault : Option Ring := none
  heldRecs : List (List W8) := []
  heldDrops : Nat := 0
  ctxBase : W64 := 0#64
  ctxLen : Nat := 0
  ctxUsed : List (Nat × Nat) := []
  pageReqs : Bool := true
  trs : List (Option Nat × Miss) := []
  ungranted : List (Option Nat × Miss) := []
  denied : List (Miss × Nat) := []
  prgs : List PageReq := []
  nextPrg : Nat := 0
  invals : List Inval := []
  atsInvals : List AtsInval := []
  portErr : Nat := 0
  invErr : Nat := 0
  mgmtErr : Nat := 0
  keepErr : Nat := 0
  ports : FMap W64 := []
  trace : Option Ring := none
  traceDrops : Nat := 0
  slice : List Nat := []
  lendable : Bool := false
  maker : Bool := false
  cfg : Mem := []
  window : Mem := []
  deriving DecidableEq, Repr

/-- A watchpoint (R397). -/
structure Watch where
  start : W64
  len : Nat
  ld : Nat
  dom : W16
  rd : Bool
  wr : Bool
  stop : Bool
  on : Bool
  deriving DecidableEq, Repr

/-- One partition's sampling (R400): exponent, LFSR, units left to the next tag, tag pending, ring. -/
structure Sample where
  k : Nat
  lfsr : W32
  left : Nat
  tag : Bool
  ring : Ring
  ld : Nat
  deriving DecidableEq, Repr

/-- One die (R11, R373, R376, R403, R410): 0–7 compute, 8 the I/O die. `counters` holds its shared counters (R401): 0–7 its own, 8 + p
the flits, 20 + p the frames and 32 + p the drops of port p; 64 on, what each was when last read with delay (R378). -/
structure Die where
  clk : W64 := 0#64
  fwctl : W64 := 0#64
  fwnext : W64 := 0#64
  portMode : BitVec 2 := 0#2
  portNext : BitVec 2 := 0#2
  budget : FMap W64 := []
  budgetNext : FMap W64 := []
  ceu : FMap Nat := []
  watches : FMap Watch := []
  up : Bool := false
  failed : Bool := false
  coreClk : Nat := 0
  hot : Bool := false
  retired : List Nat := []
  spareCores : Nat := 2
  spareHbm : FMap Nat := []
  updating : Bool := false
  counters : FMap Nat := []
  deriving DecidableEq, Repr

/-- A Filesk port (R379, R405, R411): its STATE, the one a halt of the partner hides, and whether no partner signal came in time. -/
structure Port where
  state : Nat := 0
  peer : W16 := 0xFFFF#16
  partnerHalted : Bool := false
  before : Nat := 0
  laneLost : Bool := false
  alone : Bool := false
  deriving DecidableEq, Repr

/-- How an interface report marks a range (R366). -/
inductive RangeAttr where
  | tee | teeReadOnly | teeLocked | teeMemory
  deriving DecidableEq, Repr

/-- A range of an interface report (R366, R372): its BAR, offset, size and mark. -/
structure ReportRange where
  bar : Nat
  off : Nat
  size : Nat
  attr : RangeAttr
  deriving DecidableEq, Repr

/-- What the module sends out: message-signalled interrupts, ATS and TDISP messages, responses to host and
peer accesses, PFC frames. The newest comes last. -/
inductive Out where
  | msix (ld vec : Nat)
  | transReq (ld : Nat) (m : Miss)
  | pageReq (ld prg : Nat) (m : Miss) (last : Bool)
  | atsDone (ld : Nat)
  | tdispOk (ld : Nat)
  | tdispError (ld : Nat)
  /-- LDINFO, the stacks, the ranges, and the constants of R364: vectors, devices, LD-ID and AtomicOp sizes -/
  | report (ld : Nat) (info : W64) (owned : W16) (ranges : List ReportRange) (consts : List Nat)
  | readData (ld : Nat) (bytes : List W8)
  | unsupported (ld : Nat)
  | atomicData (ld : Nat) (v : W64)
  | peerData (peer : W16) (bytes : List W8)
  | peerDone (peer : W16)
  | peerRefused (peer : W16) (code : Nat)
  | peerWait (peer : W16)
  | fabricRead (peer window offset size : Nat) (cmd chunk : Nat)
  | fabricWrite (peer window offset : Nat) (bytes : List W8)
  | fabricAppend (peer window : Nat) (bytes : List W8)
  | pfc (die port : Nat) (pcp : BitVec 3) (xoff : Bool)
  | shutdown
  deriving DecidableEq, Repr

/-- A request or a write of an agent that waits for a host page (R220, R423, R425): it is taken up again when
the host has answered. -/
inductive Pend where
  | mgmt (op : Nat) (c : MgmtCmd)
  | dbg (op : Nat) (c : DbgCmd)
  | port (ld op : Nat) (r : PortReq)
  /-- the writes of a completion record, and which error count a loss raises: 0 the invalidation port's, 1 the
  management port's, 2 the name ports', 3 none -/
  | write (ld : Nat) (dom : W16) (writes : List (W64 × List W8)) (err : Nat)
  | ring (ld : Nat) (r : Ring) (bytes : List W8)
  | frame (die port : Nat) (f : EthFrame) (time : W64)
  /-- a dropped frame still to be counted in its window's status word: port, descriptor (R386) -/
  | drop (k : Nat) (d : List W8)
  | peer (ld port : Nat) (a : PeerAccess)
  deriving DecidableEq, Repr

/-- The image slots in use (R406, R407, R412): whether the Preut and the milliner image run from slot B, the dies whose microcode does,
and whether no microcode image verified. -/
structure Images where
  preutB : Bool := false
  millB : Bool := false
  microB : List Nat := []
  noMicro : Bool := false
  deriving DecidableEq, Repr

/-- The whole module. -/
structure State where
  agenda : List Instr
  focus : Option Nat
  runs : FMap Run
  groups : FMap Group
  teams : FMap Team
  felts : FMap Felt
  tasks : FMap Task
  queues : FMap Queue
  copies : List Copy
  joins : List Join
  dmem : Mem
  hmem : Mem
  keeps : FMap Keep
  nameMirror : FMap Nat
  hostFresh : List W64
  parked : List (W64 × Nat × Nat × W64)
  tlb : List TlbEnt
  walks : List TlbEnt
  past : List Past
  reclaims : List (Nat × Nat × Nat)
  keepGens : FMap (BitVec 16)
  keepLeaves : List TlbEnt
  atc : List AtcEnt
  icache : List CacheLine
  lds : FMap Ld
  dies : FMap Die
  ports : FMap Port
  ingest : FMap Ingest
  samples : FMap Sample
  sampleRecs : List SampleRec
  stage : Nat
  images : Images
  plan : Nat × Nat × Nat
  avoid : List W64
  avoidNow : List W64
  peerno : W16
  overPower : Bool
  coolant : Bool
  shut : Bool
  mhalt : Bool
  life : FMap Nat
  drainers : List (Nat × Nat × Nat × Nat)
  pend : List Pend
  fresh : Nat
  nextId : Nat
  out : List Out
  deriving DecidableEq, Repr

-- DESIGN CHOICE: log 1, 2; PRESUMED: log 112
/-- The module right after reset: nothing runs, no die has joined, nothing is listed in any store.
The milliners' groups are placed by MODULE_RESET's start of the milliner images (R405, R406). -/
def State.reset : State where
  agenda := []
  focus := none
  runs := []
  groups := []
  teams := []
  felts := []
  tasks := []
  queues := []
  copies := []
  joins := []
  dmem := []
  hmem := []
  keeps := []
  nameMirror := []
  hostFresh := []
  parked := []
  tlb := []
  walks := []
  past := []
  reclaims := []
  keepGens := []
  keepLeaves := []
  atc := []
  icache := []
  lds := []
  dies := []
  ports := []
  ingest := []
  samples := []
  sampleRecs := []
  stage := 0
  images := {}
  plan := (0, 0, 0)
  avoid := []
  avoidNow := []
  peerno := 0xFFFF#16
  overPower := false
  coolant := false
  shut := false
  mhalt := false
  life := []
  drainers := []
  pend := []
  fresh := 0
  nextId := 1
  out := []

end Sys2Proof.Machine
end

