-- ==== Sys2Proof/Machine/Map.lean ====
section
/-! DEFINITION. Sparse maps, byte stores, lane masks and byte order. -/

namespace Sys2Proof.Machine

/-- The entry of key `n`. -/
def look {β : Type} : FMap β → Nat → Option β
  | [], _ => none
  | (k, v) :: t, n => if k = n then some v else look t n

/-- The map without key `n`. -/
def erase {β : Type} : FMap β → Nat → FMap β
  | [], _ => []
  | (k, v) :: t, n => if k = n then erase t n else (k, v) :: erase t n

/-- The map with `x` at key `n`, keys rising. -/
def ins {β : Type} : FMap β → Nat → β → FMap β
  | [], n, x => [(n, x)]
  | (k, v) :: t, n, x => if n < k then (n, x) :: (k, v) :: t else if n = k then (n, x) :: t else (k, v) :: ins t n x

/-- The map with `f` applied to the entry of key `n`, if there is one. -/
def adjust {β : Type} (m : FMap β) (n : Nat) (f : β → β) : FMap β :=
  match look m n with
  | some v => ins m n (f v)
  | none => m

/-- Keys strictly rising from above `lo`. -/
def risingFrom {β : Type} : FMap β → Nat → Bool
  | [], _ => true
  | (k, _) :: t, lo => lo ≤ k && risingFrom t (k + 1)

-- DESIGN CHOICE: log 1
/-- The canonical form of a byte store: addresses strictly rising, no entry equal to what an unlisted address
reads as. -/
def Mem.wf (m : Mem) : Bool := risingFrom m 0 && m.all (fun c => c.2 != 0#8)

-- DESIGN CHOICE: log 1
/-- One byte; an unlisted address reads 0. -/
def rd (m : Mem) (a : Nat) : W8 := (look m a).getD 0#8

/-- A byte store with one byte written, in canonical form. -/
def wr (m : Mem) (a : Nat) (b : W8) : Mem := if b = 0#8 then erase m a else ins m a b

/-- `n` bytes from `a` on, lowest address first. -/
def rdN (m : Mem) (a : Nat) : Nat → List W8
  | 0 => []
  | n + 1 => rd m a :: rdN m (a + 1) n

/-- Bytes written from `a` on, lowest address first. -/
def wrN (m : Mem) (a : Nat) : List W8 → Mem
  | [] => m
  | b :: t => wrN (wr m a b) (a + 1) t

/-- Every byte of a range made 0. -/
def zeroRange (m : Mem) (lo n : Nat) : Mem := m.filter (fun c => !(lo ≤ c.1 && c.1 < lo + n))

/-- The number little-endian bytes spell (R2). -/
def leNat : List W8 → Nat
  | [] => 0
  | b :: t => b.toNat + 256 * leNat t

/-- `n` little-endian bytes of a number. -/
def toLe : Nat → Nat → List W8
  | 0, _ => []
  | n + 1, x => BitVec.ofNat 8 x :: toLe n (x / 256)

/-- Little-endian words of 8, 4 and 2 bytes. -/
def le64 (bs : List W8) : W64 := BitVec.ofNat 64 (leNat bs)
def le32 (bs : List W8) : W32 := BitVec.ofNat 32 (leNat bs)
def bytes8 (x : W64) : List W8 := toLe 8 x.toNat
def bytes4 (x : W32) : List W8 := toLe 4 x.toNat

/-- Bytes `lo` to `lo + n - 1` of a block. -/
def slice (bs : List W8) (lo n : Nat) : List W8 := (bs.drop lo).take n
def num (bs : List W8) (lo n : Nat) : Nat := leNat (slice bs lo n)
def word (bs : List W8) (lo : Nat) : W64 := le64 (slice bs lo 8)

/-- Bits `hi` to `lo` of a number. -/
def bits (x : Nat) (hi lo : Nat) : Nat := (x / 2 ^ lo) % 2 ^ (hi + 1 - lo)
def wbits (x : W64) (hi lo : Nat) : Nat := bits x.toNat hi lo
def n64 (x : Nat) : W64 := BitVec.ofNat 64 x
def n32 (x : Nat) : W32 := BitVec.ofNat 32 x
def b64 (b : Bool) : W64 := if b then 1#64 else 0#64

/-- A multiple of `n`. -/
def aligned (x : W64) (n : Nat) : Bool := x.toNat % n == 0

/-- The list `f 0 … f (n - 1)`. -/
def gen {α : Type} (n : Nat) (f : Nat → α) : List α := (List.range n).map f

/-- The element of lane `t`; lanes past the list read the default. -/
def lane {α : Type} (d : α) (l : List α) (t : Nat) : α := l.getD t d

/-- A lane mask: bit t for thread t. -/
def hasLane (m : W64) (t : Nat) : Bool := m.getLsbD t
def maskOf (w : Nat) (f : Nat → Bool) : W64 :=
  n64 ((List.range w).foldr (fun t acc => acc + (if f t then 2 ^ t else 0)) 0)
def fullMask (w : Nat) : W64 := n64 (2 ^ w - 1)
def laneList (w : Nat) (m : W64) : List Nat := (List.range w).filter (hasLane m)
def lowLane (w : Nat) (m : W64) : Nat := ((laneList w m).head?).getD 0
def popc (m : W64) : Nat := ((List.range 64).filter (hasLane m)).length

/-- `new` in the lanes of the mask, `old` in the others. -/
def blend {α : Type} (d : α) (w : Nat) (m : W64) (new old : List α) : List α :=
  gen w (fun t => if hasLane m t then lane d new t else lane d old t)

/-- A list with one element replaced. -/
def setAt {α : Type} : List α → Nat → α → List α
  | [], _, _ => []
  | _ :: t, 0, x => x :: t
  | h :: t, n + 1, x => h :: setAt t n x

/-- A list of numbers in ascending order, each once. -/
def insSorted (x : Nat) : List Nat → List Nat
  | [] => [x]
  | y :: t => if x < y then x :: y :: t else if x = y then y :: t else y :: insSorted x t
def sortN (l : List Nat) : List Nat := l.foldr insSorted []

/-- A saturating count of 64 bits (R401). -/
def satAdd (n k : Nat) : Nat := min (n + k) (2 ^ 64 - 1)

end Sys2Proof.Machine
end

