-- ==== Sys2Proof/Machine/Float.lean ====
section
/-! DEFINITION. Binary floating point by exact numbers: decode, compute exactly, round once (R54–R57). -/

namespace Sys2Proof.Machine

/-- A format: exponent and mantissa field widths (R55). -/
structure Fmt where
  eb : Nat
  mb : Nat
  deriving DecidableEq, Repr

def f16 : Fmt := ⟨5, 10⟩
def bf16 : Fmt := ⟨8, 7⟩
def f32 : Fmt := ⟨8, 23⟩
def f64 : Fmt := ⟨11, 52⟩

def Fmt.bias (f : Fmt) : Int := 2 ^ (f.eb - 1) - 1
def Fmt.width (f : Fmt) : Nat := 1 + f.eb + f.mb
/-- The bits of +infinity; everything above, sign apart, is a NaN. -/
def Fmt.infBits (f : Fmt) : Nat := (2 ^ f.eb - 1) * 2 ^ f.mb
/-- The canonical NaN (R55): positive, quiet, payload zero. -/
def Fmt.nanBits (f : Fmt) : Nat := f.infBits + 2 ^ (f.mb - 1)
def Fmt.signBit (f : Fmt) : Nat := 2 ^ (f.eb + f.mb)
def Fmt.maxFinite (f : Fmt) : Nat := f.infBits - 1

/-- A number: NaN, an infinity, or exactly ± m · 2^e. -/
inductive Num where
  | nan
  | inf (neg : Bool)
  | fin (neg : Bool) (m : Nat) (e : Int)
  deriving DecidableEq, Repr

def Num.zero (neg : Bool) : Num := .fin neg 0 0
def Num.isNan : Num → Bool | .nan => true | _ => false
def Num.isZero : Num → Bool | .fin _ 0 _ => true | _ => false
def Num.neg : Num → Num
  | .nan => .nan
  | .inf s => .inf !s
  | .fin s m e => .fin (!s) m e
def Num.sign : Num → Bool | .nan => false | .inf s => s | .fin s _ _ => s

/-- The number a pattern stands for; with `ftz` a subnormal is the zero of its sign. -/
def decodeF (f : Fmt) (ftz : Bool) (x : Nat) : Num :=
  let neg := bits x (f.eb + f.mb) (f.eb + f.mb) == 1
  let ex := bits x (f.eb + f.mb - 1) f.mb
  let mant := x % 2 ^ f.mb
  if ex == 2 ^ f.eb - 1 then (if mant == 0 then .inf neg else .nan)
  else if ex == 0 then (if ftz then .zero neg else .fin neg mant (1 - f.bias - f.mb))
  else .fin neg (2 ^ f.mb + mant) (ex - f.bias - f.mb)

/-- Bits of a number's binary notation. -/
def bitLen (n : Nat) : Nat := if n = 0 then 0 else Nat.log2 n + 1

/-- Whether a magnitude is rounded away from zero (R57): mode 0 RNE, 1 RTZ, 2 RUP, 3 RDN; `twice` compares twice
the remainder with the unit: 0 below half, 1 half, 2 above; `exact` no remainder. -/
def roundUp (rm : Nat) (neg odd exact : Bool) (twice : Nat) : Bool :=
  if exact then false
  else match rm with
    | 0 => twice == 2 || (twice == 1 && odd)
    | 1 => false
    | 2 => !neg
    | _ => neg

/-- A rounded result: the pattern; whether rounding overflowed; whether the result is subnormal; whether it is
tiny, which is to say below the least normal number when rounded with an unbounded exponent (R151); and whether it is
inexact. -/
structure Rounded where
  bits : Nat
  ovf : Bool := false
  sub : Bool := false
  tiny : Bool := false
  inexact : Bool := false
  deriving DecidableEq, Repr

/-- A magnitude m · 2^e with the units below `q` rounded away: the kept part in units of 2^q, and whether that was
exact. -/
def roundAt (rm : Nat) (neg : Bool) (m : Nat) (e q : Int) (sticky : Bool) : Nat × Bool :=
  let up : Nat := (e - q).toNat
  let down : Nat := (q - e).toNat
  let kept := if q ≤ e then m * 2 ^ up else m / 2 ^ down
  let rest := if q ≤ e then 0 else m % 2 ^ down
  let exact := rest == 0 && !sticky
  let twice := if q ≤ e then 0 else if 2 * rest < 2 ^ down then 0 else if 2 * rest == 2 ^ down && !sticky then 1 else 2
  (kept + (if roundUp rm neg (kept % 2 == 1) exact twice then 1 else 0), exact)

/-- ± m · 2^e rounded once to a format. `sticky` says that the exact magnitude lies strictly between m and
m + 1; m then has more bits than the format. -/
def roundF (f : Fmt) (rm : Nat) (neg : Bool) (m : Nat) (e : Int) (sticky : Bool) : Rounded :=
  let sb := if neg then f.signBit else 0
  if m = 0 && !sticky then { bits := sb }
  else
    let top : Int := e + bitLen m - 1
    let q : Int := max (top - f.mb) (1 - f.bias - f.mb)
    let (r, exact) := roundAt rm neg m e q sticky
    let field := (q + f.mb + f.bias).toNat
    let b := field * 2 ^ f.mb + r - 2 ^ f.mb
    if f.infBits ≤ b then
      let toInf := rm == 0 || (rm == 2 && !neg) || (rm == 3 && neg)
      { bits := sb + (if toInf then f.infBits else f.maxFinite), ovf := true, inexact := true }
    else
      let tiny := decide (top < 1 - f.bias) && (decide (top < -f.bias) || decide ((roundAt rm neg m e (top - f.mb) sticky).1 < 2 ^ (f.mb + 1)))
      { bits := sb + b, sub := decide (r < 2 ^ f.mb) && r != 0, tiny := tiny, inexact := !exact }

/-- The pattern of a number. -/
def encodeF (f : Fmt) (rm : Nat) : Num → Rounded
  | .nan => { bits := f.nanBits }
  | .inf s => { bits := (if s then f.signBit else 0) + f.infBits }
  | .fin s m e => roundF f rm s m e false

/-- A signed number at an exponent no greater than its own. -/
def atExp (s : Bool) (m : Nat) (e lo : Int) : Int := (if s then -1 else 1) * (m * 2 ^ (e - lo).toNat : Nat)

/-- An exact sum; the sign of an exact zero sum follows the rounding mode. -/
def addN (rm : Nat) : Num → Num → Num
  | .nan, _ => .nan
  | _, .nan => .nan
  | .inf a, .inf b => if a == b then .inf a else .nan
  | .inf a, .fin _ _ _ => .inf a
  | .fin _ _ _, .inf b => .inf b
  | .fin a m e, .fin b n k =>
    let lo := min e k
    let t := atExp a m e lo + atExp b n k lo
    if t = 0 then .zero (if m = 0 && n = 0 && a == b then a else rm == 3)
    else .fin (decide (t < 0)) t.natAbs lo

/-- An exact product. -/
def mulN : Num → Num → Num
  | .nan, _ => .nan
  | _, .nan => .nan
  | .inf a, y => if y.isZero then .nan else .inf (a != y.sign)
  | x, .inf b => if x.isZero then .nan else .inf (x.sign != b)
  | .fin a m e, .fin b n k => .fin (a != b) (m * n) (e + k)

/-- Whether the first number is below, equal to or above the second; `none` where one is a NaN. -/
def cmpN : Num → Num → Option Ordering
  | .nan, _ => none
  | _, .nan => none
  | .inf a, .inf b => some (if a == b then .eq else if a then .lt else .gt)
  | .inf a, _ => some (if a then .lt else .gt)
  | _, .inf b => some (if b then .gt else .lt)
  | .fin a m e, .fin b n k =>
    let lo := min e k
    some (compare (atExp a m e lo) (atExp b n k lo))

/-- A quotient rounded once: NaN for 0/0 and inf/inf. -/
def divF (f : Fmt) (rm : Nat) : Num → Num → Rounded
  | .nan, _ => { bits := f.nanBits }
  | _, .nan => { bits := f.nanBits }
  | .inf _, .inf _ => { bits := f.nanBits }
  | .inf a, .fin b _ _ => encodeF f rm (.inf (a != b))
  | .fin a _ _, .inf b => encodeF f rm (.zero (a != b))
  | .fin a m e, .fin b n k =>
    if n = 0 then (if m = 0 then { bits := f.nanBits } else encodeF f rm (.inf (a != b)))
    else
      let sh := f.mb + 4 + bitLen n
      let q := m * 2 ^ sh / n
      let r := m * 2 ^ sh % n
      roundF f rm (a != b) q (e - k - sh) (r != 0)

/-- The integer square root, by one bit of the root a step. -/
def isqrtFrom (n : Nat) : Nat → Nat → Nat
  | 0, r => r
  | k + 1, r => let r' := r + 2 ^ k; isqrtFrom n k (if r' * r' ≤ n then r' else r)
def isqrt (n : Nat) : Nat := isqrtFrom n (bitLen n / 2 + 1) 0

/-- A square root rounded once; NaN below zero, −0 for −0. -/
def sqrtF (f : Fmt) (rm : Nat) : Num → Rounded
  | .nan => { bits := f.nanBits }
  | .inf s => if s then { bits := f.nanBits } else { bits := f.infBits }
  | .fin s m e =>
    if m = 0 then encodeF f rm (.zero s)
    else if s then { bits := f.nanBits }
    else
      let sh := 2 * (f.mb + 4) + (e % 2).toNat
      let n := m * 2 ^ sh
      let r := isqrt n
      roundF f rm false r ((e - sh) / 2) (r * r != n)

/-- A finite number's integer part under a rounding mode, as an exact integer. -/
def intOf (rm : Nat) (s : Bool) (m : Nat) (e : Int) : Int :=
  if 0 ≤ e then atExp s m e 0
  else
    let d := (-e).toNat
    let q := m / 2 ^ d
    let r := m % 2 ^ d
    let twice := if 2 * r < 2 ^ d then 0 else if 2 * r == 2 ^ d then 1 else 2
    let k : Nat := q + (if roundUp rm s (q % 2 == 1) (r == 0) twice then 1 else 0)
    if s then -(k : Int) else (k : Int)

/-- An integer as a number. -/
def ofInt (i : Int) : Num := .fin (decide (i < 0)) i.natAbs 0

/-- FP32 addition with RNE, subnormals honoured, canonical NaN (R202). -/
def add32 (a b : W32) : W32 := n32 (encodeF f32 0 (addN 0 (decodeF f32 false a.toNat) (decodeF f32 false b.toNat))).bits

end Sys2Proof.Machine
end

