-- ==== Sys2Proof/Config.lean ====
section
/-! DEFINITION. What an implementation fixes and the spec leaves open: free values, which nothing can evaluate. -/

namespace Sys2Proof.Config

/-- A value the spec leaves unspecified (R5): a fresh one for each value of the state's counter. -/
opaque freeWord : Nat → W64
/-- How far a die's clock has moved when it is looked at (R403): a fresh amount each time. -/
opaque clockStep : Nat → Nat
/-- The value an approximated function returns (R142, R143) where only an error bound is given: function
number and operand. The model takes it only where it lies within the bound. -/
opaque approx : Nat → W32 → W32
/-- Whether a host physical range lies in a CXL window granted to a logical device (R210): logical
device, address and size. -/
opaque cxlGranted : Nat → Nat → Nat → Bool
/-- The latencies and levels a sample record reports (R400): a fresh value each time. -/
opaque sampleField : Nat → W64
/-- The bytes a context record takes beyond its header, in units of 64 (R355): width and trees of the group. -/
opaque recordUnits : Nat → Nat → Nat
/-- Whether a peer's fabric window is an APPEND window (R382): peer and window. -/
opaque peerAppend : Nat → Nat → Bool
/-- The first dword of the debug DVSEC's capability (R391): its identity, version and the next capability's place. -/
opaque dvsecCap : W32
/-- Tervia's vendor ID (R391). -/
opaque vendorId : W16
/-- How many page requests of a logical device the host lets be outstanding (R218). -/
opaque pageAlloc : Nat → Nat
/-- The name Preut firmware gives a milliner (R298): its number and the logical device it serves. -/
opaque millinerName : Nat → Nat → W64
end Sys2Proof.Config
end

