-- ==== Sys2Proof/Machine/Ops.lean ====
section
/-! DEFINITION. The named operations over the state: who is where, clocks, translation, memory, records, taking a
trap and returning from one. -/

namespace Sys2Proof.Machine

/-! ## Stops and the state monad of a unit or an agent's step -/

/-- Why a unit, or an agent's step, stops before its end. A stop leaves the state as it was before. -/
inductive Stop where
  /-- a precise trap (R338): cause, TRAPINFO, lowest lane, code and level of R213, address -/
  | trap (cause : Nat) (info : W64) (lane code level : Nat) (addr : W64)
  /-- the word stalls (R107) -/
  | stall
  /-- a host page is missing (R220) -/
  | suspend (miss : List Miss)
  /-- a peer team is not resident (R295) -/
  | peer (teams : List Nat)
  /-- a spill or refill met a fault: the group halts (R83) -/
  | spillFault (cause code level : Nat) (addr : W64)
  /-- a debug stop before the unit issues (R394, R398): trace event, its index byte and address -/
  | debug (ev index : Nat) (addr : W64)
  /-- an agent's access met a fault of R213 -/
  | fail (cause code level : Nat) (addr : W64)
  deriving DecidableEq, Repr

-- DEDUCED: log 25
/-- A step that reads and changes the state, or stops. -/
abbrev M := StateT State (Except Stop)

-- DEDUCED: log 25
def stop {α : Type} (r : Stop) : M α := throw r
def trap {α : Type} (cause : Nat) (info : W64) : M α := throw (.trap cause info 0 0 0 0#64)
-- DEDUCED: log 6
def guardM (b : Bool) (r : Stop) : M Unit := if b then pure () else throw r

/-- ILLEGAL_INSTRUCTION, ILLEGAL_OPERAND and ILLEGAL_ROLE (R338). -/
def illegalInstruction {α : Type} : M α := trap 1 0#64
def illegalOperand {α : Type} (info : W64) : M α := trap 2 info
def illegalRole {α : Type} : M α := trap 3 0#64

/-! ## Looking things up -/

def State.grp (s : State) (g : Nat) : Group := (look s.groups g).getD Group.blank
def State.team (s : State) (t : Nat) : Team := (look s.teams t).getD Team.blank
def State.felt (s : State) (f : Nat) : Felt := (look s.felts f).getD Felt.blank
def State.task (s : State) (t : Nat) : Task := (look s.tasks t).getD Task.blank
def State.ldev (s : State) (l : Nat) : Ld := (look s.lds l).getD {}
def State.die (s : State) (d : Nat) : Die := (look s.dies d).getD {}
def State.port (s : State) (k : Nat) : Port := (look s.ports k).getD {}

def State.setGrp (s : State) (g : Nat) (x : Group) : State := { s with groups := ins s.groups g x }
def State.setTeam (s : State) (t : Nat) (x : Team) : State := { s with teams := ins s.teams t x }
def State.setFelt (s : State) (t : Nat) (x : Felt) : State := { s with felts := ins s.felts t x }
def State.setTask (s : State) (t : Nat) (x : Task) : State := { s with tasks := ins s.tasks t x }
def State.setLd (s : State) (l : Nat) (x : Ld) : State := { s with lds := ins s.lds l x }
def State.setDie (s : State) (d : Nat) (x : Die) : State := { s with dies := ins s.dies d x }
def State.setPort (s : State) (k : Nat) (x : Port) : State := { s with ports := ins s.ports k x }

def State.modGrp (s : State) (g : Nat) (f : Group → Group) : State := s.setGrp g (f (s.grp g))
def State.modTeam (s : State) (t : Nat) (f : Team → Team) : State := s.setTeam t (f (s.team t))
def State.modFelt (s : State) (t : Nat) (f : Felt → Felt) : State := s.setFelt t (f (s.felt t))
def State.modTask (s : State) (t : Nat) (f : Task → Task) : State := s.setTask t (f (s.task t))
def State.modLd (s : State) (l : Nat) (f : Ld → Ld) : State := s.setLd l (f (s.ldev l))
def State.modDie (s : State) (d : Nat) (f : Die → Die) : State := s.setDie d (f (s.die d))
def State.modPort (s : State) (k : Nat) (f : Port → Port) : State := s.setPort k (f (s.port k))

def getG (g : Nat) : M Group := do return (← get).grp g
def modG (g : Nat) (f : Group → Group) : M Unit := modify (fun s => s.modGrp g f)

def State.emit (s : State) (o : Out) : State := { s with out := s.out ++ [o] }

/-- A fresh handle. -/
def newId : M Nat := do
  let s ← get
  set { s with nextId := s.nextId + 1 }
  return s.nextId

-- DESIGN CHOICE: log 5
/-- A value the spec leaves unspecified (R5): the free value of the state's counter, which moves on. -/
def freeVal : M W64 := do
  let s ← get
  set { s with fresh := s.fresh + 1 }
  return Config.freeWord s.fresh

/-- As many free values as asked for, by their place. -/
def freeWords (n : Nat) : M (Nat → W64) := do
  let s ← get
  set { s with fresh := s.fresh + n }
  return fun i => Config.freeWord (s.fresh + i)

-- DESIGN CHOICE: log 5, 12
/-- A free choice between two behaviours the spec allows. -/
def freeChoice : M Bool := do return (← freeVal).getLsbD 0

-- DESIGN CHOICE: log 5
/-- `n` free bytes. -/
def freeBytes : Nat → M (List W8)
  | 0 => pure []
  | n + 1 => do
    let b ← freeVal
    return b.setWidth 8 :: (← freeBytes n)

-- DESIGN CHOICE: log 15
/-- DIECLK of a die as read now (R403): it has moved by an amount nothing fixes. -/
def State.clock (s : State) (d : Nat) : W64 × State :=
  let c := (s.die d).clk + n64 (Config.clockStep s.fresh)
  (c, { s with fresh := s.fresh + 1 }.modDie d (fun x => { x with clk := c }))
-- DESIGN CHOICE: log 15
def clock (d : Nat) : M W64 := do
  let r := (← get).clock d
  set r.2
  return r.1
-- DESIGN CHOICE: log 15
/-- A die's clock moved on by at least `n` ticks, for a limit that has passed. -/
def State.elapse (s : State) (d n : Nat) : State :=
  s.modDie d (fun x => { x with clk := x.clk + n64 n })

/-! ## Sites -/

/-- The number of a site: partitions first, then the milliners. -/
def Site.num : Site → Nat
  | .part core p => core.val * 8 + p.val
  | .milliner m => 1536 + m.val
def siteOf (g : Group) : Nat := match g.mill with | some m => 1536 + m | none => g.core * 8 + g.part
/-- The die a group runs on; 8 is the I/O die. -/
def dieOf (g : Group) : Nat := match g.mill with | some _ => 8 | none => g.core / 24
/-- LOC of a RESIDENT name (R300). -/
def locOf (g : Group) : W64 :=
  match g.mill with
  | some m => n64 (0xF0 + m)
  | none => n64 (g.core + g.part * 256 + g.slot * 2048)

def alive (g : Group) : Bool := g.place != .exited && g.place != .ended
def resident (g : Group) : Bool := g.place == .resident

/-- The resident groups of a site, by slot. -/
def State.siteGroups (s : State) (n : Nat) : List (Nat × Group) :=
  s.groups.filter (fun e => resident e.2 && siteOf e.2 == n)

/-! ## The TCB's fields (R80) -/

def Tcb.w (t : Tcb) : Nat := 16 * 2 ^ bits t.shape.toNat 1 0
def Tcb.groups (t : Tcb) : Nat := bits t.shape.toNat 6 2 + 1
def Tcb.copart (t : Tcb) : Bool := t.shape.getLsbD 7
def Tcb.rows (t : Tcb) : Nat := bits t.shape.toNat 9 8 + 1
def Tcb.cols (t : Tcb) : Nat := bits t.shape.toNat 12 10 + 1
def Tcb.teams (t : Tcb) : Nat := t.rows * t.cols
def Tcb.scratch (t : Tcb) : Nat := bits t.mem.toNat 8 0 * 4096
def Tcb.acc (t : Tcb) : Nat := bits t.mem.toNat 18 9 * 4096
def Tcb.budgetN (t : Tcb) : Nat := bits t.budget.toNat 12 0
def Tcb.feltN (t : Tcb) : Nat := t.felts.toNat
def Tcb.gd (t : Tcb) (g : Nat) : W16 := t.gdesc.getD g 0#16
def Tcb.roleOf (t : Tcb) (g : Nat) : Nat := bits (t.gd g).toNat 1 0
def Tcb.floorOf (t : Tcb) (g : Nat) : Nat := bits (t.gd g).toNat 8 2
def Tcb.treesOf (t : Tcb) (g : Nat) : Nat := bits (t.gd g).toNat 11 9
/-- The name of group `g` of the team at `pos`, its spill area and its exit slot (R83). -/
def Tcb.nameOf (t : Tcb) (pos g : Nat) : W64 := t.namebase + n64 (pos * t.groups + g)
def Tcb.spillOf (t : Tcb) (pos g : Nat) : W64 := t.spill + n64 ((pos * t.groups + g) * 80 * t.w * 4)
def Tcb.exitOf (t : Tcb) (pos g : Nat) : W64 := t.exitarea + n64 ((pos * t.groups + g) * 8)

/-! ## Logical devices, domains and frames -/

/-- The logical device of a domain, and a device's first domain (R365). -/
def domLd (dom : W16) : Nat := dom.toNat / 256
def domBase (ld : Nat) : W16 := BitVec.ofNat 16 (ld * 256)

/-- The domain table entry (R367), as bytes. -/
def State.domEntry (s : State) (dom : W16) : List W8 :=
  rdN (s.ldev (domLd dom)).bar0 (0x10000 + 32 * (dom.toNat % 256)) 32

def domEntryOk (e : List W8) : Bool :=
  bits (num e 28 2) 0 0 == 1 && bits (num e 28 2) 15 2 == 0 && num e 30 2 == 0 && bits (num e 24 4) 31 20 == 0
    && num e 16 8 % 512 == 0 && num e 8 8 % 524288 == 0 && num e 0 8 % 512 == 0

/-- The entry of a domain that has V = 1 and no reserved bit set. -/
def State.domain (s : State) (dom : W16) : Option (List W8) :=
  let e := s.domEntry dom
  if domLd dom < 16 && domEntryOk e then some e else none

/-- The PASID a domain is bound to (R218). -/
def State.pasid (s : State) (dom : W16) : Option (BitVec 20) :=
  let e := s.domEntry dom
  if bits (num e 28 2) 1 1 == 1 then some (BitVec.ofNat 20 (num e 24 4)) else none

/-- Bytes of one HBM stack (R211, R365). -/
def stackBytes : Nat := 48000000000
def State.stackLd (s : State) (die stack : Nat) : Nat :=
  let c := (s.die die).fwctl.toNat
  if stack == 0 then bits c 27 24 else bits c 31 28

/-- The frame check (R211): all of the frame lies in the stacks of one die that belong to the device. -/
def State.frameOk (s : State) (ld pa size : Nat) : Bool :=
  let die := pa / 2 ^ 37
  let off := pa % 2 ^ 37
  decide (die < 8) && decide (off + size ≤ 2 * stackBytes)
    && (decide (stackBytes ≤ off) || s.stackLd die 0 == ld)
    && (decide (off + size ≤ stackBytes) || s.stackLd die 1 == ld)

-- DEDUCED: log 40
/-- Whether the link between the dies `a` and `a + 1` of a row is open at both ends (R374). -/
def State.linkOpen (s : State) (a : Nat) : Bool := (s.die a).fwctl.getLsbD 1 && (s.die (a + 1)).fwctl.getLsbD 0

-- DEDUCED: log 40
/-- The dies a transfer passes along a row from position `a` to position `b`, and whether each link on the
way is open at both ends within one partition (R373, R374). -/
def State.rowOpen (s : State) (row : Nat) : Nat → Nat → Bool
  | _, 0 => true
  | a, n + 1 =>
    let l := (s.die (row * 4 + a)).fwctl
    let r := (s.die (row * 4 + a + 1)).fwctl
    s.linkOpen (row * 4 + a) && wbits l 11 8 == wbits r 11 8 && s.rowOpen row (a + 1) n

-- DEDUCED: log 40
/-- Whether a compute die's way to the I/O die is open (R8, R374): the outer dies of a row pass through the next one, whatever
its partition. -/
def State.ioOpen (s : State) (d : Nat) : Bool :=
  (s.die d).fwctl.getLsbD 2
    && (if d % 4 == 0 then s.linkOpen d && (s.die (d + 1)).fwctl.getLsbD 2
        else if d % 4 == 3 then s.linkOpen (d - 1) && (s.die (d - 1)).fwctl.getLsbD 2
        else true)

-- DEDUCED: log 40
/-- Whether the route from die `a` to die `b` crosses no closed link (R374); 8 is the I/O die. -/
def State.routeOpen (s : State) (a b : Nat) : Bool :=
  if a == b then true
  else if a == 8 then s.ioOpen b
  else if b == 8 then s.ioOpen a
  else if a / 4 == b / 4 then s.rowOpen (a / 4) (min (a % 4) (b % 4)) (max (a % 4) (b % 4) - min (a % 4) (b % 4))
  else s.ioOpen a && s.ioOpen b

/-! ## Page tables -/

/-- Bytes a leaf maps, by level (R206). -/
def leafBits (level : Nat) : Nat := if level == 1 then 39 else if level == 2 then 27 else 15

-- DEDUCED: log 31
/-- Whether a leaf's bits are legal at its level (R208, R209). -/
def leafOk (pte : Nat) (level : Nat) : Bool :=
  let ty := bits pte 4 2
  let mg := bits pte 14 12
  level != 0 && decide (ty ≤ 4) && (if ty == 3 then mg != 7 else mg == 0)
    && (ty == 4 || (pte % 2 ^ leafBits level) / 2 ^ 15 == 0 || level == 3)

-- DEDUCED: log 31
/-- The walk from the table of level `4 - n` on (R206, R209): the leaf entry and its level, or the code and
level of R213. -/
def State.walkFrom (s : State) (ld va : Nat) : Nat → Nat → Except (Nat × Nat) (W64 × Nat)
  | 0, _ => .error (2, 3)
  | n + 1, tab =>
    let lv := 3 - n
    if !s.frameOk ld tab (if lv == 0 then 512 else 32768) then .error (2, lv)
    else
      let idx := if lv == 0 then bits va 56 51 else if lv == 1 then bits va 50 39 else if lv == 2 then bits va 38 27 else bits va 26 15
      let pte := leNat (rdN s.dmem (tab + 8 * idx) 8)
      if bits pte 0 0 == 0 then .error (1, lv)
      else if bits pte 63 57 != 0 || bits pte 11 9 != 0 then .error (2, lv)
      else if bits pte 1 1 == 1 then
        if leafOk pte lv then .ok (n64 pte, lv) else .error (2, lv)
      else if bits pte 14 2 != 0 || lv == 3 then .error (2, lv)
      else s.walkFrom ld va n (bits pte 56 15 * 2 ^ 15)

/-- A fresh walk of a domain's tables (R207, R367). -/
def State.walk (s : State) (dom : W16) (va : Nat) : Except (Nat × Nat) (W64 × Nat) :=
  match s.domain dom with
  | none => .error (1, 0)
  | some e => s.walkFrom (domLd dom) va 4 (num e 0 8)

/-- What an access needs (R212, R423). -/
structure Need where
  r : Bool := false
  w : Bool := false
  x : Bool := false
  user : Bool := true

/-- What translating one address gives. -/
inductive Tr where
  | ok (t : Target) (u : Used)
  | fault (cause code level : Nat)
  | miss (m : Miss)

/-- Address bits below an entry of a level (R206). -/
def entBits (level : Nat) : Nat := if level == 0 then 51 else leafBits level

-- DESIGN CHOICE: log 13
/-- Whether a cached entry lies on the walk of an address. -/
def TlbEnt.onWalk (e : TlbEnt) (dom : W16) (va : Nat) : Bool := e.dom == dom && e.va / 2 ^ entBits e.level == va / 2 ^ entBits e.level

/-- A cached entry of a level for an address. -/
def TlbEnt.of (dom : W16) (va : Nat) (level : Nat) (pte : W64) : TlbEnt where
  ld := domLd dom
  dom := dom
  va := va / 2 ^ entBits level * 2 ^ entBits level
  level := level
  pte := pte

/-- The non-leaf entries a walk goes through, by level. -/
def State.walkPath (s : State) (dom : W16) (va : Nat) : Nat → Nat → List TlbEnt
  | 0, _ => []
  | n + 1, tab =>
    let lv := 3 - n
    let idx := if lv == 0 then bits va 56 51 else if lv == 1 then bits va 50 39 else bits va 38 27
    let pte := leNat (rdN s.dmem (tab + 8 * idx) 8)
    if lv == 3 || bits pte 1 0 != 1 then [] else TlbEnt.of dom va lv (n64 pte) :: s.walkPath dom va n (bits pte 56 15 * 2 ^ 15)

/-- Whether two walks come to the same. -/
def sameWalk : Except (Nat × Nat) (W64 × Nat) → Except (Nat × Nat) (W64 × Nat) → Bool
  | .ok a, .ok b => a == b
  | .error a, .error b => a == b
  | _, _ => false

-- DESIGN CHOICE: log 13
/-- What an access may find beside the tables' own answer (R214): a cached leaf, or the walk on from a cached non-leaf entry. -/
def State.leafAlts (s : State) (dom : W16) (va : Nat) : List (Except (Nat × Nat) (W64 × Nat)) :=
  ((s.tlb.filter (fun e => e.onWalk dom va)).map (fun e => .ok (e.pte, e.level)))
    ++ (s.walks.filter (fun e => e.onWalk dom va)).map (fun e => s.walkFrom (domLd dom) va (3 - e.level) (bits e.pte.toNat 56 15 * 2 ^ 15))

-- DESIGN CHOICE: log 13
/-- The caches after an access that used a leaf. -/
def State.cacheLeaf (s : State) (dom : W16) (va : Nat) (p : W64) (lv : Nat) : State :=
  let e := TlbEnt.of dom va lv p
  let path := match s.domain dom, s.walk dom va with
    | some d, .ok _ => (s.walkPath dom va 4 (num d 0 8)).filter (fun e => !s.walks.contains e)
    | _, _ => []
  { s with
    tlb := if s.tlb.contains e then s.tlb else s.tlb ++ [e]
    walks := s.walks ++ path
    keepLeaves := if bits p.toNat 4 2 == 3 && !s.keepLeaves.contains e then s.keepLeaves ++ [e] else s.keepLeaves }

-- DESIGN CHOICE: log 13
/-- The leaf an access uses: the tables' own, or what a cached entry gives that differs, where the choice falls on it (R214). -/
def leafFor (dom : W16) (va : Nat) : M (Except (Nat × Nat) (W64 × Nat)) := do
  let s ← get
  let now := s.walk dom va
  let other := (s.leafAlts dom va).filter (fun r => !sameWalk r now)
  let r ← if other.isEmpty then pure now else (do return lane now (now :: other) ((← freeVal).toNat % (other.length + 1)))
  match r with
  | .ok (p, lv) => do
    modify (fun s => s.cacheLeaf dom va p lv)
    return r
  | .error _ => return r

/-- The ATC entry of a host page (R219). -/
def State.atcFind (s : State) (ld : Nat) (pasid : BitVec 20) (ua : Nat) : Option AtcEnt :=
  s.atc.find? (fun e => e.ld == ld && e.pasid == pasid && e.page / 2 ^ e.log2 == ua / 2 ^ e.log2)

-- DEDUCED: log 81
/-- A device that makes no access to host memory (R370, R371). -/
def State.noDma (s : State) (ld : Nat) : Bool := (s.ldev ld).tdisp == .locked || (s.ldev ld).tdisp == .error

-- DESIGN CHOICE: log 13, 98; DEDUCED: log 31
/-- Translating one canonical address outside the window (R206 to R213, R219, R224). -/
def trans (dom : W16) (va : W64) (n : Need) : M Tr := do
  let ld := domLd dom
  match ← leafFor dom va.toNat with
  | .error (code, lv) => return .fault 4 code lv
  | .ok (pte, lv) =>
    let s ← get
    let p := pte.toNat
    let ty := bits p 4 2
    let bitsn := leafBits lv
    let frame := bits p 56 15 * 2 ^ 15
    let off := va.toNat % 2 ^ bitsn
    let u : Used := { ld := ld, dom := dom, va := va.toNat, pasid := none, page := 0 }
    if ty == 4 then return .fault 5 4 lv
    else if (n.r && !pte.getLsbD 5) || (n.w && !pte.getLsbD 6) || (n.x && !pte.getLsbD 7) || (n.user && pte.getLsbD 8) then
      return .fault 5 3 lv
    else if ty == 0 then
      if s.frameOk ld frame (2 ^ bitsn) then return .ok (.dev (frame + off)) u else return .fault 5 5 lv
    else if ty == 3 then
      if s.frameOk ld frame (2 ^ bitsn) then return .ok (.keep (frame + off) (BitVec.ofNat 3 (bits p 14 12))) u
      else return .fault 5 5 lv
    else if ty == 2 then
      if Config.cxlGranted ld frame (2 ^ bitsn) then return .ok (.cxl ld (frame + off)) u else return .fault 5 5 lv
    else
      match s.pasid dom with
      | none => return .fault 4 2 lv
      | some pa =>
        let ua := frame + off
        let m : Miss := { ld := ld, pasid := pa, page := n64 (ua / 4096 * 4096), write := n.w, exec := n.x, read := n.r }
        match (if s.noDma ld then none else s.atcFind ld pa ua) with
        | none => return .miss m
        | some e =>
          if (n.r && !e.r) || (n.w && !e.w) || (n.x && !e.x) then do
            set { s with atc := s.atc.filter (fun x => x != e) }
            return .miss m
          else return .ok (.host ld (e.ta + ua % 2 ^ e.log2)) { u with pasid := some pa, page := ua }

-- DEDUCED: log 40
/-- The die whose links a translated access reaches its home over: that of its frame, or the I/O die. -/
def Target.die : Target → Option Nat
  | .dev a => some (a / 2 ^ 37)
  | .keep a _ => some (a / 2 ^ 37)
  | .host _ _ => some 8
  | .cxl _ _ => some 8
  | .scr _ _ => none

-- DEDUCED: log 40
/-- Whether an access from a die reaches its target over open links (R374). -/
def State.reaches (s : State) (die : Nat) (t : Target) : Bool := t.die.all (s.routeOpen die)

/-- R174: bits 63:57 equal bit 56. -/
def canonical (a : W64) : Bool := wbits a 63 57 == (if a.getLsbD 56 then 127 else 0)

/-- An agent's access (R423): the target, or the agent waits for the host or meets a fault. A page the host
has refused answers once. -/
def agentAt (dom : W16) (va : W64) (n : Need) : M (Target × Used) := do
  if !canonical va || decide (0xFFFFFF0000000000 ≤ va.toNat) then stop (.fail 5 0 0 va)
  match ← trans dom va n with
  | .ok t u => return (t, u)
  | .fault c k l => stop (.fail c k l va)
  | .miss m =>
    let s ← get
    match (s.ldev m.ld).denied.find? (fun e => e.1 == m) with
    | some e => stop (.fail 4 e.2 0 va)
    | none => if (s.ldev m.ld).pageReqs then stop (.suspend [m]) else stop (.fail 4 9 0 va)

/-! ## Reading and writing the stores -/

-- DEDUCED: log 30; DESIGN CHOICE: log 95
/-- Keys of host memory by logical device. -/
def hostKey (ld a : Nat) : Nat := ld * 2 ^ 64 + a

-- DEDUCED: log 30
def State.readT (s : State) (t : Target) (n : Nat) : List W8 :=
  match t with
  | .dev a => rdN s.dmem a n
  | .keep a _ => rdN s.dmem a n
  | .host ld a => rdN s.hmem (hostKey ld a) n
  | .cxl ld a => rdN s.hmem (hostKey ld a) n
  | .scr team a => rdN (s.team team).scr a n

-- DESIGN CHOICE: log 46
def rangesMeet (a an b bn : Nat) : Bool := decide (a < b + bn) && decide (b < a + an)

-- DESIGN CHOICE: log 46
/-- A scratchpad write as matrix and copy commands see it: bytes they still read or write are spoilt (R236, R259). -/
def MCmd.spoil (lo n : Nat) (c : MCmd) : MCmd :=
  if c.regions.any (fun r => rangesMeet r.1 r.2 lo n) then { c with spoilt := c.spoilt ++ [(lo, n)] } else c
-- DESIGN CHOICE: log 43
def Copy.spoil (t lo n : Nat) (c : Copy) : Copy :=
  if (c.team == t || c.receivers.contains t) && rangesMeet (num c.pk 40 3) (num c.pk 36 2 * num c.pk 38 2) lo n then
    { c with spoilt := c.spoilt ++ [(t, lo, n)] }
  else c

-- DESIGN CHOICE: log 43, 46
/-- Bytes written into a team's scratchpad. -/
def State.scrPut (s : State) (t a : Nat) (bs : List W8) : State :=
  let s := s.modTeam t (fun x => { x with scr := wrN x.scr a bs, mq := x.mq.map (MCmd.spoil a bs.length) })
  { s with copies := s.copies.map (Copy.spoil t a bs.length) }

/-- The tile of a copy command that loads one: its first byte and its bytes. -/
def Copy.tile (c : Copy) : Nat × Nat := if num c.pk 1 1 % 8 == 3 then (0, 0) else (num c.pk 40 3, num c.pk 36 2 * num c.pk 38 2)

-- DESIGN CHOICE: log 43, 46
/-- Whether a team's scratchpad range holds what a MACC has still to write (R259) or tile bytes of a copy command (R236). -/
def State.hidden (s : State) (t a n : Nat) : Bool :=
  (s.team t).mq.any (fun c => c.kind == 2 && !c.token && wbits c.ctl 25 24 == 2 && rangesMeet (wbits c.opw 23 0) (wbits c.opw 47 24) a n)
    || s.copies.any (fun c => c.receivers.contains t && rangesMeet c.tile.1 c.tile.2 a n)

-- DESIGN CHOICE: log 43, 46
/-- Whether one scratchpad byte is such a byte, of a chunk whose bit no group of the team has observed. -/
def State.unsure (s : State) (t a : Nat) : Bool :=
  (s.team t).mq.any (fun c => c.kind == 2 && !c.token && wbits c.ctl 25 24 == 2 && rangesMeet (wbits c.opw 23 0) (wbits c.opw 47 24) a 1)
    || s.copies.any (fun c => c.receivers.contains t && rangesMeet c.tile.1 c.tile.2 a 1
      && !(s.team t).gids.any (fun g => (s.grp g).saw.contains (c.id, (a - c.tile.1) / 512)))

-- DESIGN CHOICE: log 43
/-- Bytes as a reader finds them: those of R236 and R259 unspecified. -/
def State.seeT (s : State) (t : Target) (n : Nat) : List W8 :=
  match t with
  | .scr k a =>
    if s.hidden k a n then gen n (fun i => if s.unsure k (a + i) then (Config.freeWord (s.fresh + i)).setWidth 8 else lane 0#8 (s.readT t n) i)
    else s.readT t n
  | _ => s.readT t n
-- DESIGN CHOICE: log 43
/-- The state once they have been read. -/
def State.sawT (s : State) (t : Target) (n : Nat) : State :=
  match t with
  | .scr k a => if s.hidden k a n then { s with fresh := s.fresh + n } else s
  | _ => s

-- DESIGN CHOICE: log 43
/-- What a group has observed once it has read scratchpad bytes `off` to `off + n - 1` of its team as an acquire (R236): the chunks
whose bits stand there. -/
def sawBits (s : State) (off n : Nat) (x : Group) : Group :=
  let new := s.copies.flatMap (fun c =>
    if c.receivers.contains x.team then
      ((List.range (8 * n)).filter (fun i => decide (8 * num c.pk 43 3 ≤ 8 * off + i)
        && (rd (s.team x.team).scr (off + i / 8)).getLsbD (i % 8))).map (fun i => (c.id, 8 * off + i - 8 * num c.pk 43 3))
    else [])
  { x with saw := (x.saw.filter (fun e => s.copies.any (fun c => c.id == e.1)) ++ new).dedup }

-- DESIGN CHOICE: log 43
/-- Bytes of a block at offset `lo` with those in spoilt ranges unspecified (R5). -/
def spoilBytes (lo : Nat) (ranges : List (Nat × Nat)) : Nat → List W8 → M (List W8)
  | _, [] => pure []
  | i, b :: bs => do
    let v ← if ranges.any (fun r => rangesMeet r.1 r.2 (lo + i) 1) then (do return (← freeVal).setWidth 8) else pure b
    return v :: (← spoilBytes lo ranges (i + 1) bs)

-- DESIGN CHOICE: log 32
/-- What the name service agent remembers of an entry that another party has stored to: no entry has this code. -/
def storedTo : Nat := 2 ^ 128
-- DESIGN CHOICE: log 32
/-- Name entries that are stored to by a party other than the agent: their bytes are unspecified (R299). -/
def State.spoilNames (s : State) (es : List Nat) : State :=
  match es with
  | [] => s
  | a :: r =>
    { s with
      dmem := wrN s.dmem a (gen 16 (fun i => (Config.freeWord (s.fresh + i)).setWidth 8)), nameMirror := ins s.nameMirror a storedTo
      fresh := s.fresh + 16 }.spoilNames r
-- DESIGN CHOICE: log 32
/-- The entries that the agent has written and a range meets. -/
def State.touchedNames (s : State) (a n : Nat) : List Nat := (s.nameMirror.filter (fun (e : Nat × Nat) => rangesMeet e.1 16 a n)).map (·.1)
-- DESIGN CHOICE: log 32; DEDUCED: log 50
/-- A write into device memory; entries of name tables that it touches are spoilt. -/
def State.devPut (s : State) (a : Nat) (bs : List W8) : State :=
  let s' : State := { s with dmem := wrN s.dmem a bs }
  s'.spoilNames (s.touchedNames a bs.length)

-- DEDUCED: log 30
def State.writeT (s : State) (t : Target) (bs : List W8) : State :=
  match t with
  | .dev a => s.devPut a bs
  | .keep a _ => s.devPut a bs
  | .host ld a => { s with hmem := wrN s.hmem (hostKey ld a) bs }
  | .cxl ld a => { s with hmem := wrN s.hmem (hostKey ld a) bs }
  | .scr team a => s.scrPut team a bs

def Target.plus : Target → Nat → Target
  | .dev a, n => .dev (a + n)
  | .keep a m, n => .keep (a + n) m
  | .host ld a, n => .host ld (a + n)
  | .cxl ld a, n => .cxl ld (a + n)
  | .scr t a, n => .scr t (a + n)

/-- The bytes one page holds from `va` on, at most `n`. -/
def pageRun (va : W64) (n : Nat) : Nat := min n (4096 - va.toNat % 4096)

/-- An agent's read of `n` bytes, page by page; `fuel` bounds the pages. -/
def agentRead (dom : W16) (need : Need) : Nat → W64 → Nat → M (List W8)
  | 0, _, _ => pure []
  | fuel + 1, va, n =>
    if n == 0 then pure []
    else do
      let k := pageRun va n
      let t ← agentAt dom va need
      let bs := (← get).readT t.1 k
      return bs ++ (← agentRead dom need fuel (va + n64 k) (n - k))

/-- An agent's write, page by page: every page is translated before any byte changes. -/
def agentTargets (dom : W16) (need : Need) : Nat → W64 → List W8 → M (List (Target × List W8))
  | 0, _, _ => pure []
  | fuel + 1, va, bs =>
    if bs.isEmpty then pure []
    else do
      let k := pageRun va bs.length
      let t ← agentAt dom va need
      return (t.1, bs.take k) :: (← agentTargets dom need fuel (va + n64 k) (bs.drop k))

def State.writeAll (s : State) : List (Target × List W8) → State
  | [] => s
  | (t, bs) :: r => (s.writeT t bs).writeAll r

def kernelR : Need := { r := true, user := false }
def kernelW : Need := { w := true, user := false }
def kernelRW : Need := { r := true, w := true, user := false }

def kread (dom : W16) (va : W64) (n : Nat) : M (List W8) := agentRead dom kernelR (n / 4096 + 2) va n
def kwrite (dom : W16) (va : W64) (bs : List W8) : M Unit := do
  let ws ← agentTargets dom kernelW (bs.length / 4096 + 2) va bs
  modify (fun s => s.writeAll ws)

/-! ## Running an agent's step -/

-- DEDUCED: log 92
/-- The translation requests an agent's missing pages cause (R218, R220): one for each distinct page that has none
outstanding; an entry that lacked a permission is dropped. -/
def State.requestPages (s : State) (owner : Option Nat) : List Miss → State
  | [] => s
  | m :: r =>
    if s.noDma m.ld then s.requestPages owner r
    else
    let l := s.ldev m.ld
    let s1 := if l.trs.any (fun e => e.2 == m) || l.ungranted.any (fun e => e.2 == m) || l.prgs.any (fun p => p.miss.contains m) then s else s.emit (.transReq m.ld m)
    let s1 := { s1 with atc := s1.atc.filter (fun e => !(e.ld == m.ld && e.pasid == m.pasid && e.page / 2 ^ e.log2 == m.page.toNat / 2 ^ e.log2)) }
    let s2 := if l.trs.contains (owner, m) then s1 else s1.modLd m.ld (fun x => { x with trs := x.trs ++ [(owner, m)] })
    s2.requestPages owner r

/-- What an agent's step comes to. -/
inductive Ran where
  | done (s : State)
  | wait (s : State)
  | failed (cause code level : Nat) (addr : W64)

-- DEDUCED: log 93
/-- An agent's step: done, waiting for the host (its requests sent), or failed on a fault of R213. -/
def runAgent (s : State) (body : M Unit) : Ran :=
  match body.run s with
  | .ok (_, s') => .done s'
  | .error (.suspend m) => .wait (s.requestPages none m)
  | .error (.fail c k l a) => .failed c k l a
  | .error (.trap c _ _ k l a) => .failed c k l a
  | .error _ => .wait s

-- DEDUCED: log 93
/-- A host's refusal has been told to the access that met it: it is not kept for another (R221). -/
def State.undeny (s : State) (code : Nat) : State :=
  if code < 6 then s
  else { s with lds := s.lds.map (fun (e : Nat × Ld) => (e.1, { e.2 with denied := e.2.denied.filter (fun d => d.2 != code) })) }

-- DEDUCED: log 93
/-- An agent's step whose failure leaves the state as `other` says. -/
def State.agent (s : State) (body : M Unit) (other : Nat → Nat → Nat → W64 → State) : State :=
  match runAgent s body with
  | .done s' => s'
  | .wait s' => s'
  | .failed c k l a => (other c k l a).undeny k

-- DEDUCED: log 6
/-- A step of an agent within another that never fails: a fault becomes a value. -/
def attempt {α : Type} (body : M α) : M (Except (Nat × Nat × Nat × W64) α) := fun s =>
  match body.run s with
  | .ok (a, s') => .ok (.ok a, s')
  | .error (.fail c k l a) => .ok (.error (c, k, l, a), s.undeny k)
  | .error e => .error e

/-! ## Message-signalled interrupts and rings of records (R349) -/

-- PRESUMED: log 112
/-- What a byte of BAR0 holds that nothing has written: each MSI-X vector is masked. Registers are kept as they differ from this. -/
def bar0Reset (o : Nat) : W8 := if 0x8000 ≤ o ∧ o < 0x10000 ∧ o % 16 = 12 then 1#8 else 0#8
-- PRESUMED: log 112
/-- A stored byte of a device's BAR0 as it reads (R366). -/
def State.bar0Reg (s : State) (ld o : Nat) : W8 := rd (s.ldev ld).bar0 o ^^^ bar0Reset o
-- PRESUMED: log 112
/-- Whether an MSI-X vector is masked, and its place in the pending-bit array. -/
def State.masked (s : State) (ld v : Nat) : Bool := (s.bar0Reg ld (0x8000 + 16 * v + 12)).getLsbD 0
-- PRESUMED: log 112
def pbaBit (v : Nat) : W8 := 1#8 <<< (v % 8)
-- PRESUMED: log 112
/-- An MSI-X message of vector `v + 1`; 0 means none; none leaves a device in ERROR (R371). A masked vector's message waits in the
pending-bit array. -/
def State.msix (s : State) (ld v : Nat) : State :=
  if v == 0 || (s.ldev ld).tdisp == .error then s
  else if s.masked ld (v - 1) then
    let o := 0x3000 + (v - 1) / 8
    s.modLd ld (fun l => { l with bar0 := wr l.bar0 o (rd l.bar0 o ||| pbaBit (v - 1)) })
  else s.emit (.msix ld (v - 1))
-- PRESUMED: log 112
/-- A vector that is unmasked sends what waits. -/
def State.unmask (s : State) (ld v : Nat) : State :=
  let o := 0x3000 + v / 8
  if s.masked ld v || rd (s.ldev ld).bar0 o &&& pbaBit v == 0#8 then s
  else (s.modLd ld (fun l => { l with bar0 := wr l.bar0 o (rd l.bar0 o &&& ~~~(pbaBit v)) })).msix ld (v + 1)

/-- One record into a ring, at the ring's own descriptor in the management domain (R349, R425). -/
def ringPut (ld : Nat) (desc : W64) (bytes : List W8) : M Unit := do
  let dom := domBase ld
  let d ← kread dom desc 64
  let log2 := bits (num d 32 4) 4 0
  let wrt := num d 16 8
  let rdp := num d 24 8
  if decide (2 ^ log2 ≤ (wrt + 2 ^ 64 - rdp) % 2 ^ 64) then
    kwrite dom (desc + 36#64) (toLe 4 (num d 36 4 + 1))
  else do
    kwrite dom (word d 0 + n64 ((wrt % 2 ^ log2) * 64)) bytes
    kwrite dom (desc + 16#64) (toLe 8 (wrt + 1))
    modify (fun s => s.msix ld (bits (num d 32 4) 27 16))

/-- A record put, or left to wait for a host page, or lost to a fault of its own. -/
def State.ringPush (s : State) (ld : Nat) (r : Ring) (bytes : List W8) : State :=
  if s.pend.any (fun p => match p with | .ring l q _ => l == ld && q == r | _ => false) then
    { s with pend := s.pend ++ [.ring ld r bytes] }
  else
    match runAgent s (ringPut ld r.desc bytes) with
    | .done s' => s'
    | .wait s' => { s' with pend := s'.pend ++ [.ring ld r bytes] }
    | .failed _ k _ _ => s.undeny k

/-- A record for a device's fault ring: held, up to 64, while there is none (R349). -/
def State.faultRecord (s : State) (ld : Nat) (bytes : List W8) : State :=
  let l := s.ldev ld
  if l.tdisp == .error then s
  else
    match l.fault with
    | some r => s.ringPush ld r bytes
    | none =>
      if l.heldRecs.length < 64 then s.modLd ld (fun l => { l with heldRecs := l.heldRecs ++ [bytes] })
      else s.modLd ld (fun l => { l with heldDrops := l.heldDrops + 1 })

/-- The FLAGS bits of a trap record (R347). -/
def flagImp : Nat := 1
def flagNested : Nat := 2
def flagAgent : Nat := 4
def flagHalted : Nat := 8
def flagRelaunch : Nat := 16
def flagEnded : Nat := 32

/-- The 64 bytes of a trap record (R347). -/
def trapRecord (name sitePc siteSeq trappc info addr detail : W64) (cause flags gst die lane : Nat) : List W8 :=
  bytes8 name ++ bytes8 sitePc ++ bytes8 siteSeq ++ bytes8 (if flags / 4 % 2 == 1 then 0#64 else trappc) ++ bytes8 info
    ++ bytes8 addr ++ bytes8 detail
    ++ toLe 8 (cause + flags * 2 ^ 8 + (gst % 32) * 2 ^ 16 + die * 2 ^ 24 + lane * 2 ^ 32)

/-- The translation detail of R213. -/
def detailOf (code level : Nat) : W64 := n64 (code + level * 256)

/-- A record of the milliner complex for an access of its own that faulted (R85, R90, R316). -/
def State.agentRecord (s : State) (ld : Nat) (name : W64) (cause code level : Nat) (addr sitePc siteSeq : W64) : State :=
  s.faultRecord ld (trapRecord name sitePc siteSeq 0#64 0#64 addr (detailOf code level) cause flagAgent 0 8 0)

/-! ## Trace records (R396) -/

def evPlace : Nat := 1
def evSave : Nat := 2
def evRestore : Nat := 3
def evExit : Nat := 4
def evTrap : Nat := 5
def evBkstop : Nat := 6
def evBkptstop : Nat := 7
def evWstop : Nat := 8
def evWreport : Nat := 9
def evStepdone : Nat := 10
def evDhalt : Nat := 11
def evCopyend : Nat := 12
def evTaskret : Nat := 13

/-- Events always written for attached tasks (R396). -/
def evForced (e : Nat) : Bool := e == 6 || e == 7 || e == 8 || e == 9 || e == 10 || e == 11

/-- The compute dies of a hard partition. -/
def State.partDies (s : State) (p : Nat) : List Nat := (List.range 8).filter (fun d => wbits (s.die d).fwctl 11 8 == p)
/-- The hard partition of a device: that of the first die holding one of its stacks (R373). -/
def State.ldPart (s : State) (ld : Nat) : Nat :=
  (((List.range 8).find? (fun d => s.stackLd d 0 == ld || s.stackLd d 1 == ld)).map (fun d => wbits (s.die d).fwctl 11 8)).getD 0

/-- One trace record, if the ring selects it. -/
def State.trace (s : State) (ld dom die ev : Nat) (attached : Bool) (name sitePc siteSeq addr arg : W64) (index : Nat) : State :=
  let l := s.ldev ld
  match l.trace with
  | none => if attached then s.modLd ld (fun l => { l with traceDrops := l.traceDrops + 1 }) else s
  | some r =>
    if decide (r.dom0 ≤ dom) && decide (dom < r.dom0 + r.domn) && (hasLane r.mask ev || (evForced ev && attached)) then
      let (t, s) := s.clock die
      s.ringPush ld r
        (bytes8 t ++ bytes8 name ++ bytes8 sitePc ++ bytes8 siteSeq ++ bytes8 addr ++ bytes8 arg ++ List.replicate 8 0#8
          ++ [BitVec.ofNat 8 ev, BitVec.ofNat 8 (die + 16 * (s.partDies (s.ldPart ld)).length), BitVec.ofNat 8 index]
          ++ List.replicate 5 0#8)
    else s

/-- A trace record about a group. -/
def State.traceG (s : State) (g : Nat) (ev : Nat) (sitePc addr arg : W64) (index : Nat) : State :=
  let x := s.grp g
  s.trace x.ld x.dom.toNat (dieOf x) ev (s.task x.task).attached x.name sitePc x.cmdseq addr arg index

/-! ## Taking a trap and returning from one -/

/-- The TRAPCAUSE word (R339). -/
def causeWord (cause lane code level : Nat) : W64 :=
  n64 (cause + (if 32 ≤ cause then 256 else 0) + code * 2 ^ 16 + (if cause == 4 || cause == 5 then level else 0) * 2 ^ 24 + lane * 2 ^ 26)

/-- What a trap is raised with: the cause, TRAPINFO, TRAPPC, the trapping set and the record's further
fields. -/
structure TrapArgs where
  cause : Nat
  info : W64
  pc : W64
  set : W64
  lane : Nat := 0
  code : Nat := 0
  level : Nat := 0
  addr : W64 := 0#64
  sitePc : W64 := 0#64
  siteSeq : W64 := 0#64

/-- The records of the run's tagged units, now that its length is known (R400). -/
def State.putSamples (s : State) (site : Nat) : State :=
  match look s.runs site with
  | none => s
  | some r =>
    let mine := s.sampleRecs.filter (fun e => e.site == site)
    mine.foldl (fun s e => s.ringPush e.ld e.ring (e.below ++ [BitVec.ofNat 8 r.words] ++ e.above))
      { s with sampleRecs := s.sampleRecs.filter (fun e => e.site != site) }
/-- A run in progress of a site given up, and the focus with it. -/
def State.endRun (s : State) (site : Nat) : State :=
  let s := s.putSamples site
  { s with runs := erase s.runs site, focus := if s.focus == some site then none else s.focus }

/-- The group halts (R346): it issues nothing more, and one record is written. -/
def State.halt (s : State) (g : Nat) (a : TrapArgs) (nested : Bool) : State :=
  let x := s.grp g
  let s := s.modGrp g (fun x => { x with halted := true, wait := .none, stalled := false })
  let s := s.endRun (siteOf x)
  let flags := flagHalted + (if nested then flagNested else 0) + (if 32 ≤ a.cause then flagImp else 0)
  s.faultRecord x.ld
    (trapRecord x.name a.sitePc a.siteSeq a.pc a.info a.addr
      (if a.code == 0 then 0#64 else detailOf a.code a.level) a.cause flags (wbits x.gstatus 4 0) (dieOf x) a.lane)

/-- Handler entry (R342): the saved registers written, every thread at the handler, the interrupted run given
up; a group without a handler, or inside one, halts. -/
def State.takeTrap (s : State) (g : Nat) (a : TrapArgs) : State :=
  let x := s.grp g
  let h := if a.cause == 16 then x.sighandler else x.traphandler
  let s := s.traceG g evTrap a.sitePc a.addr (causeWord a.cause a.lane a.code a.level) 0
  if x.handler.isSome then s.halt g a true
  else if h = 0#64 then s.halt g a false
  else
    let live := fullMask x.w &&& ~~~x.exited
    let s := s.modGrp g (fun x =>
      { x with
        trappc := a.pc
        trapcause := causeWord a.cause a.lane a.code a.level
        trapinfo := a.info
        handler := some { trapset := a.set, entered := live, resume := x.pcs, shadow := x.shadow, loops := x.loops, lc := x.lc }
        shadow := none
        loops := []
        lc := [0#64, 0#64, 0#64]
        pcs := gen x.w (fun t => if hasLane live t then h else lane 0#64 x.pcs t) })
    s.endRun (siteOf x)

/-- Return from a handler (R345): every thread that entered goes back, the shadow and the loop stack return;
a misaligned TRAPPC halts the group. `at` is the address of the TRAPRET word. -/
def State.trapReturn (s : State) (g : Nat) (h : Handler) (at' : W64) : State :=
  let x := s.grp g
  if !aligned x.trappc 4 then
    s.halt g { cause := 6, info := x.trappc, pc := at', set := 0#64, sitePc := at', siteSeq := x.cmdseq } true
  else
    let s := s.modGrp g (fun x =>
      { x with
        handler := none
        shadow := h.shadow
        loops := h.loops
        lc := h.lc
        pcs := gen x.w (fun t =>
          if hasLane h.entered t && !hasLane x.exited t then
            (if hasLane h.trapset t then x.trappc else lane 0#64 h.resume t)
          else lane 0#64 x.pcs t) })
    s.endRun (siteOf x)

/-- An imprecise event for a group (R343): queued, or reported by the milliner complex. -/
def State.postEvent (s : State) (g : Nat) (e : Event) : State :=
  let x := s.grp g
  if alive x && !x.halted && x.events.length < 4 then
    s.modGrp g (fun x => { x with events := x.events ++ [e] })
  else
    s.faultRecord x.ld
      (trapRecord x.name e.site e.seq 0#64 e.info 0#64 e.detail e.cause (flagImp + flagAgent) (wbits x.gstatus 4 0) (dieOf x) 0)

end Sys2Proof.Machine
end

