-- ==== Sys2Proof/Machine/Operands.lean ====
section
/-! DEFINITION. Registers, renaming and windows; every operand form; the issue of one unit. -/

namespace Sys2Proof.Machine

/-- The unit being issued: its group, the active set, the threads that execute (R32), the address of its
target word and of its first word, its hints, and what the group's CMDSEQ and its counts of spills and refills were at issue. -/
structure Cx where
  g : Nat
  act : W64
  exe : W64
  pc : W64
  upc : W64
  h : Hints
  seq : W64 := 0#64
  moved : Nat := 0

/-! ## Windows and pending results (R28, R29, R110) -/

/-- Whether thread `t` is inside the window of an operation: never inside a handler (R29). -/
def inWindow (x : Group) (o : LOp) (t : Nat) : Bool := x.handler.isNone && decide (0 < lane 0 o.win t)
-- DEDUCED: log 23
/-- Every executing thread is inside: what a scalar of the group reads as old. -/
def inWindowAll (x : Group) (o : LOp) (exe : W64) : Bool := (laneList x.w exe).all (inWindow x o)

/-- The operation and destination that thread `t` awaits in register `r`. -/
def pendingAt (x : Group) (r t : Nat) : Option (LOp × Dest) :=
  x.ops.findSome? (fun o => (o.dests.find? (fun d => d.reg == r && hasLane d.mask t)).map (fun d => (o, d)))
-- DEDUCED: log 23
/-- The operation that some thread awaits in register `r`. -/
def pendingReg (x : Group) (r : Nat) : Option (LOp × Dest) :=
  x.ops.findSome? (fun o => (o.dests.find? (fun d => d.reg == r && d.mask != 0#64)).map (fun d => (o, d)))

/-- An operation with the threads of `m` dropped from register `r`: what is left of a result that is
discarded. Where threads remain, what the others receive needs an entry beside the result's (R160). -/
def dropDest (r : Nat) (m : W64) (o : LOp) : LOp :=
  let ds := (o.dests.map (fun d =>
    if d.reg == r then { d with mask := d.mask &&& ~~~m, copy := if d.mask &&& m = 0#64 then d.copy else 2 } else d))
  let gone := ds.any (fun d => d.reg == r && d.mask == 0#64)
  { o with dests := ds.filter (fun d => d.mask != 0#64), disc := if gone && !o.ready then o.disc ++ [r] else o.disc }

/-- The storage of a register after the results that have arrived for it with no window open. -/
def putResult (x : Group) (d : Dest) : Group :=
  if 96 ≤ d.reg then { x with sval := ins x.sval d.reg (lane 0#64 d.vals 0) }
  else if 80 ≤ d.reg then
    { x with q := ins x.q (d.reg - 80) (gen x.w (fun t => if hasLane d.mask t then (lane 0#64 d.vals t).setWidth 32 else lane 0#32 ((look x.q (d.reg - 80)).getD []) t)) }
  else
    let vals := gen x.w (fun t => if hasLane d.mask t then (lane 0#64 d.vals t).setWidth 32 else lane 0#32 ((look x.vval d.reg).getD []) t)
    { x with vval := ins x.vval d.reg vals }

/-- Whether a thread that awaits the destination still has its window open (R28). -/
def openWindow (w : Nat) (o : LOp) (d : Dest) : Bool := (laneList w d.mask).any (fun t => decide (0 < lane 0 o.win t))

-- DEDUCED: log 19
/-- A destination whose second entry goes once its window is closed, and, where a value was written since issue, once the result
has arrived too (R160). -/
def keepCopy (w : Nat) (o : LOp) (d : Dest) : Dest :=
  if openWindow w o d || (d.copy == 2 && !o.ready) then d else { d with copy := 0 }

/-- Results that have arrived and whose windows are closed go into storage; operations with nothing left
to deliver go away; a window copy goes with its window, also one in the spill area (R160, R163). -/
def settle (x : Group) : Group :=
  let isDone (o : LOp) : Bool := o.ready && o.dests.all (fun d => !openWindow x.w o d)
  let x1 := (x.ops.filter isDone).foldl (fun x o => o.dests.foldl putResult x) x
  let left := x.ops.filter (fun o => !isDone o)
  { x1 with
    ops := left.map (fun o => { o with dests := o.dests.map (keepCopy x.w o) })
    wspill := x.wspill.filter (fun r => left.any (fun o => o.dests.any (fun d => d.reg == r && openWindow x.w o d))) }

/-! ## The pool (R154–R165) -/

/-- The v registers with a second entry: a window copy, or a value written since issue (R160). -/
def windowCopies (x : Group) : List Nat :=
  (x.ops.flatMap (fun o => (o.dests.filter (fun d => decide (d.reg < 80) && d.copy != 0)).map (·.reg))).dedup
/-- Those whose second entry is a window copy, which may be spilled (R162). -/
def spillableCopies (x : Group) : List Nat :=
  (x.ops.flatMap (fun o => (o.dests.filter (fun d => decide (d.reg < 80) && d.copy == 1)).map (·.reg))).dedup
/-- A register that awaits a result that has not arrived (R162). -/
def awaits (x : Group) (r : Nat) : Bool := x.ops.any (fun o => !o.ready && o.dests.any (fun d => d.reg == r && d.mask != 0#64))
/-- Registers whose discarded results have not arrived (R160). -/
def discarded (x : Group) : List Nat := x.ops.flatMap (fun o => if o.ready then [] else o.disc.filter (fun r => decide (r < 80)))
/-- Mapped vector registers (CSR MAPPED). -/
def mappedN (x : Group) : Nat := x.vval.length - x.spilled.length
/-- Registers unmapped while pinned still hold the entries they had (R251). -/
def pinnedGone (x : Group) : Nat := (x.pinheld.filter (fun r => (look x.vval r).isNone)).length
/-- A group whose registers that `gone` picks are about to be unmapped: pinned ones keep their entries (R251). -/
def keepPins (gone : Nat → Bool) (x : Group) : Group :=
  let more := (x.pinned.map (·.2)).filter (fun r => gone r && (look x.vval r).isSome && !x.spilled.contains r && !x.pinheld.contains r)
  { x with pinheld := x.pinheld ++ more.dedup }
/-- A group whose pins for a command end. -/
def unpin (id : Nat) (x : Group) : Group :=
  let left := x.pinned.filter (fun e => e.1 != id)
  { x with pinned := left, pinheld := x.pinheld.filter (fun r => left.any (fun e => e.2 == r)) }
/-- The entry count E (R158). -/
def entries (x : Group) : Nat := mappedN x + (windowCopies x).length + (discarded x).length + pinnedGone x
-- DEDUCED: log 19
def slices (w : Nat) : Nat := w / 16
/-- Slices a resident group holds: its reservation and its above-floor use (R158). -/
def held (x : Group) : Nat := max x.floor (entries x) * slices x.w
-- DEDUCED: log 19
/-- The free slices of a partition (R158). -/
def State.freeSlices (s : State) (site : Nat) : Nat :=
  4096 - ((s.siteGroups site).map (fun e => held e.2)).sum
    - ((s.groups.filter (fun e => !alive e.2 && siteOf e.2 == site)).map (fun e => pinnedGone e.2 * slices e.2.w)).sum
/-- A team's unreserved budget on a partition (R159). -/
def State.unreserved (s : State) (team site : Nat) : Nat :=
  (s.task (s.team team).task).tcb.budgetN
    - (((s.siteGroups site).filter (fun e => e.2.team == team)).map (fun e => e.2.floor * slices e.2.w)).sum

-- DESIGN CHOICE: log 20
/-- The spill slot of a register (R163). -/
def spillAddr (s : State) (x : Group) (r : Nat) : W64 :=
  (s.task x.task).tcb.spillOf (s.team x.team).gridpos x.gidx + n64 (r * x.w * 4)

/-- An access of the group's own partition at user privilege (R374, R423). -/
def ownAt (x : Group) (va : W64) (n : Need) : M (Target × Used) := do
  let r ← agentAt x.dom va n
  if (← get).reaches (dieOf x) r.1 then return r else stop (.fail 5 5 0 va)

/-- The pieces of a block that lie on one page each. -/
def pagePieces : Nat → W64 → List W8 → List (W64 × List W8)
  | 0, _, _ => []
  | fuel + 1, va, bs =>
    if bs.isEmpty then []
    else (va, bs.take (pageRun va bs.length)) :: pagePieces fuel (va + n64 (pageRun va bs.length)) (bs.drop (pageRun va bs.length))

/-- The targets of such an access piece by piece, each with what it used. -/
def ownPieces (x : Group) (n : Need) : List (W64 × List W8) → M (List (Target × List W8) × List Used)
  | [] => pure ([], [])
  | (va, bs) :: r => do
    let t ← ownAt x va n
    let (ts, us) ← ownPieces x n r
    return ((t.1, bs) :: ts, t.2 :: us)

/-- Where a spill, a refill or the exit value goes, and the translations used: a missing page is waited for, a fault halts the group
(R83). -/
def ownTargets (x : Group) (va : W64) (n : Need) (bs : List W8) : M (List (Target × List W8) × List Used) := fun s =>
  match (ownPieces x n (pagePieces (bs.length / 4096 + 2) va bs)).run s with
  | .error (.suspend ms) =>
    match x.xfault.find? (fun e => ms.contains e.1) with
    | some e => .error (.spillFault 4 e.2 0 va)
    | none => .error (.suspend ms)
  | .error (.fail c k l a) => .error (.spillFault c k l a)
  | r => r
-- DESIGN CHOICE: log 20
def spillTargets (x : Group) (va : W64) (n : Need) (bs : List W8) : M (List (Target × List W8)) := do
  let (ts, _) ← ownTargets x va n bs
  if ts.any (fun t => match t.1 with | .keep _ _ => true | _ => false) then stop (.spillFault 5 4 3 va) else return ts

-- DESIGN CHOICE: log 20
/-- A group with the entry of a register spilled: a window copy, or the register itself (R162, R163). -/
def putSpill (copy : Bool) (r : Nat) (img : List W8) (x : Group) : Group :=
  if copy then
    { x with
      ops := x.ops.map (fun o => { o with dests := o.dests.map (fun d => if d.reg == r && d.copy == 1 then { d with copy := 0 } else d) })
      wspill := x.wspill ++ [r], spillimg := ins x.spillimg r img }
  else { x with spilled := x.spilled ++ [r], spillimg := ins x.spillimg r img }

-- DESIGN CHOICE: log 20
/-- A register or a window copy written to its slot of the spill area (R163). What the area then holds is no program's business:
free bytes, remembered so that a refill sees whether software wrote there. -/
def spillReg (g : Nat) (copy : Bool) (r : Nat) : M Unit := do
  let s ← get
  let x := s.grp g
  let f ← freeWords (x.w * 4)
  let img := gen (x.w * 4) (fun i => (f i).setWidth 8)
  let ts ← spillTargets x (spillAddr s x r) { w := true } img
  modify (fun s => (s.writeAll ts).modGrp g (putSpill copy r img))

/-- The least recently written of some registers. -/
def oldest (x : Group) : List Nat → Option Nat
  | [] => none
  | r :: rs => match oldest x rs with
    | none => some r
    | some q => if (look x.lastw q).getD 0 < (look x.lastw r).getD 0 then some q else some r

-- DEDUCED: log 19
/-- The registers a spill may take (R162, R163): MAPPED, awaiting no result, not `protect`ed by the instruction in progress, with
no window copy in its slot; none that a matrix command has open. -/
def spillable (x : Group) (protect : List Nat) : List Nat :=
  (x.vval.map (·.1)).filter (fun r => !x.spilled.contains r && !awaits x r && !protect.contains r
    && !(x.pinned.any (fun e => e.2 == r)) && !x.wspill.contains r)

-- DEDUCED: log 19; DESIGN CHOICE: log 20
/-- Spills one register of the group (R162): the least recently written candidate, window copies among them. -/
def spillOne (g : Nat) (protect : List Nat) : M Unit := do
  let x ← getG g
  let copies := (spillableCopies x).filter (fun r => !protect.contains r && !x.spilled.contains r)
  match oldest x (spillable x protect ++ copies) with
  | none => stop .stall
  | some r => do
    spillReg g (!(spillable x protect).contains r) r
    modG g (fun x => { x with gstatus := x.gstatus ||| 4#64, spills := satAdd x.spills 1 })

-- DEDUCED: log 19
/-- An entry for the group (R160) beside `k` just granted: from its reservation, from free, or by a spill. -/
def takeNext (g k : Nat) (protect : List Nat) : M Unit := do
  let s ← get
  let x := s.grp g
  let e := entries x + k
  if x.mill.isSome || e < x.floor then pure ()
  else if (max x.floor (e + 1) - max x.floor (entries x)) * slices x.w ≤ s.freeSlices (siteOf x) then pure ()
  else spillOne g protect
-- DEDUCED: log 19
def takeEntry (g : Nat) (protect : List Nat) : M Unit := takeNext g 0 protect
-- DEDUCED: log 19
/-- As many entries as asked for, one after the other. -/
def takeEntries (g : Nat) (protect : List Nat) : Nat → M Unit
  | 0 => pure ()
  | k + 1 => do
    takeEntries g protect k
    takeNext g k protect

def stampReg (x : Group) (r : Nat) : Group := { x with lastw := ins x.lastw r (x.stamp + 1), stamp := x.stamp + 1 }

-- DESIGN CHOICE: log 20
/-- A group with a register back from the spill area: a window copy that has an entry again, or the register itself, whose result
may have arrived under an open window. `now` is its value where that is no longer the one spilled. -/
def putRefill (r : Nat) (now : Option (List W32)) (x : Group) : Group :=
  let old := (look x.vval r).getD []
  let y := { x with spillimg := erase x.spillimg r, refills := satAdd x.refills 1 }
  let y := if x.wspill.contains r then
      { y with
        wspill := x.wspill.filter (· != r), vval := ins x.vval r (now.getD old)
        ops := x.ops.map (fun o => { o with dests := o.dests.map (fun d => if d.reg == r && !d.was && openWindow x.w o d && d.copy == 0 then { d with copy := 1 } else d) }) }
    else
      { y with
        spilled := x.spilled.filter (· != r)
        vval := ins x.vval r (match pendingReg x r with | none => now.getD old | some _ => old)
        ops := x.ops.map (fun o => { o with dests := o.dests.map (fun d =>
          match now with | some v => if d.reg == r then { d with vals := v.map (fun e => e.setWidth 64) } else d | none => d) }) }
  stampReg y r

-- DESIGN CHOICE: log 20
/-- A refill (R155, R163): the value that was spilled, or an unspecified one where software wrote. -/
def refill (g r : Nat) (protect : List Nat) : M Unit := do
  takeEntry g (r :: protect)
  let s ← get
  let x := s.grp g
  let img := (look x.spillimg r).getD []
  let ts ← spillTargets x (spillAddr s x r) { r := true } img
  let s ← get
  let now := ts.flatMap (fun t => s.readT t.1 t.2.length)
  let vals ← if now == img then pure none else (do
    let f ← freeWords x.w
    return some (gen x.w (fun t => (f t).setWidth 32)))
  modG g (putRefill r vals)

/-- Whether reading a register by the threads of `exe` needs a refill (R155, R162): its value, or what the threads read inside a
window, is in the spill area. -/
def needsRefill (x : Group) (exe : W64) (r : Nat) : Bool :=
  let within (t : Nat) : Bool := match pendingAt x r t with | some (o, d) => inWindow x o t && !d.was | none => false
  let ts := laneList x.w (if exe = 0#64 then fullMask x.w else exe)
  (x.spilled.contains r && ts.any (fun t => !within t)) || (x.wspill.contains r && ts.any within)

def refillEach (g : Nat) (dests : List Nat) : List Nat → M Unit
  | [] => pure ()
  | r :: rs => do
    refill g r (rs ++ dests)
    refillEach g dests rs

/-- Refills of the SPILLED sources of an instruction, ascending (R161): of them those not yet read, and the destinations, are
protected. -/
def refillAll (cx : Cx) (dests rs : List Nat) : M Unit := do
  let x ← getG cx.g
  refillEach cx.g dests (rs.filter (needsRefill x cx.exe))

/-! ## Reading registers -/

-- DEDUCED: log 22
/-- An UNMAPPED register was read (R156): GSTATUS.RUR, and the lowest specifier is kept for the trap. -/
def noteRur (g spec : Nat) : M Unit := do
  modify (fun s =>
    let x := s.grp g
    let s := s.setGrp g { x with gstatus := x.gstatus ||| 1#64 }
    { s with runs := adjust s.runs (siteOf x) (fun r => { r with rur := some (match r.rur with | some k => min k spec | none => spec) }) })

-- DEDUCED: log 23
/-- A scalar register's 64 bits (R28, R110, R155). `spec` is how the operand names it (R156). -/
def readS (cx : Cx) (n : Nat) : M W64 := do
  let x ← getG cx.g
  let r := 96 + n
  let stored : M W64 := match look x.sval r with
    | some v => pure v
    | none => if x.mill.isSome then pure 0#64 else do noteRur cx.g r; pure 0#64
  match pendingReg x r with
  | none => stored
  | some (o, d) =>
    if inWindowAll x o cx.exe then
      if d.was then do noteRur cx.g r; pure 0#64 else pure ((look x.sval r).getD 0#64)
    else if o.ready then pure (lane 0#64 d.vals 0)
    else stop .stall

/-- What a v or q register's storage holds. -/
def storedV (x : Group) (r : Nat) : List W32 := if 80 ≤ r then (look x.q (r - 80)).getD [] else (look x.vval r).getD []

/-- The elements of a v register, or of a q register (80–87), all lanes; the lanes of `need` must have arrived (R28,
R110). `spec` is the specifier of the operand it belongs to (R156). -/
def readV (cx : Cx) (need : W64) (spec r : Nat) : M (List W32) := do
  let x ← getG cx.g
  let old := storedV x r
  let at' (t : Nat) : Option (LOp × Dest) := pendingAt x r t
  let lanesN := laneList x.w need
  if lanesN.any (fun t => match at' t with | some (o, _) => !inWindow x o t && !o.ready | none => false) then stop .stall
  else do
    let unm := lanesN.any (fun t => match at' t with | some (o, d) => inWindow x o t && d.was | none => decide (r < 80) && (look x.vval r).isNone)
    if unm then noteRur cx.g spec else pure ()
    return gen x.w (fun t => match at' t with
      | some (o, d) => if inWindow x o t then (if d.was then 0#32 else lane 0#32 old t)
                       else if o.ready then (lane 0#64 d.vals t).setWidth 32 else lane 0#32 old t
      | none => lane 0#32 old t)

/-- What a group's unit reads counts as a read of the operand `spec` (R156). -/
def asOperand {α : Type} (cx : Cx) (spec : Nat) (k : M α) : M α := do
  let site := siteOf (← getG cx.g)
  let before := (look (← get).runs site).bind (·.rur)
  modify (fun s => { s with runs := adjust s.runs site (fun r => { r with rur := none }) })
  let v ← k
  modify (fun s => { s with runs := adjust s.runs site (fun r => { r with rur := match r.rur, before with
    | none, b => b
    | some _, none => some spec
    | some _, some b => some (min b spec) }) })
  return v

/-- The elements of a specifier of R24 as 32-bit patterns. -/
def readOp (cx : Cx) (need : W64) (spec : Nat) : M (List W32) := do
  let x ← getG cx.g
  if spec < 88 then readV cx need spec spec
  else if spec == 88 then return gen x.w (fun t => (lane 0#64 x.y0 t).setWidth 32)
  else if spec == 89 then return gen x.w (fun t => (lane 0#64 x.y1 t).setWidth 32)
  else if spec == 90 then return gen x.w (fun _ => 0#32)
  else if spec == 91 then return gen x.w (fun _ => 0xFFFFFFFF#32)
  else if spec == 92 then return gen x.w (fun t => n32 t)
  else if spec == 93 then return gen x.w (fun _ => n32 x.gidx)
  else if spec == 94 then return gen x.w (fun _ => n32 x.w)
  else do
    let v ← readS cx (spec - 96)
    return gen x.w (fun _ => v.setWidth 32)

/-- The elements of a specifier as 64-bit patterns (R25). -/
def readOp64 (cx : Cx) (need : W64) (spec : Nat) : M (List W64) := do
  let x ← getG cx.g
  if spec < 88 then do
    let lo ← readOp cx need spec
    let hi ← readV cx need spec (spec + 1)
    return gen x.w (fun t => lane 0#32 hi t ++ lane 0#32 lo t)
  else if spec == 88 then return gen x.w (fun t => lane 0#64 x.y0 t)
  else if spec == 89 then return gen x.w (fun t => lane 0#64 x.y1 t)
  else if spec == 91 then return gen x.w (fun _ => 0xFFFFFFFFFFFFFFFF#64)
  else if 96 ≤ spec then do
    let v ← readS cx (spec - 96)
    return gen x.w (fun _ => v)
  else do
    let v ← readOp cx need spec
    return gen x.w (fun t => (lane 0#32 v t).setWidth 64)

/-! ## Writing registers -/

/-- A write of a register some matrix command of the team still has open spoils what that command read
(R259): the lanes of `m`. -/
def State.touchReg (s : State) (g r : Nat) (m : W64) : State :=
  let x := s.grp g
  if x.pinned.any (fun e => e.2 == r) then
    s.modTeam x.team (fun t => { t with mq := t.mq.map (fun c =>
      { c with
        a := c.a.map (fun a => if a.gid == g && decide (a.base ≤ r) && decide (r < a.base + 16 * a.ns) then { a with dirty := a.dirty ||| m } else a)
        dirtyS := if c.gid == g && c.kind == 2 && c.srcs != [] then c.dirtyS ++ (laneList x.w m).map (fun t => (r, t)) else c.dirtyS }) })
  else s

-- DEDUCED: log 49
/-- The exit of the group that opened a team's chain closes it after its queued operations (R258): its last one left is the closing
member; with none left the opener itself closes it. -/
def State.partChain (s : State) (g : Nat) : State :=
  let t := (s.grp g).team
  match (s.team t).chain with
  | none => s
  | some k =>
    if (s.team t).mq.any (fun c => c.id == k && c.gid == g) then
      let last := ((((s.team t).mq.filter (fun c => c.kind == 0 && c.chain == some k && !c.token)).getLast?).map (·.id)).getD k
      s.modTeam t (fun x => { x with chain := none, mq := x.mq.map (fun c => if c.id == last then { c with closing := true } else c) })
    else s

/-- Unmaps a register (R155, R169): entry freed, spilled copy and window copy dropped, pending result
discarded. -/
def unmapReg (g r : Nat) : M Unit := do
  let x ← getG g
  if x.mill.isSome then pure ()
  else do
    modify (fun s => s.touchReg g r (fullMask x.w))
    modG g (keepPins (· == r))
    modG g (fun x =>
      { x with
        ops := x.ops.map (dropDest r (BitVec.allOnes 64))
        sval := if 96 ≤ r then erase x.sval r else x.sval
        vval := if 96 ≤ r then x.vval else erase x.vval r
        spilled := x.spilled.filter (· != r)
        wspill := x.wspill.filter (· != r)
        spillimg := erase x.spillimg r })

/-- The lanes of `m` in which a write of `r` has to wait for a result (R110). -/
def mustWait (x : Group) (r : Nat) (m : W64) : Bool :=
  (laneList x.w m).any (fun t => match pendingAt x r t with
    | some (o, _) => !o.ready && !inWindow x o t && x.handler.isNone
    | none => false)

/-- A write of a scalar register (R28, R110, R155). -/
def writeS (cx : Cx) (n : Nat) (v : W64) : M Unit := do
  let x ← getG cx.g
  let r := 96 + n
  match pendingReg x r with
  | some (o, _) =>
    if o.ready || inWindowAll x o cx.exe || x.handler.isSome then
      modG cx.g (fun x => { x with ops := x.ops.map (dropDest r (BitVec.allOnes 64)), sval := ins x.sval r v })
    else stop .stall
  | none => modG cx.g (fun x => { x with sval := ins x.sval r v })

/-- The destination of a waiting instruction: any result still on its way to it is settled first (R110); the value
comes when the wait ends. -/
def blockDest (cx : Cx) (n : Nat) : M Unit := do
  let x ← getG cx.g
  writeS cx n 0#64
  modG cx.g (fun y => { y with sval := (match look x.sval (96 + n) with | some v => ins y.sval (96 + n) v | none => erase y.sval (96 + n)) })

/-- A wait that has ended; a group that is not resident is marked satisfied (R78, R297). -/
def overWait (x : Group) : Group := if resident x then { x with wait := .none } else { x with sat := true }
/-- The result of a wait that has ended, in a scalar. -/
def endWait (x : Group) (n : Nat) (v : W64) : Group := overWait { x with sval := ins x.sval (96 + n) v }

/-- A group with a v register written in the lanes of `m`: results of those lanes are discarded, spilled copies dropped (R28, R155,
R163). -/
def putV (m : W64) (r : Nat) (vals : List W32) (x : Group) : Group :=
  let y := { x with
    ops := x.ops.map (dropDest r m), spilled := x.spilled.filter (· != r), spillimg := erase x.spillimg r
    wspill := if (pendingReg x r).isSome then x.wspill.filter (· != r) else x.wspill
    vval := ins x.vval r (blend 0#32 x.w m vals ((look x.vval r).getD [])) }
  stampReg y r

-- DEDUCED: log 19
/-- The entries a change of a register needs: what the group then holds more, where a result is on its way to it (R160). -/
def writeNeeds (x y : Group) (r : Nat) : Nat :=
  if (pendingReg x r).isSome then entries y - entries x
  else if (look x.vval r).isNone || x.spilled.contains r then 1 else 0

/-- A write of a vector register in the lanes of `m` (R28, R110, R155, R161). -/
def writeV (cx : Cx) (m : W64) (r : Nat) (vals : List W32) (protect : List Nat) : M Unit := do
  let x ← getG cx.g
  if mustWait x r m then stop .stall
  else do
    if (x.spilled.contains r || ((pendingReg x r).isSome && x.wspill.contains r)) && m != fullMask x.w then refill cx.g r protect else pure ()
    let x ← getG cx.g
    takeEntries cx.g (r :: protect) (writeNeeds x (putV m r vals x) r)
    modify (fun s => s.touchReg cx.g r m)
    modG cx.g (putV m r vals)

def writeQ (cx : Cx) (m : W64) (k : Nat) (vals : List W32) : M Unit := do
  guardM (!mustWait (← getG cx.g) (80 + k) m) .stall
  modG cx.g (fun x => { x with ops := x.ops.map (dropDest (80 + k) m), q := ins x.q k (blend 0#32 x.w m vals ((look x.q k).getD [])) })

/-- The last-result file (R26): y1 takes y0, y0 takes the result. -/
def pushY (cx : Cx) (m : W64) (vals : List W64) : M Unit :=
  modG cx.g (fun x => { x with y1 := blend 0#64 x.w m x.y0 x.y1, y0 := blend 0#64 x.w m vals x.y0 })

/-- A vector result of 32 bits (R26). -/
def writeD (cx : Cx) (d : Nat) (vals : List W32) : M Unit := do
  if d < 80 then writeV cx cx.exe d vals []
  else if d < 88 then writeQ cx cx.exe (d - 80) vals
  else pure ()
  pushY cx cx.exe (vals.map (fun v => v.setWidth 64))

/-- A predicate written in the executing threads. -/
def writeP (cx : Cx) (k : Nat) (m : W64) : M Unit :=
  modG cx.g (fun x => { x with p := ins x.p k ((m &&& cx.exe) ||| (((look x.p k).getD 0#64) &&& ~~~cx.exe)) })
def readP (cx : Cx) (k : Nat) : M W64 := do
  let x ← getG cx.g
  return ((look x.p k).getD 0#64)

/-! ## Last-use marks (R27) -/

-- DEDUCED: log 18
/-- Marks that are ignored: LUIGN is set and they are counted (R27). -/
def ignoreMarks (cx : Cx) (marks : Nat) : M Unit :=
  modG cx.g (fun x => if marks == 0 || x.mill.isSome then x else { x with gstatus := x.gstatus ||| 2#64, luign := satAdd x.luign marks })

-- DEDUCED: log 17, 18
/-- Unmaps each marked register, if every thread of the group executes; otherwise the marks are ignored,
LUIGN is set and they are counted. -/
def applyMarks (cx : Cx) (marks : Nat) (regs : List Nat) : M Unit := do
  let x ← getG cx.g
  if regs.isEmpty || x.mill.isSome then pure ()
  else if cx.exe = fullMask x.w then regs.forM (unmapReg cx.g)
  else modG cx.g (fun x => { x with gstatus := x.gstatus ||| 2#64, luign := satAdd x.luign marks })

def scalarMark (l : Bool) (n : Nat) : List Nat := if l then [96 + n] else []
/-- The registers a marked specifier names; a pair names both. -/
def specMark (l : Bool) (spec width : Nat) : List Nat :=
  if l then (if 96 ≤ spec then [spec] else gen width (fun i => spec + i)) else []
-- DEDUCED: log 18
def countMarks (l m : Bool) : Nat := (if l then 1 else 0) + (if m then 1 else 0)

/-! ## Checks of operand fields (R24–R27, R41) -/

/-- A source specifier: 95 is reserved. -/
def okSpec (spec : Nat) : M Unit := guardM (spec != 95) (.trap 1 0#64 0 0 0 0#64)
-- DEDUCED: log 18
/-- A last-use bit stands only on a v or s register. -/
def markable (spec : Nat) : Bool := decide (spec < 80) || decide (96 ≤ spec)
def okMark (l : Bool) (spec : Nat) : M Unit := guardM (!l || markable spec) (.trap 2 0#64 0 0 0 0#64)
/-- A destination names v, q or y0; 95 is reserved (R24, R26, R41). -/
def okDest (d : Nat) : M Unit := do
  guardM (d != 95) (.trap 1 0#64 0 0 0 0#64)
  guardM (decide (d ≤ 88)) (.trap 2 0#64 0 0 0 0#64)
/-- A pair starts at an even v or q register (R25). -/
def okPair (spec : Nat) : M Unit := guardM (decide (88 ≤ spec) || spec % 2 == 0) (.trap 2 0#64 0 0 0 0#64)

/-- The v registers an instruction reads, for the refills of R161. -/
def specRegs (spec width : Nat) : List Nat := if spec < 80 then gen width (fun i => spec + i) else []

/-! ## Several registers at once -/

/-- A v register that needs no entry to be written (R161). -/
def isMapped (x : Group) (r : Nat) : Bool := decide (r < 80) && (look x.vval r).isSome && !x.spilled.contains r

def writeList (cx : Cx) (m : W64) (later : List Nat) : List (Nat × List W32) → M Unit
  | [] => pure ()
  | (r, v) :: t => do
    if r < 80 then writeV cx m r v (t.map (·.1) ++ later) else writeQ cx m (r - 80) v
    writeList cx m later t

/-- Writes of several registers: the mapped ones first, then the others in ascending order (R161). -/
def writeRegs (cx : Cx) (m : W64) (ws : List (Nat × List W32)) : M Unit := do
  let x ← getG cx.g
  let later := ws.filter (fun w => !isMapped x w.1)
  writeList cx m (later.map (·.1)) (ws.filter (fun w => isMapped x w.1))
  writeList cx m [] later

/-- A vector result of 64 bits, into a pair (R25, R26). -/
def writeD64 (cx : Cx) (d : Nat) (vals : List W64) : M Unit := do
  let lo := vals.map (fun v => v.setWidth 32)
  let hi := vals.map (fun v => v.extractLsb' 32 32)
  if d < 88 then writeRegs cx cx.exe [(d, lo), (d + 1, hi)] else pure ()
  pushY cx cx.exe vals

/-- Elements of 64 or of 32 bits, as 64-bit patterns. -/
def readEl (cx : Cx) (need : W64) (spec : Nat) (wide : Bool) : M (List W64) := do
  if wide then readOp64 cx need spec
  else do
    let v ← readOp cx need spec
    return v.map (fun e => e.setWidth 64)
def writeEl (cx : Cx) (d : Nat) (wide : Bool) (vals : List W64) : M Unit :=
  if wide then writeD64 cx d vals else writeD cx d (vals.map (fun v => v.setWidth 32))

/-- The refills an instruction's vector sources need (R161): specifiers with the registers each reads; `dests` are still to be
written. -/
def refillSpecs (cx : Cx) (dests : List Nat) (specs : List (Nat × Nat)) : M Unit :=
  refillAll cx dests (sortN (specs.flatMap (fun p => specRegs p.1 p.2)))

/-! ## Waiting claims (R165, R166, R170) -/

/-- The order, destination and amount of a group's waiting claim. -/
def claimOf (x : Group) : Option (Nat × Nat × Nat) := match x.wait with | .vclaim d n o _ _ => some (o, d, n) | _ => none
/-- The budget a claim needs, and the slices that leave free. -/
def claimNeed (x : Group) (n : Nat) : Nat := n * slices x.w
def claimNet (x : Group) (n : Nat) : Nat := (n - min n (entries x - x.floor)) * slices x.w
-- DEDUCED: log 21
def claimFits (s : State) (x : Group) (n : Nat) : Bool :=
  decide (claimNeed x n ≤ s.unreserved x.team (siteOf x)) && decide (claimNet x n ≤ s.freeSlices (siteOf x))
def resultWord (floor status : Nat) : W64 := n64 (floor * 256 + status)

-- DEDUCED: log 21
/-- A claim granted: the floor rises and the result is written. -/
def grant (x : Group) (d n : Nat) : Group :=
  { x with wait := .none, floor := x.floor + n, sval := ins x.sval (96 + d) (resultWord (x.floor + n) 0) }

-- DEDUCED: log 21
/-- A waiting claim that no older claim of its team on the partition holds back, and that fits. -/
def State.grantable (s : State) (site : Nat) : Option Nat :=
  let cs := (s.siteGroups site).filter (fun e => (claimOf e.2).isSome)
  let ord (e : Nat × Group) : Nat := ((claimOf e.2).map (·.1)).getD 0
  (cs.find? (fun e => cs.all (fun o => o.2.team != e.2.team || decide (ord e ≤ ord o))
    && (match claimOf e.2 with | some (_, _, n) => claimFits s e.2 n | none => false))).map (·.1)
-- DEDUCED: log 21
def State.grantClaims (s : State) (site : Nat) : Nat → State
  | 0 => s
  | fuel + 1 =>
    match s.grantable site with
    | none => s
    | some g => (s.modGrp g (fun x => match claimOf x with | some (_, d, n) => grant x d n | none => x)).grantClaims site fuel

/-! ## Issuing a unit -/

/-- What a unit's target leaves to do once its effect is in place. -/
structure Ctl where
  /-- new PCs of the threads that transfer -/
  moves : List (Nat × W64) := []
  /-- a branch, call, return or jump was taken, or the shadow closes for another reason (R32) -/
  closes : Bool := false
  /-- the run ends whatever follows (R20) -/
  ends : Bool := false
  /-- a trap raised after the effect, with TRAPPC the next unit: cause, TRAPINFO, lane -/
  post : Option (Nat × W64 × Nat) := none
  /-- a debug stop after the unit (R394) -/
  stopAfter : Option Nat := none
  /-- the handler is left: the interrupted state comes back (R345) -/
  trapret : Bool := false
  /-- the group exits (R360) -/
  exits : Bool := false

/-- One window tick for each thread of the active set, outside handlers (R28, R29). -/
def tick (act : W64) (x : Group) : Group :=
  if x.handler.isSome then x
  else { x with ops := x.ops.map (fun o =>
    { o with win := if o.win.isEmpty then [] else gen x.w (fun t => if hasLane act t then lane 0 o.win t - 1 else lane 0 o.win t) }) }

/-- The shadow after one covered instruction; a unit's own HPRED opens one (R32). -/
def shadowAfter (x : Group) (h : Hints) (closes : Bool) : Option Shadow :=
  let now : Option Shadow := match h.pred with
    | some p => some { p := p.p, sense := p.s, left := p.c.toNat + 1 }
    | none => x.shadow
  match now with
  | some sh => if closes || sh.left ≤ 1 then none else some { sh with left := sh.left - 1 }
  | none => none

/-- The end step at the last word of the innermost body (R113): whether there is a back-edge, and the loop
state after. -/
def loopEnd (pc : W64) : Nat → List Loop → List W64 → Option W64 × List Loop × List W64
  | 0, ls, lc => (none, ls, lc)
  | fuel + 1, ls, lc =>
    match ls.getLast? with
    | none => (none, ls, lc)
    | some l =>
      if l.stop != pc then (none, ls, lc)
      else
        let k := ls.length - 1
        let n := lane 0#64 lc k
        if decide (1 < n.toNat) then (some l.start, ls, setAt lc k (n - 1#64))
        else loopEnd pc fuel ls.dropLast (setAt lc k 0#64)

/-- Which loop levels the group stands at the end of. -/
def atLoopEnd (x : Group) (pc : W64) : Bool := match x.loops.getLast? with | some l => l.stop == pc | none => false

/-- Arbitration counts at the end of a run (R77, R108). -/
def State.runOver (s : State) (g : Nat) (act : W64) : State :=
  let x := s.grp g
  let site := siteOf x
  let s := { s with groups := s.groups.map (fun (e : Nat × Group) =>
    if e.1 != g && resident e.2 && siteOf e.2 == site then (e.1, { e.2 with waited := e.2.waited + 1 }) else e) }
  let s := s.modGrp g (fun x =>
    { x with waited := 0, runs := satAdd x.runs 1, ages := gen x.w (fun t => if hasLane act t then 0 else lane 0 x.ages t + 1) })
  s.endRun site

/-- The threads that have not exited. -/
def liveMask (x : Group) : W64 := fullMask x.w &&& ~~~x.exited

/-- The lead PC (R77): of the threads of the greatest age, the lowest PC; and the active set. -/
def leadPc (x : Group) : W64 :=
  let ts := laneList x.w (liveMask x)
  let age := ts.foldl (fun a t => max a (lane 0 x.ages t)) 0
  let pcs := (ts.filter (fun t => lane 0 x.ages t == age)).map (lane 0#64 x.pcs)
  pcs.foldl (fun m p => if p.toNat < m.toNat then p else m) (pcs.headD 0#64)
def activeSet (x : Group) : W64 := maskOf x.w (fun t => hasLane (liveMask x) t && lane 0#64 x.pcs t == leadPc x)

/-- A debug stop (R393–R395, R398) with its trace record. -/
def State.debugStop (s : State) (g ev index : Nat) (sitePc addr arg : W64) : State :=
  (s.modGrp g (fun x => { x with dstop := true, stepping := false, stopNext := false })).traceG g ev sitePc addr arg index

-- DEDUCED: log 78
/-- A trap or user interrupt taken in a step ends it, with PC at the handler's first word (R395). -/
def State.stepTrap (s : State) (g : Nat) (sitePc : W64) : State :=
  if (s.grp g).stepping && !(s.grp g).halted then s.debugStop g evStepdone 0 sitePc 0#64 (leadPc (s.grp g)) else s

/-- The issue slot of an opcode (R105): 0 S, 1 V, 2 L, 3 E. -/
def slotOf (op : Nat) : Nat :=
  if (0x08 ≤ op && op ≤ 0x0A) || op == 0x0C || (0x50 ≤ op && op ≤ 0x67) || (0x78 ≤ op && op ≤ 0x7C) then 2
  else if op == 0x1E || (0x20 ≤ op && op ≤ 0x4A) then 1
  else if 0x68 ≤ op && op ≤ 0x77 then 3
  else 0

/-- Hint words of the unit (R30). -/
def Hints.count (h : Hints) : Nat := h.n

-- DESIGN CHOICE: log 70
/-- Whether a unit may have accessed memory: one of the L or E slot but FENCE, EXIT, or one that spilled or refilled a register. -/
def mayAccess (op : Nat) (moved : Bool) : Bool := moved || op == 0x04 || (2 ≤ slotOf op && op != 0x0C)
-- DESIGN CHOICE: log 70
/-- XLAT and LEVEL of a unit's record (R400), from what nothing fixes: no translation, and no level but that of the v registers, where the
unit made no access. -/
def sampleLevels (op : Nat) (moved : Bool) (x l : Nat) : Nat × Nat :=
  if mayAccess op moved then (x % 8, l % 8) else (0, if slotOf op == 1 then 1 else 0)

-- DESIGN CHOICE: log 70
/-- The sampling of a partition as one unit issues (R400): the interval counts down; a tagged unit leaves its
record, whose latencies and levels nothing fixes; that of a unit that traps has EXEC = 0. -/
def State.sampleUnit (s : State) (cx : Cx) (pos : Nat) (wordv : W32) (traps : Bool) : State :=
  let x := s.grp cx.g
  let site := siteOf x
  match look s.samples site with
  | none => s
  | some sm =>
    if !sm.tag then { s with samples := ins s.samples site { sm with left := sm.left - 1 } }
    else
      let (t, s) := s.clock (dieOf x)
      let f := Config.sampleField s.fresh
      let f2 := Config.sampleField (s.fresh + 1)
      let f3 := Config.sampleField (s.fresh + 2)
      let f4 := Config.sampleField (s.fresh + 3)
      let s := { s with fresh := s.fresh + 4, samples := ins s.samples site { sm with tag := false, left := sm.left - 1 } }
      if x.ld == sm.ld && decide (sm.ring.dom0 ≤ x.dom.toNat) && decide (x.dom.toNat < sm.ring.dom0 + sm.ring.domn) then
        let op := bits wordv.toNat 30 24
        let lv := sampleLevels op (x.spills + x.refills != cx.moved) f3.toNat f4.toNat
        let r : SampleRec := {
          site := site, ld := sm.ld, ring := sm.ring
          below := bytes8 x.name ++ bytes8 cx.pc ++ toLe 4 cx.seq.toNat ++ bytes4 wordv ++ bytes8 t ++ (bytes8 f).take 6
            ++ (if traps then [0#8, 0#8] else (bytes8 f).drop 6) ++ (bytes8 f2).take 2
            ++ [BitVec.ofNat 8 lv.2, BitVec.ofNat 8 lv.1]
          above := [BitVec.ofNat 8 (pos + 32 * slotOf op), BitVec.ofNat 8 (x.part + 8 * x.slot),
                BitVec.ofNat 8 (dieOf x + 16 * (s.partDies (s.ldPart x.ld)).length)]
            ++ bytes8 cx.exe ++ List.replicate 8 0#8 }
        { s with sampleRecs := s.sampleRecs ++ [r] }
      else s
/-- The word being issued, as it was fetched. -/
def State.wordAt (s : State) (cx : Cx) : W32 := (s.grp cx.g).word
/-- The number of words of the run with the unit. -/
def State.countWords (s : State) (cx : Cx) (run : Run) (n : Nat) : State := { s with runs := ins s.runs (siteOf (s.grp cx.g)) { run with words := n } }
/-- A unit that traps is sampled too. -/
def State.sampleTrap (s : State) (cx : Cx) (run : Run) : State :=
  let n := run.words + cx.h.n + 1
  (s.sampleUnit cx (n - 1) (s.wordAt cx) true).countWords cx run n

-- DEDUCED: log 27, 49
/-- A group whose last thread has exited (R360): every register and the floor go back, trees and slot are freed. -/
def State.exitGroup (s : State) (g : Nat) : State :=
  let x := s.grp g
  let s := s.traceG g evExit 0#64 0#64 x.exitval 0
  let late := x.events
  let s := late.foldl (fun s e => s.faultRecord x.ld
    (trapRecord x.name e.site e.seq 0#64 e.info 0#64 e.detail e.cause (flagImp + flagAgent) (wbits x.gstatus 4 0) (dieOf x) 0)) s
  (s.partChain g).modGrp g (fun y =>
    let x := keepPins (fun _ => true) y
    { x with
      place := .exited
      vval := [], spilled := [], wspill := [], spillimg := [], sval := [], floor := 0, trees := [], events := []
      handler := none, shadow := none, loops := [], wait := .none, stalled := false, dstop := false, brks := []
      ops := x.ops.map (fun o => { o with dests := [], win := [] }) })

/-- A group once a unit of it has issued: loop end, windows, shadow, word counts and PCs (R28, R32, R77, R113). -/
def issued (cx : Cx) (op : Nat) (c : Ctl) (x : Group) : Group :=
  let le := if atLoopEnd x cx.pc then loopEnd cx.pc 4 x.loops x.lc else (none, x.loops, x.lc)
  let pcOf (t : Nat) : W64 :=
    match c.moves.find? (fun e => e.1 == t) with
    | some e => e.2
    | none => match le.1 with | some b => b | none => cx.pc + 4#64
  let hinted := setAt x.words 0 (satAdd (lane 0 x.words 0) cx.h.count)
  { settle (tick cx.act x) with
    loops := le.2.1, lc := le.2.2, shadow := shadowAfter x cx.h (c.closes || le.1.isSome)
    unmatched := if x.unmatched.any (fun u => u.1 == cx.upc) then none else x.unmatched
    xfault := []
    pcs := gen x.w (fun t => if hasLane cx.act t && !hasLane x.exited t then pcOf t else lane 0#64 x.pcs t)
    words := setAt hinted (slotOf op) (satAdd (lane 0 hinted (slotOf op)) 1) }

/-- The PCs of the active threads that have not exited. -/
def State.livePcs (s : State) (cx : Cx) : List W64 :=
  let x := s.grp cx.g
  (laneList x.w (cx.act &&& ~~~x.exited)).map (fun t => lane 0#64 x.pcs t)
/-- Whether they have parted, or none is left (R20). -/
def parted (pcs : List W64) : Bool := match pcs with | [] => true | p :: r => r.any (· != p)

/-- A run that a step (R395) has carried out: the group stops again. -/
def State.stepOver (s : State) (g : Nat) (last : W64) : State :=
  if (s.grp g).stepping && !(s.grp g).halted then s.debugStop g evStepdone 0 last 0#64 (leadPc (s.grp g)) else s

/-- The run after the unit: over, or at its next word. -/
def State.nextRun (s : State) (cx : Cx) (run : Run) (words : Nat) (fin : Bool) (c : Ctl) : State :=
  if c.exits then (s.runOver cx.g cx.act).exitGroup cx.g
  else if fin then s.runOver cx.g cx.act
  else
    let pc := ((s.livePcs cx).head?).getD (cx.pc + 4#64)
    let r : Run := { run with words := words, pc := pc, upc := pc, hints := {}, held := false, rur := none, last := cx.pc }
    { s with runs := ins s.runs (siteOf (s.grp cx.g)) r }

/-- What the unit still does once it has issued: a debug stop, the return from a handler, a trap after the effect, with
TRAPPC where the executing threads go on, at the end of a LOOP body its first word (R113, R128, R338). -/
def State.afterUnit (s : State) (cx : Cx) (c : Ctl) : State :=
  let next := ((s.livePcs cx).head?).getD (cx.pc + 4#64)
  let s := match c.stopAfter with
    | some ev => s.debugStop cx.g ev 0 cx.pc 0#64 0#64
    | none => s
  let s := if c.trapret then
      match (s.grp cx.g).handler with
      | some h => s.trapReturn cx.g h cx.pc
      | none => s
    else s
  match c.post with
  | some (cause, info, ln) =>
    s.takeTrap cx.g { cause := cause, info := info, pc := next, set := cx.act, lane := ln, sitePc := cx.pc, siteSeq := (s.grp cx.g).cmdseq }
  | none => s

/-- The state after a unit has issued: PCs, windows, shadow, loop end, word counts, and the end of the run
(R20, R28, R32, R77, R113). -/
def State.finish (s : State) (cx : Cx) (run : Run) (z : Bool) (op : Nat) (c : Ctl) : State :=
  let x0 := s.grp cx.g
  let words := run.words + cx.h.count + 1
  let s := ((s.modGrp cx.g (issued cx op c)).sampleUnit cx (words - 1) (s.wordAt cx) false).countWords cx run words
  let fin := z || c.ends || atLoopEnd x0 cx.pc || parted (s.livePcs cx) || decide (24 ≤ words) || c.trapret || c.post.isSome || c.stopAfter.isSome
  let s := (((s.nextRun cx run words fin c).grantClaims (siteOf x0) 16).afterUnit cx c)
  if fin && !c.exits then s.stepOver cx.g cx.pc else s

/-- A run that ends before a unit has issued: it counts in arbitration if a word of it has issued (R77, R108). -/
def State.runCut (s : State) (run : Run) : State :=
  if run.words == 0 then s.endRun (siteOf (s.grp run.gid)) else s.runOver run.gid run.act

-- DEDUCED: log 25; DESIGN CHOICE: log 104
/-- What a unit that stopped comes to: `s` is the state before the unit. A group whose unit waits keeps its PCs (R107, R220, R295). -/
def State.stopped (s : State) (cx : Cx) (run : Run) : Stop → State
  | .trap cause info ln code lv addr =>
    (((s.sampleTrap cx run).runOver cx.g cx.act).takeTrap cx.g { cause := cause, info := info, pc := cx.upc, set := cx.act, lane := ln, code := code, level := lv, addr := addr, sitePc := cx.pc, siteSeq := (s.grp cx.g).cmdseq }).stepTrap cx.g cx.pc
  | .stall =>
    if run.words == 0 then (s.modGrp cx.g (fun x => { x with stalled := true })).endRun (siteOf (s.grp cx.g))
    else
      let r : Run := { run with pc := cx.upc, upc := cx.upc, hints := {}, held := true, rur := none }
      { s with runs := ins s.runs (siteOf (s.grp cx.g)) r }
  | .suspend m => ((s.requestPages (some cx.g) m).modGrp cx.g (fun x => { x with wait := .xlat m 0 })).runCut run
  | .peer ts => (s.modGrp cx.g (fun x => { x with wait := .peer ts })).runCut run
  | .spillFault c k l a =>
    (s.runOver cx.g cx.act).halt cx.g { cause := c, info := 0#64, pc := cx.upc, set := cx.act, code := k, level := l, addr := a, sitePc := cx.pc, siteSeq := (s.grp cx.g).cmdseq } false
  | .debug ev i a =>
    ((s.modGrp cx.g (fun x => { x with unmatched := some (cx.upc, ev == evWstop) })).runCut run).debugStop cx.g ev i cx.pc a 0#64
  | .fail c k l a =>
    (((s.sampleTrap cx run).runOver cx.g cx.act).takeTrap cx.g { cause := c, info := 0#64, pc := cx.upc, set := cx.act, code := k, level := l, addr := a, sitePc := cx.pc, siteSeq := (s.grp cx.g).cmdseq }).stepTrap cx.g cx.pc

/-- The threads that execute under the unit's own HPRED or an open shadow (R32). -/
def executing (x : Group) (act : W64) (h : Hints) : W64 :=
  let sel (p : BitVec 3) (sense : Bool) : W64 :=
    let m := (look x.p p.toNat).getD 0#64
    act &&& (if sense then m else ~~~m)
  match h.pred with
  | some f => sel f.p f.s
  | none => match x.shadow with
    | some sh => sel sh.p sh.sense
    | none => act

/-- Which hints a target accepts (R424), beside HPRED. -/
structure Accepts where
  imm : Nat := 0
  mode : Bool := false
  ord : Bool := false
  cache : Bool := false
  type : Bool := false
  merge : Bool := false

def Accepts.ok (a : Accepts) (h : Hints) : Bool :=
  decide (h.imm.length ≤ a.imm) && (a.mode || h.mode.isNone) && (a.ord || h.ord.isNone) && (a.cache || h.cache.isNone)
    && (a.type || h.type.isNone) && (a.merge || h.mode.all (fun m => m.m == 0#3))

/-- The unit in progress at the focus: its run, group and context. -/
def State.current (s : State) : Option (Run × Cx) :=
  match s.focus with
  | none => none
  | some site =>
    match look s.runs site with
    | none => none
    | some r =>
      let x := s.grp r.gid
      some (r, { g := r.gid, act := r.act, exe := executing x r.act r.hints, pc := r.pc, upc := r.upc, h := r.hints, seq := x.cmdseq, moved := x.spills + x.refills })

-- DEDUCED: log 24
/-- A breakpoint that matches the unit before it issues (R394). -/
def breakHit (x : Group) (upc : W64) : Option Nat :=
  if x.unmatched.any (fun u => u.1 == upc) then none else (x.brks.find? (fun e => e.2.on && e.2.addr == upc)).map (·.1)

-- DEDUCED: log 22, 24; DESIGN CHOICE: log 100, 105
/-- The unit's target: the checks every instruction shares (R30, R32, R42, R424), the breakpoint test (R394), its body,
the RUR trap (R156). `static` holds the ILLEGAL checks of the word itself, `body` the rest. -/
def unitBody (cx : Cx) (acc : Accepts) (mill : Bool) (static : Cx → M Unit) (body : Cx → M Ctl) : M Ctl := do
  let x ← getG cx.g
  guardM (!cx.h.bad && acc.ok cx.h && !(cx.h.pred.isSome && x.shadow.isSome) && (mill || x.mill.isNone)) (.trap 1 0#64 0 0 0 0#64)
  static cx
  match breakHit x cx.upc with
  | some i => stop (.debug evBkstop i 0#64)
  | none => pure ()
  let c ← body cx
  let s ← get
  match look s.runs (siteOf x) with
  | some r => match r.rur with
    | some sp => if x.trapmask.getLsbD 0 then trap 14 (n64 sp) else return c
    | none => return c
  | none => return c

-- DEDUCED: log 22
/-- A RUR trap still sets GSTATUS.RUR: the read has happened (R156). -/
def rurSticky (s : State) (g : Nat) : Stop → State
  | .trap 14 _ _ _ _ _ => s.modGrp g (fun x => { x with gstatus := x.gstatus ||| 1#64 })
  | _ => s

/-- A run that only finds out whether its first unit still stalls (R107): the group is blocked no more, and what waits for its next
run boundary comes first. -/
def State.unblock (s : State) (run : Run) : State :=
  (s.modGrp run.gid (fun x => { x with retry := false })).endRun (siteOf (s.grp run.gid))

-- DEDUCED: log 22, 24, 25
/-- One instruction word as the target of its unit. -/
def issue (z : Bool) (op : Nat) (acc : Accepts) (mill : Bool) (static : Cx → M Unit) (body : Cx → M Ctl) (s : State) :
    Host.Outcome State Fault Refusal :=
  match s.current with
  | none => .fault .noRun
  | some (run, cx) =>
    match (unitBody cx acc mill static body).run s with
    | .ok (c, s') => .next (if run.probe then s.unblock run else s'.finish cx run z op c)
    | .error .stall => .next (s.stopped cx run .stall)
    | .error e => .next (if run.probe then s.unblock run else (rurSticky s cx.g e).stopped cx run e)

-- DESIGN CHOICE: log 100
/-- The effect of an instruction that does nothing where an HPRED shadow skips every thread. -/
def skipIfNone (cx : Cx) (k : M Ctl) : M Ctl := if cx.exe = 0#64 then pure {} else k
-- DEDUCED: log 18
/-- As `skipIfNone`, for an instruction with last-use marks: they are ignored where every thread is skipped (R27). -/
def skipMarks (cx : Cx) (marks : Nat) (k : M Ctl) : M Ctl :=
  if cx.exe = 0#64 then do
    ignoreMarks cx marks
    pure {}
  else k
def thenNext (k : M Unit) : M Ctl := do k; pure {}

end Sys2Proof.Machine
end

