-- ==== Sys2Proof/Machine/Flags.lean ====
section
/-! DEFINITION. Element types, what one lane of an arithmetic instruction gives, and every flag, event count and
condition it sets (R36, R45, R51, R52, R127–R129, R136, R151–R153). -/

namespace Sys2Proof.Machine

/-! ## Element types (R36, R51, R52) -/

def tyBits (ty : Nat) : Nat :=
  match ty with
  | 0 => 8 | 4 => 8 | 12 => 8
  | 1 => 16 | 5 => 16 | 8 => 16 | 9 => 16 | 13 => 16
  | 3 => 64 | 7 => 64 | 11 => 64
  | _ => 32
def isWide (ty : Nat) : Bool := tyBits ty == 64
def isSigned (ty : Nat) : Bool := decide (ty < 4)
def isFloat (ty : Nat) : Bool := decide (8 ≤ ty) && decide (ty ≤ 11)
def fmtOf (ty : Nat) : Fmt := if ty == 8 then f16 else if ty == 9 then bf16 else if ty == 11 then f64 else f32
/-- The format's number in the event counters (R151). -/
def fmtIdx (ty : Nat) : Nat := if ty == 8 then 0 else if ty == 9 then 1 else if ty == 11 then 3 else 2

def intTypes : List Nat := [0, 1, 2, 3, 4, 5, 6, 7]
def floatTypes : List Nat := [8, 9, 10]
def allTypes : List Nat := [0, 1, 2, 3, 4, 5, 6, 7, 8, 9, 10, 11, 12, 13, 14]

/-- The type of the unit: HTYPE's, or the entry's default. -/
def unitType (h : Hints) (dflt : Nat) : Nat := (h.type.map (fun t => t.t.toNat)).getD dflt

/-- An element's low bits, and the number they stand for. -/
def eltBits (ty : Nat) (x : W64) : Nat := x.toNat % 2 ^ tyBits ty
def ofBits (n : Nat) (signed : Bool) (v : Nat) : Int := if signed && decide (2 ^ (n - 1) ≤ v) then (v : Int) - 2 ^ n else v
def eltInt (ty : Nat) (x : W64) : Int := ofBits (tyBits ty) (isSigned ty) (eltBits ty x)

/-- The low bits of a number, held as R52 states. -/
def holdBits (ty v : Nat) : W64 :=
  let n := tyBits ty
  let u := v % 2 ^ n
  if ty < 2 && 2 ^ (n - 1) ≤ u then n64 (u + 2 ^ 32 - 2 ^ n) else n64 u
def holdInt (ty : Nat) (i : Int) : W64 := holdBits ty (i % (2 ^ tyBits ty : Nat)).toNat

def tyMin (ty : Nat) : Int := if isSigned ty then -(2 ^ (tyBits ty - 1) : Nat) else 0
def tyMax (ty : Nat) : Int := if isSigned ty then (2 ^ (tyBits ty - 1) : Nat) - 1 else (2 ^ tyBits ty : Nat) - 1
def clampI (lo hi i : Int) : Int := if i < lo then lo else if hi < i then hi else i

/-! ## What one lane gives -/

/-- Floating-point events of one lane (R151). -/
structure Ev where
  inv : Bool := false
  dz : Bool := false
  ovf : Bool := false
  unf : Bool := false
  deriving DecidableEq, Repr

def Ev.or (a b : Ev) : Ev := { inv := a.inv || b.inv, dz := a.dz || b.dz, ovf := a.ovf || b.ovf, unf := a.unf || b.unf }

/-- One lane's result: the held pattern, and whether it saturated, met a case of R127, or met a floating-point
event. -/
structure LaneOut where
  v : W64
  sat : Bool := false
  idz : Bool := false
  ev : Ev := {}
  deriving DecidableEq, Repr

/-- An exact integer result, wrapped, or clamped where SAT is honoured (R51, R134). -/
def satInt (ty : Nat) (sat : Bool) (i : Int) : LaneOut :=
  if sat then { v := holdInt ty (clampI (tyMin ty) (tyMax ty) i), sat := decide (i < tyMin ty) || decide (tyMax ty < i) }
  else { v := holdInt ty i }

/-- Division (R127): quotient, remainder, and whether a case of the table was met. -/
def divide (n : Nat) (signed : Bool) (a b : Int) : Int × Int × Bool :=
  if b = 0 then (0, a, true)
  else if signed && a = -(2 ^ (n - 1) : Nat) && b = -1 then (-(2 ^ (n - 1) : Nat), 0, true)
  else (a.tdiv b, a.tmod b, false)

/-! ## Sticky bits and counts -/

def sticky (g : Nat) (b : W64) : M Unit := modG g (fun x => { x with gstatus := x.gstatus ||| b })

/-- SATD where some lane was clamped. -/
def noteSat (cx : Cx) (sat : Bool) : M Unit := if sat then sticky cx.g 16#64 else pure ()

/-- Cases of R127 met by the lanes of a mask: counted, sticky, and a trap after the writes where IDIVZEN is set
(R128). -/
def noteDiv (cx : Cx) (m : W64) : M Ctl := do
  if m = 0#64 then return {}
  sticky cx.g 8#64
  let x ← getG cx.g
  if x.mill.isNone then modify (fun s => s.modTask x.task (fun t => { t with idivz := satAdd t.idivz (popc m) }))
  if x.trapmask.getLsbD 1 then return { post := some (15, m, lowLane 64 m), ends := true } else return {}

/-- The counters that FPTHRESH watches (R153). -/
def fpWatched (t : Task) : Nat :=
  ((List.range 4).map (fun f => ((List.range 3).map (fun e => (look t.fp (4 * f + e)).getD 0)).sum)).sum

/-- Events counted in a task for the format `f` (R151): how many lanes met each kind. The unit that brings the
watched sum to FPTHRESH is remembered for the one FP_THRESHOLD event (R153). -/
def State.countEvents (s : State) (g f : Nat) (n : List Nat) (pc seq : W64) : State :=
  let x := s.grp g
  if x.mill.isSome || n.all (· == 0) then s
  else s.modTask x.task (fun t =>
    let fp := (List.range 4).foldl (fun m e => if lane 0 n e == 0 then m else ins m (4 * f + e) (satAdd ((look m (4 * f + e)).getD 0) (lane 0 n e))) t.fp
    let st := (List.range 4).foldl (fun (b : BitVec 16) e => if lane 0 n e == 0 then b else b ||| (1#16 <<< (4 * f + e))) t.fpstatus
    let th := t.tcb.fpthresh.toNat
    let t' := { t with fp := fp, fpstatus := st }
    if th != 0 && !t.fpfired && t.fpcross.isNone && decide (fpWatched t < th) && decide (th ≤ fpWatched t') then
      { t' with fpcross := some (g, pc, seq, st.setWidth 64) }
    else t')

def Ev.counts (es : List Ev) : List Nat :=
  [(es.filter (·.inv)).length, (es.filter (·.dz)).length, (es.filter (·.ovf)).length, (es.filter (·.unf)).length]

def noteEvents (cx : Cx) (ty : Nat) (es : List Ev) : M Unit := do
  let x ← getG cx.g
  modify (fun s => s.countEvents cx.g (fmtIdx ty) (Ev.counts es) cx.pc x.cmdseq)

/-! ## Conditions (R129, R136) -/

/-- SCMP's conditions on 64-bit values. -/
def scalarCond (c : Nat) (a b : W64) : Bool :=
  match c with
  | 0 => a == b
  | 1 => a != b
  | 2 => decide (a.toInt < b.toInt)
  | 3 => decide (a.toInt ≤ b.toInt)
  | 4 => decide (b.toInt < a.toInt)
  | 5 => decide (b.toInt ≤ a.toInt)
  | 6 => decide (a.toNat < b.toNat)
  | 7 => decide (a.toNat ≤ b.toNat)
  | 8 => decide (b.toNat < a.toNat)
  | _ => decide (b.toNat ≤ a.toNat)

/-- ICMP's conditions. -/
def intCond (c ty : Nat) (a b : W64) : Bool :=
  let x := eltInt ty a
  let y := eltInt ty b
  match c with
  | 0 => decide (x = y)
  | 1 => decide (x ≠ y)
  | 2 => decide (x < y)
  | 3 => decide (x ≤ y)
  | 4 => decide (y < x)
  | 5 => decide (y ≤ x)
  | 6 => (eltBits ty a &&& eltBits ty b) == 0
  | _ => (eltBits ty a &&& eltBits ty b) != 0

/-- FCMP's and DCMP's conditions on an ordering, `none` where an operand is a NaN. -/
def floatCond (c : Nat) (o : Option Ordering) : Bool :=
  match c with
  | 0 => o == some .eq
  | 1 => o != some .eq
  | 2 => o == some .lt
  | 3 => o == some .lt || o == some .eq
  | 4 => o == some .gt
  | 5 => o == some .gt || o == some .eq
  | 6 => o.isNone
  | _ => o.isSome

/-! ## Rounding mode (R33, R56, R57) -/

structure FpMode where
  rm : Nat := 0
  sat : Bool := false
  ftz : Bool := false
  deriving DecidableEq, Repr

def fpMode (h : Hints) : FpMode :=
  match h.mode with
  | none => {}
  | some m => { rm := if m.v then m.r.toNat else 0, sat := m.s, ftz := m.f }
def satOf (h : Hints) : Bool := (fpMode h).sat
/-- The mode of an instruction that takes only FTZ. -/
def ftzOnly (h : Hints) : FpMode := { ftz := (fpMode h).ftz }

end Sys2Proof.Machine
end

