-- ==== Sys2Proof/Machine/Budget.lean ====
section
/-! DEFINITION. The instructions that trade register floor, and VMOVS (chapter "Registers, renaming and the give-back
kernel"). -/

namespace Sys2Proof.Machine

/-- VGIVE (R168, R169). -/
def execVgive (f : FDN) (s : State) : Host.Outcome State Fault Refusal :=
  issue f.z 0x1A {} false (fun _ => pure ()) (fun cx => skipIfNone cx (thenNext (do
    let x ← getG cx.g
    let n := f.n.toNat
    if x.floor < n + 4 then writeS cx f.d.toNat (resultWord x.floor 2)
    else do
      modG cx.g (fun x => { x with floor := x.floor - n })
      (gen (80 - (x.floor - n)) (fun k => x.floor - n + k)).forM (unmapReg cx.g)
      writeS cx f.d.toNat (resultWord (x.floor - n) 0)))) s

/-- VCLAIM (R168, R170): granted at once where it can be; otherwise the group waits. -/
def execVclaim (f : FDN) (s : State) : Host.Outcome State Fault Refusal :=
  issue f.z 0x1B {} false (fun _ => pure ()) (fun cx => do
    if cx.exe = 0#64 then return { ends := true }
    let x ← getG cx.g
    let n := f.n.toNat
    if 80 < x.floor + n then writeS cx f.d.toNat (resultWord x.floor 2)
    else if n == 0 then writeS cx f.d.toNat (resultWord x.floor 0)
    else do
      blockDest cx f.d.toNat
      let order ← newId
      modG cx.g (fun x => { x with wait := .vclaim f.d.toNat n order cx.act cx.pc })
    return { ends := true }) s

/-- VFREE (R171): unmaps a range. -/
def execVfree (f : FVfree) (s : State) : Host.Outcome State Fault Refusal :=
  issue f.z 0x1C {} false (fun _ => guardM (decide (f.f.toNat + f.c.toNat + 1 ≤ 80)) (.trap 2 0#64 0 0 0 0#64))
    (fun cx => skipIfNone cx (thenNext ((gen (f.c.toNat + 1) (fun k => f.f.toNat + k)).forM (unmapReg cx.g)))) s

/-- The counters of R172. -/
def vstatVal (s : State) (x : Group) (k : Nat) : Nat :=
  match k with
  | 0 => x.floor
  | 1 => mappedN x
  | 2 => s.unreserved x.team (siteOf x)
  | 3 => s.freeSlices (siteOf x)
  | 4 => x.spills
  | 5 => x.refills
  | _ => x.luign

/-- VSTAT (R172). -/
def execVstat (f : FDK) (s : State) : Host.Outcome State Fault Refusal :=
  issue f.z 0x1D {} false (fun _ => pure ()) (fun cx => skipIfNone cx (thenNext (do
    let s ← get
    writeS cx f.d.toNat (n64 (vstatVal s (s.grp cx.g) f.k.toNat))))) s

/-- One thread's element to a scalar (R173): `k` names the thread, whether or not it executes, `none` the lowest active one. -/
def moveLane (wide : Bool) (d a : Nat) (l z : Bool) (k : Option Nat) (s : State) : Host.Outcome State Fault Refusal :=
  let n := if wide then 2 else 1
  issue z 0x1E {} false
    (fun cx => do
      okSpec a
      let x ← getG cx.g
      guardM (decide (k.getD 0 < x.w)) (.trap 2 0#64 0 0 0 0#64)
      okMark l a
      guardM (!wide || decide (88 ≤ a) || a % 2 == 0) (.trap 2 0#64 0 0 0 0#64))
    (fun cx => thenNext (do
      let x ← getG cx.g
      if cx.exe = 0#64 && k.isNone then ignoreMarks cx (countMarks l false)
      else do
        let rd : Cx := if cx.exe = 0#64 then { cx with exe := cx.act } else cx
        let u := k.getD (lowLane x.w cx.exe)
        refillSpecs rd [] [(a, n)]
        let v ← readEl rd (maskOf x.w (fun t => t == u)) a wide
        applyMarks cx (countMarks l false) (specMark l a n)
        writeS rd d (lane 0#64 v u))) s

/-- VMOVS (R173). -/
def execVmovs (f : FVmk) (s : State) : Host.Outcome State Fault Refusal := moveLane false f.d.toNat f.a.toNat f.l f.z (some f.k.toNat) s
/-- VMOVS.FIRST (R173). -/
def execVmovsFirst (f : FVm) (s : State) : Host.Outcome State Fault Refusal := moveLane false f.d.toNat f.a.toNat f.l f.z none s
/-- VMOVS.D (R173). -/
def execVmovsD (f : FVmk) (s : State) : Host.Outcome State Fault Refusal := moveLane true f.d.toNat f.a.toNat f.l f.z (some f.k.toNat) s
/-- VMOVS.FIRST.D (R173). -/
def execVmovsFirstD (f : FVm) (s : State) : Host.Outcome State Fault Refusal := moveLane true f.d.toNat f.a.toNat f.l f.z none s

end Sys2Proof.Machine
end

