-- ==== Sys2Proof/Machine/Async.lean ====
section
/-! DEFINITION. Issuing long-latency operations and fetching instruction words. -/

namespace Sys2Proof.Machine

-- DEDUCED: log 40, 92
/-- Translating one address for a group's own access (R182, R221, R374): a page that misses the ATC while page requests are off is
code 9, unless the host has already refused it for this unit; a route over a closed link is code 5. -/
def groupTrans (g : Nat) (va : W64) (n : Need) : M Tr := do
  let x ← getG g
  match ← trans x.dom va { n with user := x.mill.isNone } with
  | .miss m =>
    if (← get).ldev m.ld |>.pageReqs then return .miss m
    else if x.xfault.any (fun e => e.1 == m) then return .miss m
    else return .fault 4 9 0
  | .ok t u => if (← get).reaches (dieOf x) t then return .ok t u else return .fault 5 5 0
  | r => return r

-- DEDUCED: log 92
/-- A page a group's check found missing (R220), or that the host has refused for this unit (R221). -/
def groupMiss {α : Type} (g : Nat) (m : Miss) (info : W64) (va : W64) : M α := do
  let x ← getG g
  match x.xfault.find? (fun e => e.1 == m) with
  | some e => stop (.trap 4 info 0 e.2 0 va)
  | none => stop (.suspend [m])

/-- A v register's elements as a thread reads them now: what has arrived for it outside a window, else what it stores. -/
def readable (x : Group) (r : Nat) : List W32 :=
  gen x.w (fun t => match pendingAt x r t with
    | some (o, d) =>
      if inWindow x o t then (if d.was then 0#32 else lane 0#32 ((look x.vval r).getD []) t)
      else if o.ready then (lane 0#64 d.vals t).setWidth 32 else lane 0#32 ((look x.vval r).getD []) t
    | none => lane 0#32 ((look x.vval r).getD []) t)

/-- A v register that nothing was written to since it was UNMAPPED: none of its own, or one whose only result is on its way under
a window that opened while it was UNMAPPED (R28, R155). -/
def unmappedNow (cx : Cx) (x : Group) (r : Nat) : Bool :=
  (look x.vval r).isNone || (laneList x.w cx.exe).any (fun t => match pendingAt x r t with
    | some (o, d) => inWindow x o t && d.was && d.copy == 0
    | none => false)

-- DEDUCED: log 19; DESIGN CHOICE: log 103
/-- A group with a v register of the destination set of operation `id` taken (R110, R155, R160, R163): results of its threads
are discarded, the value they read till now stays for the window; a spilled value, or a window copy in the slot, serves in place. -/
def takeV (cx : Cx) (ahead id r : Nat) (x : Group) : Group :=
  let was := unmappedNow cx x r
  let inSlot := x.spilled.contains r || ((pendingReg x r).isSome && x.wspill.contains r)
  let old := (look x.vval r).getD (gen x.w (fun _ => 0#32))
  let d : Dest := { reg := r, mask := cx.exe, was := was, vals := [], copy := if ahead != 0 && !was && !inSlot then 1 else 0 }
  stampReg
    { x with
      ops := (x.ops.map (dropDest r cx.exe)).map (fun o => if o.id == id then { o with dests := o.dests ++ [d] } else o)
      spilled := x.spilled.filter (· != r)
      wspill := if x.spilled.contains r && ahead != 0 then x.wspill ++ [r]
        else if (pendingReg x r).isSome && ahead == 0 then x.wspill.filter (· != r) else x.wspill
      vval := if (pendingReg x r).isSome then ins x.vval r (blend 0#32 x.w cx.exe (readable x r) old)
        else if (look x.vval r).isNone then ins x.vval r old else x.vval } r

/-- A group with a q or s register of the destination set of operation `id` taken (R110, R155). -/
def takeSQ (cx : Cx) (id r : Nat) (x : Group) : Group :=
  let was := decide (96 ≤ r) && x.mill.isNone && ((look x.sval r).isNone
    || (match pendingReg x r with | some (o, d) => inWindowAll x o cx.exe && d.was | none => false))
  let keepS := match pendingReg x r with
    | some (o, d) => if o.ready && !inWindowAll x o cx.exe then lane 0#64 d.vals 0 else (look x.sval r).getD 0#64
    | none => (look x.sval r).getD 0#64
  let keepQ := match pendingReg x r with
    | some _ => gen x.w (fun t => match pendingAt x r t with
      | some (o, d) => if o.ready && !inWindow x o t && hasLane cx.exe t then (lane 0#64 d.vals t).setWidth 32 else lane 0#32 (storedV x r) t
      | none => lane 0#32 (storedV x r) t)
    | none => storedV x r
  { x with
    ops := (x.ops.map (dropDest r (if 96 ≤ r then BitVec.allOnes 64 else cx.exe))).map (fun o =>
      if o.id == id then { o with dests := o.dests ++ [{ reg := r, mask := cx.exe, was := was, vals := [] }] } else o)
    sval := if 96 ≤ r && ((look x.sval r).isNone || (pendingReg x r).isSome) then ins x.sval r keepS else x.sval
    q := if decide (r < 96) && (pendingReg x r).isSome then ins x.q (r - 80) keepQ else x.q }

-- DEDUCED: log 19
/-- The entries a v register of a destination set needs (R160). -/
def takeNeeds (x y : Group) (ahead r : Nat) : Nat :=
  if (pendingReg x r).isSome then entries y - entries x
  else if (look x.vval r).isNone || x.spilled.contains r || ahead != 0 then 1 else 0

-- DEDUCED: log 16; DESIGN CHOICE: log 103
/-- One register of the destination set taken at issue (R110, R155, R160, R165); `protect` are those still to be taken. -/
def claimDest (cx : Cx) (ahead id : Nat) (protect : List Nat) (r : Nat) : M Unit := do
  let x ← getG cx.g
  if 80 ≤ r then do
    guardM (!(decide (96 ≤ r) && x.ops.any (fun o => !o.ready && o.disc.contains r))) .stall
    if 96 ≤ r then
      guardM (match pendingReg x r with | some (o, _) => o.ready || inWindowAll x o cx.exe || x.handler.isSome | none => true) .stall
    else guardM (!mustWait x r cx.exe) .stall
    modG cx.g (takeSQ cx id r)
  else do
    guardM (!mustWait x r cx.exe) .stall
    if x.spilled.contains r && ((ahead == 0 && cx.exe != fullMask x.w) || (pendingReg x r).isSome) then refill cx.g r protect else pure ()
    let x ← getG cx.g
    takeEntries cx.g (r :: protect) (takeNeeds x (takeV cx ahead id r x) ahead r)
    modify (fun s => s.touchReg cx.g r cx.exe)
    modG cx.g (takeV cx ahead id r)

/-- Takes registers of an operation's destination set, in ascending order; what is taken counts at once. -/
def claimEach (cx : Cx) (ahead id : Nat) (later : List Nat) : List Nat → M Unit
  | [] => pure ()
  | r :: rs => do
    claimDest cx ahead id (rs ++ later) r
    claimEach cx ahead id later rs

-- DEDUCED: log 16
/-- Takes an operation's whole destination set: the MAPPED registers first, then the others (R161). -/
def claimDests (cx : Cx) (ahead id : Nat) (regs : List Nat) : M Unit := do
  let x ← getG cx.g
  let others := regs.filter (fun r => decide (r < 80) && !isMapped x r)
  claimEach cx ahead id others (regs.filter (fun r => !(decide (r < 80) && !isMapped x r)))
  claimEach cx ahead id [] others

-- DEDUCED: log 16, 17
/-- Issues a long-latency operation (R28, R110): its destinations become pending, a window opens in each
executing thread. `vals` gives the results, by destination, where they are already known. -/
def issueOp (cx : Cx) (kind : OpKind) (regs : List Nat) (ahead : Nat) (seq : W64) (work : Work) (vals : List (List W64))
    (used : List Used) : M Nat := do
  let id ← newId
  modG cx.g (fun x =>
    let k := ahead + (if x.handler.isSome then 0 else 1)
    { x with ops := x.ops ++ [
      { id := id, kind := kind, site := cx.pc, seq := seq, base := regs.headD 0, dests := []
        win := if ahead == 0 then [] else gen x.w (fun t => if hasLane cx.exe t then k else 0)
        work := work, again := .done, acq := false, ready := false, disc := [], used := used }] })
  claimDests cx ahead id regs
  modG cx.g (fun x => { x with ops := x.ops.map (fun o => if o.id == id then
    { o with dests := ((List.range regs.length).zip regs).filterMap (fun e =>
        (o.dests.find? (fun d => d.reg == e.2)).map (fun d => { d with vals := lane [] vals e.1 })) } else o) })
  return id

/-- The next engine command sequence number, taken (CMDSEQ). -/
def takeSeq (g : Nat) : M W64 := do
  let x ← getG g
  modG g (fun x => { x with cmdseq := x.cmdseq + 1#64 })
  return x.cmdseq

/-- Every earlier load, atomic, KLD, KST with LD = 0 and KREC has returned, and no store is unacknowledged at
the scope (R190, R289, R310); scope 0 waits for no store. -/
def released (x : Group) (scope : Nat) : Bool :=
  x.ops.all (fun o => o.ready || !(o.kind == .load || o.kind == .cxlLoad || o.kind == .kld || o.kind == .atomic || o.kind == .kst || o.kind == .krec))
    && (scope == 0 || x.sb.all (fun e => e.acked.getLsbD scope))

/-- Stalls until the release holds. -/
def waitRelease (cx : Cx) (scope : Nat) : M Unit := do
  let x ← getG cx.g
  guardM (released x scope) .stall

/-! ## Fetch (R99–R101) -/

-- DESIGN CHOICE: log 12
/-- The instruction cache a group fetches through. -/
def cacheOf (x : Group) : Nat := match x.mill with | some m => 192 + m | none => x.core

-- DESIGN CHOICE: log 12
/-- The 32 words of the 128-byte line around an address as a fetch by a group would read them now; none where it does not translate. -/
def State.lineNow (s : State) (g : Nat) (va : Nat) : List W32 :=
  let base := va / 128 * 128
  if !canonical (n64 base) || decide (0xFFFFFF0000000000 ≤ base) then []
  else match (groupTrans g (n64 base) { x := true }).run s with
    | .ok (.ok (.keep _ _) _, _) => []
    | .ok (.ok t _, _) => gen 32 (fun k => le32 (s.readT (t.plus (4 * k)) 4))
    | _ => []

-- DESIGN CHOICE: log 12
/-- Words a group has taken: each address keeps every content until IFENCE. -/
def tookWords (base : Nat) (ws : List W32) (m : FMap (List W32)) : FMap (List W32) :=
  (List.range ws.length).foldl (fun m k =>
    let a := base + 4 * k
    let old := (look m a).getD []
    let w := lane 0#32 ws k
    if old.contains w then m else ins m a (old ++ [w])) m

-- DESIGN CHOICE: log 12
/-- What a fetch leaves behind (R99, R101): the line in the core's cache, the word with the group, and the line at some address
fetched ahead. -/
def State.keepFetch (s : State) (g : Nat) (va : Nat) (now w : W32) : State :=
  let x := s.grp g
  let l : CacheLine := { cache := cacheOf x, ld := x.ld, dom := x.dom, va := va / 128 * 128, words := s.lineNow g va }
  let ahead := (Config.freeWord s.fresh).toNat / 128 * 128
  let more := s.lineNow g ahead
  let s := { s with fresh := s.fresh + 1, icache := if s.icache.contains l then s.icache else s.icache ++ [l] }
  s.modGrp g (fun x => { x with fetched := tookWords ahead more (tookWords va [now] x.fetched), word := w })

-- DESIGN CHOICE: log 12; DEDUCED: log 28
/-- The word at an address for a group: translated with execute permission, then from the home, or an older
copy that the cache or the words fetched ahead still hold (R99, R101): a free choice at each fetch. -/
def fetchWord (g : Nat) (va : W64) : M W32 := do
  let x ← getG g
  if !canonical va || decide (0xFFFFFF0000000000 ≤ va.toNat) then stop (.trap 5 0#64 0 0 0 va)
  match ← groupTrans g va { x := true } with
  | .fault c k l => stop (.trap c 0#64 0 k l va)
  | .miss m => groupMiss g m 0#64 va
  | .ok t _ => do
    match t with
    | .keep _ _ => stop (.trap 6 0#64 0 0 0 va)
    | _ => pure ()
    let s ← get
    let now := le32 (s.readT t 4)
    let cached := (s.icache.filter (fun e => e.cache == cacheOf x && e.ld == x.ld && e.dom == x.dom && e.va == va.toNat / 128 * 128)).map
      (fun e => lane now e.words (va.toNat % 128 / 4))
    let old := (((look x.fetched va.toNat).getD [] ++ cached).filter (· != now)).dedup
    let w ← if old.isEmpty then pure now else (do return lane now (now :: old) ((← freeVal).toNat % (old.length + 1)))
    modify (fun s => s.keepFetch g va.toNat now w)
    return w

-- DESIGN CHOICE: log 12
/-- Lines of an address space dropped from a set of caches (R103). -/
def State.dropLines (s : State) (caches : List Nat) (ld : Nat) (dom : W16) (a n : Nat) : State :=
  { s with icache := s.icache.filter (fun e =>
      !(caches.contains e.cache && e.ld == ld && e.dom == dom && n != 0 && decide (a / 128 * 128 ≤ e.va) && decide (e.va < (a + n + 127) / 128 * 128))) }

end Sys2Proof.Machine
end

