-- ==== Sys2Proof/Machine/KeepHome.lean ====
section
/-! DEFINITION. The home of a keep cell (R317–R325, R331, R337). -/

namespace Sys2Proof.Machine

-- DEDUCED: log 50
/-- The oldest sibling's value replaced. -/
def withFirst (v : W64) : List (W64 × Option (Nat × Nat)) → List (W64 × Option (Nat × Nat))
  | [] => []
  | e :: r => (v, e.2) :: r

/-- A cell's state, sibling 0's value being what the cell's own 8 bytes hold; a cell not in use holds them under the null dot, in
generation 1 or the one after that last discarded (R318, R337). -/
def State.keep (s : State) (a : Nat) : Keep :=
  let v := le64 (rdN s.dmem a 8)
  match look s.keeps a with
  | some k => { k with sibs := withFirst v k.sibs }
  | none => { g := (look s.keepGens a).getD 1#16, writer := [none, none, none, none], c := [0, 0, 0, 0], sibs := [(v, none)] }

/-- The operators of R324 on 64-bit values. -/
def fold1 (op : Nat) (a b : W64) : W64 :=
  match op with
  | 1 => a + b
  | 2 => if a.toInt ≤ b.toInt then a else b
  | 3 => if a.toInt ≤ b.toInt then b else a
  | 4 => a ||| b
  | 5 => a &&& b
  | _ => a
def foldAll (op : Nat) : List W64 → W64
  | [] => 0#64
  | x :: xs => xs.foldl (fold1 op) x

/-- Sibling-store entries in use on a die, and its size (R325). -/
def State.sibsUsed (s : State) (die : Nat) : Nat :=
  ((s.keeps.filter (fun e => e.1 / 2 ^ 37 == die)).map (fun e => e.2.sibs.length - 1)).sum
def State.sibsSize (s : State) (die : Nat) : Nat := wbits (s.die die).fwctl 19 16 * 65536

/-- The slot of a writer: its own, else the lowest empty one; 4 where there is neither (R321). -/
def slotOfWriter (k : Keep) (w : Nat) : Nat :=
  match (List.range 4).find? (fun i => lane none k.writer i == some w) with
  | some i => i
  | none => ((List.range 4).find? (fun i => lane none k.writer i == none)).getD 4

/-- The live siblings of a slot renumbered in arrival order, from `n` on. -/
def renumber (slot : Nat) : Nat → List (W64 × Option (Nat × Nat)) → List (W64 × Option (Nat × Nat))
  | _, [] => []
  | n, (v, some (i, c)) :: r => if i == slot then (v, some (i, n)) :: renumber slot (n + 1) r else (v, some (i, c)) :: renumber slot n r
  | n, (v, none) :: r => (v, none) :: renumber slot n r

/-- Compaction (R322). -/
def compact (k : Keep) : Keep :=
  let live (i : Nat) : Nat := (k.sibs.filter (fun e => match e.2 with | some (j, _) => j == i | none => false)).length
  { g := if k.g = 0xFFFF#16 then 1#16 else k.g + 1#16
    writer := gen 4 (fun i => if live i == 0 then none else lane none k.writer i)
    c := gen 4 live
    sibs := (List.range 4).foldl (fun ss i => renumber i 1 ss) k.sibs }

/-- A fresh dot for a writer, compacting as needed (R321): the cell and the dot. -/
def freshDot (k : Keep) (w : Nat) : Keep × (Nat × Nat) :=
  let k1 := if slotOfWriter k w == 4 then compact k else k
  let k2 := if lane 0 k1.c (slotOfWriter k1 w) == 4095 then compact k1 else k1
  let i := slotOfWriter k2 w
  let c := lane 0 k2.c i + 1
  ({ k2 with writer := setAt k2.writer i (some w), c := setAt k2.c i c }, (i, c))

/-- Whether a token's context covers a dot (R320). -/
def covered (tok : W64) (d : Nat × Nat) : Bool := d.2 ≤ wbits tok (47 - 12 * d.1) (36 - 12 * d.1)

-- DEDUCED: log 38
/-- The context token of a cell (R320). -/
def keepToken (k : Keep) : W64 :=
  n64 (k.g.toNat * 2 ^ 48 + lane 0 k.c 0 * 2 ^ 36 + lane 0 k.c 1 * 2 ^ 24 + lane 0 k.c 2 * 2 ^ 12 + lane 0 k.c 3)

/-- A cell's new state put in place, with sibling 0 in the cell's own bytes (R318). -/
def State.setKeep (s : State) (a : Nat) (k : Keep) : State :=
  { s with keeps := ins s.keeps a k, dmem := wrN s.dmem a (bytes8 ((k.sibs.head?.map (·.1)).getD 0#64)) }

-- DEDUCED: log 50
/-- A keep access brings the state of its cell into use (R318). -/
def State.useKeep (s : State) (a : Nat) : State := if (look s.keeps a).isSome then s else s.setKeep a (s.keep a)
-- DEDUCED: log 50
def State.useKeeps (s : State) (size : Nat) : List Target → State
  | [] => s
  | .keep a _ :: r => ((List.range ((size + 7) / 8)).foldl (fun s i => s.useKeep (a + 8 * i)) s).useKeeps size r
  | _ :: r => s.useKeeps size r

-- DEDUCED: log 38, 51
/-- One keep write (R321): the state, the status code of R328 and the siblings after. -/
def State.keepWrite (s : State) (a : Nat) (op : Nat) (w : Nat) (x tok : W64) : State × Nat × Nat :=
  let k := s.keep a
  let die := a / 2 ^ 37
  let g := wbits tok 63 48
  let fresh := g == k.g.toNat && g != 0
  let stale := g != 0 && !fresh
  let kept := k.sibs.filter (fun e => match e.2 with | some d => !(fresh && covered tok d) | none => false)
  let heldN := k.sibs.length - 1
  let avail := heldN + (s.sibsSize die - s.sibsUsed die)
  let tight := decide (4 < kept.length + 1) || decide (avail < kept.length)
  if tight && op == 0 then (s, 2, k.sibs.length)
  else
    let v := if tight then foldAll op (kept.map (·.1) ++ [x]) else x
    let rest := if tight then [] else kept
    let (k2, dot) := freshDot { k with sibs := rest } w
    let k3 := { k2 with sibs := k2.sibs ++ [(v, some dot)] }
    (s.setKeep a k3, if tight then 1 else if stale then 3 else 0, k3.sibs.length)

/-- One KREC step (R331): the state, the result and the new token. -/
def State.keepReconcile (s : State) (a : Nat) (merge op : Nat) (w : Nat) (x : W64) : State × W64 × W64 :=
  let k := s.keep a
  let o := if op != 0 then op else if merge != 0 then merge else 6
  let v := foldAll o (k.sibs.map (·.1) ++ [x])
  let (k2, dot) := freshDot { k with sibs := [] } w
  let k3 := { k2 with sibs := [(v, some dot)] }
  (s.setKeep a k3, v, keepToken k3)

/-- A cell reset by a storage error (R337): value 0, G one more. -/
def State.keepReset (s : State) (a : Nat) : State :=
  let k := s.keep a
  s.setKeep a { g := if k.g = 0xFFFF#16 then 1#16 else k.g + 1#16, writer := [none, none, none, none], c := [0, 0, 0, 0], sibs := [(0#64, none)] }

-- DEDUCED: log 50
/-- A cell whose leaf changed (R337): its home state is discarded, its 8 bytes stay, and its next use has a new generation. -/
def State.keepForget (s : State) (a : Nat) : State :=
  let g := (s.keep a).g
  { s with keeps := erase s.keeps a, keepGens := ins s.keepGens a (if g = 0xFFFF#16 then 1#16 else g + 1#16) }

-- DEDUCED: log 51
/-- The writer id of a group (R319). -/
def writerId (x : Group) : Nat := match x.mill with | some m => 224 + m | none => x.core

end Sys2Proof.Machine
end

