-- ==== Sys2Proof/Machine/Access.lean ====
section
/-! DEFINITION. The checks of a memory access (R174–R177, R182), the store buffer and the operations that a group
has in flight at the homes of memory (R184, R203, R321). -/

namespace Sys2Proof.Machine

/-! ## The on-chip window (R175, R295) -/

/-- Where an address in the upper region goes. -/
inductive Win where
  | outside
  | refused
  | team (t off : Nat)

def State.window (s : State) (g : Nat) (va : W64) : Win :=
  let a := va.toNat
  if a < 0xFFFFFF0000000000 then .outside
  else if 0xFFFFFF0010000000 ≤ a then .refused
  else
    let x := s.grp g
    let t := s.team x.team
    let f := s.felt t.felt
    let peer := bits a 27 24
    let off := bits a 23 0
    if x.mill.isSome then .refused
    else if peer == 15 then .team x.team off
    else match f.teams[peer]? with
      | some h => if (s.team h).retired then .refused else .team h off
      | none => .refused

/-- A team's scratchpad and accumulator allocations in bytes (R80). -/
def State.scratchSize (s : State) (t : Nat) : Nat := (s.task (s.team t).task).tcb.scratch
def State.accSize (s : State) (t : Nat) : Nat := (s.task (s.team t).task).tcb.acc

/-! ## The checks of R182 -/

/-- What an instruction's accesses ask for. -/
structure Req where
  size : Nat
  need : Need
  /-- the least alignment, where it is not the size -/
  align : Nat
  uniform : Bool
  /-- an atomic, by operation code -/
  atomic : Option Nat := none
  /-- a plain access with sc order -/
  sc : Bool := false
  krec : Bool := false
  /-- a store, which waits in the buffer for a peer that is not resident -/
  store : Bool := false

/-- A trap over a set of lanes: the mask, or 1 in the uniform form (R182, R339). -/
def laneTrap {α : Type} (q : Req) (w cause : Nat) (ls : List (Nat × W64)) (code level : Nat) : M α :=
  let m := maskOf w (fun t => ls.any (fun e => e.1 == t))
  let a := (ls.head?.map (·.2)).getD 0#64
  if q.uniform then stop (.trap cause 1#64 0 code level a)
  else stop (.trap cause m (lowLane w m) code level a)

/-- One lane's translation. -/
def transLane (g : Nat) (n : Need) (va : W64) : M Tr := do
  let s ← get
  let x := s.grp g
  match s.window g va with
  | .team t off => return .ok (.scr t off) { ld := x.ld, dom := x.dom, va := va.toNat, pasid := none, page := 0 }
  | .refused => return .fault 5 0 0
  | .outside => groupTrans g va n

def transLanes (g : Nat) (n : Need) : List (Nat × W64) → M (List (Nat × W64 × Tr))
  | [] => pure []
  | (t, va) :: r => do
    let x ← transLane g n va
    return (t, va, x) :: (← transLanes g n r)

/-- The lanes that met a given trap in translation. -/
def faultLanes (rs : List (Nat × W64 × Tr)) (cause : Nat) : List (Nat × W64) :=
  rs.filterMap (fun r => match r.2.2 with | .fault c _ _ => if c == cause then some (r.1, r.2.1) else none | _ => none)

/-- The check of every active thread (R182), in its order; the targets of the lanes. -/
def checkAccess (cx : Cx) (lanes : List (Nat × W64)) (q : Req) : M (List (Nat × Target × Used)) := do
  let s ← get
  let x := s.grp cx.g
  let mis := lanes.filter (fun l => !aligned l.2 q.align)
  if !mis.isEmpty then laneTrap q x.w 6 mis 0 0
  let prot := lanes.filter (fun l => !canonical l.2 || (match s.window cx.g l.2 with | .refused => true | _ => false))
  if !prot.isEmpty then laneTrap q x.w 5 prot 0 0
  let outb := lanes.filter (fun l => match s.window cx.g l.2 with | .team t off => decide (s.scratchSize t < off + q.size) | _ => false)
  if !outb.isEmpty then laneTrap q x.w 7 outb 0 0
  let rs ← transLanes cx.g q.need lanes
  match rs.find? (fun r => match r.2.2 with | .fault _ _ _ => true | _ => false) with
  | some (_, _, .fault c k l) => laneTrap q x.w c (faultLanes rs c) k l
  | _ => pure ()
  let misses := rs.filterMap (fun r => match r.2.2 with | .miss m => some (r.1, r.2.1, m) | _ => none)
  let denied := misses.filter (fun e => x.xfault.any (fun d => d.1 == e.2.2))
  match denied.head? with
  | some e => laneTrap q x.w 4 (denied.map (fun d => (d.1, d.2.1))) (((x.xfault.find? (fun d => d.1 == e.2.2)).map (·.2)).getD 6) 0
  | none => pure ()
  if !misses.isEmpty then stop (.suspend ((misses.map (fun e => e.2.2)).dedup))
  let oks := rs.filterMap (fun r => match r.2.2 with | .ok t u => some (r.1, r.2.1, t, u) | _ => none)
  let keeps := oks.filter (fun e => match e.2.2.1 with | .keep _ _ => true | _ => false)
  let small := if q.size < 8 then keeps else []
  if !small.isEmpty then laneTrap q x.w 6 (small.map (fun e => (e.1, e.2.1))) 0 0
  if !keeps.isEmpty && (q.atomic.isSome || q.sc) then laneTrap q x.w 9 (keeps.map (fun e => (e.1, e.2.1))) 0 0
  let hosts := oks.filter (fun e => match e.2.2.1 with
    | .host _ _ => (match q.atomic with | some o => !(o == 0 || o == 6 || o == 7) | none => q.krec)
    | .cxl _ _ => (match q.atomic with | some o => !(o == 0 || o == 6 || o == 7) | none => q.krec)
    | .keep _ _ => false
    | _ => q.krec)
  if !hosts.isEmpty then laneTrap q x.w 8 (hosts.map (fun e => (e.1, e.2.1))) 0 0
  let away := oks.filterMap (fun e => match e.2.2.1 with | .scr t _ => if (s.team t).resident then none else some t | _ => none)
  if !away.isEmpty && !q.store then stop (.peer away.dedup)
  return oks.map (fun e => (e.1, e.2.2.1, e.2.2.2))

/-! ## Watchpoints of a group's instruction (R397, R398) -/

/-- The least of some addresses. -/
def leastAddr : List W64 → Option W64
  | [] => none
  | a :: as => match leastAddr as with
    | none => some a
    | some b => some (if b.toNat < a.toNat then b else a)

-- DEDUCED: log 74
/-- The watchpoints of a die that some accesses touch: index, watchpoint, lowest watched address touched. -/
def watchHits (s : State) (die ld : Nat) (dom : W16) (rd wr : Bool) (ranges : List (W64 × Nat)) : List (Nat × Watch × W64) :=
  ((s.die die).watches).filterMap (fun e =>
    let w := e.2
    if w.on && w.ld == ld && w.dom == dom && ((rd && w.rd) || (wr && w.wr)) then
      (leastAddr ((ranges.filter (fun r => decide (r.1.toNat < w.start.toNat + w.len) && decide (w.start.toNat < r.1.toNat + r.2))).map
        (fun r => n64 (max r.1.toNat w.start.toNat)))).map (fun a => (e.1, w, a))
    else none)

-- DEDUCED: log 74
/-- The one match that is reported (R398): a watchpoint that stops goes first; the address is the lowest that any match touched. -/
def watchHit (s : State) (die ld : Nat) (dom : W16) (rd wr : Bool) (ranges : List (W64 × Nat)) : Option (Nat × Watch × W64) :=
  let hits := watchHits s die ld dom rd wr ranges
  let a := (leastAddr (hits.map (·.2.2))).getD 0#64
  match hits.find? (fun h => h.2.1.stop) with
  | some h => some (h.1, h.2.1, a)
  | none => hits.head?.map (fun h => (h.1, h.2.1, a))

-- DEDUCED: log 74
/-- A unit whose accesses touch a watched range: its record, and the stop where a watchpoint asks for one. A unit that the RUR trap
awaits does not match. -/
def watchUnit (cx : Cx) (rd wr : Bool) (ranges : List (W64 × Nat)) : M Unit := do
  let s ← get
  let x := s.grp cx.g
  let traps := x.trapmask.getLsbD 0 && ((look s.runs (siteOf x)).any (fun r => r.rur.isSome))
  if x.unmatched = some (cx.upc, true) || traps then pure ()
  else match watchHit s (dieOf x) x.ld x.dom rd wr ranges with
    | none => pure ()
    | some (i, w, a) =>
      let index := i + (if wr && w.wr then 8 else 0)
      if w.stop then stop (.debug evWstop index a)
      else modify (fun s => s.traceG cx.g evWstop cx.pc a 0#64 index)

/-! ## A group's operations at the homes -/

/-- A group whose operations can reach their homes: not one that is saved (R353, R360, R363). -/
def inPlace (x : Group) : Bool := resident x || !alive x
-- DEDUCED: log 10
/-- Whether a home can be reached now: a peer's scratchpad while the peer is in place or has retired (R295), host memory while the
device may access it. -/
def State.canReach (s : State) (t : Target) : Bool :=
  match t with
  | .scr t _ => (s.team t).resident || (s.team t).retired
  | .host ld _ => !s.noDma ld
  | .cxl ld _ => !s.noDma ld
  | _ => true
-- DEDUCED: log 10
/-- The writes of an entry that have not reached their homes, each with its place. -/
def SbEntry.late (e : SbEntry) : List (Nat × Target × List W8) :=
  if e.landed then [] else ((List.range e.writes.length).zip e.writes).filter (fun w => !e.done.contains w.1)
/-- Whether all of an entry may reach its homes now. -/
def canLand (s : State) (e : SbEntry) : Bool := e.late.all (fun w => s.canReach w.2.1)

/-- A target as a class, an owner and an address, so that overlaps can be seen. -/
def Target.spot : Target → Nat × Nat × Nat
  | .dev a => (0, 0, a)
  | .keep a _ => (0, 0, a)
  | .host ld a => (1, ld, a)
  | .cxl ld a => (1, ld, a)
  | .scr t a => (2, t, a)

def overlaps (a : Target × Nat) (b : Target × Nat) : Bool :=
  let p := a.1.spot
  let q := b.1.spot
  p.1 == q.1 && p.2.1 == q.2.1 && decide (p.2.2 < q.2.2 + b.2) && decide (q.2.2 < p.2.2 + a.2)
def anyOverlap (xs ys : List (Target × Nat)) : Bool := xs.any (fun a => ys.any (overlaps a))

/-- What an operation touches. -/
def workSpots : Work → List (Target × Nat)
  | .atomic _ wide _ ls => ls.map (fun l => (l.2.1, if wide then 8 else 4))
  | .kst ls => ls.map (fun l => (l.2.1, 8))
  | .krec _ ls => ls.map (fun l => (l.2.1, 8))
  | .load n _ _ ls => ls.map (fun l => (l.2, n))
  | .kld _ ls => ls.map (fun l => (l.2, 8))
  | _ => []
/-- Whether every home of an operation can be reached. -/
def reachable (s : State) (o : LOp) : Bool := (workSpots o.work).all (fun t => s.canReach t.1)
/-- What an entry has still to write. -/
def entrySpots (e : SbEntry) : List (Target × Nat) := e.late.map (fun w => (w.2.1, w.2.2.length))

/-- A write of one buffered store at its home; a keep page takes it as a keep write (R335). -/
def State.landWrite (s : State) (g : Nat) (w : Target × List W8) (tok : W64) : State :=
  match w.1 with
  | .keep a m =>
    let x := s.grp g
    let (s, st, _) := s.keepWrite a m.toNat (writerId x) (le64 w.2) tok
    if st == 2 then s.modTask x.task (fun t => { t with keepRefusals := satAdd t.keepRefusals 1 }) else s
  | .scr t _ => if (s.team t).retired then s else s.writeT w.1 w.2
  | t => s.writeT t w.2

def State.landWrites (s : State) (g : Nat) (tokens : List W64) : List (Nat × Target × List W8) → State
  | [] => s
  | w :: ws => (s.landWrite g w.2 (lane 0#64 tokens w.1)).landWrites g tokens ws

-- DEDUCED: log 10; DESIGN CHOICE: log 96
/-- The writes of a store-buffer entry whose homes can be reached get there (R184, R295). A copy command of the group that waits for
them (R237) does not count them as written behind its back. -/
def State.landEntry (s : State) (g id : Nat) : State :=
  match (s.grp g).sb.find? (fun e => e.id == id) with
  | none => s
  | some e =>
    if e.landed then s
    else
      let go := e.late.filter (fun w => s.canReach w.2.1)
      let mine (c : Copy) : Bool := c.gid == g && c.queue.isNone && !c.started && decide (id < c.id)
      let back (s' : State) : State := { s' with copies := s'.copies.map (fun d => match s.copies.find? (fun c => c.id == d.id) with
        | some c => if mine c then { d with spoilt := c.spoilt } else d
        | none => d) }
      let e' := { e with done := if canLand s e then [] else e.done ++ go.map (·.1), landed := canLand s e }
      (back (s.landWrites g e.tokens go)).modGrp g (fun x => { x with sb := x.sb.map (fun b => if b.id == id then e' else b) })

/-- The value an atomic writes (R201); `none` for a failed ACAS. -/
def atomicNew (op : Nat) (wide signed : Bool) (old x c : W64) : Option W64 :=
  let lt : Bool := if signed then (if wide then decide (old.toInt < x.toInt) else decide ((old.setWidth 32).toInt < (x.setWidth 32).toInt))
    else decide (old.toNat < x.toNat)
  match op with
  | 0 => some (old + x)
  | 1 => some (if lt then old else x)
  | 2 => some (if lt then x else old)
  | 3 => some (old &&& x)
  | 4 => some (old ||| x)
  | 5 => some (old ^^^ x)
  | 6 => some x
  | 7 => if old = c then some x else none
  | _ => some ((add32 (old.setWidth 32) (x.setWidth 32)).setWidth 64)

-- DEDUCED: log 9
/-- The atomic's threads in ascending order (R203): the state and each thread's old value. -/
def State.atomicLanes (s : State) (op : Nat) (wide signed : Bool) : List (Nat × Target × W64 × W64) → State × List (Nat × W64)
  | [] => (s, [])
  | (t, a, x, c) :: r =>
    let n := if wide then 8 else 4
    let old := n64 (leNat (s.seeT a n))
    let s := s.sawT a n
    let s := match atomicNew op wide signed old x c with
      | some v => s.writeT a (toLe n v.toNat)
      | none => s
    let (s, rs) := s.atomicLanes op wide signed r
    (s, (t, old) :: rs)

-- DEDUCED: log 9
/-- KST's threads in ascending order (R329): each thread's status word. -/
def State.kstLanes (s : State) (g : Nat) : List (Nat × Target × W64 × W64) → State × List (Nat × W64)
  | [] => (s, [])
  | (t, a, v, tok) :: r =>
    let (s, st) : State × Nat := match a with
      | .keep p m =>
        let (s, k, n) := s.keepWrite p m.toNat (writerId (s.grp g)) v tok
        (s, k + n * 256)
      | _ => (s.writeT a (bytes8 v), 2048 + 256)
    let (s, rs) := s.kstLanes g r
    (s, (t, n64 st) :: rs)

-- DEDUCED: log 9
/-- KREC's threads in ascending order (R331): each thread's result and token. -/
def State.krecLanes (s : State) (g op : Nat) : List (Nat × Target × W64) → State × List (Nat × W64 × W64)
  | [] => (s, [])
  | (t, a, x) :: r =>
    match a with
    | .keep p m =>
      let (s, v, k) := s.keepReconcile p m.toNat op (writerId (s.grp g)) x
      let (s, rs) := s.krecLanes g op r
      (s, (t, v, k) :: rs)
    | _ => s.krecLanes g op r

/-- The elements of a register's result by lane: one for a scalar. -/
def resultVals (w : Nat) (reg : Nat) (rs : List (Nat × W64)) : List W64 :=
  if 96 ≤ reg then [(rs.head?.map (·.2)).getD 0#64]
  else gen w (fun t => ((rs.find? (fun e => e.1 == t)).map (·.2)).getD 0#64)
def low32 (v : W64) : W64 := v &&& 0xFFFFFFFF#64
def high32 (v : W64) : W64 := v >>> 32

/-- An operation's results put beside its destinations: `parts` lists, by offset from the first register, the value each
lane receives there. -/
def withResults (w : Nat) (o : LOp) (base : Nat) (parts : List (List (Nat × W64))) : LOp :=
  { o with work := .done, dests := o.dests.map (fun d => { d with vals := resultVals w d.reg (lane [] parts (d.reg - base)) }) }

/-- The narrow value a load places (R180): sign- or zero-extended to 64 bits. -/
def extend (bs : List W8) (signed : Bool) : W64 :=
  let n := leNat bs
  if signed && decide (2 ^ (8 * bs.length - 1) ≤ n) then n64 (n + 2 ^ 64 - 2 ^ (8 * bs.length)) else n64 n

-- DEDUCED: log 8
/-- How the bytes loaded by each lane fill the registers from the first one on (R180). -/
def loadParts (base size : Nat) (signed : Bool) (rs : List (Nat × List W8)) : List (List (Nat × W64)) :=
  if 96 ≤ base then
    if size == 16 then [rs.map (fun r => (r.1, le64 (r.2.take 8))), rs.map (fun r => (r.1, le64 (r.2.drop 8)))]
    else [rs.map (fun r => (r.1, extend r.2 signed))]
  else if size ≤ 4 then [rs.map (fun r => (r.1, low32 (extend r.2 signed)))]
  else gen (size / 4) (fun k => rs.map (fun r => (r.1, n64 (num r.2 (4 * k) 4))))

/-- A cell as KLD returns it (R327): value, token, count word. -/
def State.kldCell (s : State) (sib : Nat) (a : Target) : W64 × W64 × W64 :=
  match a with
  | .keep p m =>
    let k := s.keep p
    let n := k.sibs.length
    (((k.sibs[sib]?).map (·.1)).getD 0#64, keepToken k, n64 (n + (if n ≤ sib then 8 else 0) + m.toNat * 32))
  | t => (le64 (s.seeT t 8), 0#64, 17#64)

/-- The places a replayed load reads, one after another (R354). -/
def State.seeLanes (s : State) (size : Nat) : List (Nat × Target) → State × List (Nat × List W8)
  | [] => (s, [])
  | (l, t) :: r =>
    let (s', rs) := (s.sawT t size).seeLanes size r
    (s', (l, s.seeT t size) :: rs)
def State.kldLanes (s : State) (sib : Nat) : List (Nat × Target) → State × List (Nat × W64 × W64 × W64)
  | [] => (s, [])
  | (l, t) :: r =>
    let (s', rs) := (s.sawT t 8).kldLanes sib r
    (s', (l, s.kldCell sib t) :: rs)

/-- KLD's values by register: a scalar triple, or value, token and count word in five registers (R326). -/
def kldParts (base : Nat) (rs : List (Nat × W64 × W64 × W64)) : List (List (Nat × W64)) :=
  let f (k : W64 × W64 × W64 → W64) : List (Nat × W64) := rs.map (fun r => (r.1, k r.2))
  if 96 ≤ base then [f (·.1), f (·.2.1), f (·.2.2)]
  else [f (fun c => low32 c.1), f (fun c => high32 c.1), f (fun c => low32 c.2.1), f (fun c => high32 c.2.1), f (·.2.2)]

-- DEDUCED: log 11; DESIGN CHOICE: log 43
/-- What a group has observed once it has read some places as an acquire at team scope or wider (R236). -/
def State.observe (s : State) (g : Nat) (spots : List (Target × Nat)) : State :=
  spots.foldl (fun s p => match p.1 with
    | .scr t a => if t == (s.grp g).team then s.modGrp g (sawBits s a p.2) else s
    | _ => s) s

def State.saw (s : State) (g : Nat) (o : LOp) : State := if o.sees then s.observe g (workSpots o.work) else s

-- DEDUCED: log 8
/-- A group's operation performed at its home, and its results put beside its destinations (R203, R329, R331). -/
def State.performRaw (s : State) (g id : Nat) : State :=
  let x := s.grp g
  match x.ops.find? (fun o => o.id == id && reachable s o) with
  | none => s
  | some o =>
    let base := o.base
    let fin (s : State) (parts : List (List (Nat × W64))) : State :=
      s.modGrp g (fun x => { x with ops := x.ops.map (fun p => if p.id == id then withResults x.w p base parts else p) })
    match o.work with
    | .atomic op wide signed ls =>
      let (s, rs) := s.atomicLanes op wide signed ls
      fin (s.saw g o) (if 96 ≤ base then [rs.map (fun r => (r.1, if wide then r.2 else extend (toLe 4 r.2.toNat) signed))]
        else [rs.map (fun r => (r.1, low32 r.2)), rs.map (fun r => (r.1, high32 r.2))])
    | .kst ls =>
      let (s, rs) := s.kstLanes g ls
      fin s [rs]
    | .krec op ls =>
      let (s, rs) := s.krecLanes g op.toNat ls
      fin s (if 96 ≤ base then [rs.map (fun r => (r.1, r.2.1)), rs.map (fun r => (r.1, r.2.2))]
        else [rs.map (fun r => (r.1, low32 r.2.1)), rs.map (fun r => (r.1, high32 r.2.1)), rs.map (fun r => (r.1, low32 r.2.2)), rs.map (fun r => (r.1, high32 r.2.2))])
    | .load size signed _ ls =>
      let (s', rs) := s.seeLanes size ls
      fin (s'.saw g o) (loadParts base size signed rs)
    | .kld sib ls =>
      let (s', rs) := s.kldLanes sib ls
      fin s' (kldParts base rs)
    | _ => s

/-- An own item not yet at its home: its handle, whether it is a store, and what it touches. -/
def waitingItems (x : Group) : List (Nat × Bool × List (Target × Nat)) :=
  (x.sb.filter (fun e => !e.landed)).map (fun e => (e.id, true, entrySpots e))
    ++ (x.ops.filter (fun o => !(workSpots o.work).isEmpty)).map (fun o => (o.id, false, workSpots o.work))

-- DEDUCED: log 11
/-- The own items before `id` that touch what `spots` touch, directly or through one another: they come first at
their homes (R184, R198, R203). -/
def earlier (items : List (Nat × Bool × List (Target × Nat))) (id : Nat) : Nat → List (Target × Nat) → List (Nat × Bool)
  | 0, _ => []
  | fuel + 1, spots =>
    let before := items.filter (fun i => decide (i.1 < id) && anyOverlap i.2.2 spots)
    match before with
    | [] => []
    | b :: bs =>
      let last := bs.foldl (fun m i => if m.1 < i.1 then i else m) b
      earlier items last.1 fuel (spots ++ last.2.2) ++ [(last.1, last.2.1)]

/-- Carries out one item with those that must precede it. -/
def State.carry (s : State) (g : Nat) : List (Nat × Bool) → State
  | [] => s
  | (id, true) :: r => (s.landEntry g id).carry g r
  | (id, false) :: r => (s.performRaw g id).carry g r

/-- A store lands, or an operation is performed, after the group's own earlier ones on the same bytes. -/
def State.landInOrder (s : State) (g id : Nat) : State :=
  let x := s.grp g
  match x.sb.find? (fun e => e.id == id) with
  | none => s
  | some e => s.carry g (earlier (waitingItems x) id (x.sb.length + x.ops.length) (entrySpots e) ++ [(id, true)])
-- DEDUCED: log 11
def State.performInOrder (s : State) (g id : Nat) : State :=
  let x := s.grp g
  match x.ops.find? (fun o => o.id == id) with
  | none => s
  | some o => s.carry g (earlier (waitingItems x) id (x.sb.length + x.ops.length) (workSpots o.work) ++ [(id, false)])

-- DEDUCED: log 8, 11
/-- The group's loads in flight that a new access must not overtake keep the value they have read, whatever a save does (R195, R198):
those of the same bytes, and acquiring ones outside their windows. -/
def keepLoads (exe : W64) (spots : List (Target × Nat)) (x : Group) : Group :=
  { x with ops := x.ops.map (fun o =>
      if anyOverlap (workSpots o.again) spots || (o.acq && !inWindowAll x o exe) then { o with again := .done } else o) }

-- DEDUCED: log 8
/-- The units of 8 bytes or fewer of some reads that are single-copy atomic (R193). -/
def unitsOf (spots : List (Target × Nat)) : List (Target × Nat) :=
  spots.flatMap (fun t => gen ((t.2 + 7) / 8) (fun i => (t.1.plus (8 * i), min 8 (t.2 - 8 * i))))

-- DEDUCED: log 8
/-- Buffered stores that a unit cannot be forwarded from whole: all that meet it, where its last write does not cover it. -/
def tornStores (x : Group) (u : Target × Nat) : List Nat :=
  let meets := x.sb.filter (fun e => anyOverlap (entrySpots e) [u])
  match (meets.flatMap (fun e => (entrySpots e).filter (fun w => overlaps w u))).getLast? with
  | none => []
  | some w => if decide (w.1.spot.2.2 ≤ u.1.spot.2.2) && decide (u.1.spot.2.2 + u.2 ≤ w.1.spot.2.2 + w.2) then [] else meets.map (·.id)

-- DEDUCED: log 11
/-- Before a new access of the group that reads `reads` and touches `spots`: its operations on the same bytes and its acquiring ones
outside their windows, and its buffered stores to the keep cells read and to units they would tear. -/
def settleBefore (cx : Cx) (reads spots : List (Target × Nat)) : M Unit := do
  let x ← getG cx.g
  let need := x.ops.filter (fun o => !(workSpots o.work).isEmpty && (anyOverlap (workSpots o.work) reads || (o.acq && !inWindowAll x o cx.exe)))
  modify (fun s => need.foldl (fun s o => s.performInOrder cx.g o.id) s)
  modG cx.g (keepLoads cx.exe spots)
  let keepSpots := reads.filter (fun t => match t.1 with | .keep _ _ => true | _ => false)
  let st := (x.sb.filter (fun e => anyOverlap (entrySpots e) keepSpots)).map (·.id) ++ (unitsOf reads).flatMap (tornStores x)
  modify (fun s => st.dedup.foldl (fun s e => s.landInOrder cx.g e) s)

-- DEDUCED: log 8; DESIGN CHOICE: log 96
/-- A byte as the group itself reads it where its home holds `base`: its own buffered stores are forwarded (R184, R186). -/
def ownByte (x : Group) (t : Target) (base : W8) : W8 :=
  x.sb.foldl (fun b e => e.late.foldl (fun b w =>
    if overlaps (t, 1) (w.2.1, w.2.2.length) then lane 0#8 w.2.2 (t.spot.2.2 - w.2.1.spot.2.2) else b) b) base
def State.ownRead (s : State) (x : Group) (t : Target) (n : Nat) : List W8 :=
  gen n (fun i => ownByte x (t.plus i) (lane 0#8 (s.seeT t n) i))

-- DEDUCED: log 8
/-- A group's reads of several places, one after another. -/
def ownReads (g n : Nat) : List Target → M (List (Target × List W8))
  | [] => pure []
  | t :: r => do
    let s ← get
    set (s.sawT t n)
    return (t, s.ownRead (s.grp g) t n) :: (← ownReads g n r)
/-- A group's read of one place. -/
def ownBytes (g n : Nat) (t : Target) : M (List W8) := do return ((← ownReads g n [t]).map (·.2)).headD []

end Sys2Proof.Machine
end

