-- ==== Sys2Proof/Machine/Control.lean ====
section
/-! DEFINITION. Branches, calls, the CTL family, LOOP, CSRR and CSRW, ICINV and IFENCE (chapter "Fetch, runs and
issue"). -/

namespace Sys2Proof.Machine

/-! ## Immediates (R31) -/

/-- The immediate of a field of `w` bits widened by the unit's HIMMs: its bits and how many there are. -/
def immBits (h : Hints) (w field : Nat) : Nat × Nat :=
  match h.imm with
  | [] => (field, w)
  | [a] => (a.toNat * 2 ^ w + field, w + 20)
  | a :: b :: _ => (a.toNat * 2 ^ (w + 20) + b.toNat * 2 ^ w + field, w + 40)

/-- Sign extension of an `n`-bit number to 64 bits. -/
def sextN (x n : Nat) : W64 := if 2 ^ (n - 1) ≤ x then n64 (x + 2 ^ 64 - 2 ^ n) else n64 x
def immS (h : Hints) (w field : Nat) : W64 := sextN (immBits h w field).1 (immBits h w field).2
def immZ (h : Hints) (w field : Nat) : W64 := n64 (immBits h w field).1

/-! ## Leaving loops (R114) -/

def inBody (l : Loop) (pc : W64) : Bool := decide (l.start.toNat ≤ pc.toNat) && decide (pc.toNat ≤ l.stop.toNat)

-- DEDUCED: log 26; DESIGN CHOICE: log 110
/-- The loop stack after a transfer from `pc` to `targets`, innermost level last; `none` where the exit is
divergent or partial. -/
def leaveLoops (pc : W64) (targets : List W64) (all : Bool) : Nat → List Loop → Option (List Loop)
  | 0, ls => some ls
  | n + 1, ls =>
    match ls.getLast? with
    | none => some ls
    | some l =>
      if !inBody l pc || targets.all (inBody l) then some ls
      else if all && targets.all (fun t => !inBody l t) then leaveLoops pc targets all n ls.dropLast
      else none

-- DEDUCED: log 26
/-- The PCs of a transfer and what it does to the loop stack; LOOP_NEST code 2 where R114 forbids it. -/
def transfer (cx : Cx) (moves : List (Nat × W64)) (pops : Bool) : M Ctl := do
  let x ← getG cx.g
  let live := fullMask x.w &&& ~~~x.exited
  let all := decide (moves.length = popc cx.act) && cx.act == live
  if pops && !moves.isEmpty then
    match leaveLoops cx.pc (moves.map (·.2)) all 4 x.loops with
    | some ls => modG cx.g (fun x => { x with loops := ls })
    | none => trap 11 2#64
  else pure ()
  let differ := !moves.isEmpty && (decide (moves.length ≠ popc cx.act) || moves.any (fun m => m.2 != (moves.head?.map (·.2)).getD 0#64))
  return { moves := moves, closes := !moves.isEmpty, ends := differ }

/-- The executing threads that take a C-format word (R117). -/
def takenBy (cx : Cx) (f : FC) : M (List Nat) := do
  let x ← getG cx.g
  let m ← readP cx f.p.toNat
  return (laneList x.w cx.exe).filter (fun t => !f.u || hasLane m t == f.s)

def branchTarget (cx : Cx) (f : FC) : W64 := cx.pc + 4#64 * immS cx.h 19 f.o.toNat

/-- BRA (R116, R117). -/
def execBra (f : FC) (s : State) : Host.Outcome State Fault Refusal :=
  issue f.z 0x02 { imm := 2 } true (fun _ => pure ()) (fun cx => do
    let ts ← takenBy cx f
    transfer cx (ts.map (fun t => (t, branchTarget cx f))) true) s

/-- The link of the taking threads (R117): v78:v79, or s63 on a milliner. -/
def writeLink (cx : Cx) (ts : List Nat) : M Unit := do
  let x ← getG cx.g
  let v := cx.pc + 4#64
  if ts.isEmpty then pure ()
  else if x.mill.isSome then writeS cx 63 v
  else do
    let m := maskOf x.w (fun t => ts.contains t)
    writeRegs cx m [(78, gen x.w (fun _ => v.setWidth 32)), (79, gen x.w (fun _ => v.extractLsb' 32 32))]

/-- CALL (R116, R117): pops no loop level (R114). -/
def execCall (f : FC) (s : State) : Host.Outcome State Fault Refusal :=
  issue f.z 0x03 { imm := 2 } true (fun _ => pure ()) (fun cx => do
    let ts ← takenBy cx f
    writeLink cx ts
    transfer cx (ts.map (fun t => (t, branchTarget cx f))) false) s

/-- RET (R119). -/
def execRet (f : FZ) (s : State) : Host.Outcome State Fault Refusal :=
  issue f.z 0x04 {} true (fun _ => pure ()) (fun cx => do
    let x ← getG cx.g
    if cx.exe = 0#64 then return {}
    let links : List W64 ← if x.mill.isSome then (do return [← readS cx 63])
      else do
        refillAll cx [] [78, 79]
        readOp64 cx cx.exe 78
    let ts := laneList x.w cx.exe
    let bad := maskOf x.w (fun t => hasLane cx.exe t && !aligned (lane 0#64 links t) 4)
    if bad = 0#64 then transfer cx (ts.map (fun t => (t, lane 0#64 links t))) true
    else stop (.trap 6 bad (lowLane x.w bad) 0 0 0#64)) s

/-- JMPI (R119). -/
def execJmpi (f : FA) (s : State) : Host.Outcome State Fault Refusal :=
  issue f.z 0x04 {} true (fun _ => pure ()) (fun cx => skipMarks cx (countMarks f.l false) (do
    let x ← getG cx.g
    let v ← readS cx f.a.toNat
    if aligned v 4 then do
      applyMarks cx 1 (scalarMark f.l f.a.toNat)
      transfer cx ((laneList x.w cx.exe).map (fun t => (t, v))) true
    else trap 6 v)) s

/-- The exit value (R360): S[0]; an unmapped s0 gives 0 and sets RUR without a trap. -/
def exitValue (cx : Cx) : M W64 := do
  let x ← getG cx.g
  let v ← match pendingReg x 96 with
    | some _ => readS { cx with exe := (fullMask x.w &&& ~~~x.exited) } 0
    | none => pure ((look x.sval 96).getD 0#64)
  let gone := (match pendingReg x 96 with | some (o, d) => inWindowAll x o ((fullMask x.w &&& ~~~x.exited)) && d.was | none => (look x.sval 96).isNone)
  modify (fun s =>
    let s := s.modGrp cx.g (fun x => { x with exitval := v, gstatus := if gone then x.gstatus ||| 1#64 else x.gstatus })
    { s with runs := adjust s.runs (siteOf x) (fun r => { r with rur := none }) })
  return v

-- DEDUCED: log 62
/-- The exit value enters the store buffer as a store to the group's slot (R83, R360): its page is waited for, a fault halts the
group. -/
def exitStore (cx : Cx) : M Unit := do
  let v ← exitValue cx
  let s ← get
  let x := s.grp cx.g
  let tcb := (s.task x.task).tcb
  if tcb.exitarea = 0#64 then pure ()
  else do
    guardM (decide (x.sb.length < 64)) .stall
    let va := tcb.exitOf (s.team x.team).gridpos x.gidx
    let (ts, us) ← ownTargets x va { w := true } (bytes8 v)
    watchUnit cx false true [(va, 8)]
    let id ← newId
    modG cx.g (fun x => { x with sb := x.sb ++ [{ id := id, writes := ts, tokens := [], acked := 1#6, landed := false, used := us, site := cx.pc, seq := x.cmdseq }] })

-- DEDUCED: log 27
/-- EXIT (R119, R360): a milliner's one thread stops until firmware restarts it. -/
def execExit (f : FZ) (s : State) : Host.Outcome State Fault Refusal :=
  issue f.z 0x04 {} true (fun _ => pure ()) (fun cx => skipIfNone cx (do
    let x ← getG cx.g
    let gone := x.exited ||| cx.exe
    let last := x.mill.isNone && gone == fullMask x.w
    if last then exitStore cx else pure ()
    modG cx.g (fun x => { x with exited := gone })
    return { closes := true, ends := true, exits := last })) s

/-- YIELD (R108, R119). -/
def execYield (f : FZ) (s : State) : Host.Outcome State Fault Refusal :=
  issue f.z 0x04 {} true (fun _ => pure ()) (fun _ => pure { ends := true }) s

/-- SLEEP (R119): blocked for S[A] ticks; 0 yields. -/
def execSleep (f : FA) (s : State) : Host.Outcome State Fault Refusal :=
  issue f.z 0x04 {} true (fun _ => pure ()) (fun cx => do
    if cx.exe = 0#64 then do
      ignoreMarks cx (countMarks f.l false)
      return { ends := true }
    let v ← readS cx f.a.toNat
    applyMarks cx 1 (scalarMark f.l f.a.toNat)
    if v = 0#64 then return { ends := true }
    modG cx.g (fun x => { x with wait := .sleep v.toNat })
    return { ends := true }) s

/-- NOP (R119). -/
def execNop (f : FZ) (s : State) : Host.Outcome State Fault Refusal :=
  issue f.z 0x04 {} true (fun _ => pure ()) (fun _ => pure {}) s

/-- BKPT (R119), a debug stop where BKPTSTOP is set (R394). -/
def execBkpt (f : FZ) (s : State) : Host.Outcome State Fault Refusal :=
  issue f.z 0x04 {} true (fun _ => pure ()) (fun cx => skipIfNone cx (do
    let s ← get
    let t := s.task (s.grp cx.g).task
    if t.attached && t.bkptstop then return { ends := true, stopAfter := some evBkptstop }
    else return { ends := true, post := some (12, 0#64, 0) })) s

/-- TRAP (R119). -/
def execTrap (f : FA) (s : State) : Host.Outcome State Fault Refusal :=
  issue f.z 0x04 {} true (fun _ => pure ()) (fun cx => skipMarks cx (countMarks f.l false) (do
    let v ← readS cx f.a.toNat
    applyMarks cx 1 (scalarMark f.l f.a.toNat)
    return { ends := true, post := some (13, v, 0) })) s

/-- TRAPRET (R345): outside a handler it is illegal. -/
def execTrapret (f : FZ) (s : State) : Host.Outcome State Fault Refusal :=
  issue f.z 0x04 {} true (fun cx => do if (← getG cx.g).handler.isSome then pure () else illegalInstruction) (fun cx => skipIfNone cx (do
    return { ends := true, trapret := true })) s

/-- DRAIN (R110, R119): waits for every pending result, then closes every window. -/
def execDrain (f : FZ) (s : State) : Host.Outcome State Fault Refusal :=
  issue f.z 0x04 {} true (fun _ => pure ()) (fun cx => skipIfNone cx (do
    let x ← getG cx.g
    guardM (x.ops.all (fun o => o.ready || o.dests.isEmpty)) .stall
    modG cx.g (fun x => settle { x with ops := x.ops.map (fun o => { o with win := [] }), wspill := [] })
    return {})) s

/-- The opcode of a word. -/
def opOf (w : W32) : Nat := bits w.toNat 30 24

-- DEDUCED: log 26
/-- LOOP (R112, R113). -/
def execLoop (f : FAI) (s : State) : Host.Outcome State Fault Refusal :=
  issue f.z 0x05 {} true (fun _ => if f.i.toNat == 0 || 256 < f.i.toNat then illegalOperand 0#64 else pure ()) (fun cx => do
    let len := f.i.toNat
    skipMarks cx (countMarks f.l false) (do
      let x ← getG cx.g
      let n ← readS cx f.a.toNat
      applyMarks cx 1 (scalarMark f.l f.a.toNat)
      if n = 0#64 then
        return { moves := (laneList x.w cx.exe).map (fun t => (t, cx.pc + 4#64 + n64 (4 * len))) }
      if x.loops.length == 3 then trap 11 1#64
      let w ← fetchWord cx.g (cx.pc + n64 (4 * len))
      if 1 ≤ opOf w && opOf w ≤ 5 then trap 11 3#64
      modG cx.g (fun x =>
        { x with loops := x.loops ++ [{ start := cx.pc + 4#64, stop := cx.pc + n64 (4 * len) }], lc := setAt x.lc x.loops.length n })
      return {})) s

/-! ## CSRs (R43–R45, R120) -/

def csrKnown (n : Nat) : Bool :=
  n ≤ 4 || n == 8 || n == 9 || n == 10 || n == 11 || (0x10 ≤ n && n ≤ 0x12) || n == 0x18 || n == 0x19 || (0x20 ≤ n && n ≤ 0x24) || n == 0x28 || n == 0x30
def csrMill (n : Nat) : Bool :=
  n == 0 || n == 8 || n == 11 || (0x10 ≤ n && n ≤ 0x12) || (0x20 ≤ n && n ≤ 0x24) || n == 0x28 || n == 0x30
def csrWritable (n : Nat) : Bool :=
  n == 8 || (0x10 ≤ n && n ≤ 0x12) || n == 0x18 || n == 0x19 || n == 0x20 || n == 0x23 || n == 0x24

/-- STORES_OUT (R186): the entries each scope has not acknowledged. -/
def storesOut (x : Group) : W64 :=
  let n (k : Nat) : Nat := (x.sb.filter (fun e => !e.acked.getLsbD k)).length
  n64 (n 1 + n 2 * 2 ^ 12 + n 3 * 2 ^ 24 + n 4 * 2 ^ 36 + n 5 * 2 ^ 48)

/-- A CSR as read now. -/
def readCsr (g n : Nat) : M W64 := do
  let s ← get
  let x := s.grp g
  let t := s.team x.team
  let tcb := (s.task x.task).tcb
  match n with
  | 0x00 => return x.name
  | 0x01 => return tcb.nameOf t.gridpos 0
  | 0x02 => return n64 t.gridpos
  | 0x03 => return n64 x.w
  | 0x04 => return n64 x.role
  | 0x08 => return x.gstatus &&& 31#64
  | 0x09 => return n64 x.floor
  | 0x0A => return n64 (mappedN x)
  | 0x0B => return storesOut x
  | 0x10 => return lane 0#64 x.lc 0
  | 0x11 => return lane 0#64 x.lc 1
  | 0x12 => return lane 0#64 x.lc 2
  | 0x18 => return x.sigword.setWidth 64
  | 0x19 => return x.sighandler
  | 0x20 => return x.trappc
  | 0x21 => return x.trapcause
  | 0x22 => return x.trapinfo
  | 0x23 => return x.trapmask
  | 0x24 => return x.traphandler
  | 0x28 => return x.cmdseq
  | _ => clock (dieOf x)

/-- A group with a CSR written; bits a map marks ignored stay (R44, R45, R305, R340). -/
def writeCsr (x : Group) (n : Nat) (v : W64) : Group :=
  match n with
  | 0x08 => { x with gstatus := v &&& 31#64 }
  | 0x10 => { x with lc := setAt x.lc 0 v }
  | 0x11 => { x with lc := setAt x.lc 1 v }
  | 0x12 => { x with lc := setAt x.lc 2 v }
  | 0x18 => { x with sigword := v.setWidth 32 }
  | 0x19 => { x with sighandler := v &&& ~~~3#64 }
  | 0x20 => { x with trappc := v }
  | 0x23 => { x with trapmask := v &&& 7#64 }
  | 0x24 => { x with traphandler := v &&& ~~~3#64 }
  | _ => x

/-- CSRR (R120). -/
def execCsrr (f : FDI) (s : State) : Host.Outcome State Fault Refusal :=
  issue f.z 0x06 {} true (fun cx => do
    let x ← getG cx.g
    guardM (csrKnown f.i.toNat && (x.mill.isNone || csrMill f.i.toNat)) (.trap 1 0#64 0 0 0 0#64))
    (fun cx => skipIfNone cx (thenNext (do
      let v ← readCsr cx.g f.i.toNat
      writeS cx f.d.toNat v))) s

/-- CSRW (R120). -/
def execCsrw (f : FAI) (s : State) : Host.Outcome State Fault Refusal :=
  issue f.z 0x07 {} true (fun cx => do
    let x ← getG cx.g
    guardM (csrWritable f.i.toNat && (x.mill.isNone || csrMill f.i.toNat)) (.trap 1 0#64 0 0 0 0#64))
    (fun cx => skipMarks cx (countMarks f.l false) (thenNext (do
      let v ← readS cx f.a.toNat
      applyMarks cx 1 (scalarMark f.l f.a.toNat)
      modG cx.g (fun x => writeCsr x f.i.toNat v)))) s

/-! ## Instruction caches (R102–R104) -/

/-- ICINV (R102, R103). -/
def execIcinv (f : FE) (s : State) : Host.Outcome State Fault Refusal :=
  issue f.z 0x0A {} false (fun _ => pure ()) (fun cx => skipMarks cx (countMarks f.l f.k) (thenNext (do
    let a ← readS cx f.p.toNat
    let c ← readS cx f.q.toNat
    if wbits c 63 43 != 0 || 5 < wbits c 42 40 then illegalOperand c
    applyMarks cx (countMarks f.l f.k) (scalarMark f.l f.p.toNat ++ scalarMark f.k f.q.toNat)
    let id ← issueOp cx .icinv [96 + f.t.toNat] f.h.toNat 0#64 (.icinv a.toNat (wbits c 39 0) (wbits c 42 40)) [[0#64]] []
    modG cx.g (fun x => { x with icinvs := x.icinvs ++ [id] })))) s

/-- IFENCE (R104): waits for the group's ICINVs, then forgets what was fetched ahead. -/
def execIfence (f : FZ) (s : State) : Host.Outcome State Fault Refusal :=
  issue f.z 0x0B {} true (fun _ => pure ()) (fun cx => skipIfNone cx (do
    let x ← getG cx.g
    guardM (x.icinvs.all (fun id => !(x.ops.any (fun o => o.id == id && !o.ready)))) .stall
    modG cx.g (fun x => { x with fetched := [], icinvs := [] })
    return {})) s

end Sys2Proof.Machine
end

