-- ==== Sys2Proof/Machine/Memory.lean ====
section
/-! DEFINITION. Loads, stores, LDV, PREF and atomics (chapter "Memory access and the consistency model"). -/

namespace Sys2Proof.Machine

/-! ## Operand forms of format M (R178–R181) -/

/-- The uniform form (R179). -/
def uniformForm (d a : Nat) : Bool := (a == 90 || decide (96 ≤ a)) && decide (96 ≤ d)

/-- The displacement HIMMs give a memory target (R178). -/
def dispOf (h : Hints) : W64 :=
  match h.imm with
  | [] => 0#64
  | [a] => sextN a.toNat 20
  | a :: b :: _ => sextN (a.toNat * 2 ^ 20 + b.toNat) 40

/-- A milliner executes only the uniform form with offset zero (R42). -/
def millForm (x : Group) (d a : Nat) (l : Bool) : Bool := x.mill.isNone || (a == 90 && !l && decide (96 ≤ d))

def badOperand : Stop := .trap 2 0#64 0 0 0 0#64
def badInstruction : Stop := .trap 1 0#64 0 0 0 0#64

/-- HORD's orders (R185) and HTYPE's types (R36), as an entry lists them. -/
def okHints (h : Hints) (orders types : List Nat) : Bool :=
  (h.ord.all (fun o => orders.contains o.o.toNat)) && (h.type.all (fun t => types.contains t.t.toNat))
def orderOf (h : Hints) : Nat := (h.ord.map (fun o => o.o.toNat)).getD 0
def scopeOf (h : Hints) : Nat := (h.ord.map (fun o => o.c.toNat)).getD 4
def typeOf (h : Hints) (dflt : Nat) : Nat := (h.type.map (fun t => t.t.toNat)).getD dflt

/-- Whether a data register run lies within v0–v79 or q0–q7 on its boundary, or is a scalar run. -/
def okRun (d n : Nat) : Bool :=
  if d < 80 then d % n == 0 && decide (d + n ≤ 80)
  else if d < 88 then d % n == 0 && decide (d + n ≤ 88)
  else false

/-- The addresses of the executing threads (R178), one in the uniform form. -/
def addresses (cx : Cx) (sb a : Nat) (uni : Bool) : M (List (Nat × W64)) := do
  let x ← getG cx.g
  let base ← readS cx sb
  let off ← readOp cx cx.exe a
  let disp := dispOf cx.h
  let addr (t : Nat) : W64 := base + (lane 0#32 off t).signExtend 64 + disp
  if uni then return [(lowLane x.w cx.exe, addr (lowLane x.w cx.exe))]
  else return (laneList x.w cx.exe).map (fun t => (t, addr t))

-- DEDUCED: log 17
/-- Registers an address marks last (LA, LS). -/
def addrMarks (l k : Bool) (a sb : Nat) : List Nat := specMark l a 1 ++ scalarMark k sb

/-- Destination registers of a load (R180). -/
def loadRegs (d size : Nat) : List Nat :=
  if 96 ≤ d then (if size == 16 then [d, d + 1] else [d]) else if size ≤ 4 then [d] else gen (size / 4) (fun i => d + i)
def okLoadDest (d size : Nat) : Bool :=
  if 96 ≤ d then size != 16 || (d % 2 == 0 && decide (d ≤ 126)) else okRun d (if size ≤ 4 then 1 else size / 4)

def isCxl (t : Target) : Bool := match t with | .cxl _ _ => true | _ => false

/-- The size of a load: LDV's follows its type (R188). -/
def loadSize (h : Hints) (size dflt : Nat) : Nat :=
  let ty := typeOf h dflt
  if size == 0 then (if ty == 3 || ty == 7 || ty == 11 then 8 else 4) else size

/-- What each lane gets of bytes read once per place (R183). -/
def byLane (ts : List (Nat × Target × Used)) (vs : List (Target × List W8)) : List (Nat × List W8) :=
  ts.map (fun t => (t.1, ((vs.find? (fun v => v.1 == t.2.1)).map (·.2)).getD []))

-- DEDUCED: log 8
/-- The bytes each lane's load reads: the group's own view. -/
def loadNow (cx : Cx) (size : Nat) (ts : List (Nat × Target × Used)) : M (List (Nat × List W8)) := do
  return byLane ts (← ownReads cx.g size (ts.map (·.2.1)).dedup)

-- DESIGN CHOICE: log 14
/-- The bytes some place held at a moment of the past. -/
def Past.read (p : Past) (t : Target) (n : Nat) : List W8 :=
  match t with
  | .dev a => rdN p.dmem a n
  | .keep a _ => rdN p.dmem a n
  | .host ld a => rdN p.hmem (hostKey ld a) n
  | .cxl ld a => rdN p.hmem (hostKey ld a) n
  | .scr k a => rdN ((look p.scr k).getD []) a n

-- DESIGN CHOICE: log 14
/-- The bytes each lane's LDV reads (R188), once per distinct address: what the place holds, or, where the promise was broken, anything
it has held since the task turned READY. -/
def loadHeld (cx : Cx) (size : Nat) : List Target → M (List (Target × List W8))
  | [] => pure []
  | t :: r => do
    let now ← ownBytes cx.g size t
    let s ← get
    let x := s.grp cx.g
    let olds := if x.mill.isSome then [] else (((s.past.drop (s.task x.task).readyAt).map (fun p => p.read t size)) ++ [s.readT t size]).dedup.filter (· != now)
    let v ← if olds.isEmpty then pure now else (do return lane now (now :: olds) ((← freeVal).toNat % (olds.length + 1)))
    return (t, v) :: (← loadHeld cx size r)
-- DESIGN CHOICE: log 14
def loadVolatile (cx : Cx) (size : Nat) (ts : List (Nat × Target × Used)) : M (List (Nat × List W8)) := do
  return byLane ts (← loadHeld cx size (ts.map (·.2.1)).dedup)

-- DEDUCED: log 8
/-- A load of `size` bytes (R180, R183): checked, read once per distinct address, delivered later. -/
def load (op size : Nat) (types : List Nat) (signedTypes : List Nat) (dflt : Nat) (orders : List Nat)
    (read : Cx → Nat → List (Nat × Target × Used) → M (List (Nat × List W8))) (f : FML) (s : State) :
    Host.Outcome State Fault Refusal :=
  issue f.z op { imm := 2, ord := !orders.isEmpty, cache := true, type := !types.isEmpty } true
    (fun cx => do
      okSpec f.a.toNat
      guardM (okHints cx.h orders types) badInstruction
      let x ← getG cx.g
      let d := f.d.toNat
      guardM (millForm x d f.a.toNat f.l) badOperand
      guardM (decide (d < 96) || uniformForm d f.a.toNat) badOperand
      guardM (okLoadDest d (loadSize cx.h size dflt)) badOperand
      okMark f.l f.a.toNat)
    (fun cx => do
      let d := f.d.toNat
      let a := f.a.toNat
      let uni := uniformForm d a
      let ty := typeOf cx.h dflt
      let size := loadSize cx.h size dflt
      skipMarks cx (countMarks f.l f.k) (thenNext (do
        refillAll cx (loadRegs d size) (specRegs a 1)
        let ls ← addresses cx f.s.toNat a uni
        let ts ← checkAccess cx ls { size := size, align := size, need := { r := true }, uniform := uni, sc := orderOf cx.h == 4 }
        watchUnit cx true false (ls.map (fun l => (l.2, size)))
        if orderOf cx.h == 4 then waitRelease cx (scopeOf cx.h)
        let spots := ts.map (fun t => (t.2.1, size))
        settleBefore cx spots spots
        modify (fun s => s.useKeeps size (ts.map (·.2.1)))
        applyMarks cx (countMarks f.l f.k) (addrMarks f.l f.k a f.s.toNat)
        let x ← getG cx.g
        let signed := signedTypes.contains ty
        let parts := loadParts d size signed (← read cx size ts)
        let team := (orderOf cx.h == 1 || orderOf cx.h == 4) && decide (1 ≤ scopeOf cx.h)
        if team then modify (fun s => s.observe cx.g spots)
        let regs := loadRegs d size
        let id ← issueOp cx (if ts.any (fun t => isCxl t.2.1) then .cxlLoad else .load) regs f.h.toNat 0#64 .done
          ((List.range regs.length).map (fun i => resultVals x.w (lane 0 regs i) (lane [] parts i))) (ts.map (·.2.2))
        modG cx.g (fun x => { x with ops := x.ops.map (fun o => if o.id == id then
          { o with again := .load size signed false (ts.map (fun t => (t.1, t.2.1))), acq := orderOf cx.h == 1 || orderOf cx.h == 4, sees := team } else o) })))) s

/-- LDB (R180). -/
def execLdb (f : FML) (s : State) : Host.Outcome State Fault Refusal := load 0x50 1 [0, 4] [0] 0 [0, 1, 4] loadNow f s
/-- LDH (R180). -/
def execLdh (f : FML) (s : State) : Host.Outcome State Fault Refusal := load 0x51 2 [1, 5, 8, 9] [1] 1 [0, 1, 4] loadNow f s
/-- LDW (R180). -/
def execLdw (f : FML) (s : State) : Host.Outcome State Fault Refusal := load 0x52 4 [2, 6, 10] [2] 2 [0, 1, 4] loadNow f s
/-- LDD (R180). -/
def execLdd (f : FML) (s : State) : Host.Outcome State Fault Refusal := load 0x53 8 [] [] 3 [0, 1, 4] loadNow f s
/-- LDQ (R180). -/
def execLdq (f : FML) (s : State) : Host.Outcome State Fault Refusal := load 0x54 16 [] [] 3 [0, 1, 4] loadNow f s
-- DESIGN CHOICE: log 14
/-- LDV (R188): a load that promises the location is not written. -/
def execLdv (f : FML) (s : State) : Host.Outcome State Fault Refusal := load 0x5A 0 [2, 6, 10, 3, 7, 11] [2, 3] 2 [] loadVolatile f s

/-! ## Stores -/

/-- The data bytes of each lane (R181). -/
def storeData (cx : Cx) (d size : Nat) : M (List (List W8)) := do
  let x ← getG cx.g
  if size ≤ 4 then do
    let v ← readOp cx cx.exe d
    return gen x.w (fun t => (bytes4 (lane 0#32 v t)).take size)
  else if size == 8 then do
    let v ← readOp64 cx cx.exe d
    return gen x.w (fun t => bytes8 (lane 0#64 v t))
  else if d == 90 then return gen x.w (fun _ => List.replicate 16 0#8)
  else if 96 ≤ d then do
    let a ← readS cx (d - 96)
    let b ← asOperand cx d (readS cx (d - 95))
    return gen x.w (fun _ => bytes8 a ++ bytes8 b)
  else do
    let a ← readOp64 cx cx.exe d
    let b ← asOperand cx d (readOp64 cx cx.exe (d + 2))
    return gen x.w (fun t => bytes8 (lane 0#64 a t) ++ bytes8 (lane 0#64 b t))

def okStoreData (d size : Nat) : Bool :=
  if size ≤ 4 then true
  else if size == 8 then decide (88 ≤ d) || d % 2 == 0
  else d == 90 || (decide (96 ≤ d) && d % 2 == 0 && decide (d ≤ 126)) || okRun d 4
def dataWidth (d size : Nat) : Nat := if 96 ≤ d then (if size == 16 then 2 else 1) else if size ≤ 4 then 1 else size / 4
-- DEDUCED: log 17
def dataMarks (n : Bool) (d size : Nat) : List Nat := if n then gen (dataWidth d size) (fun i => d + i) else []

/-- Entries of a store buffer (R186). -/
def bufferSize (x : Group) : Nat := if x.mill.isSome then 16 else 64

/-- Appends one entry to the store buffer, once there is room (R184). -/
def appendStore (cx : Cx) (writes : List (Target × List W8)) (tokens : List W64) (used : List Used) : M Unit := do
  let x ← getG cx.g
  guardM (decide (x.sb.length < bufferSize x)) .stall
  let id ← newId
  modG cx.g (fun x => { x with sb := x.sb ++ [{ id := id, writes := writes, tokens := tokens, acked := 1#6, landed := false, used := used, site := cx.pc, seq := x.cmdseq }] })

/-- A 16-byte write to a keep page is two keep writes (R317). -/
def splitWrite (t : Target) (bs : List W8) : List (Target × List W8) :=
  match t with
  | .keep _ _ => if 8 < bs.length then [(t, bs.take 8), (t.plus 8, bs.drop 8)] else [(t, bs)]
  | _ => [(t, bs)]

/-- A store of `size` bytes (R181, R184). -/
def store (op size : Nat) (f : FMS) (s : State) : Host.Outcome State Fault Refusal :=
  issue f.z op { imm := 2, ord := true, cache := true } true
    (fun cx => do
      okSpec f.a.toNat
      okSpec f.d.toNat
      guardM (okHints cx.h [0, 2, 4] []) badInstruction
      let x ← getG cx.g
      let d := f.d.toNat
      guardM (millForm x d f.a.toNat f.l) badOperand
      guardM (okStoreData d size) badOperand
      okMark f.l f.a.toNat
      okMark f.n d)
    (fun cx => do
      let d := f.d.toNat
      let a := f.a.toNat
      let uni := uniformForm d a
      skipMarks cx (countMarks f.l f.k + countMarks f.n false) (thenNext (do
        refillAll cx [] (sortN (specRegs a 1 ++ specRegs d (dataWidth d size)))
        let ls ← addresses cx f.s.toNat a uni
        let data ← storeData cx d size
        let ts ← checkAccess cx ls { size := size, align := size, need := { w := true }, uniform := uni, sc := orderOf cx.h == 4, store := true }
        watchUnit cx false true (ls.map (fun l => (l.2, size)))
        if orderOf cx.h != 0 then waitRelease cx (scopeOf cx.h)
        settleBefore cx [] (ts.map (fun t => (t.2.1, size)))
        applyMarks cx (countMarks f.l f.k + countMarks f.n false) (addrMarks f.l f.k a f.s.toNat ++ dataMarks f.n d size)
        appendStore cx (ts.flatMap (fun t => splitWrite t.2.1 (lane [] data t.1))) [] (ts.map (·.2.2))))) s

/-- STB (R181). -/
def execStb (f : FMS) (s : State) : Host.Outcome State Fault Refusal := store 0x55 1 f s
/-- STH (R181). -/
def execSth (f : FMS) (s : State) : Host.Outcome State Fault Refusal := store 0x56 2 f s
/-- STW (R181). -/
def execStw (f : FMS) (s : State) : Host.Outcome State Fault Refusal := store 0x57 4 f s
/-- STD (R181). -/
def execStd (f : FMS) (s : State) : Host.Outcome State Fault Refusal := store 0x58 8 f s
/-- STQ (R181). -/
def execStq (f : FMS) (s : State) : Host.Outcome State Fault Refusal := store 0x59 16 f s

/-- PREF (R189): no access, no trap after decode, not even RUR; only its operands are read. -/
def execPref (f : FMP) (s : State) : Host.Outcome State Fault Refusal :=
  issue f.z 0x5B { imm := 2, cache := true } true (fun cx => do
      okSpec f.a.toNat
      let x ← getG cx.g
      guardM (x.mill.isNone || (f.a.toNat == 90 && !f.l)) badOperand
      okMark f.l f.a.toNat)
    (fun cx => do
      skipMarks cx (countMarks f.l f.k) (thenNext (do
        refillAll cx [] (specRegs f.a.toNat 1)
        let _ ← addresses cx f.s.toNat f.a.toNat false
        modify (fun s => { s with runs := adjust s.runs (siteOf (s.grp cx.g)) (fun r => { r with rur := none }) })
        applyMarks cx (countMarks f.l f.k) (addrMarks f.l f.k f.a.toNat f.s.toNat)))) s

/-! ## Atomics (R201–R205) -/

/-- Registers one value of an atomic takes (R201). -/
def atomicPer (h : Hints) (d dflt : Nat) : Nat :=
  let ty := typeOf h dflt
  if (ty == 3 || ty == 7) && decide (d < 96) then 2 else 1

/-- An atomic: `code` numbers the operation as its opcode does from AADD on. -/
def atomic (op code : Nat) (types : List Nat) (dflt : Nat) (f : FMA) (s : State) : Host.Outcome State Fault Refusal :=
  issue f.z op { imm := 2, ord := true, type := true } true
    (fun cx => do
      okSpec f.a.toNat
      okSpec f.d.toNat
      guardM (okHints cx.h [0, 1, 2, 3, 4] types) badInstruction
      let x ← getG cx.g
      let d := f.d.toNat
      let per := atomicPer cx.h d dflt
      let width := if code == 7 then 2 * per else per
      guardM (millForm x d f.a.toNat f.l) badOperand
      guardM (if 96 ≤ d then uniformForm d f.a.toNat && decide (d + width ≤ 128) else decide (d + width ≤ 80) && (per == 1 || d % 2 == 0)) badOperand
      guardM (!f.n || f.h.toNat == 0) badOperand
      okMark f.l f.a.toNat)
    (fun cx => do
      let d := f.d.toNat
      let a := f.a.toNat
      let uni := uniformForm d a
      let ty := typeOf cx.h dflt
      let wide := ty == 3 || ty == 7
      let signed := ty == 2 || ty == 3
      let per := atomicPer cx.h d dflt
      let width := if code == 7 then 2 * per else per
      skipMarks cx (countMarks f.l f.k + countMarks f.n false) (thenNext (do
        let regs := if f.n then [] else gen per (fun i => d + i)
        refillAll cx regs (sortN (specRegs a 1 ++ specRegs d width))
        let ls ← addresses cx f.s.toNat a uni
        let get1 (k : Nat) : M (List W64) := asOperand cx d (readEl cx cx.exe (d + k * per) wide)
        let first ← get1 0
        let second ← if code == 7 then get1 1 else pure first
        let size := if wide then 8 else 4
        let ts ← checkAccess cx ls { size := size, align := size, need := { r := true, w := true }, uniform := uni, atomic := some code }
        watchUnit cx true true (ls.map (fun l => (l.2, size)))
        if 2 ≤ orderOf cx.h then waitRelease cx (scopeOf cx.h)
        settleBefore cx [] (ts.map (fun t => (t.2.1, size)))
        applyMarks cx (countMarks f.l f.k + countMarks f.n false) (addrMarks f.l f.k a f.s.toNat ++ (if f.n then gen width (fun i => d + i) else []))
        let lanes := ts.map (fun t => if code == 7 then (t.1, t.2.1, lane 0#64 second t.1, lane 0#64 first t.1) else (t.1, t.2.1, lane 0#64 first t.1, 0#64))
        let id ← issueOp cx .atomic regs f.h.toNat 0#64 (.atomic code wide signed lanes) [] (ts.map (·.2.2))
        let acq := !f.n && (orderOf cx.h == 1 || 3 ≤ orderOf cx.h)
        modG cx.g (fun x => { x with ops := x.ops.map (fun o => if o.id == id then { o with acq := acq, sees := acq && decide (1 ≤ scopeOf cx.h), base := d } else o) })))) s

/-- AADD (R201). -/
def execAadd (f : FMA) (s : State) : Host.Outcome State Fault Refusal := atomic 0x5C 0 [2, 6, 3, 7] 2 f s
/-- AMIN (R201). -/
def execAmin (f : FMA) (s : State) : Host.Outcome State Fault Refusal := atomic 0x5D 1 [2, 6, 3, 7] 2 f s
/-- AMAX (R201). -/
def execAmax (f : FMA) (s : State) : Host.Outcome State Fault Refusal := atomic 0x5E 2 [2, 6, 3, 7] 2 f s
/-- AAND (R201). -/
def execAand (f : FMA) (s : State) : Host.Outcome State Fault Refusal := atomic 0x5F 3 [2, 6, 3, 7] 2 f s
/-- AOR (R201). -/
def execAor (f : FMA) (s : State) : Host.Outcome State Fault Refusal := atomic 0x60 4 [2, 6, 3, 7] 2 f s
/-- AXOR (R201). -/
def execAxor (f : FMA) (s : State) : Host.Outcome State Fault Refusal := atomic 0x61 5 [2, 6, 3, 7] 2 f s
/-- AXCHG (R201). -/
def execAxchg (f : FMA) (s : State) : Host.Outcome State Fault Refusal := atomic 0x62 6 [2, 6, 3, 7] 2 f s
/-- ACAS (R201). -/
def execAcas (f : FMA) (s : State) : Host.Outcome State Fault Refusal := atomic 0x63 7 [2, 6, 3, 7] 2 f s
/-- AFADD (R201, R202). -/
def execAfadd (f : FMA) (s : State) : Host.Outcome State Fault Refusal := atomic 0x64 8 [10] 10 f s

/-! ## Fences (R190) -/

-- DEDUCED: log 11
/-- Every access the group has under way is carried out, and every load keeps what it has read: what an acquire orders before later
accesses (R190, R289). What a saved group still has to do comes before its first run in any case (R354). -/
def State.settleAll (s : State) (g : Nat) : State :=
  if !inPlace (s.grp g) then s
  else ((((s.grp g).ops.filter (fun o => !(workSpots o.work).isEmpty)).map (·.id)).foldl (fun s id => s.performInOrder g id) s).modGrp g
    (fun x => { x with ops := x.ops.map (fun o => { o with again := .done }) })

/-- FENCE (R190): order and scope from HORD; acq_rel at device scope by default. -/
def execFence (f : FZ) (s : State) : Host.Outcome State Fault Refusal :=
  issue f.z 0x0C { ord := true } true (fun cx => do
    guardM ((cx.h.ord.map (fun o => o.o != 0#3)).getD true) (.trap 1 0#64 0 0 0 0#64))
    (fun cx => skipIfNone cx (do
      let o := (cx.h.ord.map (fun o => o.o.toNat)).getD 3
      let sc := (cx.h.ord.map (fun o => o.c.toNat)).getD 4
      if 2 ≤ o then waitRelease cx sc else pure ()
      if o != 2 then modify (fun s => s.settleAll cx.g) else pure ()
      return {})) s

end Sys2Proof.Machine
end

