-- ==== Sys2Proof/Machine/Sched.lean ====
section
/-! DEFINITION. Arbitration between runs, the lead PC and the active set, and what is taken at a run boundary (R77, R78,
R107, R108, R307, R343). -/

namespace Sys2Proof.Machine

/-- A CWAIT whose word holds every bit of its mask ends (R245). -/
def pollWait (s : State) (x : Group) : Group :=
  match x.wait with
  | .cwait d off mask _ =>
    let v := le64 (rdN (s.team x.team).scr off 8)
    if (s.team x.team).resident && !x.sat && v &&& mask == mask then endWait (sawBits s off 8 x) d v else x
  | _ => x

-- DEDUCED: log 6
/-- After a step that carries no instruction word, a word that stalled is tried again (R107); until it issues, its group still counts
as blocked for what waits for a run boundary. -/
def State.wake (s0 : State) : State :=
  let s := { s0 with groups := s0.groups.map (fun (e : Nat × Group) => (e.1, pollWait s0 e.2)) }
  { s with
    groups := s.groups.map (fun (e : Nat × Group) => (e.1, { e.2 with stalled := false, retry := e.2.retry || e.2.stalled }))
    runs := s.runs.map (fun (e : Nat × Run) => (e.1, { e.2 with held := false })) }

-- DEDUCED: log 6
/-- How every step that carries no instruction word ends. -/
def event (s : State) : Host.Outcome State Fault Refusal := .next s.wake

/-- Whether what a group waits for is in place without anyone having told it: a peer's return (R295). -/
def waitMet (s : State) (x : Group) : Bool :=
  match x.wait with
  | .none => true
  | .peer ts => ts.all (fun t => (s.team t).resident || (s.team t).retired)
  | .xlat [] 1 => x.ops.all (fun o => o.kind != .cxlLoad || o.ready)
  | _ => false

/-- A ready group (R77, R107). -/
def ready (s : State) (x : Group) : Bool :=
  resident x && x.started && !x.halted && !x.dstop && !x.stopping && !x.stalled && liveMask x != 0#64 && waitMet s x

/-- The priority of a group: that of its task; a milliner has no rival. -/
def prioOf (s : State) (x : Group) : Nat := if x.mill.isSome then 0 else (s.task x.task).prio

/-- The group that runs next on a site (R108): priority, then the longest wait, then the lower slot. -/
def before (s : State) (a b : Group) : Bool :=
  let pa := prioOf s a
  let pb := prioOf s b
  decide (pb < pa) || (pa == pb && (decide (b.waited < a.waited) || (a.waited == b.waited && decide (a.slot < b.slot))))
def State.pick (s : State) (site : Nat) : Option Nat :=
  ((s.siteGroups site).filter (fun e => ready s e.2)).foldl (fun (b : Option (Nat × Group)) e =>
    match b with
    | none => some e
    | some c => if before s e.2 c.2 then some e else some c) none |>.map (·.1)

/-- A new run of a group begins. -/
def State.beginRun (s : State) (site g : Nat) (probe : Bool) : State :=
  let x := s.grp g
  let s := s.modGrp g (fun x => { x with wait := .none, retry := probe })
  { s with
    runs := ins s.runs site { gid := g, act := activeSet x, words := 0, pc := leadPc x, upc := leadPc x, hints := {}, held := false, rur := none, probe := probe }
    focus := some site }

/-- What waits for a group's next run boundary: a debug stop, an event, a signal (R307, R343, R395). -/
def boundaryWaits (x : Group) : Bool :=
  x.stopNext || (x.handler.isNone && (!x.events.isEmpty || (x.sighandler != 0#64 && x.sigword != 0#32)))

/-- What is taken at the run boundary before the run (R307, R341, R343): the oldest event, else a signal. -/
def State.boundary (s : State) (site g : Nat) : State :=
  let x := s.grp g
  if x.retry && boundaryWaits x then s.beginRun site g true
  else if x.stopNext then s.modGrp g (fun x => { x with stopNext := false, dstop := true, stepping := false })
  else if x.handler.isSome then s.beginRun site g false
  else
    match x.events with
    | e :: es =>
      ((s.modGrp g (fun x => { x with events := es, wait := .none })).takeTrap g
        { cause := e.cause, info := e.info, pc := leadPc x, set := activeSet x, code := e.detail.toNat % 256, level := e.detail.toNat / 256
          sitePc := e.site, siteSeq := e.seq }).stepTrap g (leadPc x)
    | [] =>
      if x.sighandler != 0#64 && x.sigword != 0#32 then
        ((s.modGrp g (fun x => { x with sigword := 0#32, wait := .none })).takeTrap g
          { cause := 16, info := x.sigword.setWidth 64, pc := leadPc x, set := activeSet x, sitePc := leadPc x, siteSeq := x.cmdseq }).stepTrap g (leadPc x)
      else s.beginRun site g false

/-- A site's next run: the one in progress, or a new one. -/
def State.selectRun (s : State) (site : Nat) : State :=
  match look s.runs site with
  | some _ => { s with focus := some site }
  | none =>
    let s := s.grantClaims site 16
    match s.pick site with
    | some g => s.boundary site g
    | none => s

/-- RUN_SELECT (R77, R108). -/
def execRunSelect (at' : Site) (s : State) : Host.Outcome State Fault Refusal := .next (s.selectRun (Site.num at'))

-- DESIGN CHOICE: log 97
/-- SLEEP_EXPIRY (R119): the ticks of a sleeper have passed; those of a saved one wait for its return (R357). -/
def execSleepExpiry (gid : Nat) (s : State) : Host.Outcome State Fault Refusal :=
  match (s.grp gid).wait with
  | .sleep n =>
    let x := s.grp gid
    if resident x then event ((s.elapse (dieOf x) n).modGrp gid (fun x => { x with wait := .none })) else event s
  | _ => event s

-- DESIGN CHOICE: log 97
/-- CLAIM_DEADLOCK_DETECT (R166, R170): the last claim of the partition is completed with DEADLOCK, where every
condition holds. -/
def claimDeadlock (s : State) (site : Nat) : Option Nat :=
  let gs := s.siteGroups site
  let waiting := gs.filter (fun e => (claimOf e.2).isSome)
  let idle := gs.all (fun e => !ready s e.2 && e.2.events.isEmpty && !e.2.latch && e.2.sigword == 0#32
    && e.2.ops.all (·.ready)
    && s.copies.all (fun c => c.queue.isSome || c.gid != e.1)
    && (s.team e.2.team).mq.all (fun c => c.gid != e.1))
  if waiting.isEmpty || !idle || (look s.runs site).isSome then none
  else
    (waiting.foldl (fun (b : Option (Nat × Group)) e =>
      match b with
      | none => some e
      | some c => if ((claimOf c.2).map (·.1)).getD 0 < ((claimOf e.2).map (·.1)).getD 0 then some e else some c) none).map (·.1)
def execClaimDeadlockDetect (core : Fin 192) (part : Fin 8) (s : State) : Host.Outcome State Fault Refusal :=
  let site := core.val * 8 + part.val
  let s := s.grantClaims site 16
  match claimDeadlock s site with
  | none => event s
  | some g =>
    let x := s.grp g
    match x.wait with
    | .vclaim d n _ set pc =>
      let info := n64 (claimNeed x n + s.unreserved x.team site * 2 ^ 16 + s.freeSlices site * 2 ^ 32)
      let s := s.modGrp g (fun x =>
        { x with wait := .none, sval := ins x.sval (96 + d) (resultWord x.floor 1) })
      let s := s.grantClaims site 16
      if x.trapmask.getLsbD 2 then
        event (s.takeTrap g { cause := 10, info := info, pc := lane 0#64 x.pcs (lowLane x.w set), set := set, sitePc := pc, siteSeq := x.cmdseq })
      else event s
    | _ => event s

end Sys2Proof.Machine
end

