-- ==== Sys2Proof/Machine/Copy.lean ====
section
/-! DEFINITION. Copy packets, the cores' copy units, CPY, CCANCEL, CWAIT and CTEST (chapter "Asynchronous copies and
fills"). -/

namespace Sys2Proof.Machine

/-! ## The packet (R227, R228) -/

def pkKind (pk : List W8) : Nat := num pk 1 1 % 8
def pkVm (pk : List W8) : Bool := bits (num pk 1 1) 3 3 == 1
def pkE (pk : List W8) : Nat := 2 ^ bits (num pk 2 1) 5 4
def pkPrio (pk : List W8) : Nat := num pk 2 1 % 16
def pkRmask (pk : List W8) : Nat := num pk 3 1 % 16
def pkCmask (pk : List W8) : Nat := num pk 4 1 % 64
def pkMem (pk : List W8) : W64 := word pk 8
def pkExt (pk : List W8) (i : Nat) : Nat := num pk (16 + 2 * i) 2
def pkStride (pk : List W8) (i : Nat) : W64 := (le32 (slice pk (20 + 4 * i) 4)).signExtend 64
def pkRows (pk : List W8) : Nat := num pk 36 2
def pkRb (pk : List W8) : Nat := num pk 38 2
def pkSpad (pk : List W8) : Nat := num pk 40 3
def pkBm (pk : List W8) : Nat := num pk 43 3
def pkVmOff (pk : List W8) : Nat := num pk 46 3
def pkIdx (pk : List W8) : Nat := num pk 49 3
def pkBox (pk : List W8) (i : Nat) : Nat := if i == 1 then num pk 6 2 else num pk 52 2
def pkT (pk : List W8) : Nat := pkRows pk * pkRb pk
def pkChunks (pk : List W8) : Nat := (pkT pk + 511) / 512
/-- Bytes of the bitmap and of the mask. -/
def pkBmBytes (pk : List W8) : Nat := 8 * ((pkChunks pk + 63) / 64)
def pkVmBytes (pk : List W8) : Nat := (pkRows pk + 7) / 8

/-- The regions of R228: offset of the field, first byte, bytes. -/
def pkRegions (pk : List W8) : List (Nat × Nat × Nat) :=
  [(40, pkSpad pk, pkT pk), (43, pkBm pk, pkBmBytes pk)] ++ (if pkVm pk then [(46, pkVmOff pk, pkVmBytes pk)] else [])
    ++ (if pkKind pk == 1 then [(49, pkIdx pk, 4 * pkRows pk)] else [])

/-- Pairs of a list, each once. -/
def pairsOf {α : Type} : List α → List (α × α)
  | [] => []
  | x :: r => r.map (fun y => (x, y)) ++ pairsOf r

-- DEDUCED: log 42
/-- The offsets of the conditions of R228 and R239 that a packet fails; `queued` packets may carry NAME, DREG and PRIO. -/
def pkFaults (pk : List W8) (queued : Bool) (rows cols : Nat) : List Nat :=
  let kind := pkKind pk
  let bad (b : Bool) (o : Nat) : List Nat := if b then [o] else []
  bad (num pk 0 1 != 1) 0
    ++ bad (decide (4 < kind) || bits (num pk 1 1) 7 4 != 0) 1
    ++ bad (bits (num pk 2 1) 7 6 != 0 || (!queued && pkPrio pk != 0)) 2
    ++ bad (bits (num pk 3 1) 7 4 != 0) 3
    ++ bad (bits (num pk 4 1) 7 6 != 0) 4
    ++ bad (if queued then bits (num pk 5 1) 7 5 != 0 else num pk 5 1 != 0) 5
    ++ bad (num pk 54 2 != 0) 54
    ++ bad (!queued && num pk 56 8 != 0) 56
    ++ bad (pkRows pk == 0) 36 ++ bad (pkRb pk == 0) 38
    ++ bad (decide (524288 < pkT pk)) 36
    ++ bad (pkRb pk % pkE pk != 0 || (pkMem pk).toNat % pkE pk != 0) 2
    ++ bad (pkSpad pk % 64 != 0) 40 ++ bad (pkBm pk % 8 != 0) 43 ++ bad (pkVmOff pk % 8 != 0) 46
    ++ (if kind == 1 then bad (pkIdx pk % 4 != 0) 49 ++ bad (pkBox pk 1 != 0) 6 ++ bad (pkBox pk 2 != 0) 52
          ++ bad (pkExt pk 2 != 0) 20 ++ bad (pkExt pk 3 != 0) 22 ++ bad (num pk 28 4 != 0) 28 ++ bad (num pk 32 4 != 0) 32
        else bad (pkIdx pk != 0) 49 ++ bad (pkBox pk 1 == 0) 6 ++ bad (pkBox pk 2 == 0) 52)
    ++ (if kind == 4 then bad (pkRmask pk == 0) 3 ++ bad (pkCmask pk == 0) 4
          ++ bad (decide (2 ^ rows ≤ pkRmask pk) || decide (2 ^ cols ≤ pkCmask pk)) 3
        else bad (num pk 3 1 % 16 != 0) 3 ++ bad (num pk 4 1 % 64 != 0) 4)
    ++ (if kind == 2 then bad (pkExt pk 0 != 0) 16 ++ bad (pkRb pk % (4 * pkE pk) != 0) 2 else [])
    ++ (if kind == 3 then bad (pkVm pk) 1 else [])
    ++ (pairsOf (pkRegions pk)).flatMap (fun p =>
      bad (decide (p.1.2.1 < p.2.2.1 + p.2.2.2) && decide (p.2.2.1 < p.1.2.1 + p.1.2.2)) (min p.1.1 p.2.1))
-- DEDUCED: log 42, 54
def lowest (l : List Nat) : Option Nat := match l with | [] => none | x :: r => some (r.foldl min x)

-- DEDUCED: log 42
/-- Whether a region of a packet lies outside an allocation of `size` bytes. -/
def pkOutside (pk : List W8) (size : Nat) : Bool := (pkRegions pk).any (fun r => decide (size < r.2.1 + r.2.2))

/-- The felt peers a multicast selects (R234). -/
def pkPeers (pk : List W8) (cols : Nat) : List Nat :=
  (List.range 4).flatMap (fun i => (List.range 6).filterMap (fun j =>
    if bits (pkRmask pk) i i == 1 && bits (pkCmask pk) j j == 1 then some (i * cols + j) else none))

/-! ## Rows and chunks (R229–R233) -/

/-- The address of element 0 of a tile row, and rowok (R229, R231). -/
def copyRow (c : Copy) (r : Nat) : W64 × Bool :=
  let pk := c.pk
  if pkKind pk == 1 then
    let i := (lane 0#32 c.index r).toNat
    (pkMem pk + n64 i * pkStride pk 1, decide (i < pkExt pk 1))
  else
    let b1 := pkBox pk 1
    let b2 := pkBox pk 2
    let i1 := r % b1
    let i2 := r / b1 % b2
    let i3 := r / (b1 * b2)
    (pkMem pk + n64 i1 * pkStride pk 1 + n64 i2 * pkStride pk 2 + n64 i3 * pkStride pk 3,
      decide (i1 < pkExt pk 1) && decide (i2 < pkExt pk 2) && decide (i3 < pkExt pk 3))

/-- The row pieces of a chunk: row, first and last byte of the row. -/
def copyPieces (pk : List W8) (k : Nat) : List (Nat × Nat × Nat) :=
  let rb := pkRb pk
  let lo := 512 * k
  let hi := min (lo + 512) (pkT pk)
  let r0 := lo / rb
  gen ((hi + rb - 1) / rb - r0) (fun i => (r0 + i, max lo ((r0 + i) * rb) - (r0 + i) * rb, min hi ((r0 + i + 1) * rb) - (r0 + i) * rb))

-- DEDUCED: log 41
/-- The row-validity mask (R230). -/
def copyMask (c : Copy) : List W8 :=
  gen (pkVmBytes c.pk) (fun b => BitVec.ofNat 8 ((List.range 8).foldr (fun i acc =>
    acc + (if decide (8 * b + i < pkRows c.pk) && (copyRow c (8 * b + i)).2 && (pkKind c.pk == 2 || pkExt c.pk 0 != 0) then 2 ^ i else 0)) 0))

-- DEDUCED: log 40, 42
/-- An engine's access (R207, R374, R423). A request to the host or to CXL memory may fail: DETAIL 3 (R235), raised as cause 0. -/
def engineAt (die : Nat) (dom : W16) (va : W64) (need : Need) : M Target := do
  let (t, _) ← agentAt dom va need
  guardM ((← get).reaches die t) (.fail 5 5 0 va)
  match t with
  | .host _ _ => do
    if ← freeChoice then stop (.fail 0 3 0 va) else pure ()
  | .cxl _ _ => do
    if ← freeChoice then stop (.fail 0 3 0 va) else pure ()
  | _ => pure ()
  return t

-- DEDUCED: log 50
/-- An engine's read; of a keep cell it is a plain load, which brings the cell into use (R318, R335). -/
def engineRead (die : Nat) (dom : W16) : Nat → W64 → Nat → M (List W8)
  | 0, _, _ => pure []
  | fuel + 1, va, n =>
    if n == 0 then pure []
    else do
      let k := pageRun va n
      let t ← engineAt die dom va { r := true }
      match t with
      | .keep a m => modify (fun s => s.useKeeps (k + a % 8) [.keep (a / 8 * 8) m])
      | _ => pure ()
      let bs := (← get).readT t k
      return bs ++ (← engineRead die dom fuel (va + n64 k) (n - k))

/-- Where an engine's write goes, page by page. A keep page takes aligned 8-byte elements only (R335): DETAIL 1, raised as cause 0. -/
def engineTargets (die : Nat) (dom : W16) (e : Nat) : Nat → W64 → List W8 → M (List (Target × List W8))
  | 0, _, _ => pure []
  | fuel + 1, va, bs =>
    if bs.isEmpty then pure []
    else do
      let k := pageRun va bs.length
      let t ← engineAt die dom va { w := true }
      match t with
      | .keep _ _ => guardM (e == 8 && aligned va 8) (.fail 0 1 0 va)
      | _ => pure ()
      return (t, bs.take k) :: (← engineTargets die dom e fuel (va + n64 k) (bs.drop k))

-- DEDUCED: log 42, 50
/-- Keep writes of 8-byte elements (R335). -/
def State.keepElements (s : State) (task writer a : Nat) (m : BitVec 3) : Nat → List W8 → State
  | 0, _ => s
  | n + 1, bs =>
    let (s, st, _) := s.keepWrite a m.toNat writer (le64 (bs.take 8)) 0#64
    let s := if st == 2 then s.modTask task (fun t => { t with keepRefusals := satAdd t.keepRefusals 1 }) else s
    s.keepElements task writer (a + 8) m n (bs.drop 8)
-- DEDUCED: log 50
def State.engineWrite (s : State) (task writer : Nat) : List (Target × List W8) → State
  | [] => s
  | (.keep a m, bs) :: r => (s.keepElements task writer a m (bs.length / 8) bs).engineWrite task writer r
  | (t, bs) :: r => (s.writeT t bs).engineWrite task writer r

/-- One sparse row piece expanded (R232): the groups' bytes, and whether a nibble is illegal. -/
def sparseGroups (e ga : Nat) (vals nibs : List W8) : Nat → List W8 × Bool
  | 0 => ([], false)
  | n + 1 =>
    let (bs, bad) := sparseGroups e ga vals nibs n
    let nib := bits (num nibs ((ga + n) / 2 - ga / 2) 1) (4 * ((ga + n) % 2) + 3) (4 * ((ga + n) % 2))
    let i0 := nib % 4
    let i1 := nib / 4
    let at' (j : Nat) : List W8 := if j == i0 then slice vals (2 * n * e) e else if j == i1 then slice vals ((2 * n + 1) * e) e else List.replicate e 0#8
    (bs ++ at' 0 ++ at' 1 ++ at' 2 ++ at' 3, bad || decide (i1 ≤ i0))

/-- The bytes of the pieces of a chunk read from memory, the ranges read, and whether a sparse group was illegal. -/
def readPieces (die : Nat) (c : Copy) : List (Nat × Nat × Nat) → M (List W8 × List (W64 × Nat) × Bool)
  | [] => pure ([], [], false)
  | (r, a, b) :: ps => do
    let pk := c.pk
    let (base, ok) := copyRow c r
    let here : List W8 × List (W64 × Nat) × Bool ←
      if !ok then pure (List.replicate (b - a) 0#8, [], false)
      else if pkKind pk == 2 then do
        let e := pkE pk
        let g := pkRb pk / (4 * e)
        let ga := a / (4 * e)
        let gb := b / (4 * e)
        let va := base + n64 (2 * ga * e)
        let ma := base + n64 (2 * g * e + ga / 2)
        let vn := 2 * (gb - ga) * e
        let mn := (gb + 1) / 2 - ga / 2
        let vals ← engineRead die c.dom 3 va vn
        let nibs ← engineRead die c.dom 3 ma mn
        let (bs, bad) := sparseGroups e ga vals nibs (gb - ga)
        pure (bs, [(va, vn), (ma, mn)], bad)
      else do
        let n := min b (pkExt pk 0 * pkE pk) - a
        let bs ← engineRead die c.dom 3 (base + n64 a) n
        pure (bs ++ List.replicate (b - a - n) 0#8, if n == 0 then [] else [(base + n64 a, n)], false)
    let (bs, rs, bad) ← readPieces die c ps
    return (here.1 ++ bs, here.2.1 ++ rs, here.2.2 || bad)

/-- Bytes of a team's scratchpad as an engine reads them. -/
def tileBytes (t lo n : Nat) : M (List W8) := do
  let s ← get
  set (s.sawT (.scr t lo) n)
  return s.seeT (.scr t lo) n

/-- The writes of a store-out's chunk (R233), and the ranges written. -/
def storePieces (die : Nat) (c : Copy) : List (Nat × Nat × Nat) → M (List (Target × List W8) × List (W64 × Nat))
  | [] => pure ([], [])
  | (r, a, b) :: ps => do
    let pk := c.pk
    let (base, ok) := copyRow c r
    let n := if ok then min b (pkExt pk 0 * pkE pk) - a else 0
    let lo := pkSpad pk + r * pkRb pk + a
    let bs ← spoilBytes lo ((c.spoilt.filter (fun e => e.1 == c.team)).map (·.2)) 0 (← tileBytes c.team lo n)
    let ts ← engineTargets die c.dom (pkE pk) 3 (base + n64 a) bs
    let (ws, rs) ← storePieces die c ps
    return (ts ++ ws, (if n == 0 then [] else [(base + n64 a, n)]) ++ rs)

-- DEDUCED: log 41
/-- A chunk's bytes and its bitmap bit reach a receiver (R234, R236); the mask goes first (R230). -/
def landChunk (c : Copy) (k : Nat) (data : List W8) (t : Nat) : M Unit := do
  let first := ((c.left.find? (fun e => e.1 == t)).map (fun e => e.2.length == pkChunks c.pk)).getD false
  if first && pkVm c.pk then modify (fun s => s.scrPut t (pkVmOff c.pk) (copyMask c))
  if pkKind c.pk != 3 then do
    let lo := pkSpad c.pk + 512 * k
    let bs ← spoilBytes lo ((c.spoilt.filter (fun e => e.1 == t)).map (·.2)) 0 data
    modify (fun s => s.scrPut t lo bs)
  let wa := pkBm c.pk + k / 8
  modify (fun s => s.scrPut t wa [rd (s.team t).scr wa ||| BitVec.ofNat 8 (2 ^ (k % 8))])

/-! ## The end of a command (R235, R240) -/

-- DEDUCED: log 41
/-- A result reaches its operation (R110): stored where no window is open. `vals` gives the elements by register. -/
def State.deliver (s : State) (g id : Nat) (vals : Nat → List W64) : State :=
  s.modGrp g (fun x => settle { x with ops := x.ops.map (fun o =>
    if o.id == id then { o with ready := true, dests := o.dests.map (fun d => { d with vals := vals d.reg }) } else o) })

/-- The token of a command: status and the fields of R235. -/
def copyToken (c : Copy) (st chunk detail : Nat) : W64 := n64 (c.seq.toNat % 2 ^ 32 * 2 ^ 32 + chunk * 2 ^ 16 + detail * 2 ^ 8 + st)

/-- What a command's token says: FAULT, CANCELLED, SPARSE_CODE, DONE, the first that applies. `fault` holds the chunk, the detail, and
the code and level of R213. -/
def copyStatus (c : Copy) : W64 :=
  match c.fault with
  | some (k, d, _) => copyToken c 2 k d
  | none =>
    if c.cancel then copyToken c 1 0 0
    else match c.sparse with
      | some k => copyToken c 3 k 0
      | none => copyToken c 0 0 0

/-- A CPY command ends: its token is written and a FAULT raises COPY_FAULT. -/
def State.endCopy (s : State) (c : Copy) : State :=
  let tok := copyStatus c
  let s := { s with copies := s.copies.filter (fun d => d.id != c.id) }
  let s := s.traceG c.gid evCopyend c.site 0#64 tok 0
  let s := s.deliver c.gid c.id (fun _ => [tok])
  match c.fault with
  | some (_, d, x) => s.postEvent c.gid { cause := 34, info := tok, detail := if d == 2 then x else 0#64, site := c.site, seq := c.seq }
  | none => s

def State.setCopy (s : State) (c : Copy) : State := { s with copies := s.copies.map (fun d => if d.id == c.id then c else d) }
def State.copy (s : State) (id : Nat) : Option Copy := s.copies.find? (fun c => c.id == id)

/-- Nothing is left to land: every receiver has every chunk or has retired. -/
def copyDone (s : State) (c : Copy) : Bool := c.left.all (fun e => e.2.isEmpty || (s.team e.1).retired)

/-! ## Watchpoints on a chunk (R397, R398) -/

/-- WREPORT of a command's chunk; with STOP the issuing group stops at its next run boundary. -/
def State.watchChunk (s : State) (die : Nat) (c : Copy) (wr : Bool) (ranges : List (W64 × Nat)) : State :=
  match watchHit s die c.ld c.dom (!wr) wr ranges with
  | none => s
  | some (i, w, a) =>
    let x := s.grp c.gid
    let gone := x.place == .exited || x.place == .ended
    let agent := (s.team x.team).retired
    let index := i + (if wr then 8 else 0) + (if agent then 32 else if gone then 16 else 0)
    let s := s.trace c.ld c.dom.toNat die evWreport (s.task x.task).attached (if agent then 0#64 else x.name) c.site c.seq a c.pkva index
    if w.stop && resident x && !agent then s.modGrp c.gid (fun x => { x with stopNext := !x.dstop }) else s

/-! ## CPY and CCANCEL (R238, R239, R246) -/

/-- Only COPY groups issue the copy engines' commands, only MATRIX groups the matrix engine's (R74, R109). -/
def needRole (cx : Cx) (r : Nat) : M Unit := do
  let x ← getG cx.g
  if x.mill.isNone && x.role != r then illegalRole else pure ()

-- DEDUCED: log 41
/-- The bitmap words of a command cleared (R239): at once where the team is resident, through the store buffer where it is not (R234). -/
def clearBitmap (cx : Cx) (pk : List W8) (t : Nat) : M Unit := do
  let s ← get
  let x := s.grp cx.g
  let w : Target × List W8 := (.scr t (pkBm pk), List.replicate (pkBmBytes pk) 0#8)
  if (s.team t).resident then do
    let st := x.sb.filter (fun e => anyOverlap (entrySpots e) [(w.1, w.2.length)])
    modify (fun s => (st.foldl (fun s e => s.landInOrder cx.g e.id) s).writeT w.1 w.2)
  else appendStore cx [w] [] []

-- DEDUCED: log 37
/-- CPY (R238, R239): the packet is read and checked, the bitmaps are cleared, the command is queued. -/
def execCpy (f : FEP) (s : State) : Host.Outcome State Fault Refusal :=
  issue f.z 0x68 {} false (fun cx => needRole cx 0) (fun cx => skipMarks cx (countMarks f.l false) (do
    let x ← getG cx.g
    let p ← readS cx f.p.toNat
    if !aligned p 64 then trap 6 p
    let s ← get
    guardM (decide ((s.copies.filter (fun c => c.queue.isNone && c.gid == cx.g)).length < 8)) .stall
    let ts ← checkAccess cx [(lowLane x.w cx.exe, p)] { size := 64, align := 1, need := { r := true }, uniform := true }
    let spots := ts.map (fun t => (t.2.1, 64))
    settleBefore cx spots spots
    let pk := ((← ownReads cx.g 64 (ts.map (·.2.1))).map (·.2)).headD []
    let s ← get
    let tcb := (s.task x.task).tcb
    match lowest (pkFaults pk false tcb.rows tcb.cols) with
    | some o => illegalOperand (n64 o)
    | none => pure ()
    if pkOutside pk (s.scratchSize x.team) then trap 7 1#64
    let recv := if pkKind pk == 4 then (pkPeers pk tcb.cols).map (fun i => lane x.team (s.felt (s.team x.team).felt).teams i) else [x.team]
    if recv.any (fun t => (s.team t).retired) then trap 5 1#64
    watchUnit cx true false [(p, 64)]
    applyMarks cx (countMarks f.l false) (scalarMark f.l f.p.toNat)
    let seq ← takeSeq cx.g
    let id ← issueOp cx .cpy [96 + f.t.toNat] f.h.toNat seq .command [] []
    (x.team :: recv).dedup.forM (clearBitmap cx pk)
    let away := recv.filter (fun t => !(s.team t).resident)
    if away.isEmpty then pure () else modG cx.g (fun x => { x with wait := .peer away })
    modify (fun s => { s with copies := s.copies ++ [
      { id := id, queue := none, slot := 0, gid := cx.g, name := x.name, ld := x.ld, dom := x.dom, core := x.core, die := dieOf x, site := cx.pc, seq := seq
        pk := pk, pkva := p, team := x.team, receivers := recv, started := false, cleared := true, index := []
        left := recv.map (fun t => (t, List.range (pkChunks pk))), heldData := [], sparse := none, cancel := false, fault := none, susp := 0, prio := 0
        turn := 0, fabric := false, awaiting := [], spoilt := [] }] })
    return {})) s

/-- CCANCEL (R246): the command's token is written first, then STOPPED or NOTFOUND. -/
def execCcancel (f : FEP) (s : State) : Host.Outcome State Fault Refusal :=
  issue f.z 0x6C {} false (fun cx => needRole cx 0) (fun cx => skipMarks cx (countMarks f.l false) (thenNext (do
    let q ← readS cx f.p.toNat
    applyMarks cx (countMarks f.l false) (scalarMark f.l f.p.toNat)
    let s ← get
    let hit := s.copies.find? (fun c => c.queue.isNone && c.gid == cx.g && c.seq == q)
    match hit with
    | some c => modify (fun s => s.endCopy { c with cancel := !(c.started && copyDone s c) })
    | none => pure ()
    let _ ← issueOp cx .cancel [96 + f.t.toNat] f.h.toNat 0#64 .done [[if hit.isSome then 0#64 else 1#64]] []
    pure ()))) s

/-! ## CWAIT and CTEST (R245) -/

-- DEDUCED: log 44
/-- The bitmap word a CWAIT or CTEST names: its offset in the team's own allocation. -/
def bitmapWord (cx : Cx) (a : W64) : M Nat := do
  let s ← get
  let x := s.grp cx.g
  match s.window cx.g a with
  | .team t off =>
    if t != x.team then illegalOperand 0#64
    else if off % 8 != 0 then trap 6 1#64
    else if s.scratchSize t < off + 8 then trap 7 1#64
    else return off
  | _ => illegalOperand 0#64

-- DEDUCED: log 44
/-- CWAIT (R245): ends its run and blocks until the word holds the mask. -/
def execCwait (f : FEW) (s : State) : Host.Outcome State Fault Refusal :=
  issue f.z 0x6A {} false (fun _ => pure ()) (fun cx => do
    if cx.exe = 0#64 then do
      ignoreMarks cx (countMarks f.l f.k)
      return { ends := true }
    let x ← getG cx.g
    let a ← readS cx f.p.toNat
    let m ← readS cx f.q.toNat
    let off ← bitmapWord cx a
    settleBefore cx [(.scr x.team off, 8)] [(.scr x.team off, 8)]
    watchUnit cx true false [(a, 8)]
    applyMarks cx (countMarks f.l f.k) (scalarMark f.l f.p.toNat ++ scalarMark f.k f.q.toNat)
    let v := le64 (← ownBytes cx.g 8 (.scr x.team off))
    modify (fun s => s.observe cx.g [(.scr x.team off, 8)])
    if v &&& m == m then writeS cx f.t.toNat v
    else do
      blockDest cx f.t.toNat
      modG cx.g (fun x => { x with wait := .cwait f.t.toNat off m cx.act })
    return { ends := true }) s

-- DEDUCED: log 44, 45
/-- CTEST (R245): the word under the mask, at once. -/
def execCtest (f : FE) (s : State) : Host.Outcome State Fault Refusal :=
  issue f.z 0x6B {} false (fun _ => pure ()) (fun cx => skipMarks cx (countMarks f.l f.k) (thenNext (do
    let x ← getG cx.g
    let a ← readS cx f.p.toNat
    let m ← readS cx f.q.toNat
    let off ← bitmapWord cx a
    settleBefore cx [(.scr x.team off, 8)] [(.scr x.team off, 8)]
    watchUnit cx true false [(a, 8)]
    applyMarks cx (countMarks f.l f.k) (scalarMark f.l f.p.toNat ++ scalarMark f.k f.q.toNat)
    let v := le64 (← ownBytes cx.g 8 (.scr x.team off))
    modify (fun s => s.observe cx.g [(.scr x.team off, 8)])
    let _ ← issueOp cx .load [96 + f.t.toNat] f.h.toNat 0#64 .done [[v &&& m]] []
    pure ()))) s

/-! ## The copy unit of a core (R237, R240, R244) -/

-- DEDUCED: log 41
/-- COPY_COMMAND_START (R237): the group's earlier stores are acknowledged; the index list is read (R231). -/
def startCopy (s : State) (c : Copy) : Bool :=
  let x := s.grp c.gid
  let home (w : Target × List W8) : Bool := match w.1 with | .host _ _ => true | .cxl _ _ => true | _ => false
  (s.team c.team).resident && inPlace x && !c.started && c.queue.isNone && (s.ldev c.ld).tdisp != .error
    && x.sb.all (fun e => decide (c.id < e.id) || e.acked.getLsbD (if e.writes.any home then 5 else 4))
-- DEDUCED: log 41
def indexList (s : State) (c : Copy) : List W32 :=
  if pkKind c.pk == 1 then gen (pkRows c.pk) (fun r => le32 (slice (s.seeT (.scr c.team (pkIdx c.pk)) (4 * pkRows c.pk)) (4 * r) 4)) else []
/-- The state once the list has been read. -/
def State.indexed (s : State) (c : Copy) : State := if pkKind c.pk == 1 then s.sawT (.scr c.team (pkIdx c.pk)) (4 * pkRows c.pk) else s
def execCopyCommandStart (cmd : Nat) (s : State) : Host.Outcome State Fault Refusal :=
  match s.copy cmd with
  | none => event s
  | some c => if startCopy s c then event ((s.indexed c).setCopy { c with started := true, index := indexList s c }) else event s

/-- Receivers that can take chunks now, and the chunks that some of them lack: none whose bitmap the issuing group has still to
clear (R234). -/
def openReceivers (s : State) (c : Copy) : List (Nat × List Nat) :=
  c.left.filter (fun e => (s.team e.1).resident && !(s.team e.1).retired && !e.2.isEmpty
    && !(c.queue.isNone && (s.grp c.gid).sb.any (fun b => anyOverlap (entrySpots b) [(.scr e.1 (pkBm c.pk), pkBmBytes c.pk)])))
def openChunks (s : State) (c : Copy) : List Nat := sortN ((openReceivers s c).flatMap (·.2))

/-- One chunk of a command (R229–R234): read once, landed at every receiver that can take it, kept for the others. -/
def moveChunk (die task writer : Nat) (c : Copy) (k : Nat) : M Unit := do
  let s ← get
  let ps := copyPieces c.pk k
  let (data, rs, bad) ← match look c.heldData k with
    | some d => pure (d, [], false)
    | none =>
      if pkKind c.pk == 3 then do
        let (ws, rs) ← storePieces die c ps
        modify (fun s => s.engineWrite task writer ws)
        pure ([], rs, false)
      else do
        let (bs, rs, bad) ← readPieces die c ps
        pure (if bad then List.replicate bs.length 0#8 else bs, rs, bad)
  let takers := ((openReceivers s c).filter (fun e => e.2.contains k)).map (·.1)
  let left := c.left.map (fun (e : Nat × List Nat) => (e.1, if takers.contains e.1 || (s.team e.1).retired then e.2.filter (· != k) else e.2))
  let later := left.any (fun e => e.2.contains k)
  let c2 : Copy := { c with
    left := left
    heldData := if later then ins c.heldData k data else erase c.heldData k
    heldRanges := if later then ins c.heldRanges k (if (look c.heldData k).isSome then (look c.heldRanges k).getD [] else rs) else erase c.heldRanges k
    sparse := if bad then some (match c.sparse with | some j => min j k | none => k) else c.sparse }
  takers.forM (landChunk c k data)
  modify (fun s => (s.setCopy c2).watchChunk die c2 (pkKind c.pk == 3) rs)

-- DEDUCED: log 42
/-- A chunk of a command, with what its faults do (R235): DETAIL 1 for a keep page, 3 for a request that failed, 2 for a translation, with its code
and level. -/
def State.copyChunk (s : State) (die task writer : Nat) (c : Copy) (k : Nat) : State :=
  match (moveChunk die task writer c k).run s with
  | .ok (_, s') => s'
  | .error (.suspend m) => (s.requestPages none m).setCopy { c with awaiting := m }
  | .error (.fail cause code level _) =>
    s.setCopy { c with left := [], fault := some (k, if cause == 0 then code else 2, detailOf code level) }
  | .error _ => s

/-- A page whose request the host has not answered. -/
def State.outstanding (s : State) (m : Miss) : Bool :=
  (s.ldev m.ld).trs.any (fun e => e.2 == m) || (s.ldev m.ld).ungranted.any (fun e => e.2 == m) || (s.ldev m.ld).prgs.any (fun p => p.miss.contains m)

/-- The command a copy unit serves next: the highest task priority, then the one served longest ago (R240). -/
def nextCommand (prio : Copy → Nat) (cs : List Copy) : Option Copy :=
  cs.foldl (fun (b : Option Copy) c =>
    match b with
    | none => some c
    | some d => if prio d < prio c || (prio c == prio d && c.turn < d.turn) then some c else some d) none

/-- The commands of a core's copy unit that can go on. -/
def unitCommands (s : State) (core : Nat) : List Copy :=
  s.copies.filter (fun c => c.queue.isNone && c.started && (s.grp c.gid).core == core && inPlace (s.grp c.gid) && (s.team c.team).resident
    && (s.ldev c.ld).tdisp != .error
    && !c.awaiting.any s.outstanding && (copyDone s c || !(openChunks s c).isEmpty))

/-- COPY_UNIT_CHUNK (R240): one chunk, chosen among those left by `pick`; a command with nothing left ends. -/
def execCopyUnitChunk (core : Fin 192) (pick : Nat) (s : State) : Host.Outcome State Fault Refusal :=
  match nextCommand (fun c => (s.task (s.grp c.gid).task).prio) (unitCommands s core.val) with
  | none => event s
  | some c =>
    if copyDone s c then event (s.endCopy c)
    else
      let ks := openChunks s c
      let c1 : Copy := { c with turn := s.nextId }
      let s1 := ({ s with nextId := s.nextId + 1 }).copyChunk (core.val / 24) (s.grp c.gid).task core.val c1 (ks.getD (pick % ks.length) 0)
      match s1.copy c.id with
      | some d => if copyDone s1 d then event (s1.endCopy d) else event s1
      | none => event s1

end Sys2Proof.Machine
end

