-- ==== Sys2Proof/Machine/Keep.lean ====
section
/-! DEFINITION. KLD, KST and KREC, and the steps that perform a group's operations at their homes (chapter "Keep memory and
the keep-table merge"; R203, R321, R331). -/

namespace Sys2Proof.Machine

/-- The data register of a keep instruction: an even v register up to `v`, or a scalar up to `n` (R326, R328, R330). -/
def okKeepData (d v n : Nat) : Bool := if 96 ≤ d then decide (d ≤ 96 + n) else decide (d ≤ v) && d % 2 == 0

/-- The checks of the word every keep instruction shares. -/
def keepStatic (cx : Cx) (a d v n : Nat) (l : Bool) (orders : List Nat) : M Unit := do
  okSpec a
  guardM (okHints cx.h orders []) badInstruction
  let x ← getG cx.g
  guardM (millForm x d a l) badOperand
  guardM (okKeepData d v n && (decide (d < 96) || uniformForm d a)) badOperand
  okMark l a

/-- The addresses of a keep instruction: HIMM gives no displacement. -/
def keepAddresses (cx : Cx) (sb a : Nat) (uni : Bool) : M (List (Nat × W64)) :=
  addresses { cx with h := { cx.h with imm := [] } } sb a uni

/-- The sibling a KLD names (R326). -/
def sibOf (h : Hints) : Nat := (h.imm.head?.map (·.toNat)).getD 0

/-- KLD (R326, R327): one read of a cell for each distinct address. -/
def execKld (f : FML) (s : State) : Host.Outcome State Fault Refusal :=
  issue f.z 0x65 { imm := 1, ord := true } true
    (fun cx => do
      keepStatic cx f.a.toNat f.d.toNat 74 29 f.l [0, 1]
      guardM (decide (sibOf cx.h < 4)) badOperand)
    (fun cx => do
      let d := f.d.toNat
      let uni := uniformForm d f.a.toNat
      skipMarks cx (countMarks f.l f.k) (thenNext (do
        let regs := gen (if 96 ≤ d then 3 else 5) (fun i => d + i)
        refillAll cx regs (specRegs f.a.toNat 1)
        let ls ← keepAddresses cx f.s.toNat f.a.toNat uni
        let ts ← checkAccess cx ls { size := 8, align := 8, need := { r := true }, uniform := uni }
        watchUnit cx true false (ls.map (fun l => (l.2, 8)))
        let spots := ts.map (fun t => (t.2.1, 8))
        settleBefore cx spots spots
        modify (fun s => s.useKeeps 8 (ts.map (·.2.1)))
        applyMarks cx (countMarks f.l f.k) (addrMarks f.l f.k f.a.toNat f.s.toNat)
        let s ← get
        let x := s.grp cx.g
        let vs ← loadNow cx 8 ts
        let one (t : Nat × Target × Used) : W64 × W64 × W64 := match t.2.1 with
          | .keep _ _ => s.kldCell (sibOf cx.h) t.2.1
          | _ => (le64 (((vs.find? (fun v => v.1 == t.1)).map (·.2)).getD []), 0#64, 17#64)
        let parts := kldParts d (ts.map (fun t => (t.1, one t)))
        let team := orderOf cx.h == 1 && decide (1 ≤ scopeOf cx.h)
        if team then modify (fun s => s.observe cx.g spots)
        let id ← issueOp cx .kld regs f.h.toNat 0#64 .done
          ((List.range regs.length).map (fun i => resultVals x.w (lane 0 regs i) (lane [] parts i))) (ts.map (·.2.2))
        modG cx.g (fun x => { x with ops := x.ops.map (fun o => if o.id == id then
          { o with again := .kld (sibOf cx.h) (ts.map (fun t => (t.1, t.2.1))), acq := orderOf cx.h == 1, sees := team } else o) })))) s

/-- Values of 64 bits, by thread, in the registers from `d` on. -/
def keepValues (cx : Cx) (d k : Nat) : M (List W64) := asOperand cx d (readOp64 cx cx.exe (d + k))

-- DEDUCED: log 38
/-- KST (R328, R329). -/
def execKst (f : FMA) (s : State) : Host.Outcome State Fault Refusal :=
  issue f.z 0x66 { ord := true } true
    (fun cx => do
      keepStatic cx f.a.toNat f.d.toNat 74 29 f.l [0, 2]
      guardM (!f.n || f.h.toNat == 0) badOperand)
    (fun cx => do
      let d := f.d.toNat
      let uni := uniformForm d f.a.toNat
      let k := if 96 ≤ d then 1 else 2
      skipMarks cx (countMarks f.l f.k + countMarks f.n false) (thenNext (do
        let regs := if f.n then [] else [d + 2 * k]
        refillAll cx regs (sortN (specRegs f.a.toNat 1 ++ specRegs d 4))
        let ls ← keepAddresses cx f.s.toNat f.a.toNat uni
        let vs ← keepValues cx d 0
        let ks ← keepValues cx d k
        let ts ← checkAccess cx ls { size := 8, align := 8, need := { w := true }, uniform := uni, store := f.n }
        watchUnit cx false true (ls.map (fun l => (l.2, 8)))
        if orderOf cx.h == 2 then waitRelease cx (scopeOf cx.h)
        settleBefore cx [] (ts.map (fun t => (t.2.1, 8)))
        applyMarks cx (countMarks f.l f.k + countMarks f.n false)
          (addrMarks f.l f.k f.a.toNat f.s.toNat ++ (if f.n then gen (2 * k) (fun i => d + i) else []))
        if f.n then appendStore cx (ts.map (fun t => (t.2.1, bytes8 (lane 0#64 vs t.1)))) (ts.map (fun t => lane 0#64 ks t.1)) (ts.map (·.2.2))
        else do
          let _ ← issueOp cx .kst regs f.h.toNat 0#64 (.kst (ts.map (fun t => (t.1, t.2.1, lane 0#64 vs t.1, lane 0#64 ks t.1)))) [] (ts.map (·.2.2))
          pure ()))) s

/-- KREC (R330, R331). -/
def execKrec (f : FMA) (s : State) : Host.Outcome State Fault Refusal :=
  issue f.z 0x67 { ord := true, mode := true, merge := true } true
    (fun cx => do
      keepStatic cx f.a.toNat f.d.toNat 76 30 f.l [0, 1, 2, 3]
      guardM (!f.n || f.h.toNat == 0) badOperand)
    (fun cx => do
      let d := f.d.toNat
      let uni := uniformForm d f.a.toNat
      let k := if 96 ≤ d then 1 else 2
      skipMarks cx (countMarks f.l f.k + countMarks f.n false) (thenNext (do
        let regs := if f.n then [] else gen (2 * k) (fun i => d + i)
        refillAll cx regs (sortN (specRegs f.a.toNat 1 ++ specRegs d 2))
        let ls ← keepAddresses cx f.s.toNat f.a.toNat uni
        let vs ← keepValues cx d 0
        let ts ← checkAccess cx ls { size := 8, align := 8, need := { r := true, w := true }, uniform := uni, krec := true }
        watchUnit cx false true (ls.map (fun l => (l.2, 8)))
        if 2 ≤ orderOf cx.h then waitRelease cx (scopeOf cx.h)
        settleBefore cx [] (ts.map (fun t => (t.2.1, 8)))
        applyMarks cx (countMarks f.l f.k + countMarks f.n false)
          (addrMarks f.l f.k f.a.toNat f.s.toNat ++ (if f.n then gen k (fun i => d + i) else []))
        let op := (cx.h.mode.map (·.m)).getD 0#3
        let id ← issueOp cx .krec regs f.h.toNat 0#64 (.krec op (ts.map (fun t => (t.1, t.2.1, lane 0#64 vs t.1)))) [] (ts.map (·.2.2))
        let acq := orderOf cx.h == 1 || orderOf cx.h == 3
        modG cx.g (fun x => { x with ops := x.ops.map (fun o => if o.id == id then { o with acq := acq } else o) })))) s

/-! ## At the homes -/

/-- The group that has operation `op` in flight. -/
def State.ownerOf (s : State) (op : Nat) : Option (Nat × LOp) :=
  s.groups.findSome? (fun (e : Nat × Group) => (e.2.ops.find? (fun o => o.id == op)).map (fun o => (e.1, o)))

-- DEDUCED: log 9
/-- An operation without a result register is over once it has been performed. -/
def endIfSilent (id : Nat) (x : Group) : Group :=
  settle { x with ops := x.ops.map (fun o => if o.id == id && o.dests.isEmpty && o.disc.isEmpty then { o with ready := true } else o) }

/-- A group's operation of a kind performed at its home, after the group's own earlier accesses to the same bytes. -/
def performOp (kind : OpKind) (op : Nat) (s : State) : Host.Outcome State Fault Refusal :=
  match s.ownerOf op with
  | none => event s
  | some (g, o) => if o.kind == kind && inPlace (s.grp g) && reachable s o then event ((s.performInOrder g op).modGrp g (endIfSilent op)) else event s

-- DEDUCED: log 9
/-- ATOMIC_PERFORM (R203). -/
def execAtomicPerform (op : Nat) (s : State) : Host.Outcome State Fault Refusal := performOp .atomic op s
-- DEDUCED: log 9
/-- KEEP_WRITE_APPLY (R321): a KST's write, by its operation, or a buffered keep write, by its entry. -/
def execKeepWriteApply (op : Nat) (s : State) : Host.Outcome State Fault Refusal :=
  match s.groups.find? (fun (e : Nat × Group) => e.2.sb.any (fun b => b.id == op && b.writes.any (fun w => match w.1 with | .keep _ _ => true | _ => false))) with
  | some (g, x) => if inPlace x && x.sb.all (fun b => b.id != op || canLand s b) then event (s.landInOrder g op) else event s
  | none => performOp .kst op s
-- DEDUCED: log 9
/-- KEEP_RECONCILE_APPLY (R331). -/
def execKeepReconcileApply (op : Nat) (s : State) : Host.Outcome State Fault Refusal := performOp .krec op s

end Sys2Proof.Machine
end

