-- ==== Sys2Proof/Machine/Names.lean ====
section
/-! DEFINITION. The name service agent: entries, resolution, delivery, joins (R298–R307, R312, R316), context records (R355), and
the name instructions (R308–R313). -/

namespace Sys2Proof.Machine

/-! ## Name entries (R299, R300) -/

/-- A name entry. -/
structure NameEnt where
  st : Nat := 0
  killed : Bool := false
  aux : Nat := 0
  rights : Nat := 0
  gen : Nat := 0
  loc : W64 := 0#64
  deriving DecidableEq, Repr

def nameDom (n : W64) : W16 := n.extractLsb' 48 16
def NameEnt.code (e : NameEnt) : Nat :=
  e.st + (if e.killed then 2 ^ 7 else 0) + e.aux * 2 ^ 32 + e.rights * 2 ^ 44 + e.gen * 2 ^ 48 + e.loc.toNat * 2 ^ 64
-- DESIGN CHOICE: log 32
def NameEnt.ofCode (c : Nat) : NameEnt where
  st := bits c 3 0
  killed := bits c 7 7 == 1
  aux := bits c 43 32
  rights := bits c 47 44
  gen := bits c 63 48
  loc := n64 (c / 2 ^ 64)

/-- An 8-byte pointer of a table of `size` bytes in a device's memory; 0 where the table lies outside it. -/
def State.tablePtr (s : State) (ld tab size idx : Nat) : Nat :=
  if tab == 0 || !s.frameOk ld tab size then 0 else leNat (rdN s.dmem (tab + 8 * idx) 8)

-- DEDUCED: log 33
/-- Where a name's entry lies; `none` where a pointer on the path is 0 or leads outside the domain's device memory. -/
def State.nameSlot (s : State) (n : W64) : Option Nat :=
  match s.domain (nameDom n) with
  | none => none
  | some e =>
    let ld := domLd (nameDom n)
    let l1 := s.tablePtr ld (num e 8 8) 524288 (wbits n 47 32)
    let l2 := s.tablePtr ld l1 524288 (wbits n 31 16)
    let a := l2 + 16 * wbits n 15 0
    if l2 == 0 || !s.frameOk ld l2 1048576 then none else some a

-- DESIGN CHOICE: log 32
/-- Whether another party has stored to an entry (R299). -/
def State.nameTampered (s : State) (a : Nat) : Bool :=
  (look s.nameMirror a).getD 0 == storedTo || leNat (rdN s.dmem a 16) != (look s.nameMirror a).getD 0

-- DESIGN CHOICE: log 32; DEDUCED: log 33
/-- A name's entry as the agent sees it: FREE where there is none, or where another party has stored to it. -/
def State.nameEnt (s : State) (n : W64) : NameEnt :=
  match s.nameSlot n with
  | none => {}
  | some a => if s.nameTampered a then {} else NameEnt.ofCode ((look s.nameMirror a).getD 0)

-- DESIGN CHOICE: log 32; DEDUCED: log 33
/-- The agent's write of an entry; a name below a pointer of 0 has none. -/
def State.setName (s : State) (n : W64) (e : NameEnt) : State :=
  match s.nameSlot n with
  | none => s
  | some a => { s with dmem := wrN s.dmem a (toLe 16 e.code), nameMirror := ins s.nameMirror a e.code }

/-- The generation after `g`. -/
def nextGen (g : Nat) : Nat := if 65535 ≤ g then 1 else g + 1

/-- A FREE or DEAD name taken by a new holder (R301): its generation goes up by one and every right is set. The generation of an
entry that another party stored to is unspecified. -/
def State.takeName (s : State) (n : W64) (st : Nat) (killed : Bool) (aux : Nat) (loc : W64) : State :=
  let bad := ((s.nameSlot n).map s.nameTampered).getD false
  let g := if bad then (Config.freeWord s.fresh).toNat % 65535 + 1 else nextGen (s.nameEnt n).gen
  { s with fresh := if bad then s.fresh + 1 else s.fresh }.setName n { st := st, killed := killed, aux := aux, rights := 15, gen := g, loc := loc }

/-! ## Resolution (R302) -/

/-- Whether domain `d` grants a caller a right. -/
def State.granted (s : State) (d caller : W16) (right : Nat) : Bool :=
  match s.domain d with
  | none => false
  | some e =>
    let tab := num e 16 8
    s.frameOk (domLd d) tab 512 && (List.range 64).any (fun i =>
      let w := leNat (rdN s.dmem (tab + 8 * i) 8)
      bits w 63 21 == 0 && bits w 20 20 == 1 && bits w 15 0 == caller.toNat && bits w (16 + right) (16 + right) == 1)

/-- The entry an operation reaches, or its status: 3 DENIED, 4 UNKNOWN. -/
def State.resolve (s : State) (caller : W16) (n : W64) (gen right : Nat) : Except Nat NameEnt :=
  if nameDom n != caller && !s.granted (nameDom n) caller right then .error 3
  else
    let e := s.nameEnt n
    if e.st == 0 || (gen != 0 && gen != e.gen) then .error 4
    else if bits e.rights right right == 0 then .error 3
    else .ok e

/-! ## Context records (R355) -/

/-- The bytes of a group's record. -/
def recordSize (x : Group) : Nat :=
  let lim := if x.w == 16 && x.trees.isEmpty then 1020 else 4092
  256 + 64 * (Config.recordUnits x.w x.trees.length % (lim + 1))

def waitKind (w : Wait) : Nat :=
  match w with
  | .none => 0
  | .nwait _ _ _ => 1
  | .njoin _ _ _ _ => 2
  | .vclaim _ _ _ _ _ => 3
  | .cwait _ _ _ _ => 4
  | .mwait _ _ _ _ => 5
  | .bar _ _ => 6
  | .fbar _ _ => 7
  | .band _ _ _ _ => 8
  | .sleep _ => 9
  | .xlat _ k => if k == 1 then 11 else 10
  | .peer _ => 10

/-- The part of a record the spec lays out. -/
def recordHead (s : State) (x : Group) : List W8 :=
  let depmap := (List.range 16).foldl (fun m n => if (look x.sval (144 + n)).isSome then m + 2 ^ n else m) 0
  let flags := waitKind x.wait + (if x.sat then 16 else 0) + (if x.latch then 32 else 0) + (if x.halted then 64 else 0)
  bytes8 x.name ++ List.replicate 24 0#8 ++ bytes8 (s.task x.task).tcbva
    ++ bytes8 (if (s.team x.team).resident then 0#64 else (s.team x.team).recAddr)
    ++ toLe 4 depmap ++ toLe 4 flags ++ bytes8 (x.sigword.setWidth 64) ++ toLe 8 (recordSize x) ++ List.replicate 56 0#8
    ++ (List.range 16).flatMap (fun n => bytes8 ((look x.sval (144 + n)).getD 0#64))

/-- A group's record written; what follows the header has no stated layout. -/
def writeRecord (g : Nat) : M Unit := do
  let s ← get
  let x := s.grp g
  let bs := recordHead s x ++ gen (recordSize x - 256) (fun i => ((Config.freeWord (s.fresh + i)).setWidth 8 : W8))
  set { s with fresh := s.fresh + recordSize x }
  kwrite (domBase x.ld) x.ctxrec bs
  modG g (fun x => { x with ctximg := bs })

-- DESIGN CHOICE: log 35
/-- What changes about a saved group is written into its record (R304, R355). -/
def State.refreshRecord (s : State) (g : Nat) : State :=
  if (s.grp g).place != .saved && (s.grp g).place != .moving then s
  else match runAgent s (writeRecord g) with
    | .done s' => s'
    | _ => s

/-! ## Delivery (R304, R305) -/

def State.holder (s : State) (n : W64) : Option Nat :=
  ((s.groups.filter (fun (e : Nat × Group) => e.2.name == n && e.2.place != .ended)).getLast?).map (·.1)

/-- The result of an NWAIT that completes (R313): the signal word and the latch are cleared. -/
def endNwait (x : Group) (woke timed : Bool) : Group :=
  match x.wait with
  | .nwait d _ _ =>
    { endWait x d (n64 (x.sigword.toNat + (if woke then 2 ^ 32 else 0) + (if timed then 2 ^ 33 else 0))) with sigword := 0#32, latch := false }
  | _ => x
def inNwait (x : Group) : Bool := match x.wait with | .nwait _ _ _ => true | _ => false

-- DESIGN CHOICE: log 34
/-- A wake (1), a signal (2) or a deposit (3) reaches a group. -/
def State.reach (s : State) (g kind reg : Nat) (v : W64) : State :=
  match kind with
  | 1 =>
    if inNwait (s.grp g) && resident (s.grp g) then (s.settleAll g).modGrp g (fun x => endNwait x true false)
    else s.modGrp g (fun x => { x with latch := true, sat := x.sat || (inNwait x && !resident x), woken := !resident x })
  | 2 =>
    let s := s.modGrp g (fun x => { x with sigword := x.sigword ||| v.setWidth 32, woken := x.woken || (!resident x && v.setWidth 32 != 0#32) })
    if inNwait (s.grp g) && (s.grp g).sigword != 0#32 then
      (if resident (s.grp g) then (s.settleAll g).modGrp g (fun x => endNwait x false false) else s.modGrp g (fun x => { x with sat := true }))
    else s
  | _ => s.modGrp g (fun x => { x with ops := x.ops.map (dropDest (144 + reg) (BitVec.allOnes 64)), sval := ins x.sval (144 + reg) v })

/-- A delivery to a HOST name's notification block (R316). -/
def notify (n : W64) (e : NameEnt) (kind reg : Nat) (v : W64) : M Unit := do
  let dom := nameDom n
  let old ← agentRead dom kernelRW 2 e.loc 256
  let s ← get
  let b := if s.hostFresh.contains n then List.replicate 256 0#8 else old
  let wakes := num b 8 8 + (if kind == 1 then 1 else 0)
  let sig := if kind == 2 then word b 16 ||| (v &&& 0xFFFFFFFF#64) else word b 16
  let mask := if kind == 3 then word b 24 ||| n64 (2 ^ reg) else word b 24
  let deps := gen 16 (fun i => if kind == 3 && i == reg then v else word b (32 + 8 * i))
  kwrite dom e.loc (toLe 8 (num b 0 8 + 1) ++ toLe 8 wakes ++ bytes8 sig ++ bytes8 mask ++ deps.flatMap bytes8 ++ List.replicate 96 0#8)
  modify (fun s => { s with hostFresh := s.hostFresh.filter (· != n) }.msix (domLd dom) e.aux)

/-- One operation applied at the agent (R304): its status. `pair` is the launch-site pair a record of a refused delivery carries. -/
def applyName (caller : W16) (n : W64) (gen kind reg : Nat) (v : W64) (pair : W64 × W64 := (0#64, 0#64)) : M Nat := do
  let s ← get
  match s.resolve caller n gen (kind - 1) with
  | .error st => return st
  | .ok e =>
    match e.st with
    | 1 => do
      match s.holder n with
      | some g => set (s.reach g kind reg v)
      | none => pure ()
      return 0
    | 2 => do
      match s.holder n with
      | some g => set ((s.reach g kind reg v).refreshRecord g)
      | none => pure ()
      return 0
    | 3 => do
      set { s with parked := s.parked ++ [(n, kind, reg, v)] }
      return 1
    | 4 =>
      if 64 ≤ e.aux then return 5
      else do
        match ← attempt (kwrite (nameDom n) (e.loc + n64 (16 * e.aux))
            (bytes8 (if kind == 1 then 0#64 else if kind == 2 then v &&& 0xFFFFFFFF#64 else v) ++ [BitVec.ofNat 8 kind, BitVec.ofNat 8 (if kind == 3 then reg else 0)] ++ List.replicate 6 0#8)) with
        | .ok _ => do
          modify (fun s => s.setName n { e with aux := e.aux + 1 })
          return 1
        | .error _ => return 8
    | 5 => do
      match ← attempt (notify n e kind reg v) with
      | .ok _ => return 0
      | .error (c, k, l, a) => do
        modify (fun s => s.agentRecord (domLd (nameDom n)) n c k l a pair.1 pair.2)
        return 8
    | _ => return 2

/-! ## Joins (R312, R315) -/

-- DESIGN CHOICE: log 34
/-- The writes of a completion record; a missing page is waited for, a fault drops the record and is counted in the port's count. -/
def State.putRecord (s : State) (ld : Nat) (dom : W16) (writes : List (W64 × List W8)) (err : Nat) : State :=
  if s.pend.any (fun p => match p with | .write l _ _ e => l == ld && e == err | _ => false) then
    { s with pend := s.pend ++ [.write ld dom writes err] }
  else match runAgent s (writes.forM (fun w => kwrite dom w.1 w.2)) with
  | .done s' => s'
  | .wait s' => { s' with pend := s'.pend ++ [.write ld dom writes err] }
  | .failed _ k _ _ => (s.undeny k).modLd ld (fun l =>
      match err with
      | 0 => { l with invErr := l.invErr + 1 }
      | 1 => { l with mgmtErr := l.mgmtErr + 1 }
      | 2 => { l with portErr := l.portErr + 1 }
      | _ => l)

/-- The completion record of a port request (R315): bytes 15:8 first. -/
def State.portRecord (s : State) (ld : Nat) (dom : W16) (caddr : W64) (ticket : W32) (status : Nat) (v : W64) : State :=
  if caddr = 0#64 then s
  else
    s.putRecord ld dom [(caddr + 8#64, bytes8 v), (caddr, bytes4 ticket ++ [BitVec.ofNat 8 status] ++ List.replicate 3 0#8)] 2

/-- The results of an NJOIN. -/
def endNjoin (x : Group) (status : Nat) (v : W64) : Group :=
  match x.wait with
  | .njoin d _ _ _ => { endWait x d (n64 status) with sval := ins (ins x.sval (96 + d) (n64 status)) (97 + d) v }
  | _ => x

/-- One waiting join ends. -/
def State.endJoin (s : State) (j : Join) (status : Nat) (v : W64) : State :=
  let s := { s with joins := s.joins.filter (· != j) }
  match j.gid with
  | some g => ((s.settleAll g).modGrp g (fun x => endNjoin x status v)).refreshRecord g
  | none => s.portRecord j.ld j.dom j.caddr j.ticket status v

/-- A name turns DEAD (R301) and its joins complete. -/
def State.nameDead (s : State) (n : W64) (killed : Bool) (v : W64) : State :=
  let e := s.nameEnt n
  let s := if e.st == 0 then s else s.setName n { e with st := 6, killed := killed, aux := 0, loc := v }
  (s.joins.filter (fun j => j.target == n)).foldl (fun s j => s.endJoin j (if killed then 2 else 0) v) s

/-- Waiting joins of a logical device. -/
def joinsOf (s : State) (ld : Nat) : Nat := (s.joins.filter (fun j => j.ld == ld)).length

/-! ## NWAKE, NSIG, NDEP (R308–R311) -/

/-- The generation and the deposit register an HIMM gives. -/
def nameGen (h : Hints) : Nat := (h.imm.head?.map (fun i => i.toNat % 65536)).getD 0
def nameReg (h : Hints) : Nat := (h.imm.head?.map (fun i => i.toNat / 65536)).getD 0

/-- A sending member: `msg` gives the register and the value from the target's operand words. -/
def nameSend (z : Bool) (op kind t p : Nat) (l : Bool) (q : Option (Nat × Bool)) (h : Nat) (msg : Hints → W64 → Nat × W64) (s : State) :
    Host.Outcome State Fault Refusal :=
  issue z op { imm := 1 } true (fun cx => guardM (kind == 3 || nameReg cx.h == 0) badOperand) (fun cx => skipMarks cx (countMarks l (q.any (·.2))) (thenNext (do
    let n ← readS cx p
    let v ← match q with
      | some (r, _) => readS cx r
      | none => pure 0#64
    waitRelease cx 5
    match q with
    | some (r, k) => applyMarks cx (countMarks l k) (scalarMark l p ++ scalarMark k r)
    | none => applyMarks cx (countMarks l false) (scalarMark l p)
    let m := msg cx.h v
    let _ ← issueOp cx .name [96 + t] h 0#64 (.name kind n (BitVec.ofNat 16 (nameGen cx.h)) m.1 m.2) [] []
    pure ()))) s

/-- NWAKE (R310). -/
def execNwake (f : FEP) (s : State) : Host.Outcome State Fault Refusal :=
  nameSend f.z 0x78 1 f.t.toNat f.p.toNat f.l none f.h.toNat (fun _ _ => (0, 0#64)) s
/-- NSIG (R310). -/
def execNsig (f : FE) (s : State) : Host.Outcome State Fault Refusal :=
  nameSend f.z 0x79 2 f.t.toNat f.p.toNat f.l (some (f.q.toNat, f.k)) f.h.toNat (fun _ v => (0, v &&& 0xFFFFFFFF#64)) s
/-- NDEP (R310): the register from the HIMM, or packed with the value. -/
def execNdep (f : FE) (s : State) : Host.Outcome State Fault Refusal :=
  nameSend f.z 0x7A 3 f.t.toNat f.p.toNat f.l (some (f.q.toNat, f.k)) f.h.toNat
    (fun h v => if h.imm.isEmpty then (wbits v 63 60, sextN (wbits v 59 0) 60) else (nameReg h, v)) s

/-- Name operations of a group apply in its order to each target (R303). -/
def earlierName (x : Group) (o : LOp) (t : W64) : Bool :=
  x.ops.any (fun p => decide (p.id < o.id) && (match p.work with | .name _ u _ _ _ => u == t | _ => false))

/-- The result of an operation put beside its destinations; it has still to arrive. -/
def setResult (id : Nat) (v : W64) (x : Group) : Group :=
  { x with ops := x.ops.map (fun p => if p.id == id then { p with work := .done, dests := p.dests.map (fun d => { d with vals := [v] }) } else p) }

/-- A group's name operation applied at the agent. -/
def performName (g : Nat) (o : LOp) : M Unit := do
  match o.work with
  | .name kind t gen reg v => do
    let st ← applyName (← getG g).dom t gen.toNat kind reg v
    modG g (setResult o.id (n64 st))
  | _ => pure ()

/-- NAME_OPERATION_APPLY (R304): the oldest name operation of its sender to its target; the sender's result holds the status. -/
def execNameOperationApply (op : Nat) (s : State) : Host.Outcome State Fault Refusal :=
  match s.groups.findSome? (fun (e : Nat × Group) => (e.2.ops.find? (fun o => o.id == op)).map (fun o => (e.1, o))) with
  | none => event s
  | some (g, o) =>
    match o.work with
    | .name _ t _ _ _ => if earlierName (s.grp g) o t || !inPlace (s.grp g) then event s else event (s.agent (performName g o) (fun _ _ _ _ => s))
    | _ => event s

/-! ## NJOIN and NWAIT (R312, R313) -/

/-- NJOIN (R312). -/
def execNjoin (f : FNjoin) (s : State) : Host.Outcome State Fault Refusal :=
  issue f.z 0x7B { imm := 1 } true (fun cx => guardM (nameReg cx.h == 0) badOperand) (fun cx => do
    if cx.exe = 0#64 then do
      ignoreMarks cx (countMarks f.l f.k)
      return { ends := true }
    let d := 2 * f.t.toNat
    let n ← readS cx f.p.toNat
    let lim ← readS cx f.q.toNat
    applyMarks cx (countMarks f.l f.k) (scalarMark f.l f.p.toNat ++ scalarMark f.k f.q.toNat)
    let s ← get
    let x := s.grp cx.g
    let give (st : Nat) (v : W64) : M Ctl := do
      writeS cx d (n64 st)
      writeS cx (d + 1) v
      return { ends := true }
    match s.resolve x.dom n (nameGen cx.h) 3 with
    | .error st => give st 0#64
    | .ok e =>
      if n = x.name then give 6 0#64
      else if e.st == 6 then do
        modify (fun s => s.settleAll cx.g)
        give (if e.killed then 2 else 0) e.loc
      else if 4096 ≤ joinsOf s x.ld then give 5 0#64
      else do
        blockDest cx d
        blockDest cx (d + 1)
        modify (fun s => { s with joins := s.joins ++ [{ ld := x.ld, target := n, gid := some cx.g, dom := x.dom, port := 0, ticket := 0#32, caddr := 0#64, limit := 0 }] })
        modG cx.g (fun x => { x with wait := .njoin d n (if lim = 0#64 then none else some lim.toNat) cx.act })
        return { ends := true }) s

/-- NWAIT (R313). -/
def execNwait (f : FE1) (s : State) : Host.Outcome State Fault Refusal :=
  issue f.z 0x7C {} true (fun _ => pure ()) (fun cx => do
    if cx.exe = 0#64 then do
      ignoreMarks cx (countMarks f.l false)
      return { ends := true }
    let d := f.t.toNat
    let lim ← readS cx f.p.toNat
    applyMarks cx (countMarks f.l false) (scalarMark f.l f.p.toNat)
    let x ← getG cx.g
    if x.latch || x.sigword != 0#32 then do
      modify (fun s => s.settleAll cx.g)
      writeS cx d (n64 (x.sigword.toNat + (if x.latch then 2 ^ 32 else 0)))
      modG cx.g (fun x => { x with sigword := 0#32, latch := false })
    else do
      blockDest cx d
      modG cx.g (fun x => { x with wait := .nwait d (if lim = 0#64 then none else some lim.toNat) cx.act })
    return { ends := true }) s

-- DESIGN CHOICE: log 97
/-- NWAIT_TIMEOUT (R313): the limit of a resident group has passed. -/
def execNwaitTimeout (gid : Nat) (s : State) : Host.Outcome State Fault Refusal :=
  match (s.grp gid).wait with
  | .nwait _ (some n) _ =>
    if resident (s.grp gid) then event (((s.settleAll gid).elapse (dieOf (s.grp gid)) n).modGrp gid (fun x => endNwait x false true)) else event s
  | _ => event s

-- DESIGN CHOICE: log 97
/-- NJOIN_TIMEOUT (R312). -/
def execNjoinTimeout (gid : Nat) (s : State) : Host.Outcome State Fault Refusal :=
  match (s.grp gid).wait with
  | .njoin _ t (some n) _ =>
    if resident (s.grp gid) then
      match s.joins.find? (fun j => j.gid == some gid && j.target == t) with
      | some j => event ((s.elapse (dieOf (s.grp gid)) n).endJoin j 6 0#64)
      | none => event s
    else event s
  | _ => event s

/-- GROUP_NAME_DEAD (R301, R360): every store of an exited group is acknowledged at system scope. -/
def execGroupNameDead (gid : Nat) (s : State) : Host.Outcome State Fault Refusal :=
  let x := s.grp gid
  if x.place == .exited && x.sb.all (fun e => e.acked.getLsbD 5) then
    event ((s.modGrp gid (fun x => { x with place := .ended, sb := [] })).nameDead x.name false x.exitval)
  else event s

end Sys2Proof.Machine
end

