-- ==== Sys2Proof/Machine/Launch.lean ====
section
/-! DEFINITION. TLAUNCH, TSUCC and CPYQ, the arrival of long-latency results and of store acknowledgements (R91–R95, R241, R103,
R110, R186). -/

namespace Sys2Proof.Machine

/-! ## Checks at issue -/

/-- A range an instruction names for the milliner complex: translated at issue, a fault precise (R92). -/
def precheckOne (g : Nat) (va : W64) (n : Need) : M Tr := do
  if !canonical va || decide (0xFFFFFF0000000000 ≤ va.toNat) then return .fault 5 0 0 else groupTrans g va n
def precheckAll (g : Nat) : List (W64 × Need) → M (List (W64 × Tr))
  | [] => pure []
  | (va, n) :: r => do
    let t ← precheckOne g va n
    return (va, t) :: (← precheckAll g r)
def precheck (cx : Cx) (rs : List (W64 × Need)) : M (List Used) := do
  let ts ← precheckAll cx.g rs
  match ts.findSome? (fun t => match t.2 with | .fault c k l => some (t.1, c, k, l) | _ => none) with
  | some (va, c, k, l) => stop (.trap c 1#64 0 k l va)
  | none => pure ()
  let x ← getG cx.g
  let misses := ts.filterMap (fun t => match t.2 with | .miss m => some (t.1, m) | _ => none)
  match misses.findSome? (fun m => (x.xfault.find? (fun e => e.1 == m.2)).map (fun e => (m.1, e.2))) with
  | some (va, code) => stop (.trap 4 1#64 0 code 0 va)
  | none => pure ()
  if misses.isEmpty then return ts.filterMap (fun t => match t.2 with | .ok _ u => some u | _ => none)
  else stop (.suspend ((misses.map (·.2)).dedup))

def rwNeed : Need := { r := true, w := true }
/-- The alignments of two addresses; the first that is misaligned is TRAPINFO. -/
def alignBoth (p : W64) (np : Nat) (q : W64) (nq : Nat) : M Unit :=
  if !aligned p np then trap 6 p else if !aligned q nq then trap 6 q else pure ()

/-- TLAUNCH (R91, R92). -/
def execTlaunch (f : FE) (s : State) : Host.Outcome State Fault Refusal :=
  issue f.z 0x08 {} true (fun _ => pure ()) (fun cx => skipMarks cx (countMarks f.l f.k) (thenNext (do
    let tcb ← readS cx f.p.toNat
    let qd ← readS cx f.q.toNat
    alignBoth tcb 256 qd 64
    let us ← precheck cx [(tcb, { r := true }), (qd, rwNeed)]
    applyMarks cx (countMarks f.l f.k) (scalarMark f.l f.p.toNat ++ scalarMark f.k f.q.toNat)
    let _ ← issueOp cx .tlaunch [96 + f.t.toNat] f.h.toNat 0#64
      (.append false qd (List.replicate 7 0#8 ++ bytes8 tcb ++ List.replicate 48 0#8) cx.pc 0#64) [] us
    pure ()))) s

/-- TSUCC (R94). -/
def execTsucc (f : FE) (s : State) : Host.Outcome State Fault Refusal :=
  issue f.z 0x09 {} true (fun _ => pure ()) (fun cx => skipMarks cx (countMarks f.l f.k) (thenNext (do
    let p ← readS cx f.p.toNat
    let q ← readS cx f.q.toNat
    alignBoth p 256 q 256
    let us ← precheck cx [(p, rwNeed), (q, rwNeed)]
    applyMarks cx (countMarks f.l f.k) (scalarMark f.l f.p.toNat ++ scalarMark f.k f.q.toNat)
    let _ ← issueOp cx .tsucc [96 + f.t.toNat] f.h.toNat 0#64 (.succ p q) [] us
    pure ()))) s

-- DEDUCED: log 37
/-- CPYQ (R241): the packet is read as CPY reads one. -/
def execCpyq (f : FE) (s : State) : Host.Outcome State Fault Refusal :=
  issue f.z 0x69 {} true (fun cx => needRole cx 0) (fun cx => skipMarks cx (countMarks f.l f.k) (thenNext (do
    let x ← getG cx.g
    let p ← readS cx f.p.toNat
    let qd ← readS cx f.q.toNat
    alignBoth p 64 qd 64
    let ts ← checkAccess cx [(lowLane x.w cx.exe, p)] { size := 64, align := 1, need := { r := true }, uniform := true }
    let us ← precheck cx [(qd, rwNeed)]
    watchUnit cx true false [(p, 64)]
    let spots := ts.map (fun t => (t.2.1, 64))
    settleBefore cx spots spots
    let pk := ((← ownReads cx.g 64 (ts.map (·.2.1))).map (·.2)).headD []
    applyMarks cx (countMarks f.l f.k) (scalarMark f.l f.p.toNat ++ scalarMark f.k f.q.toNat)
    let seq ← takeSeq cx.g
    let _ ← issueOp cx .cpyq [96 + f.t.toNat] f.h.toNat seq (.append true qd (pk.drop 1) cx.pc seq) [] us
    pure ()))) s

/-! ## The queue append and the dependence (R92, R94, R241) -/

/-- What an address names, so that two names of one place compare equal: its device address, or domain and address. -/
def State.addrKey (s : State) (dom : W16) (va : W64) : Nat × Nat × Nat :=
  match s.walk dom va.toNat with
  | .ok (pte, lv) =>
    let ty := bits pte.toNat 4 2
    if ty == 0 || ty == 3 then (0, 0, bits pte.toNat 56 15 * 2 ^ 15 + va.toNat % 2 ^ leafBits lv) else (1, dom.toNat, va.toNat)
  | .error _ => (1, dom.toNat, va.toNat)

/-- The handle of a registered queue by its descriptor. -/
def State.queueAt (s : State) (dom : W16) (desc : W64) : Option Nat :=
  (s.queues.find? (fun (e : Nat × Queue) => s.addrKey e.2.dom e.2.desc == s.addrKey dom desc)).map (·.1)

-- DEDUCED: log 37
/-- One slot claimed, filled and made valid: the status word of R92. The launch-site pair is kept beside the slot (R241, R348). -/
def appendSlot (dom : W16) (need : Need) (kind : Nat) (qd : W64) (bytes : List W8) (sitePc seq : W64) (copy : Bool) (g : Nat) : M Nat := do
  let d ← agentRead dom need 2 qd 64
  let ctrl := num d 8 4
  let log2 := bits ctrl 4 0
  if bits ctrl 7 5 != kind || log2 == 0 || 20 < log2 then return 4
  else
    let w := num d 16 8
    let rdp := num d 24 8
    if 2 ^ log2 ≤ (w + 2 ^ 64 - rdp) % 2 ^ 64 then return 5
    else do
      let slot := word d 0 + n64 (w % 2 ^ log2 * 64)
      let ws ← agentTargets dom { need with r := false } 3 slot (1#8 :: bytes)
      let cs ← agentTargets dom { need with r := false } 2 (qd + 16#64) (toLe 8 (w + 1))
      modify (fun s =>
        let s := (s.writeAll cs).writeAll ws
        match s.queueAt dom qd with
        | some k => { s with queues := adjust s.queues k (fun q => { q with sites := ins q.sites w (sitePc, if copy then seq else n64 w, g) }) }
        | none => s)
      return w * 256

/-- The blocks of a successor chain (R80): each once, from `va` on; `none` where one does not translate. -/
def succChain (dom : W16) (need : Need) : Nat → List W64 → W64 → M (Option (List W64))
  | 0, seen, _ => return some seen
  | fuel + 1, seen, va =>
    if va = 0#64 || seen.contains va then return some seen
    else do
      match ← attempt (agentRead dom need 3 va 64) with
      | .error _ => return none
      | .ok b => succChain dom need fuel (seen ++ [va]) (word b 56)
/-- A bound on the blocks of a chain: each has a nonzero byte of its own that leads on. -/
def chainFuel (s : State) : Nat := s.dmem.length + s.hmem.length + 2

/-- TSUCC's effect (R94): its status. -/
def succStep (dom : W16) (need : Need) (p q : W64) : M Nat := do
  if p = q then return 3
  let pb ← agentRead dom need 2 p 256
  let qb ← agentRead dom need 2 q 256
  if 2 ≤ num pb 204 1 then return 1
  else if 2 ≤ num qb 204 1 then return 2
  else do
    let s ← get
    match ← succChain dom need (chainFuel s) [] (word pb 192) with
    | none => return 6
    | some blocks => do
      let inl := (List.range 8).map (fun i => p + n64 (128 + 8 * i))
      let spots := inl ++ blocks.flatMap (fun b => (List.range 7).map (fun i => b + n64 (8 * i)))
      let vals ← spots.mapM (fun a => do
        let b ← agentRead dom need 2 a 8
        return (a, le64 b))
      match vals.find? (fun e => e.2 == 0#64) with
      | none => return 5
      | some (a, _) =>
        if num qb 200 4 == 2 ^ 32 - 1 then return 5
        else do
          let ws ← agentTargets dom need 2 a (bytes8 q)
          let cs ← agentTargets dom need 2 (q + 200#64) (toLe 4 (num qb 200 4 + 1))
          modify (fun s => (s.writeAll ws).writeAll cs)
          return 0

/-! ## LONG_LATENCY_RESULT (R110) -/

/-- The caches an ICINV reaches (R103). -/
def icinvCaches (s : State) (x : Group) (scope : Nat) : List Nat :=
  if scope ≤ 1 then [x.core]
  else if scope == 2 then ((s.felt (s.team x.team).felt).teams).map (fun t => (s.team t).core)
  else if scope == 3 then (List.range 24).map (fun i => x.core / 24 * 24 + i)
  else List.range 192 ++ s.groups.filterMap (fun (e : Nat × Group) => match e.2.mill with | some m => if e.2.ld == x.ld then some (192 + m) else none | none => none)

/-- Earlier operations and stores an operation with a release waits for, at device scope (R92). -/
def releasedBefore (x : Group) (id : Nat) : Bool :=
  released { x with ops := x.ops.filter (fun o => decide (o.id < id)), sb := x.sb.filter (fun e => decide (e.id < id)) } 4
def loadsBefore (x : Group) (id : Nat) : Bool :=
  released { x with ops := x.ops.filter (fun o => decide (o.id < id)), sb := [] } 0

/-- A group's accesses by an agent on its behalf. -/
def ownNeed (x : Group) : Need := { r := true, w := true, user := x.mill.isNone }

-- DESIGN CHOICE: log 109
/-- The status a scalar operation of the milliner complex returns; BADQ, or BADLINK, where what it names has ceased to translate. -/
def millinerOp (g : Nat) (x : Group) (w : Work) : M Nat :=
  match w with
  | .append copy qd bytes pc seq => do
    match ← attempt (appendSlot x.dom (ownNeed x) (if copy then 1 else 0) qd bytes pc seq copy g) with
    | .ok v => return v
    | .error _ => return 4
  | .succ p q => do
    match ← attempt (succStep x.dom (ownNeed x) p q) with
    | .ok v => return v
    | .error _ => return 6
  | _ => return 0

def isPlainLoad (w : Work) : Bool := match w with | .load _ _ _ _ => true | .kld _ _ => true | _ => false

/-- A group's operations as those before which an operation waits: of a group away from its core those carried out count as
returned. -/
def valued (x : Group) : Group := { x with ops := x.ops.map (fun o => { o with ready := o.ready || o.work == .done }) }

/-- One operation of a group carried out, whatever its kind, once what the kind waits for holds in `x` (R92, R103, R203, R304); its
result has still to arrive. -/
def performIn (x : Group) (g : Nat) (o : LOp) : M Unit := do
  match o.work with
  | .name _ _ _ _ _ => performName g o
  | .append _ _ _ _ _ =>
    if releasedBefore x o.id then do
      let v ← millinerOp g x o.work
      modG g (setResult o.id (n64 v))
    else pure ()
  | .succ _ _ =>
    if releasedBefore x o.id then do
      let v ← millinerOp g x o.work
      modG g (setResult o.id (n64 v))
    else pure ()
  | .icinv a n sc =>
    let s ← get
    if loadsBefore x o.id then set ((s.dropLines (icinvCaches s x sc) x.ld x.dom a n).modGrp g (setResult o.id 0#64)) else pure ()
  | _ => modify (fun s => s.performInOrder g o.id)
def performAny (g : Nat) (o : LOp) : M Unit := do performIn (← getG g) g o

-- DEDUCED: log 10
/-- The acknowledgements that an entry at its home has within the device (R186). -/
def ackHome (e : SbEntry) : SbEntry := if e.landed then { e with acked := e.acked ||| 31#6 } else e
-- DEDUCED: log 59
/-- A replay entry carried out from the context (R217, R354), after whatever of the group it waits for. -/
def carryOp (g id : Nat) : M Unit := do
  match (← getG g).ops.find? (fun o => o.id == id && o.work != .done && o.work != .command) with
  | none => pure ()
  | some o => do
    let x ← getG g
    match o.work with
    | .append _ _ _ _ _ => do
      modify (fun s => ((x.sb.filter (fun e => decide (e.id < id))).map (·.id)).foldl (fun s e => s.landInOrder g e) s)
      modG g (fun x => { x with sb := x.sb.map (fun e => if e.id < id then ackHome e else e) })
    | .succ _ _ => do
      modify (fun s => ((x.sb.filter (fun e => decide (e.id < id))).map (·.id)).foldl (fun s e => s.landInOrder g e) s)
      modG g (fun x => { x with sb := x.sb.map (fun e => if e.id < id then ackHome e else e) })
    | _ => pure ()
    performIn (valued (← getG g)) g o
-- DEDUCED: log 11, 59
/-- The replay entries of a group up to `last`, in program order. -/
def carryOps (g last : Nat) : M Unit := do
  (((← getG g).ops.filter (fun o => decide (o.id ≤ last))).map (·.id)).forM (carryOp g)

/-- The result of an operation arrives: stored, or held while its window is open (R28, R110). -/
def State.arrives (s : State) (g id : Nat) : State :=
  s.modGrp g (fun x => settle { x with ops := x.ops.map (fun o => if o.id == id && o.work == .done then { o with ready := true, again := .done } else o) })

-- DEDUCED: log 58
/-- The fill of a load from CXL memory that a save dropped (R225): the wait of its group is over. -/
def State.fillCame (s : State) (g : Nat) (o : LOp) : State :=
  if o.kind == .cxlLoad && (s.grp g).wait == .xlat [] 1 then (s.modGrp g (fun x => { x with sat := true })).refreshRecord g else s

-- DEDUCED: log 8
/-- LONG_LATENCY_RESULT (R110). -/
def execLongLatencyResult (op : Nat) (s : State) : Host.Outcome State Fault Refusal :=
  match s.ownerOf op with
  | none => event s
  | some (g, o) =>
    if o.ready then event s
    else if !inPlace (s.grp g) then event (s.fillCame g o)
    else
      match o.work with
      | .done => event (s.arrives g op)
      | .load _ _ _ _ => event ((s.performInOrder g op).arrives g op)
      | .kld _ _ => event ((s.performInOrder g op).arrives g op)
      | .append _ _ _ _ _ => event (s.agent (do performAny g o; modify (fun s => s.arrives g op)) (fun _ _ _ _ => s))
      | .succ _ _ => event (s.agent (do performAny g o; modify (fun s => s.arrives g op)) (fun _ _ _ _ => s))
      | .icinv _ _ _ => event (s.agent (do performAny g o; modify (fun s => s.arrives g op)) (fun _ _ _ _ => s))
      | _ => event s

/-! ## STORE_ACKNOWLEDGE (R186) -/

-- DEDUCED: log 10
/-- The scopes at which a landed entry is acknowledged by an acknowledgement at `k`: all together once it is at its home in a
scratchpad, in device memory or in CXL memory (R186, R224, R295), none wider than `k` for host memory. -/
def ackScopes (e : SbEntry) (k : Nat) : BitVec 6 :=
  if e.writes.any (fun w => match w.1 with | .host _ _ => true | _ => false) then BitVec.ofNat 6 (2 ^ (k + 1) - 1) else 63#6

-- DEDUCED: log 10; DESIGN CHOICE: log 96
/-- STORE_ACKNOWLEDGE (R186, R295). -/
def execStoreAcknowledge (gid entry : Nat) (scope : Fin 6) (s : State) : Host.Outcome State Fault Refusal :=
  let x := s.grp gid
  match x.sb.find? (fun e => e.id == entry) with
  | none => event s
  | some e =>
    if !(inPlace x || e.landed) || !canLand s e then event s
    else
      let s := s.landInOrder gid entry
      event (s.modGrp gid (fun x =>
        let sb := x.sb.map (fun b => if b.id == entry then { b with acked := b.acked ||| ackScopes b scope.val } else b)
        { x with sb := sb.filter (fun b => b.acked != 63#6) }))

end Sys2Proof.Machine
end

