-- ==== Sys2Proof/Machine/Matrix.lean ====
section
/-! DEFINITION. The matrix engine: sums, MMA, MRDY, MWAIT, MACC and MSTAT (chapter "The matrix engine and the visibility
kernel"; R53, R58–R66). -/

namespace Sys2Proof.Machine

/-! ## The parameter block (R249, R253) -/

def pbFmt (pb : List W8) : Nat := num pb 0 1
def pbFlag (pb : List W8) (i : Nat) : Bool := bits (num pb 1 1) i i == 1
def pbNs (pb : List W8) : Nat := bits (num pb 2 1) 1 0 + 1
def pbN (pb : List W8) : Nat := 64 * 2 ^ bits (num pb 2 1) 3 2
def pbJ (pb : List W8) : Nat := bits (num pb 2 1) 5 4 + 1
def pbOpid (pb : List W8) : Nat := num pb 3 1
def pbAreg (pb : List W8) : Nat := num pb 4 1
def pbNsb (pb : List W8) : Nat := num pb 5 1
def pbKx (pb : List W8) : Nat := num pb 6 2 % 1024
def pbZa (pb : List W8) : Nat := bits (num pb 6 2) 12 10
def pbZb (pb : List W8) : Nat := bits (num pb 6 2) 15 13
def pbBoff (pb : List W8) : Nat := num pb 8 2 * 64
def pbVmoff (pb : List W8) : Nat := num pb 10 2 * 64
def pbCoff (pb : List W8) : Nat := num pb 12 2 * 256
def pbDoff (pb : List W8) : Nat := num pb 14 2 * 256
/-- Bytes of an element of C and D (R253), and of the tile. -/
def pbEs (pb : List W8) : Nat := if pbFmt pb == 6 || pbFmt pb == 7 then 8 else 4
def pbTile (pb : List W8) (w : Nat) : Nat := pbJ pb * w * pbN pb * pbEs pb
/-- B units of a column, and of all columns (R252). -/
def pbUnits (pb : List W8) : Nat := if pbFmt pb == 8 then pbNsb pb else pbNs pb
def pbAll (pb : List W8) : Nat := pbUnits pb * pbN pb

-- DEDUCED: log 47
/-- The bytes at which a block is rejected. -/
def pbFaults (pb : List W8) (w : Nat) : List Nat :=
  let bad (b : Bool) (o : Nat) : List Nat := if b then [o] else []
  let f := pbFmt pb
  let areg := pbAreg pb
  let aok := [0, 16, 32, 48, 64].contains areg
  bad (decide (8 < f)) 0 ++ bad (bits (num pb 1 1) 7 6 != 0) 1 ++ bad (bits (num pb 2 1) 7 6 != 0 || bits (num pb 2 1) 3 2 == 3) 2
    ++ bad (!aok) 4 ++ bad (aok && decide (80 < areg + 16 * pbNs pb)) 2
    ++ bad (pbFlag pb 1 && !(f == 6 || f == 7)) 0
    ++ bad (pbFlag pb 5 && decide (4 ≤ f) && decide (f ≤ 7)) 0
    ++ bad (!pbFlag pb 4 && pbVmoff pb != 0) 10
    ++ (if f == 8 then bad (pbKx pb == 0 || decide (992 < pbKx pb)) 6 ++ bad (pbZa pb == 7 || pbZb pb == 7) 7 ++ bad (pbNsb pb == 0 || decide (16 < pbNsb pb)) 5
        else bad (num pb 6 2 != 0) 6 ++ bad (pbNsb pb != 0) 5)
    ++ bad (!pbFlag pb 0 && pbCoff pb != pbDoff pb && rangesMeet (pbCoff pb) (pbTile pb w) (pbDoff pb) (pbTile pb w)) 12

/-! ## Sums (R64–R66) -/

/-- The values of one slab of A or unit of B in a float mode. -/
def slabFloats (fmt : Nat) (ftz : Bool) (bs : List W8) : List Num :=
  let f : Fmt := if fmt == 0 then bf16 else if fmt == 1 then f16 else if fmt == 2 then f32 else f64
  let n := f.width / 8
  gen (64 / n) (fun k => decodeF f ftz (num bs (n * k) n))

/-- One slab's products added exactly to the accumulator and rounded once (R64): the pattern, and whether a NaN came from
numbers, and whether the rounding overflowed (R254). -/
def floatSlab (ftz : Bool) (a b : List Num) (acc : Nat) : Nat × Bool × Bool :=
  let c := decodeF f32 ftz acc
  let nanIn := c.isNan || a.any Num.isNan || b.any Num.isNan
  let sum := (a.zip b).foldl (fun t p => addN 0 t (mulN p.1 p.2)) c
  let r := encodeF f32 0 sum
  (if ftz && r.sub then (if sum.sign then f32.signBit else 0) else r.bits, sum.isNan && !nanIn, r.ovf)
def floatSlabs (ftz : Bool) : List (List Num) → List (List Num) → Nat × Bool × Bool → Nat × Bool × Bool
  | a :: as, b :: bs, (acc, i, o) =>
    let r := floatSlab ftz a b acc
    floatSlabs ftz as bs (r.1, i || r.2.1, o || r.2.2)
  | _, _, x => x

def sext4 (n : Nat) : Int := if 8 ≤ n then (n : Int) - 16 else n
def sext8 (b : W8) : Int := b.toInt
/-- The integers of a slab: INT8, or INT4 low nibble first (R53); a complex slab alternates real and imaginary parts (R58). -/
def slabInts (fmt : Nat) (bs : List W8) : List Int :=
  if fmt == 5 || fmt == 7 then bs.flatMap (fun b => [sext4 (b.toNat % 16), sext4 (b.toNat / 16)]) else bs.map sext8

def dotI : List Int → List Int → Int
  | x :: xs, y :: ys => x * y + dotI xs ys
  | _, _ => 0
/-- The real and the imaginary part of a slab's complex products (R58). -/
def dotC (conj : Bool) : List Int → List Int → Int × Int
  | ar :: ai :: as, br :: bi :: bs =>
    let (re, im) := dotC conj as bs
    if conj then (ar * br + ai * bi + re, ai * br - ar * bi + im) else (ar * br - ai * bi + re, ar * bi + ai * br + im)
  | _, _ => (0, 0)
def clamp32 (i : Int) : Int := clampI (-(2 ^ 31 : Nat)) ((2 ^ 31 : Nat) - 1) i
/-- A slab sum plus the accumulator, clamped (R66), and whether that changed it. -/
def intSlabs : List (List Int) → List (List Int) → Int × Bool → Int × Bool
  | a :: as, b :: bs, (acc, sat) =>
    let t := acc + dotI a b
    intSlabs as bs (clamp32 t, sat || clamp32 t != t)
  | _, _, x => x
def complexSlabs (conj : Bool) : List (List Int) → List (List Int) → Int × Int × Bool → Int × Int × Bool
  | a :: as, b :: bs, (re, im, sat) =>
    let (x, y) := dotC conj a b
    complexSlabs conj as bs (clamp32 (re + x), clamp32 (im + y), sat || clamp32 (re + x) != re + x || clamp32 (im + y) != im + y)
  | _, _, x => x

/-! ## Described blocks (R59–R61, R65, R256) -/

/-- A block as it stands in its row or column: positions covered, NaN, zero, scale and mantissas. -/
structure Blk where
  len : Nat
  nan : Bool
  zero : Bool
  scale : Int
  mants : List Int
  deriving DecidableEq, Repr

-- DEDUCED: log 47
def blkReserved (bs : List W8) : Bool := let f := num bs 0 1; !(f == 0 || (decide (0x22 ≤ f) && decide (f ≤ 0x28)))
def mantissa (m x : Nat) : Int := if 2 ^ (m - 1) ≤ x then (x : Int) - 2 ^ m else x
/-- A block read (R61); `z` is the length basis of zero and reserved blocks. -/
def readBlk (z : Nat) (bs : List W8) : Blk :=
  let f := num bs 0 1
  let m := f - 0x20
  let res := blkReserved bs
  let scale := (lane 0#8 bs 1).toInt
  let pay := leNat bs / 2 ^ 16
  { len := if res || f == 0 then 496 / (z + 2) else 496 / m
    nan := res || num bs 1 1 == 0x80
    zero := f == 0
    scale := scale
    mants := if res || f == 0 then [] else gen (496 / m) (fun j => mantissa m (pay / 2 ^ (j * m) % 2 ^ m)) }

/-- An accumulator plus S · 2^e, rounded once (R65). -/
def blkAdd (acc : Nat) (s e : Int) : Nat :=
  let c := decodeF f32 false acc
  (encodeF f32 0 (addN 0 c (if s = 0 then .zero false else .fin (decide (s < 0)) s.natAbs e))).bits

/-- The segments from position `p` on: `i` and `j` are the positions already covered of the two heads. -/
def blkWalk (kx : Nat) : Nat → Nat → List Blk → Nat → List Blk → Nat → Nat → Nat
  | 0, _, _, _, _, _, acc => acc
  | fuel + 1, p, as, i, bs, j, acc =>
    if kx ≤ p then acc
    else
      let pad : Blk := { len := kx - p, nan := false, zero := true, scale := 0, mants := [] }
      let a := as.headD { pad with len := i + (kx - p) }
      let b := bs.headD { pad with len := j + (kx - p) }
      let n := min (min (a.len - i) (b.len - j)) (kx - p)
      let acc' :=
        if a.nan || b.nan then f32.nanBits
        else if decodeF f32 false acc == .nan then f32.nanBits
        else if a.zero || b.zero then blkAdd acc 0 0
        else blkAdd acc (dotI ((a.mants.drop i).take n) ((b.mants.drop j).take n)) (a.scale + b.scale)
      let (as', i') := if a.len ≤ i + n then (as.drop 1, 0) else (as, i + n)
      let (bs', j') := if b.len ≤ j + n then (bs.drop 1, 0) else (bs, j + n)
      blkWalk kx fuel (p + n) as' i' bs' j' acc'

/-! ## One operation (R250–R256) -/

/-- The slabs of row t of a contributor (R251, R62). -/
def rowSlabs (a : ARows) (t : Nat) : List (List W8) :=
  gen a.ns (fun s => (List.range 16).flatMap (fun k => bytes4 (lane 0#32 (lane [] a.rows (16 * s + k)) t)))

/-- The units of column n of B (R252). -/
def colUnits (scr : Mem) (pb : List W8) (n : Nat) : List (List W8) :=
  gen (pbUnits pb) (fun j =>
    let u := j * pbN pb + n
    if pbFlag pb 4 && bits (rd scr (pbVmoff pb + u / 8)).toNat (u % 8) (u % 8) == 0 then List.replicate 64 0#8
    else rdN scr (pbBoff pb + 64 * u) 64)

/-- What one element comes to: its bytes, SATD, INVALID, OVERFLOW. -/
def element (pb : List W8) (a b : List (List W8)) (c : List W8) : List W8 × Bool × Bool × Bool :=
  let f := pbFmt pb
  if f < 4 then
    let (r, i, o) := floatSlabs (pbFlag pb 5) (a.map (slabFloats f (pbFlag pb 5))) (b.map (slabFloats f (pbFlag pb 5))) (leNat c, false, false)
    (toLe 4 r, false, i, o)
  else if f < 6 then
    let (r, sat) := intSlabs (a.map (slabInts f)) (b.map (slabInts f)) ((le32 c).toInt, false)
    (bytes4 (BitVec.ofInt 32 r), sat, false, false)
  else if f < 8 then
    let (re, im, sat) := complexSlabs (pbFlag pb 1) (a.map (slabInts f)) (b.map (slabInts f)) ((le32 (c.take 4)).toInt, (le32 (c.drop 4)).toInt, false)
    (bytes4 (BitVec.ofInt 32 re) ++ bytes4 (BitVec.ofInt 32 im), sat, false, false)
  else
    (toLe 4 (blkWalk (pbKx pb) (a.length + b.length + 2) 0 (a.map (readBlk (pbZa pb))) 0 (b.map (readBlk (pbZb pb))) 0 (leNat c)), false, false, false)

-- DESIGN CHOICE: log 46
/-- Whether some byte column n depends on was written since issue (R259). -/
def colSpoilt (pb : List W8) (spoilt : List (Nat × Nat)) (n : Nat) : Bool :=
  (List.range (pbUnits pb)).any (fun j =>
    let u := j * pbN pb + n
    spoilt.any (fun r => rangesMeet r.1 r.2 (pbBoff pb + 64 * u) 64 || (pbFlag pb 4 && rangesMeet r.1 r.2 (pbVmoff pb + u / 8) 1)))

-- DESIGN CHOICE: log 46
/-- The tile of an operation, row by row: bytes, SATD, INVALID and OVERFLOW counts. Elements that depend on data written since issue
are unspecified; nothing else is (R259), so the rest comes from what was there at issue. -/
def tileFrom (pb : List W8) (acc : Mem) (cols : List (List (List W8))) (bad : List Bool) :
    Nat → List (List (List W8) × Bool) → M (List W8 × Bool × Nat × Nat)
  | _, [] => pure ([], false, 0, 0)
  | r, (row, dirty) :: rest => do
    let es := pbEs pb
    let outs ← (List.range (pbN pb)).mapM (fun n => do
      let c := if pbFlag pb 0 then List.replicate es 0#8 else rdN acc (pbCoff pb + (r * pbN pb + n) * es) es
      let e := element pb row (lane [] cols n) c
      if dirty || lane false bad n then do
        let v ← freeVal
        return ((bytes8 v).take es, e.2)
      else return e)
    let (bs, sat, i, o) ← tileFrom pb acc cols bad (r + 1) rest
    return (outs.flatMap (·.1) ++ bs, sat || outs.any (·.2.1), i + (outs.filter (·.2.2.1)).length, o + (outs.filter (·.2.2.2)).length)

/-! ## The team's queue -/

/-- Commands that have not written their tokens (R247). -/
def openCmds (t : Team) : List MCmd := t.mq.filter (fun c => !c.token)
def matrixRoom (cx : Cx) : M Unit := do
  let s ← get
  guardM (decide ((openCmds (s.team (s.grp cx.g).team)).length < 8)) .stall

/-- Registers read for the engine, in every thread (R251), and pinned by command `id`. -/
def readRegs (cx : Cx) (need : W64) : List Nat → M (List (List W32))
  | [] => pure []
  | r :: rs => do
    let v ← readV cx need r r
    return v :: (← readRegs cx need rs)
-- DESIGN CHOICE: log 46
/-- The registers refilled, none of them to make room for another, and read (R251). -/
def openRegs (cx : Cx) (need : W64) (regs : List Nat) : M (List (List W32)) := do
  refillAll cx regs regs
  readRegs cx need regs
def pinRegs (cx : Cx) (id : Nat) (regs : List Nat) : M Unit :=
  modG cx.g (fun x => { x with pinned := x.pinned ++ regs.map (fun r => (id, r)) })

def MCmd.blank : MCmd where
  id := 0
  gid := 0
  site := 0#64
  seq := 0#64
  kind := 0
  opid := 0
  pb := []
  a := none
  chain := none
  closing := false
  slot := 0
  taken := none
  act := 0#64
  ctl := 0#64
  opw := 0#64
  srcs := []
  dirtyS := []
  regions := []
  img := []
  spoilt := []
  started := false
  token := false
  res := (0, 0)

def queueCmd (cx : Cx) (c : MCmd) : M Unit := do
  let x ← getG cx.g
  modify (fun s => s.modTeam x.team (fun t => { t with mq := t.mq ++ [{ c with gid := cx.g, site := cx.pc, act := cx.exe }] }))

/-- The opener of the team's chain that accepts members: none once its group has exited (R258). -/
def State.openChain (s : State) (t : Nat) : Option MCmd :=
  match (s.team t).chain with
  | none => none
  | some k => match (s.team t).mq.find? (fun c => c.id == k) with
    | some c => if alive (s.grp c.gid) then some c else none
    | none => none

-- DESIGN CHOICE: log 46
/-- What the scratchpad ranges of a command hold at its issue (R260): unspecified where R236 or R259 say so. -/
def takeImage (t : Nat) : List (Nat × Nat) → M Mem
  | [] => return ((← get).team t).scr
  | (lo, n) :: r => do
    let m ← takeImage t r
    if (← get).hidden t lo n then return wrN m lo (← tileBytes t lo n) else return m

-- DESIGN CHOICE: log 46
/-- The own stores and operations that touch scratchpad ranges are carried out first (R260). -/
def settleScratch (cx : Cx) (ranges : List (Nat × Nat)) : M Unit := do
  let x ← getG cx.g
  let spots := ranges.map (fun r => (Target.scr x.team r.1, r.2))
  settleBefore cx spots spots
  let x ← getG cx.g
  let st := x.sb.filter (fun e => anyOverlap (entrySpots e) spots)
  modify (fun s => st.foldl (fun s e => s.landInOrder cx.g e.id) s)

/-! ## MMA (R264, R265) -/

/-- MMA (R264, R265). -/
def execMma (f : FEP) (s : State) : Host.Outcome State Fault Refusal :=
  issue f.z 0x6D {} false (fun cx => needRole cx 1) (fun cx => skipMarks cx (countMarks f.l false) (thenNext (do
    let s ← get
    let x := s.grp cx.g
    let p ← readS cx f.p.toNat
    let off ← match s.window cx.g p with
      | .team t off => if t == x.team && off % 64 == 0 then pure off else illegalOperand 0x100#64
      | _ => illegalOperand 0x100#64
    if s.scratchSize x.team < off + 64 then trap 7 1#64
    settleScratch cx [(off, 64)]
    watchUnit cx true false [(p, 64)]
    let pb ← tileBytes x.team off 64
    let s ← get
    match lowest (pbFaults pb x.w) with
    | some o => illegalOperand (n64 o)
    | none => pure ()
    let chain := s.openChain x.team
    match chain with
    | some c =>
      if c.gid != cx.g || pbFmt c.pb != pbFmt pb || pbAreg c.pb != pbAreg pb || pbNs c.pb != pbNs pb || pbJ c.pb != pbJ pb then illegalOperand 0x200#64
    | none => pure ()
    let regions := [(pbBoff pb, 64 * pbAll pb)] ++ (if pbFlag pb 4 then [(pbVmoff pb, (pbAll pb + 7) / 8)] else [])
    if regions.any (fun r => decide (s.scratchSize x.team < r.1 + r.2)) then trap 7 1#64
    if s.accSize x.team < pbDoff pb + pbTile pb x.w || (!pbFlag pb 0 && decide (s.accSize x.team < pbCoff pb + pbTile pb x.w)) then trap 7 2#64
    matrixRoom cx
    settleScratch cx regions
    let img ← takeImage x.team regions
    let regs := if chain.isSome then [] else gen (16 * pbNs pb) (fun i => pbAreg pb + i)
    let rows ← openRegs cx (fullMask x.w) regs
    applyMarks cx (countMarks f.l false) (scalarMark f.l f.p.toNat)
    let seq ← takeSeq cx.g
    let id ← issueOp cx .matrix [96 + f.t.toNat] f.h.toNat seq .command [] []
    pinRegs cx id regs
    let reuse := pbFlag pb 2
    queueCmd cx { MCmd.blank with
      id := id, seq := seq, opid := pbOpid pb, pb := pb
      a := if chain.isSome then none else some { gid := cx.g, base := pbAreg pb, ns := pbNs pb, rows := rows, dirty := 0#64 }
      chain := match chain with | some c => some c.id | none => if reuse then some id else none
      closing := chain.isSome && !reuse, regions := regions, img := img }
    modify (fun s => s.modTeam x.team (fun t => { t with chain := if chain.isSome then (if reuse then t.chain else none) else if reuse then some id else none }))))) s

/-- MRDY (R266). -/
def execMrdy (f : FE) (s : State) : Host.Outcome State Fault Refusal :=
  issue f.z 0x6E {} false (fun cx => needRole cx 1) (fun cx => skipMarks cx (countMarks f.l f.k) (thenNext (do
    let x ← getG cx.g
    let p ← readS cx f.p.toNat
    let q ← readS cx f.q.toNat
    let opid := wbits p 7 0
    let slot := wbits p 9 8
    let base := wbits q 6 0
    let ns := wbits q 9 8 + 1
    if wbits p 63 10 != 0 || wbits q 63 10 != 0 || wbits q 7 7 != 0 || slot == 0 || !([0, 16, 32, 48, 64].contains base) || decide (80 < base + 16 * ns) then
      illegalOperand 0x100#64
    let s ← get
    if (s.team x.team).mq.any (fun c => c.kind == 1 && c.taken.isNone && c.opid == opid && c.slot == slot) then illegalOperand 0x201#64
    matrixRoom cx
    let regs := gen (16 * ns) (fun i => base + i)
    let rows ← openRegs cx (fullMask x.w) regs
    applyMarks cx (countMarks f.l f.k) (scalarMark f.l f.p.toNat ++ scalarMark f.k f.q.toNat)
    let seq ← takeSeq cx.g
    let id ← issueOp cx .matrix [96 + f.t.toNat] f.h.toNat seq .command [] []
    pinRegs cx id regs
    queueCmd cx { MCmd.blank with
      id := id, seq := seq, kind := 1, opid := opid, slot := slot
      a := some { gid := cx.g, base := base, ns := ns, rows := rows, dirty := 0#64 } }))) s

-- DEDUCED: log 48
/-- The tokens of a set of commands gathered: the largest STATUS and the OR of FLAGS (R267). -/
def gather (acc : Nat) (st fl : Nat) : Nat := max (acc % 256) st + (acc / 256 ||| fl) * 256

-- DEDUCED: log 48
/-- MWAIT (R267): ends its run and blocks until every covered command has written its token. -/
def execMwait (f : FE1) (s : State) : Host.Outcome State Fault Refusal :=
  issue f.z 0x6F {} false (fun _ => pure ()) (fun cx => do
    if cx.exe = 0#64 then do
      ignoreMarks cx (countMarks f.l false)
      return { ends := true }
    let x ← getG cx.g
    let p ← readS cx f.p.toNat
    let all := wbits p 8 8 == 1
    if wbits p 63 9 != 0 || (all && wbits p 7 0 != 0) then illegalOperand 0#64
    applyMarks cx (countMarks f.l false) (scalarMark f.l f.p.toNat)
    let t := (← get).team x.team
    let covers (k o : Nat) : Bool := all || (k != 2 && o == wbits p 7 0)
    let acc := (t.mdone.filter (fun e => all || e.1 == wbits p 7 0)).foldl (fun a e => gather a e.2.1 e.2.2) 0
    let left := ((openCmds t).filter (fun c => covers c.kind c.opid)).map (·.id)
    if left.isEmpty then writeS cx f.t.toNat (n64 acc)
    else do
      blockDest cx f.t.toNat
      modG cx.g (fun x => { x with wait := .mwait f.t.toNat left acc cx.act })
    return { ends := true }) s

/-! ## MACC and MSTAT (R268–R270) -/

def mcOpk (p : W64) : Nat := wbits p 25 24
def mcVreg (p : W64) : Nat := wbits p 38 32
def mcCnt (p : W64) : Nat := wbits p 43 40 + 1
def mcAoff (p : W64) : Nat := wbits p 20 0
def mcClr (p : W64) : Bool := wbits p 26 26 == 1
def mcRst (q : W64) : Nat := wbits q 23 0
def mcLen (q : W64) : Nat := wbits q 47 24
def maccBad (p q : W64) (ahead : Nat) : Bool :=
  let opk := mcOpk p
  wbits p 63 44 != 0 || wbits p 39 39 != 0 || wbits p 31 27 != 0 || wbits p 23 21 != 0 || mcAoff p % 64 != 0 || (ahead != 0 && opk != 0)
    || (mcClr p && (opk == 1 || opk == 3)) || wbits q 63 48 != 0 || mcRst q % 64 != 0
    || (if opk < 2 then wbits q 47 24 != 0 || decide (80 < mcVreg p + mcCnt p)
        else wbits p 43 40 != 0 || wbits p 38 32 != 0 || mcLen q % 64 != 0 || mcLen q == 0 || decide (2 ^ 23 < mcLen q))

-- DEDUCED: log 48
/-- MACC (R268, R269). -/
def execMacc (f : FE) (s : State) : Host.Outcome State Fault Refusal :=
  issue f.z 0x70 {} false (fun cx => needRole cx 1) (fun cx => skipMarks cx (countMarks f.l f.k) (thenNext (do
    let x ← getG cx.g
    let p ← readS cx f.p.toNat
    let q ← readS cx f.q.toNat
    let opk := mcOpk p
    if maccBad p q f.h.toNat then illegalOperand 0#64
    let s ← get
    if decide (2 ≤ opk) && decide (s.scratchSize x.team < mcRst q + mcLen q) then trap 7 1#64
    if (if opk < 2 then (laneList x.w cx.exe).any (fun t => decide (s.accSize x.team < mcAoff p + t * mcRst q + 4 * mcCnt p)) else decide (s.accSize x.team < mcAoff p + mcLen q)) then
      trap 7 2#64
    matrixRoom cx
    let regs := gen (mcCnt p) (fun i => mcVreg p + i)
    let regions := if opk == 3 then [(mcRst q, mcLen q)] else []
    if 2 ≤ opk then settleScratch cx [(mcRst q, mcLen q)]
    let img ← takeImage x.team regions
    let srcs ← if opk == 1 then openRegs cx cx.exe regs else pure []
    applyMarks cx (countMarks f.l f.k) (scalarMark f.l f.p.toNat ++ scalarMark f.k f.q.toNat)
    let seq ← takeSeq cx.g
    let id ← issueOp cx .matrix ((if opk == 0 then regs else []) ++ [96 + f.t.toNat]) f.h.toNat seq .command [] []
    if opk == 1 then pinRegs cx id regs
    queueCmd cx { MCmd.blank with id := id, seq := seq, kind := 2, ctl := p, opw := q, srcs := srcs, regions := regions, img := img }))) s

/-- MSTAT (R270). -/
def execMstat (f : FEP) (s : State) : Host.Outcome State Fault Refusal :=
  issue f.z 0x71 {} false (fun _ => pure ()) (fun cx => skipMarks cx (countMarks f.l false) (thenNext (do
    let x ← getG cx.g
    let p ← readS cx f.p.toNat
    if wbits p 63 1 != 0 then illegalOperand 0#64
    applyMarks cx (countMarks f.l false) (scalarMark f.l f.p.toNat)
    let v := ((← get).team x.team).mstat
    let _ ← issueOp cx .cancel [96 + f.t.toNat] f.h.toNat 0#64 .done [[v]] []
    if p.getLsbD 0 then modify (fun s => s.modTeam x.team (fun t => { t with mstat := 0#64 }))))) s

/-! ## Tokens (R248, R251, R258) -/

-- DEDUCED: log 48
/-- MWAITs of the team hear of a token. -/
def hearToken (id st fl : Nat) (x : Group) : Group :=
  match x.wait with
  | .mwait d cmds acc set =>
    if cmds.contains id then
      let acc := gather acc st fl
      let left := cmds.filter (· != id)
      if left.isEmpty then endWait x d (n64 acc) else { x with wait := .mwait d left acc set }
    else x
  | _ => x

/-- A command's token: written, with the values of MACC's registers beside it; the records of groups that are away follow. -/
def State.writeToken (s : State) (t : Nat) (c : MCmd) (st fl : Nat) (vals : Nat → List W64) : State :=
  let tok := n64 (c.seq.toNat % 2 ^ 32 * 2 ^ 32 + fl * 256 + st)
  let s := s.deliver c.gid c.id (fun r => if 96 ≤ r then [tok] else vals r)
  let s := if fl % 2 == 1 then s.modGrp c.gid (fun x => { x with gstatus := x.gstatus ||| 16#64 }) else s
  let s := s.modTeam t (fun x =>
    { x with
      mq := x.mq.map (fun d => if d.id == c.id then { d with token := true } else d)
      mdone := if c.kind == 2 then x.mdone else
        (match x.mdone.find? (fun e => e.1 == c.opid) with
         | some e => x.mdone.map (fun d => if d.1 == c.opid then (d.1, max e.2.1 st, e.2.2 ||| fl) else d)
         | none => x.mdone ++ [(c.opid, st, fl)]) })
  let s' : State := { s with groups := s.groups.map (fun (e : Nat × Group) => if e.2.team == t then (e.1, hearToken c.id st fl e.2) else e) }
  (c.gid :: (s.team t).gids.filter (fun g => (s.grp g).sat != (s'.grp g).sat)).dedup.foldl State.refreshRecord s'

/-- A command leaves the queue and gives back its pins. -/
def State.dropCmd (s : State) (t : Nat) (c : MCmd) : State :=
  (s.modTeam t (fun x => { x with mq := x.mq.filter (fun d => d.id != c.id) })).modGrp c.gid (unpin c.id)

/-- The tokens of the MRDYs an operation took, and their pins (R251, R266). -/
def State.freeMrdys (s : State) (t opener : Nat) (res : Nat × Nat) : State :=
  let ms := (s.team t).mq.filter (fun c => c.kind == 1 && c.taken == some opener)
  ms.foldl (fun s m => (s.writeToken t m res.1 res.2 (fun _ => [])).dropCmd t m) s

-- DEDUCED: log 47
/-- A chain ends (R258): what its A held is released and the MRDYs' tokens are written. -/
def State.endChain (s : State) (t opener : Nat) : State :=
  match (s.team t).mq.find? (fun c => c.id == opener) with
  | none => s
  | some o => (s.freeMrdys t opener o.res).dropCmd t o

-- DEDUCED: log 49
/-- The chains of a team that are closed with no operation left end (R258): those of openers that exited with none queued. -/
def State.reapChain (s : State) (t : Nat) : State :=
  (((s.team t).mq.filter (fun c => c.kind == 0 && c.token && c.closing && c.chain == some c.id)).map (·.id)).foldl (fun s k => s.endChain t k) s

/-! ## The engine (R247, R257, R259, R261) -/

/-- The command a team's queue has at its head: the oldest MMA or MACC without a token. -/
def headCmd (t : Team) : Option MCmd := t.mq.find? (fun c => c.kind != 1 && !c.token)

-- DEDUCED: log 47
/-- The oldest untaken MRDY of each slot an MMA needs; `none` while one is missing (R257). -/
def joinMrdys (t : Team) (c : MCmd) : Option (List MCmd) :=
  if (c.chain.isSome && c.chain != some c.id) then some []
  else (gen (pbJ c.pb - 1) (fun i => t.mq.find? (fun m => m.kind == 1 && m.taken.isNone && m.opid == c.opid && m.slot == i + 1))).foldr
    (fun m r => match m, r with | some m, some l => some (m :: l) | _, _ => none) (some [])

/-- The groups whose rows an operation reads: the issuer, and those of the MRDYs it or its chain's opener took, or takes now. -/
def contributors (t : Team) (c : MCmd) (ms : List MCmd) : List Nat :=
  let k := c.chain.getD c.id
  c.gid :: (t.mq.filter (fun d => d.id == k || (d.kind == 1 && d.taken == some k)) ++ ms).map (·.gid)

/-- MATRIX_OPERATION_START (R257): the head MMA takes its MRDYs, every contributor being resident. -/
def execMatrixOperationStart (team : Nat) (s : State) : Host.Outcome State Fault Refusal :=
  let s := s.reapChain team
  let t := s.team team
  match headCmd t with
  | none => event s
  | some c =>
    if c.kind != 0 || c.started || !t.resident then event s
    else match joinMrdys t c with
      | none => event s
      | some ms =>
        if (contributors t c ms).all (fun g => inPlace (s.grp g) || !alive (s.grp g)) then
          event (s.modTeam team (fun t => { t with mq := t.mq.map (fun d =>
            if d.id == c.id then { d with started := true } else if ms.any (fun m => m.id == d.id) then { d with taken := some c.id } else d) }))
        else event s

/-- The rows an operation reads: its own or its chain's, then those of the MRDYs in slot order. -/
def operandA (t : Team) (c : MCmd) : List ARows :=
  let k := c.chain.getD c.id
  let own := (t.mq.find? (fun d => d.id == k)).bind (·.a)
  own.toList ++ (gen 3 (fun i => (t.mq.find? (fun m => m.kind == 1 && m.taken == some k && m.slot == i + 1)).bind (·.a))).filterMap id

/-- The status word of a team after an operation (R270). -/
def statusAfter (m : W64) (st fl : Nat) (pb : List W8) : W64 :=
  let m1 := m ||| n64 (fl % 4) ||| (if st == 2 then 8#64 else 0#64)
  if st != 1 then m1
  else
    let n := wbits m1 63 48
    let keep := n64 (m1.toNat % 16) ||| 4#64
    if n == 0 then keep ||| n64 (pbOpid pb * 2 ^ 16 + num pb 14 2 * 2 ^ 32 + 2 ^ 48)
    else n64 (m1.toNat % 2 ^ 48) ||| 4#64 ||| n64 (min (n + 1) 65535 * 2 ^ 48)

-- DESIGN CHOICE: log 46; DEDUCED: log 47
/-- The operation of an MMA: D, and its status and flags. -/
def runMma (team : Nat) (c : MCmd) (differs : Bool) : M (Nat × Nat) := do
  let s ← get
  let t := s.team team
  let x := s.grp c.gid
  let as := operandA t c
  let pb := c.pb
  if as.any (fun a => a.ns != pbNs pb) then return (2, 0)
  let cols := gen (pbN pb) (colUnits c.img pb)
  let bad := gen (pbN pb) (colSpoilt pb c.spoilt)
  let rows := as.flatMap (fun a => gen x.w (fun r => (rowSlabs a r, hasLane a.dirty r)))
  let (bs, sat, inv, ovf) ← tileFrom pb t.acc cols bad 0 rows
  let badfmt := pbFmt pb == 8 && (rows.any (fun r => r.1.any blkReserved) || cols.any (fun u => u.any blkReserved))
  modify (fun s => (s.modTeam team (fun t => { t with acc := wrN t.acc (pbDoff pb) bs })).countEvents c.gid 2 [inv, 0, ovf, 0] c.site c.seq)
  let mis := pbFlag pb 3 && differs
  return (if mis then 1 else 0, (if sat then 1 else 0) + (if badfmt then 2 else 0) + (if mis then 4 else 0))

/-- MATRIX_OPERATION_COMPLETE (R261): D is written and the token; with RED, `differs` says that the two computations did. -/
def execMatrixOperationComplete (team : Nat) (differs : Bool) (s : State) : Host.Outcome State Fault Refusal :=
  let s := s.reapChain team
  match headCmd (s.team team) with
  | none => event s
  | some c =>
    if !c.started then event s
    else match (runMma team c differs).run s with
      | .error _ => event s
      | .ok ((st, fl), s) =>
        let s := s.modTeam team (fun t => { t with mstat := statusAfter t.mstat st fl c.pb })
        let s := s.writeToken team c st fl (fun _ => [])
        let s := if st == 1 then s.postEvent c.gid { cause := 33, info := n64 (c.seq.toNat % 2 ^ 32 * 2 ^ 32 + c.opid * 2 ^ 16 + num c.pb 14 2), detail := 0#64, site := c.site, seq := c.seq } else s
        match c.chain with
        | none => event ((s.freeMrdys team c.id (st, fl)).dropCmd team c)
        | some k =>
          let s := if k == c.id then s.modTeam team (fun t => { t with mq := t.mq.map (fun d => if d.id == c.id then { d with res := (st, fl) } else d) })
            else s.dropCmd team c
          event (if c.closing then s.endChain team k else s)

/-- The rows of a MACC with OPK 0 (R269): the accumulator after, and each register's elements by thread. -/
def accToRegs (p q : W64) : List (Nat × Nat) → Mem → Mem × List (Nat × Nat × W64)
  | [], acc => (acc, [])
  | (t, k) :: r, acc =>
    let a := mcAoff p + t * mcRst q + 4 * k
    let v := n64 (leNat (rdN acc a 4))
    let (acc', vs) := accToRegs p q r (if mcClr p then wrN acc a (List.replicate 4 0#8) else acc)
    (acc', (t, k, v) :: vs)

-- DESIGN CHOICE: log 46; DEDUCED: log 48
/-- A MACC performed (R269). -/
def runMacc (team : Nat) (c : MCmd) : M (Nat → List W64) := do
  let s ← get
  let t := s.team team
  let x := s.grp c.gid
  let p := c.ctl
  let q := c.opw
  let cells := (laneList x.w c.act).flatMap (fun l => gen (mcCnt p) (fun k => (l, k)))
  match mcOpk p with
  | 0 =>
    let (acc, vs) := accToRegs p q cells t.acc
    set (s.modTeam team (fun t => { t with acc := acc }))
    return fun r => gen x.w (fun l => ((vs.find? (fun e => e.1 == l && e.2.1 + mcVreg p == r)).map (·.2.2)).getD 0#64)
  | 1 =>
    let ws ← cells.mapM (fun e => do
      let v ← if c.dirtyS.contains (mcVreg p + e.2, e.1) then (do return (← freeVal).setWidth 32) else pure (lane 0#32 (lane [] c.srcs e.2) e.1)
      return (mcAoff p + e.1 * mcRst q + 4 * e.2, bytes4 v))
    modify (fun s => s.modTeam team (fun t => { t with acc := ws.foldl (fun m w => wrN m w.1 w.2) t.acc }))
    return fun _ => []
  | 2 =>
    let bs := rdN t.acc (mcAoff p) (mcLen q)
    modify (fun s => (s.modTeam team (fun t => { t with acc := if mcClr p then zeroRange t.acc (mcAoff p) (mcLen q) else t.acc })).scrPut team (mcRst q) bs)
    return fun _ => []
  | _ =>
    let bs ← spoilBytes (mcRst q) c.spoilt 0 (rdN c.img (mcRst q) (mcLen q))
    modify (fun s => s.modTeam team (fun t => { t with acc := wrN t.acc (mcAoff p) bs }))
    return fun _ => []

/-- MACC_PERFORM (R269): the MACC at the head of the team's queue. -/
def execMaccPerform (team : Nat) (s : State) : Host.Outcome State Fault Refusal :=
  match headCmd (s.team team) with
  | none => event s
  | some c =>
    if c.kind != 2 || !(s.team team).resident || (alive (s.grp c.gid) && !inPlace (s.grp c.gid)) then event s
    else match (runMacc team c).run s with
      | .error _ => event s
      | .ok (vals, s) => event ((s.writeToken team c 0 0 vals).dropCmd team c)

end Sys2Proof.Machine
end

