-- ==== Sys2Proof/Machine/Sync.lean ====
section
/-! DEFINITION. Barriers and bands (chapter "Barriers, bands, felts and the felt softmax"). -/

namespace Sys2Proof.Machine

/-! ## What waits -/

/-- A group whose wait has ended becomes ready; a saved one is marked satisfied and becomes eligible for placement (R297). -/
def State.release (s : State) (g : Nat) : State :=
  ((s.settleAll g).modGrp g overWait).refreshRecord g

/-- The bit of a group in its team's waiter masks. -/
def waiterBit (x : Group) : W32 := BitVec.ofNat 32 (2 ^ x.gidx)

/-! ## Barriers (R285–R290) -/

def barIdx (c : W64) : Nat := wbits c 3 0
def barPh (c : W64) : Bool := c.getLsbD 8
def barF (c : W64) : Bool := c.getLsbD 12
def barCount (c : W64) : Nat := wbits c 21 16

/-- The control word of a member (R287): `mask` holds the bits the member uses; `felt` whether the barrier is a felt's. -/
def barWord (mask : Nat) (felt : Bool) (c : W64) : M Unit :=
  if c.toNat &&& (2 ^ 64 - 1 - mask) != 0 || (felt && decide (3 < barIdx c)) then illegalOperand 1#64 else pure ()

/-- A barrier at placement (R285, R286). -/
def Bar.fresh (expect : Nat) : Bar where
  expect := expect
  arrived := 0
  phase := false
  wmask := []

/-- The barrier a member names: the team's, or the felt's. -/
def State.bar (s : State) (t : Nat) (felt : Bool) (i : Nat) : Bar :=
  let tcb := (s.task (s.team t).task).tcb
  if felt then (look (s.felt (s.team t).felt).bars i).getD (Bar.fresh tcb.teams)
  else (look (s.team t).bars i).getD (Bar.fresh tcb.groups)
def State.setBar (s : State) (t : Nat) (felt : Bool) (i : Nat) (b : Bar) : State :=
  if felt then s.modFelt (s.team t).felt (fun f => { f with bars := ins f.bars i b })
  else s.modTeam t (fun x => { x with bars := ins x.bars i b })

/-- The key of a team's waiter mask in a barrier. -/
def maskKey (felt : Bool) (t : Nat) : Nat := if felt then t else 0
def waiters (b : Bar) (k : Nat) : W32 := (look b.wmask k).getD 0#32

/-- Whether a group waits on a barrier: the team's own, or the felt's of its team. -/
def waitsOn (s : State) (t : Nat) (felt : Bool) (i : Nat) (x : Group) : Bool :=
  match x.wait with
  | .bar j _ => !felt && x.team == t && i == j && alive x
  | .fbar j _ => felt && (s.team x.team).felt == (s.team t).felt && i == j && alive x
  | _ => false

/-- One arrival (R288): the phase it belongs to. The arrival that brings ARRIVED to EXPECT completes the barrier. -/
def State.arrive (s : State) (t : Nat) (felt : Bool) (i : Nat) : State :=
  let b := s.bar t felt i
  if b.arrived + 1 == b.expect then
    let gs := (s.groups.filter (fun (e : Nat × Group) => waitsOn s t felt i e.2)).map (·.1)
    gs.foldl State.release (s.setBar t felt i { b with arrived := 0, phase := !b.phase, wmask := [] })
  else s.setBar t felt i { b with arrived := b.arrived + 1 }

/-- A wait for the end of phase `ph` (R288): over at once, or the group blocks. -/
def barBlock (cx : Cx) (felt : Bool) (i : Nat) (ph : Bool) : M Unit := do
  let s ← get
  let x := s.grp cx.g
  let b := s.bar x.team felt i
  if b.phase != ph then modify (fun s => s.settleAll cx.g)
  else do
    let k := maskKey felt x.team
    modify (fun s => s.setBar x.team felt i { b with wmask := ins b.wmask k (waiters b k ||| waiterBit x) })
    modG cx.g (fun x => { x with wait := if felt then .fbar i ph else .bar i ph })

/-- A member of the BAR or BAND family: its control word read, its effect, its mark. `d` names the destination, `ends` whether the
member ends its run even where the shadow skips every thread. -/
def syncUnit (z : Bool) (op a : Nat) (l ends : Bool) (body : Cx → W64 → M (Option W64)) (d : Nat) (s : State) :
    Host.Outcome State Fault Refusal :=
  issue z op {} false (fun _ => pure ()) (fun cx => do
    if cx.exe = 0#64 then do
      ignoreMarks cx (countMarks l false)
      return { ends := ends }
    let c ← readS cx a
    applyMarks cx (countMarks l false) (scalarMark l a)
    match ← body cx c with
    | some v => writeS cx d v
    | none => pure ()
    return { ends := ends }) s

/-- BAR.INIT (R288). -/
def execBarInit (f : FA) (s : State) : Host.Outcome State Fault Refusal :=
  syncUnit f.z 0x7D f.a.toNat f.l false (fun cx c => do
    let felt := barF c
    barWord 0x3F100F felt c
    if barCount c == 0 || (if felt then 12 else 32) < barCount c then illegalOperand 1#64
    let s ← get
    let t := (s.grp cx.g).team
    let b := s.bar t felt (barIdx c)
    if b.arrived != 0 || b.wmask.any (fun e => e.2 != 0#32) then illegalOperand 2#64
    set (s.setBar t felt (barIdx c) { b with expect := barCount c })
    return none) 0 s

/-- An arrival with its release (R289), team scope 1 or felt scope 2: the phase it belonged to. -/
def barArrive (cx : Cx) (felt : Bool) (c : W64) : M Bool := do
  barWord 0xF felt c
  waitRelease cx (if felt then 2 else 1)
  let s ← get
  let t := (s.grp cx.g).team
  let ph := (s.bar t felt (barIdx c)).phase
  set (s.arrive t felt (barIdx c))
  return ph
def waitWord (c : W64) (ph : Bool) : W64 := n64 (barIdx c + (if ph then 256 else 0))

/-- BAR.ARV (R288). -/
def execBarArv (f : FS2) (s : State) : Host.Outcome State Fault Refusal :=
  syncUnit f.z 0x7D f.a.toNat f.l false (fun cx c => do return some (waitWord c (← barArrive cx false c))) f.d.toNat s
/-- BAR.FARV (R288). -/
def execBarFarv (f : FS2) (s : State) : Host.Outcome State Fault Refusal :=
  syncUnit f.z 0x7D f.a.toNat f.l false (fun cx c => do return some (waitWord c (← barArrive cx true c))) f.d.toNat s
/-- BAR.WAIT (R288). -/
def execBarWait (f : FA) (s : State) : Host.Outcome State Fault Refusal :=
  syncUnit f.z 0x7D f.a.toNat f.l true (fun cx c => do
    barWord 0x10F false c
    barBlock cx false (barIdx c) (barPh c)
    return none) 0 s
/-- BAR.FWAIT (R288). -/
def execBarFwait (f : FA) (s : State) : Host.Outcome State Fault Refusal :=
  syncUnit f.z 0x7D f.a.toNat f.l true (fun cx c => do
    barWord 0x10F true c
    barBlock cx true (barIdx c) (barPh c)
    return none) 0 s
/-- BAR.SYNC (R288). -/
def execBarSync (f : FA) (s : State) : Host.Outcome State Fault Refusal :=
  syncUnit f.z 0x7D f.a.toNat f.l true (fun cx c => do
    let ph ← barArrive cx false c
    barBlock cx false (barIdx c) ph
    return none) 0 s
/-- BAR.FSYNC (R288). -/
def execBarFsync (f : FA) (s : State) : Host.Outcome State Fault Refusal :=
  syncUnit f.z 0x7D f.a.toNat f.l true (fun cx c => do
    let ph ← barArrive cx true c
    barBlock cx true (barIdx c) ph
    return none) 0 s
/-- BAR.TEST (R288). -/
def execBarTest (f : FS2) (s : State) : Host.Outcome State Fault Refusal :=
  syncUnit f.z 0x7D f.a.toNat f.l false (fun cx c => do
    let felt := barF c
    barWord 0x100F felt c
    let s ← get
    let t := (s.grp cx.g).team
    let b := s.bar t felt (barIdx c)
    return some (n64 (b.arrived + b.expect * 2 ^ 8 + (if b.phase then 2 ^ 16 else 0) + (waiters b (maskKey felt t)).toNat * 2 ^ 32))) f.d.toNat s

/-! ## Bands (R291–R294) -/

def bandIdx (c : W64) : Nat := wbits c 2 0
def bandStage (c : W64) : Nat := wbits c 7 4

/-- A band at placement (R291). -/
def Band.fresh : Band where
  count := 16
  full := 0#16
  phase := 0#16
  wmask := 0#32
def State.band (s : State) (t i : Nat) : Band := (look (s.team t).bands i).getD Band.fresh
def State.setBand (s : State) (t i : Nat) (b : Band) : State := s.modTeam t (fun x => { x with bands := ins x.bands i b })

/-- The test of a TAKE (R293). -/
def bandTest (b : Band) (st : Nat) (ph e : Bool) : Bool := b.full.getLsbD st == !e && b.phase.getLsbD st == ph

/-- The groups that wait on a band whose test now passes. -/
def bandReady (s : State) (t i : Nat) : List (Nat × Group) :=
  s.groups.filter (fun (e : Nat × Group) => match e.2.wait with
    | .band b st ph em => e.2.team == t && b == i && alive e.2 && bandTest (s.band t i) st ph em
    | _ => false)

/-- Every waiter of a band tests again (R293). -/
def State.bandWake (s : State) (t i : Nat) : State :=
  let gs := bandReady s t i
  let b := s.band t i
  gs.foldl (fun s e => s.release e.1) (s.setBand t i { b with wmask := gs.foldl (fun m e => m &&& ~~~(waiterBit e.2)) b.wmask })

/-- The control word of a BAND member; with `stage` the STAGE field is below the band's COUNT. -/
def bandWord (mask : Nat) (stage : Bool) (cx : Cx) (c : W64) : M Unit := do
  let s ← get
  if c.toNat &&& (2 ^ 64 - 1 - mask) != 0 || (stage && decide ((s.band (s.grp cx.g).team (bandIdx c)).count ≤ bandStage c)) then illegalOperand 1#64

/-- BAND.INIT (R293). -/
def execBandInit (f : FA) (s : State) : Host.Outcome State Fault Refusal :=
  syncUnit f.z 0x7E f.a.toNat f.l false (fun cx c => do
    bandWord 0x1F0007 false cx c
    let n := wbits c 20 16
    if n < 2 || 16 < n then illegalOperand 1#64
    let s ← get
    let t := (s.grp cx.g).team
    let b := s.band t (bandIdx c)
    if b.full != 0#16 || b.wmask != 0#32 then illegalOperand 2#64
    set (s.setBand t (bandIdx c) { b with count := n, full := 0#16, phase := 0#16 })
    return none) 0 s

/-- PUT fills a stage, DONE empties it and turns its phase (R293), after their release (R294). -/
def bandTurn (fill : Bool) (cx : Cx) (c : W64) : M (Option W64) := do
  bandWord 0xF7 true cx c
  waitRelease cx 1
  let s ← get
  let t := (s.grp cx.g).team
  let i := bandIdx c
  let b := s.band t i
  if b.full.getLsbD (bandStage c) == fill then illegalOperand 2#64
  let bit : BitVec 16 := 1#16 <<< bandStage c
  set ((s.setBand t i { b with full := b.full ^^^ bit, phase := if fill then b.phase else b.phase ^^^ bit }).bandWake t i)
  return none
/-- BAND.PUT (R293). -/
def execBandPut (f : FA) (s : State) : Host.Outcome State Fault Refusal := syncUnit f.z 0x7E f.a.toNat f.l false (bandTurn true) 0 s
/-- BAND.DONE (R293). -/
def execBandDone (f : FA) (s : State) : Host.Outcome State Fault Refusal := syncUnit f.z 0x7E f.a.toNat f.l false (bandTurn false) 0 s
/-- BAND.TAKE (R293). -/
def execBandTake (f : FA) (s : State) : Host.Outcome State Fault Refusal :=
  syncUnit f.z 0x7E f.a.toNat f.l true (fun cx c => do
    bandWord 0x3F7 true cx c
    let s ← get
    let x := s.grp cx.g
    let b := s.band x.team (bandIdx c)
    if bandTest b (bandStage c) (c.getLsbD 8) (c.getLsbD 9) then set (s.settleAll cx.g)
    else do
      set (s.setBand x.team (bandIdx c) { b with wmask := b.wmask ||| waiterBit x })
      modG cx.g (fun x => { x with wait := .band (bandIdx c) (bandStage c) (c.getLsbD 8) (c.getLsbD 9) })
    return none) 0 s
/-- BAND.TEST (R293). -/
def execBandTest (f : FS2) (s : State) : Host.Outcome State Fault Refusal :=
  syncUnit f.z 0x7E f.a.toNat f.l false (fun cx c => do
    bandWord 0x7 false cx c
    let s ← get
    let b := s.band (s.grp cx.g).team (bandIdx c)
    return some (n64 (b.full.toNat + b.phase.toNat * 2 ^ 16 + b.count * 2 ^ 32))) f.d.toNat s

end Sys2Proof.Machine
end

