-- ==== Sys2Proof/Machine/Tasks.lean ====
section
/-! DEFINITION. Team and task retirement, and the launch queues' consumer (R81, R82, R84–R90, R361–R363). -/

namespace Sys2Proof.Machine

/-! ## Team retirement (R361, R362) -/

-- DEDUCED: log 49
/-- Everything of a team has ended: groups, copies, matrix commands, stores at device scope. -/
def teamQuiet (s : State) (t : Nat) : Bool :=
  let m := s.team t
  !m.retired && !(s.task m.task).again.contains t && m.gids.all (fun g => !alive (s.grp g)) && s.copies.all (fun c => c.team != t)
    && m.mq.all (·.token) && m.gids.all (fun g => (s.grp g).sb.all (fun e => e.acked.getLsbD 4))

/-- A felt whose teams have all retired gives up its rectangle and its barriers. -/
def State.releaseFelt (s : State) (f : Nat) : State :=
  if (s.felt f).teams.all (fun t => (s.team t).retired) then s.modFelt f (fun x => { x with released := true, bars := [] }) else s

/-- A team's slot, stores, barriers, bands and matrix state go back; its groups' pins end. -/
def State.freeTeam (s : State) (t : Nat) : State :=
  let m := s.team t
  let s := m.gids.foldl (fun s g => s.modGrp g (fun x => { x with pinned := [], pinheld := [] })) s
  s.setTeam t { m with resident := false, scr := [], acc := [], bars := [], bands := [], mq := [], chain := none, mdone := [], mstat := 0#64 }
def State.retireTeam (s : State) (t : Nat) : State :=
  let m := s.team t
  let s := (s.freeTeam t).modTeam t (fun x => { x with retired := true })
  (s.modTask m.task (fun x => { x with retired := x.retired + 1 })).releaseFelt m.felt

/-- TEAM_RETIRE (R361). -/
def execTeamRetire (team : Nat) (s : State) : Host.Outcome State Fault Refusal :=
  let s := s.reapChain team
  if (look s.teams team).isSome && teamQuiet s team then event (s.retireTeam team) else event s

/-! ## The steps of the milliner complex on a task's TCB (R84, R85) -/

/-- A step whose access faults is skipped, with a record that carries the task's launch-site pair. -/
def taskTry (t : Task) (body : M Unit) : M Unit := do
  match ← attempt body with
  | .ok _ => pure ()
  | .error (c, k, l, a) => modify (fun s => s.agentRecord t.ld 0#64 c k l a t.site t.seq)

/-- STATE written: the code, the detail of a failed validation, ORPHAN as it was. -/
def writeState (t : Task) (code detail : Nat) : M Unit := do
  let a := t.tcbva + 204#64
  let old ← agentRead t.dom kernelRW 2 a 4
  kwrite t.dom a (toLe 4 (num old 0 4 / 256 % 2 * 256 + code + detail * 65536))

/-- A task that becomes READY enters placement at the tail of its level. -/
def makeReady (k : Nat) : M Unit := do
  let n ← newId
  modify (fun s => s.modTask k (fun t => { t with state := 2, arrival := n, readyAt := s.past.length }))
  let t := (← get).task k
  taskTry t (writeState t 2 0)

/-- The WAITING tasks whose TCB an address names. -/
def State.waitingAt (s : State) (dom : W16) (va : W64) : List Nat :=
  (s.tasks.filter (fun (e : Nat × Task) => e.2.state == 1 && !e.2.ended && s.addrKey e.2.dom e.2.tcbva == s.addrKey dom va)).map (·.1)

/-- One successor's PREDS decremented (R84): 0 stays 0 and sets ORPHAN; reaching 0 launches it. -/
def decPreds (t : Task) (q : W64) : M Unit := do
  let b ← agentRead t.dom kernelRW 3 (q + 200#64) 8
  let n := num b 0 4
  if n == 0 then kwrite t.dom (q + 204#64) (toLe 4 (num b 4 4 / 512 * 512 + 256 + num b 4 4 % 256))
  else do
    kwrite t.dom (q + 200#64) (toLe 4 (n - 1))
    if n == 1 then ((← get).waitingAt t.dom q).forM makeReady

def decOne (t : Task) (q : W64) : M Unit := if q = 0#64 then pure () else taskTry t (decPreds t q)

-- DEDUCED: log 52
/-- The overflow blocks in chain order, each at most once. -/
def walkSucc (t : Task) : Nat → List W64 → W64 → M Unit
  | 0, _, _ => pure ()
  | fuel + 1, seen, va =>
    if va = 0#64 || seen.contains va then pure ()
    else do
      match ← attempt (agentRead t.dom kernelR 3 va 64) with
      | .error (c, k, l, a) => modify (fun s => s.agentRecord t.ld 0#64 c k l a t.site t.seq)
      | .ok b => do
        (List.range 7).forM (fun i => decOne t (word b (8 * i)))
        walkSucc t fuel (seen ++ [va]) (word b 56)

/-- The completion word (R86). -/
def completionWord (code detail : Nat) : W64 := n64 (code + detail * 256)

-- DEDUCED: log 52
/-- Steps 2 and 3 of R85: DONE, and the deposit by a caller in the task's NAMEBASE domain (R298). -/
def tellDone (t : Task) (w : W64) (done : Bool) (deposit : Bool) : M Unit := do
  if done && t.tcb.done != 0#64 then taskTry t (kwrite t.dom t.tcb.done (bytes8 w)) else pure ()
  if deposit && t.tcb.dname != 0#64 then do
    let caller := nameDom t.tcb.namebase
    let _ ← applyName caller t.tcb.dname 0 3 (bits t.tcb.dreg.toNat 3 0) w (t.site, t.seq)
    if t.tcb.dreg.getLsbD 4 then do
      let _ ← applyName caller t.tcb.dname 0 1 0 0#64 (t.site, t.seq)
      pure ()
    else pure ()
  else pure ()

-- DEDUCED: log 52
/-- The retirement of a task (R85). -/
def retireTask (k : Nat) : M Unit := do
  let t := (← get).task k
  let w := completionWord t.completion 0
  modify (fun s => s.modTask k (fun t => { t with state := 4, ended := true }))
  taskTry t (writeState t 4 0)
  tellDone t w true true
  match ← attempt (agentRead t.dom kernelR 2 (t.tcbva + 128#64) 72) with
  | .error (c, kk, l, a) => modify (fun s => s.agentRecord t.ld 0#64 c kk l a t.site t.seq)
  | .ok b => do
    (List.range 8).forM (fun i => decOne t (word b (8 * i)))
    walkSucc t (chainFuel (← get)) [] (word b 64)
  modify (fun s => s.trace t.ld t.dom.toNat 8 evTaskret t.attached 0#64 t.site t.seq 0#64 w 0)

-- DEDUCED: log 52
/-- TASK_RETIRE (R84, R85): every team has retired or counts as retired. -/
def execTaskRetire (task : Nat) (s : State) : Host.Outcome State Fault Refusal :=
  match look s.tasks task with
  | none => event s
  | some t =>
    if (t.state == 2 || t.state == 3) && !t.ended && t.retired == t.tcb.feltN * t.tcb.teams then
      event (s.agent (retireTask task) (fun _ _ _ _ => s))
    else event s

/-! ## Validation (R82) -/

/-- The fields of a TCB's 256 bytes. -/
def Tcb.ofBytes (b : List W8) : Tcb where
  args := word b 232
  dreg := le32 (slice b 224 4)
  dname := word b 216
  done := word b 208
  gdesc := gen 32 (fun g => BitVec.ofNat 16 (num b (64 + 2 * g) 2))
  trapen := le32 (slice b 60 4)
  fpthresh := le32 (slice b 56 4)
  exitarea := word b 48
  spill := word b 40
  namebase := word b 32
  mem := le32 (slice b 28 4)
  budget := le32 (slice b 24 4)
  sched := le32 (slice b 20 4)
  felts := le32 (slice b 16 4)
  shape := le32 (slice b 12 4)
  entry := le32 (slice b 8 4)
  code := word b 0

/-- Room on a partition for groups of a team: slots, trees, floor slices. -/
structure Bin where
  slots : Nat
  trees : Nat
  slices : Nat
  deriving DecidableEq, Repr

-- DESIGN CHOICE: log 57
/-- What a group asks of its partition: trees, floor slices. -/
def Bin.take (b : Bin) (g : Nat × Nat) : Option Bin :=
  if b.slots == 0 || decide (b.trees < g.1) || decide (b.slices < g.2) then none
  else some { slots := b.slots - 1, trees := b.trees - g.1, slices := b.slices - g.2 }

/-- Groups spread over partitions: the partition of each, wherever there is a way. -/
def spread : List (Nat × Nat) → List Bin → Option (List Nat)
  | [], _ => some []
  | g :: gs, bs =>
    (List.range bs.length).findSome? (fun i =>
      match (bs.getD i { slots := 0, trees := 0, slices := 0 }).take g with
      | none => none
      | some b => (spread gs (setAt bs i b)).map (fun r => i :: r))
/-- All groups on one partition (R75). -/
def spreadOne (gs : List (Nat × Nat)) (bs : List Bin) : Option (List Nat) :=
  (List.range bs.length).findSome? (fun i =>
    (spread gs [bs.getD i { slots := 0, trees := 0, slices := 0 }]).map (fun r => r.map (fun _ => i)))
def spreadTeam (copart : Bool) (gs : List (Nat × Nat)) (bs : List Bin) : Option (List Nat) :=
  if copart then spreadOne gs bs else spread gs bs

/-- Floor slices of a group descriptor. -/
def Tcb.floorSlices (t : Tcb) (g : Nat) : Nat := t.floorOf g * slices t.w
def Tcb.asks (t : Tcb) : List (Nat × Nat) := gen t.groups (fun g => (t.treesOf g, t.floorSlices g))

-- DEDUCED: log 54
/-- The offsets of the conditions a TCB fails; `b` holds its bytes, `qdom` is the queue's domain. -/
def tcbFaults (b : List W8) (qdom : W16) : List Nat :=
  let t := Tcb.ofBytes b
  let bad (c : Bool) (o : Nat) : List Nat := if c then [o] else []
  let g := t.groups
  bad (!aligned t.code 256) 0 ++ bad (t.entry.toNat % 4 != 0) 8
    ++ bad (bits t.shape.toNat 31 13 != 0) 13 ++ bad (decide (5 < bits t.shape.toNat 12 10) || bits t.shape.toNat 1 0 == 3) 12
    ++ bad (bits t.mem.toNat 31 19 != 0) 30 ++ bad (bits t.sched.toNat 31 20 != 0) 22 ++ bad (bits t.budget.toNat 31 13 != 0) 25
    ++ bad (bits t.trapen.toNat 31 3 != 0) 60 ++ bad (bits t.dreg.toNat 31 5 != 0) 224
    ++ bad (num b 228 4 != 0) 228 ++ bad (num b 240 16 != 0) 240
    ++ (List.range 32).flatMap (fun i =>
      if i < g then
        bad (bits (t.gd i).toNat 15 12 != 0 || decide (4 < t.treesOf i) || decide (t.floorOf i < 4) || decide (80 < t.floorOf i) || t.roleOf i == 3) (64 + 2 * i)
      else bad (t.gd i != 0#16) 12)
    ++ bad (t.feltN == 0) 16 ++ bad (t.spill == 0#64) 40 ++ bad (decide (12 < t.teams)) 12
    ++ bad (t.budgetN == 0 || decide (4096 < t.budgetN)) 24 ++ bad (decide (384 < bits t.mem.toNat 8 0) || decide (512 < bits t.mem.toNat 18 9)) 28
    ++ bad (spreadTeam t.copart t.asks (List.replicate 8 { slots := 16, trees := 4, slices := t.budgetN })).isNone 12
    ++ bad (decide (2 ^ 48 < wbits t.namebase 47 0 + t.feltN * t.teams * g)) 12
    ++ bad (nameDom t.namebase != qdom) 32 ++ bad (!aligned t.done 8) 208
    ++ bad (t.dname == 0#64 && t.dreg != 0#32) 216

/-! ## Submission (R84, R90) -/

-- DEDUCED: log 54; DESIGN CHOICE: log 108
/-- A submitted TCB, the 256 bytes from its address on: the code of a packet that is rejected, 0 where it is taken. -/
def submitTask (q : Queue) (maxpri : Nat) (va : W64) (site seq : W64) : M Nat := do
  match ← attempt (agentRead q.dom kernelR 2 va 256) with
  | .error _ => return 1
  | .ok b => do
    if num b 204 1 != 0 then return 2
    let tcb := Tcb.ofBytes b
    let t : Task := { Task.blank with
      ld := q.ld, dom := q.dom, tcbva := va, tcb := tcb, state := 1, prio := min (bits tcb.sched.toNat 3 0) maxpri, ended := false
      site := site, seq := seq }
    match lowest (tcbFaults b q.dom) with
    | some o => do
      taskTry t (writeState t 5 o)
      tellDone t (completionWord 1 o) (aligned tcb.done 8) (bits tcb.dreg.toNat 31 5 == 0)
      return 0
    | none => do
      let k ← newId
      modify (fun s => s.setTask k t)
      if num b 200 4 == 0 then makeReady k else taskTry t (writeState t 1 0)
      return 0

-- DEDUCED: log 53
/-- A packet skipped: ERRS and LASTERR (R88). -/
def queueError (dom : W16) (d : W64) (bytes : List W8) (code idx : Nat) : M Unit := do
  kwrite dom (d + 32#64) (toLe 4 (num bytes 32 4 + 1))
  kwrite dom (d + 40#64) (toLe 8 (code + idx * 256))

-- DEDUCED: log 53, 55
/-- A queue that stands still at a slot until it is reset, with its record (R90). -/
def State.stallQueue (s : State) (k : Nat) (q : Queue) (c code lv : Nat) (a : W64) (idx : Nat) : State :=
  { s with queues := adjust s.queues k (fun q => { q with stalled := true }) }.agentRecord q.ld 0#64 c code lv a 0#64 (n64 idx)

-- DEDUCED: log 36
/-- The launch-site pair of a slot: what its producer left, else 0 and the slot's index (R348). -/
def slotSite (q : Queue) (idx : Nat) : W64 × W64 × Nat := (look q.sites idx).getD (0#64, n64 idx, 0)

-- DEDUCED: log 53
/-- The slot at READ: its index, its address and its bytes, or nothing where it is empty, stalled or away. -/
def headSlot (k : Nat) (q : Queue) : M (Option (Nat × List W8 × W64 × List W8)) := do
  match ← attempt (agentRead q.dom kernelRW 2 q.desc 64) with
  | .error (c, code, l, a) => do
    modify (fun s => s.stallQueue k q c code l a 0)
    return none
  | .ok d => do
    let i := num d 24 8
    let slot := word d 0 + n64 (i % 2 ^ bits (num d 8 4) 4 0 * 64)
    match ← attempt (agentRead q.dom kernelRW 3 slot 64) with
    | .error (c, code, l, a) => do
      modify (fun s => s.stallQueue k q c code l a i)
      return none
    | .ok b => return (if num b 0 1 == 0 then none else some (i, d, slot, b))

/-- VALID cleared and READ moved on: the slot is consumed. -/
def slotDone (k : Nat) (q : Queue) (i : Nat) (slot : W64) : M Unit := do
  kwrite q.dom slot [0#8]
  kwrite q.dom (q.desc + 24#64) (toLe 8 (i + 1))
  modify (fun s => { s with queues := adjust s.queues k (fun q => { q with sites := erase q.sites i }) })

/-- A queue that is served: not stalled, and its device in a state that consumes queues (R370, R405). -/
def queueServed (s : State) (q : Queue) : Bool :=
  !q.stalled && (s.ldev q.ld).tdisp != .locked && (s.ldev q.ld).tdisp != .error && decide (1 ≤ s.stage) && s.stage != 15

-- DEDUCED: log 55
/-- One slot of a launch queue (R90). -/
def consumeLaunch (k : Nat) (q : Queue) : M Unit := do
  match ← headSlot k q with
  | none => pure ()
  | some (i, d, slot, b) => do
    let bad := num b 0 1 != 1 || num b 1 7 != 0 || num b 16 48 != 0
    let ps := slotSite q i
    let code ← if bad then pure 1 else submitTask q (bits (num d 8 4) 11 8) (word b 8) ps.1 ps.2.1
    if code == 0 then pure () else queueError q.dom q.desc d code i
    slotDone k q i slot

/-- LAUNCH_PACKET_CONSUME (R90). -/
def execLaunchPacketConsume (queue : Nat) (s : State) : Host.Outcome State Fault Refusal :=
  match look s.queues queue with
  | none => event s
  | some q => if queueServed s q && q.kind == 0 then event (s.agent (consumeLaunch queue q) (fun _ _ _ _ => s)) else event s

end Sys2Proof.Machine
end

