-- ==== Sys2Proof/Machine/Place.lean ====
section
/-! DEFINITION. Pre-emption requests, the placer, felt placement and the drain rule (R87, R96–R98, R351, R358, R359). -/

namespace Sys2Proof.Machine

/-! ## Pre-emption requests (R351, R352) -/

/-- The first place of `n` units below `lim` that meets none of the ranges in use. -/
def gap (n lim : Nat) (used : List (Nat × Nat)) : Option Nat :=
  if n == 0 then some 0
  else (sortN (0 :: used.map (fun u => u.1 + u.2))).find? (fun a => decide (a + n ≤ lim) && used.all (fun u => !rangesMeet a n u.1 u.2))

/-- Bytes of a team record (R356): both allocations, and the synchronisation and matrix state. -/
def teamRecordSize (s : State) (t : Nat) : Nat := s.scratchSize t + s.accSize t + 65536

/-- Space for a record in a device's context pool: its address. -/
def State.reserve (s : State) (ld n : Nat) : Option (W64 × State) :=
  let l := s.ldev ld
  match gap n l.ctxLen l.ctxUsed with
  | none => none
  | some o => some (l.ctxBase + n64 o, s.modLd ld (fun l => { l with ctxUsed := l.ctxUsed ++ [(o, n)] }))
/-- A record's space given back. -/
def State.unreserve (s : State) (ld : Nat) (a : W64) : State :=
  s.modLd ld (fun l => { l with ctxUsed := l.ctxUsed.filter (fun u => l.ctxBase + n64 u.1 != a) })

/-- The run of a group given up at the unit boundary (R352). -/
def State.cutRun (s : State) (g : Nat) : State :=
  let site := siteOf (s.grp g)
  match look s.runs site with
  | some r => if r.gid == g then s.runCut r else s
  | none => s

/-- Record space for each group of a set, which then stops. -/
def State.reserveGroups (s : State) : List Nat → Option State
  | [] => some s
  | g :: gs =>
    let x := s.grp g
    match s.reserve x.ld (recordSize x) with
    | none => none
    | some (a, s) => ((s.modGrp g (fun x => { x with ctxrec := a, stopping := true })).cutRun g).reserveGroups gs

/-- Record space for each team that the set takes wholly off its core. -/
def State.reserveTeams (s : State) : List Nat → Option State
  | [] => some s
  | t :: ts =>
    let m := s.team t
    if m.gids.any (fun g => resident (s.grp g) && !(s.grp g).stopping) then s.reserveTeams ts
    else
      match s.reserve (s.task m.task).ld (teamRecordSize s t) with
      | none => none
      | some (a, s) => (s.modTeam t (fun x => { x with recAddr := a })).reserveTeams ts

/-- A pre-emption request for a set of groups: `none` where the pool has no room for their records. -/
def State.preemptGroups (s : State) (gs : List Nat) : Option State :=
  let set := (gs.filter (fun g => resident (s.grp g) && !(s.grp g).stopping && (s.grp g).mill.isNone)).dedup
  match s.reserveGroups set with
  | none => none
  | some s => s.reserveTeams ((set.map (fun g => (s.grp g).team)).dedup)
def State.tryPreempt (s : State) (gs : List Nat) : State := (s.preemptGroups gs).getD s

/-! ## Resources (R96) -/

/-- The teams that hold a slot of a core. -/
def State.coreTeams (s : State) (core : Nat) : List (Nat × Team) :=
  s.teams.filter (fun (e : Nat × Team) => e.2.core == core && e.2.resident && !e.2.retired)
/-- The teams whose budget a partition has promised: those with a group there, an exited one too until its team retires (R361). -/
def State.admitted (s : State) (site : Nat) : List Nat :=
  ((s.groups.filter (fun (e : Nat × Group) => siteOf e.2 == site && e.2.mill.isNone && (resident e.2
    || (!alive e.2 && (s.team e.2.team).resident && !(s.team e.2.team).retired && (s.team e.2.team).gids.contains e.1)))).map (fun e => e.2.team)).dedup
/-- Budget promised on a partition (R96, R159). -/
def State.promised (s : State) (site : Nat) : Nat := ((s.admitted site).map (fun t => (s.task (s.team t).task).tcb.budgetN)).sum

/-- Room for a team's groups on the partitions of a core. -/
def State.binAt (s : State) (t core p : Nat) : Bin :=
  let site := core * 8 + p
  let gs := s.siteGroups site
  let tcb := (s.task (s.team t).task).tcb
  let mine := gs.filter (fun e => e.2.team == t)
  let elsewhere := tcb.copart && (s.team t).resident && mine.isEmpty && (s.team t).gids.any (fun g => resident (s.grp g))
  let floors := (mine.map (fun e => e.2.floor * slices e.2.w)).sum
  { slots := 16 - gs.length
    trees := 4 - (gs.map (fun e => e.2.trees.length)).sum
    slices := if elsewhere || (!(s.admitted site).contains t && decide (4096 < s.promised site + tcb.budgetN)) then 0
      else min (s.freeSlices site) (tcb.budgetN - floors) }

/-- A group takes the lowest free slot of a partition. -/
def State.seatGroup (s : State) (g core p : Nat) : State :=
  let taken := (s.siteGroups (core * 8 + p)).map (fun e => e.2.slot)
  let slot := ((List.range 16).find? (fun i => !taken.contains i)).getD 0
  s.modGrp g (fun x => { x with core := core, part := p, slot := slot, lane0 := (slot * x.w) % 64, place := .resident, fetched := [] })

-- DESIGN CHOICE: log 57
/-- Groups of a team seated on a core, with the team's slot and stores where it holds none: all of it or nothing. -/
def State.seat (s : State) (t core : Nat) (gids : List Nat) : Option State :=
  let m := s.team t
  let tcb := (s.task m.task).tcb
  let mates := s.coreTeams core
  let room : Option (Nat × Nat) :=
    if m.resident then some (m.scrBase, m.accBase)
    else if 16 ≤ mates.length then none
    else match gap tcb.scratch 1572864 (mates.map (fun e => (e.2.scrBase, s.scratchSize e.1))),
               gap tcb.acc 2097152 (mates.map (fun e => (e.2.accBase, s.accSize e.1))) with
      | some a, some b => some (a, b)
      | _, _ => none
  let asks := gids.map (fun g => ((s.grp g).trees.length, (s.grp g).floor * slices (s.grp g).w))
  match room, spreadTeam tcb.copart asks (gen 8 (fun p => s.binAt t core p)) with
  | some (a, b), some ps =>
    let s := s.setTeam t { m with core := core, resident := true, scrBase := a, accBase := b }
    some ((gids.zip ps).foldl (fun s e => s.seatGroup e.1 core e.2) s)
  | _, _ => none

/-! ## Which cores (R358, R405, R411, R412) -/

def State.dieOpen (s : State) (d : Nat) : Bool := (s.die d).up && !(s.die d).failed && !(s.die d).updating
-- DEDUCED: log 56
/-- A core that takes placements at all (R411, R412). -/
def State.coreOpen (s : State) (core : Nat) : Bool := s.dieOpen (core / 24) && !(s.die (core / 24)).retired.contains core
-- DEDUCED: log 56
/-- A core where a device's teams may be placed: its own, or a lendable one that holds none of its owner's teams. -/
def State.coreFor (s : State) (ld core : Nat) : Bool :=
  s.coreOpen core
    && ((s.ldev ld).slice.contains core
        || (s.lds.any (fun (e : Nat × Ld) => e.1 != ld && e.2.lendable && e.2.slice.contains core && s.ldPart e.1 == s.ldPart ld
              && (s.coreTeams core).all (fun t => (s.task t.2.task).ld != e.1))))

/-- The cores of a rectangle, in peer order; its top-left is the die-local index `tl`. -/
def rectCores (die tl rows cols : Nat) : List Nat :=
  (List.range rows).flatMap (fun i => (List.range cols).map (fun j => die * 24 + tl + 6 * i + j))
-- DESIGN CHOICE: log 57
/-- Every rectangle of a shape: by die, then by top-left core. -/
def rects (rows cols : Nat) : List (Nat × Nat) :=
  (List.range 8).flatMap (fun d => (List.range (5 - rows)).flatMap (fun r => (List.range (7 - cols)).map (fun c => (d, r * 6 + c))))

/-- Whether a task has a felt still to be placed. -/
def feltLeft (t : Task) : Bool := (t.state == 2 || t.state == 3) && !t.ended && decide (t.nextFelt < t.tcb.feltN)

-- DEDUCED: log 56
/-- A core that its owner has reclaimed for a felt still to be placed (R359): no other device's team goes there. -/
def State.coreClaimed (s : State) (ld core : Nat) : Bool :=
  s.reclaims.any (fun e => (s.task e.1).ld != ld && feltLeft (s.task e.1)
    && (rectCores e.2.1 e.2.2 (s.task e.1).tcb.rows (s.task e.1).tcb.cols).contains core)

/-! ## Drainers (R98) -/

def targetCores (s : State) (e : Nat × Nat × Nat × Nat) : List Nat :=
  if e.2.2.2 == 0 then [] else rectCores e.2.1 e.2.2.1 (s.task e.1).tcb.rows (s.task e.1).tcb.cols
-- DEDUCED: log 56
/-- A core held for a drainer of a priority equal or higher: no saved team returns there. -/
def State.coreClosed (s : State) (prio core : Nat) : Bool :=
  s.drainers.any (fun e => decide (prio ≤ (s.task e.1).prio) && (targetCores s e).contains core)
-- DEDUCED: log 56
/-- A core held for such a drainer other than task `k`: no felt of `k` is placed there. -/
def State.coreHeld (s : State) (k prio core : Nat) : Bool :=
  s.drainers.any (fun e => e.1 != k && decide (prio ≤ (s.task e.1).prio) && (targetCores s e).contains core)

-- DESIGN CHOICE: log 57
/-- The target a drainer picks: the rectangle with the most free team slots, of those no equal or higher drainer holds. -/
def State.pickTarget (s : State) (k : Nat) : Option (Nat × Nat) :=
  let t := s.task k
  let free (r : Nat × Nat) : Nat := ((rectCores r.1 r.2 t.tcb.rows t.tcb.cols).map (fun c => 16 - (s.coreTeams c).length)).sum
  ((rects t.tcb.rows t.tcb.cols).filter (fun r =>
    (rectCores r.1 r.2 t.tcb.rows t.tcb.cols).all (fun c => s.coreFor t.ld c && !s.coreHeld k t.prio c))).foldl
      (fun (b : Option (Nat × Nat)) r => match b with
        | none => some r
        | some q => if free q < free r then some r else some q) none

/-- A drainer without a target picks one; a lower drainer whose target it meets loses it. -/
def State.targetFor (s : State) (k : Nat) : State :=
  match s.pickTarget k with
  | none => s
  | some (d, tl) =>
    let mine := rectCores d tl (s.task k).tcb.rows (s.task k).tcb.cols
    { s with drainers := s.drainers.map (fun e =>
        if e.1 == k then (k, d, tl, 1) else if (targetCores s e).any mine.contains then (e.1, 0, 0, 0) else e) }
def State.targetAll (s : State) : State :=
  ((s.drainers.filter (fun e => e.2.2.2 == 0)).foldl (fun ks e =>
      let p (k : Nat) : Nat := (s.task k).prio
      (ks.filter (fun k => p e.1 ≤ p k)) ++ [e.1] ++ (ks.filter (fun k => p k < p e.1))) []).foldl State.targetFor s

/-- DRAIN_LIMIT (R98): the next felt of a task has waited past its limit. -/
def execDrainLimit (task : Nat) (s : State) : Host.Outcome State Fault Refusal :=
  let t := s.task task
  if feltLeft t && bits t.tcb.sched.toNat 19 4 != 0xFFFF && s.drainers.all (fun e => e.1 != task) then
    event ({ s with drainers := s.drainers ++ [(task, 0, 0, 0)] }.targetFor task)
  else event s

/-! ## A team on its core (R97) -/

/-- A group as placement makes it. -/
def newGroup (s : State) (k t g : Nat) : Group :=
  let tk := s.task k
  let c := tk.tcb
  let pos := (s.team t).gridpos
  let cld := (c.trapen.toNat % 4) + (if c.trapen.getLsbD 2 then 0 else 4)
  { Group.blank with
    ld := tk.ld, dom := tk.dom, team := t, task := k, gidx := g, name := c.nameOf pos g, w := c.w, role := c.roleOf g, place := .moving
    started := true, floor := c.floorOf g, sval := [(96, c.args), (97, tk.tcbva)]
    y0 := gen c.w (fun _ => 0#64), y1 := gen c.w (fun _ => 0#64)
    trapmask := n64 cld
    pcs := gen c.w (fun _ => c.code + c.entry.setWidth 64), ages := gen c.w (fun _ => 0)
    trees := gen (c.treesOf g) (fun i => (i, { leaves := [], cut := 4096, status := 0#32 })) }

/-- A team opened on a core: its groups made, seated and named. -/
def State.openTeam (s : State) (k t core : Nat) : Option State :=
  let c := (s.task k).tcb
  let hs := gen c.groups (fun g => s.nextId + g)
  let s1 := (List.range c.groups).foldl (fun s' g => s'.setGrp (lane 0 hs g) (newGroup s k t g)) { s with nextId := s.nextId + c.groups }
  match (s1.modTeam t (fun m => { m with gids := hs, retired := false })).seat t core hs with
  | none => none
  | some s2 =>
    some (hs.foldl (fun s g =>
      let x := s.grp g
      (s.takeName x.name 1 false 0 (locOf x)).traceG g evPlace 0#64 0#64 (locOf x) 0) s2)

/-- Whether one of a team's names has a holder (R87). -/
def namesTaken (s : State) (k pos : Nat) : Bool :=
  let c := (s.task k).tcb
  (List.range c.groups).any (fun g =>
    let st := (s.nameEnt (c.nameOf pos g)).st
    !(st == 0 || st == 6))

/-- A team that is never placed (R87): its free names turn DEAD, the grid's debug agent reports it. -/
def State.neverPlaced (s : State) (k pos : Nat) : State :=
  let t := s.task k
  let c := t.tcb
  let s := (List.range c.groups).foldl (fun s g =>
    let n := c.nameOf pos g
    let st := (s.nameEnt n).st
    if st == 0 || st == 6 then
      let s := s.takeName n 6 true 0 0#64
      (s.joins.filter (fun j => j.target == n)).foldl (fun s j => s.endJoin j 2 0#64) s
    else s) s
  let s := s.modTask k (fun t => { t with retired := t.retired + 1, completion := 3 })
  s.faultRecord t.ld (trapRecord (c.nameOf pos 0) t.site t.seq 0#64 (n64 pos) 0#64 0#64 36 flagAgent 0 8 0)

/-- A task's next felt on a rectangle. -/
def State.feltOn (s : State) (k die tl : Nat) : Option State :=
  let t := s.task k
  let n := t.tcb.teams
  let f := s.nextId
  let hs := gen n (fun i => f + 1 + i)
  let pos (i : Nat) : Nat := t.nextFelt * n + i
  let cores := rectCores die tl t.tcb.rows t.tcb.cols
  let taken := (List.range n).filter (fun i => namesTaken s k (pos i))
  let s1 := (List.range n).foldl (fun s i =>
      s.setTeam (lane 0 hs i) { Team.blank with task := k, gridpos := pos i, felt := f, peer := i, core := lane 0 cores i, retired := taken.contains i })
    ({ s with nextId := f + 1 + n }.setFelt f { Felt.blank with
        task := k, index := t.nextFelt, die := die, row := tl / 6, col := tl % 6, teams := hs, released := false })
  (List.range n).foldl (fun (o : Option State) i =>
    match o with
    | none => none
    | some s => if taken.contains i then some s else s.openTeam k (lane 0 hs i) (lane 0 cores i)) (some s1)
  |>.map (fun s => taken.foldl (fun s i => s.neverPlaced k (pos i)) s)
  |>.map (fun s => (if taken.length == n then s.releaseFelt f else s).modTask k (fun t => { t with nextFelt := t.nextFelt + 1, placed := t.placed || decide (taken.length < n) }))

-- DESIGN CHOICE: log 57
/-- The rectangles a task's felt may take now: a drainer with a target looks at it alone. -/
def State.feltRects (s : State) (k : Nat) : List (Nat × Nat) :=
  let t := s.task k
  let all := match s.drainers.find? (fun e => e.1 == k) with
    | some e => if e.2.2.2 == 0 then rects t.tcb.rows t.tcb.cols else [(e.2.1, e.2.2.1)]
    | none => rects t.tcb.rows t.tcb.cols
  all.filter (fun r => (rectCores r.1 r.2 t.tcb.rows t.tcb.cols).all (fun c => s.coreFor t.ld c && !s.coreHeld k t.prio c && !s.coreClaimed t.ld c))

-- DESIGN CHOICE: log 57
/-- A felt of which no team can be placed needs no rectangle. -/
def State.nextFeltPlaced (s : State) (k : Nat) : Option State :=
  let t := s.task k
  let n := t.tcb.teams
  if (List.range n).all (fun i => namesTaken s k (t.nextFelt * n + i)) then s.feltOn k 0 0
  else (s.feltRects k).findSome? (fun r => s.feltOn k r.1 r.2)

/-- A team that was ended comes back (R262, R350): a felt of several teams keeps its place. -/
def State.teamAgain (s : State) (k t : Nat) : Option State :=
  let m := s.team t
  let f := s.felt m.felt
  let ok (c : Nat) : Bool := s.coreFor (s.task k).ld c && !s.coreClosed (s.task k).prio c && !s.coreClaimed (s.task k).ld c
  let done (s : State) : State := s.modTask k (fun x => { x with again := x.again.filter (· != t) })
  if namesTaken s k m.gridpos then
    some ((done ((s.neverPlaced k m.gridpos).modTeam t (fun m => { m with retired := true }))).releaseFelt m.felt)
  else if 1 < f.teams.length then (if ok m.core then (s.openTeam k t m.core).map done else none)
  else
    ((rects 1 1).filter (fun r => ok (r.1 * 24 + r.2))).findSome? (fun r =>
      (s.openTeam k t (r.1 * 24 + r.2)).map (fun s => (done s).modFelt m.felt (fun f => { f with die := r.1, row := r.2 / 6, col := r.2 % 6 })))
def State.someAgain (s : State) (k : Nat) : Option State := (s.task k).again.findSome? (fun t => s.teamAgain k t)

/-! ## Reclaim (R359) -/

/-- The borrowing teams on a device's cores. -/
def State.borrowers (s : State) (ld : Nat) (cores : List Nat) : List Nat :=
  (s.teams.filter (fun (e : Nat × Team) => e.2.resident && !e.2.retired && cores.contains e.2.core && (s.ldev ld).slice.contains e.2.core
    && (s.task e.2.task).ld != ld)).map (·.1)
/-- The state as if some teams had left. -/
def State.without (s : State) (ts : List Nat) : State :=
  { s with
    teams := s.teams.map (fun (e : Nat × Team) => if ts.contains e.1 then (e.1, { e.2 with resident := false }) else e)
    groups := s.groups.map (fun (e : Nat × Group) => if ts.contains e.2.team && resident e.2 then (e.1, { e.2 with place := .saved }) else e) }
/-- The owner's felt would fit if borrowers left: they are pre-empted, and the cores are kept for the felt. -/
def State.reclaim (s : State) (k : Nat) : State :=
  let t := s.task k
  let cores (r : Nat × Nat) : List Nat := rectCores r.1 r.2 t.tcb.rows t.tcb.cols
  match (s.feltRects k).find? (fun r =>
      !(s.borrowers t.ld (cores r)).isEmpty && ((s.without (s.borrowers t.ld (cores r))).feltOn k r.1 r.2).isSome) with
  | none => s
  | some r =>
    match s.preemptGroups ((s.borrowers t.ld (cores r)).flatMap (fun b => (s.team b).gids)) with
    | none => s
    | some s => { s with reclaims := s.reclaims.filter (fun e => e.1 != k) ++ [(k, r)] }

/-! ## The placer's order (R78, R96) -/

/-- A device whose work may be placed now (R370, R371, R405). -/
def State.placing (s : State) (ld : Nat) : Bool :=
  (s.ldev ld).tdisp != .locked && (s.ldev ld).tdisp != .error && decide (1 ≤ s.stage) && s.stage != 15

/-- The tasks of a device that wait for placement, in the placer's order: priority, then arrival. -/
def State.waitingTasks (s : State) (ld : Nat) : List Nat :=
  let ts := s.tasks.filter (fun (e : Nat × Task) => e.2.ld == ld && (feltLeft e.2 || !e.2.again.isEmpty))
  let lt (a b : Nat × Task) : Bool := decide (b.2.prio < a.2.prio) || (a.2.prio == b.2.prio && decide (a.2.arrival < b.2.arrival))
  (ts.foldl (fun l e => l.filter (fun a => !lt e a) ++ [e] ++ l.filter (lt e)) []).map (·.1)

/-- WAITING tasks whose PREDS is seen to be 0 launch (R81). -/
def launchWaiting (ld : Nat) : M Unit := do
  let s ← get
  ((s.tasks.filter (fun (e : Nat × Task) => e.2.ld == ld && e.2.state == 1 && !e.2.ended))).forM (fun e => do
    match ← attempt (agentRead e.2.dom kernelR 2 (e.2.tcbva + 200#64) 4) with
    | .ok b => if num b 0 4 == 0 then makeReady e.1 else pure ()
    | .error _ => pure ())

-- DESIGN CHOICE: log 57
/-- One task's turn: a team that comes back, or its next felt. -/
def placeTask (k : Nat) : M Bool := do
  let s ← get
  match s.someAgain k with
  | some s' => do
    set s'
    return true
  | none =>
    if !feltLeft (s.task k) then return false
    else match s.nextFeltPlaced k with
      | none => return false
      | some s' => do
        let n := s'.nextId
        set ({ s' with nextId := n + 1, drainers := s'.drainers.filter (fun e => e.1 != k), reclaims := s'.reclaims.filter (fun e => e.1 != k) }.modTask k (fun t => { t with arrival := n }))
        let t := s'.task k
        if t.state == 2 && t.placed then do
          modify (fun s => s.modTask k (fun t => { t with state := 3 }))
          taskTry t (writeState t 3 0)
        else pure ()
        return true

def placeFirst : List Nat → M Bool
  | [] => pure false
  | k :: ks => do
    if ← placeTask k then return true
    else placeFirst ks

-- DEDUCED: log 58
/-- Saved groups of the same device and priority that may come back first (R78). -/
def comesBack (x : Group) : Bool :=
  (x.place == .saved || x.place == .moving) && !x.hold
    && (x.place == .moving || x.sat || x.woken || (match x.wait with | .none => true | .sleep _ => true | _ => false))
-- DEDUCED: log 58
/-- A saved group that the placer takes for eligible, its team's peers being back or its load having come (R225, R295). -/
def eligible (s : State) (x : Group) : Bool :=
  comesBack x || ((x.place == .saved) && !x.hold && (match x.wait with | .peer _ => waitMet s x | _ => false))

end Sys2Proof.Machine
end

