-- ==== Sys2Proof/Machine/Save.lean ====
section
/-! DEFINITION. Saving groups and placing them back (R225, R263, R353–R357, R359). -/

namespace Sys2Proof.Machine

/-! ## The save (R353–R356) -/

/-- A matrix operation that has started holds the save of its group and of those that gave it rows (R263). -/
def matrixHolds (s : State) (g : Nat) : Bool :=
  let t := s.team (s.grp g).team
  t.mq.any (fun c => c.kind == 0 && c.started && !c.token && (contributors t c []).contains g)

-- DEDUCED: log 8, 59
/-- Loads in flight are dropped and become replay entries (R353). -/
def dropLoads (x : Group) : Group :=
  { x with ops := x.ops.map (fun o => if o.ready || o.again == .done then o else { o with work := o.again }) }

-- DESIGN CHOICE: log 35
/-- A team record's bytes, whose layout is the implementation's. -/
def writeTeamRecord (t : Nat) : M Unit := do
  let s ← get
  let n := teamRecordSize s t
  set { s with fresh := s.fresh + n }
  kwrite (domBase (s.task (s.team t).task).ld) (s.team t).recAddr (gen n (fun i => (Config.freeWord (s.fresh + i)).setWidth 8))

/-- The groups of a team whose records lie in the context pool. -/
def State.awayOf (s : State) (t : Nat) : List Nat := (s.team t).gids.filter (fun g => ((s.grp g).place == .saved) || ((s.grp g).place == .moving))

-- DESIGN CHOICE: log 35; DEDUCED: log 58, 59
/-- A group leaves its core: its name turns SAVED, or MOVING where it is to be placed again at once. -/
def saveNow (g : Nat) : M Unit := do
  modG g dropLoads
  let moves ← freeChoice
  let s ← get
  let x := s.grp g
  let away := moves && x.wait == .none && !x.hold && !x.halted && !x.dstop
  modG g (fun x => { x with place := if away then .moving else .saved, stopping := false, saves := satAdd x.saves 1, stalled := false, woken := false, fetched := [] })
  let s ← get
  let m := s.team x.team
  let last := m.gids.all (fun h => !resident (s.grp h))
  if last then do
    modify (fun s => s.modTeam x.team (fun m => { m with resident := false }))
    writeTeamRecord x.team
    ((s.awayOf x.team).filter (· != g)).forM writeRecord
  else pure ()
  modG g (fun x => if x.wait == .xlat [] 1 && waitMet s x then { x with sat := true } else x)
  writeRecord g
  modify (fun s =>
    let e := s.nameEnt x.name
    let s := if e.st == 1 then s.setName x.name { e with st := if away then 3 else 2, loc := x.ctxrec } else s
    s.traceG g evSave 0#64 0#64 x.ctxrec 0)

-- DEDUCED: log 59
/-- SAVE_GROUP (R353): a group that stops, once nothing it has outstanding holds it. -/
def execSaveGroup (gid : Nat) (s : State) : Host.Outcome State Fault Refusal :=
  let x := s.grp gid
  if x.stopping && resident x && !matrixHolds s gid then event (s.agent (saveNow gid) (fun _ _ _ _ => s)) else event s

-- DESIGN CHOICE: log 97
/-- PARK_TIMEOUT (R225): a group suspended for the host, or blocked on a load from CXL memory, for 20 µs. -/
def execParkTimeout (gid : Nat) (s : State) : Host.Outcome State Fault Refusal :=
  let x := s.grp gid
  let suspended := match x.wait with | .xlat (_ :: _) _ => true | _ => false
  let onCxl := x.stalled && x.ops.any (fun o => o.kind == .cxlLoad && !o.ready)
  if resident x && !x.stopping && x.mill.isNone && (suspended || onCxl) then
    event (match s.preemptGroups [gid] with
      | none => s
      | some s => if onCxl then s.modGrp gid (fun x => { x with wait := .xlat [] 1 }) else s)
  else event s

/-! ## The return (R356, R357) -/

-- DESIGN CHOICE: log 35
/-- Registers no party can answer for: the record was written by another (R355). -/
def scramble (g : Nat) : M Unit := do
  let f ← freeWords (64 * 256)
  let row (r t : Nat) : W64 := f (64 * r + t)
  modG g (fun x =>
    { x with
      vval := x.vval.map (fun (e : Nat × List W32) => (e.1, gen x.w (fun t => (row e.1 t).setWidth 32)))
      sval := x.sval.map (fun (e : Nat × W64) => (e.1, row e.1 0))
      q := x.q.map (fun (e : Nat × List W32) => (e.1, gen x.w (fun t => (row (200 + e.1) t).setWidth 32)))
      p := x.p.map (fun (e : Nat × W64) => (e.1, row 210 e.1))
      y0 := gen x.w (row 220), y1 := gen x.w (row 221)
      lc := gen 3 (row 222)
      pcs := gen x.w (fun t => row 223 t &&& ~~~3#64) })

/-- Registers spilled at a restore; a fault halts the group (R83). -/
def spillOrHalt (g : Nat) : List (Bool × Nat) → M Unit
  | [] => pure ()
  | (copy, r) :: rest => fun s =>
    match (spillReg g copy r).run s with
    | .ok (_, s') => (spillOrHalt g rest).run s'
    | .error (.spillFault c k l a) =>
      .ok ((), s.halt g { cause := c, info := 0#64, pc := leadPc (s.grp g), set := activeSet (s.grp g), code := k, level := l, addr := a
                          sitePc := leadPc (s.grp g), siteSeq := (s.grp g).cmdseq } false)
    | .error e => .error e

/-- Registers are mapped in ascending number: those beyond the floor that free cannot cover become SPILLED (R167). -/
def spillBeyond (g : Nat) : M Unit := do
  let s ← get
  let x := s.grp g
  let free := (s.modGrp g (fun y => { y with place := .saved })).freeSlices (siteOf x)
  let beyond := entries x - max x.floor (free / slices x.w)
  let regs := (sortN ((x.vval.map (·.1)).filter (fun r => !x.spilled.contains r && !awaits x r && !x.wspill.contains r))).reverse
  let copies := ((spillableCopies x).filter (fun r => !x.spilled.contains r && !regs.contains r)).reverse
  spillOrHalt g ((regs.map (fun r => (false, r)) ++ copies.map (fun r => (true, r))).take beyond)

/-- A wait that was satisfied while its group was away (R297, R304). -/
def endSatisfied (x : Group) : Group :=
  let y := { x with sat := false, woken := false }
  if x.sat then (if inNwait x then endNwait y x.latch false else { y with wait := .none }) else y

-- DESIGN CHOICE: log 35; DEDUCED: log 59, 60
/-- What comes back before a placed group's first run: its registers, its replay entries carried out in program order, its name
deliveries (R357). -/
def comeBack (g : Nat) : M Unit := do
  let s ← get
  let x := s.grp g
  let e := s.nameEnt x.name
  match ← attempt (kread (domBase x.ld) (if e.st == 0 then x.ctxrec else e.loc) x.ctximg.length) with
  | .ok bs => if bs == x.ctximg then pure () else scramble g
  | .error _ => scramble g
  spillBeyond g
  carryOps g (← get).nextId
  let s ← get
  let s := (s.settleAll g).modGrp g endSatisfied
  let s := if e.st == 0 then s else s.setName x.name { e with st := 1, loc := locOf x }
  let s := (s.parked.filter (fun p => p.1 == x.name)).foldl (fun s p => s.reach g p.2.1 p.2.2.1 p.2.2.2) s
  let s := ({ s with parked := s.parked.filter (fun p => p.1 != x.name) }.unreserve x.ld x.ctxrec).modGrp g (fun x => { x with ctxrec := 0#64, ctximg := [] })
  set (s.traceG g evRestore 0#64 0#64 (locOf x) 0)

/-- A core where a saved team may return: open to it, held for no equal or higher drainer and reclaimed for no other device. -/
def State.returnCore (s : State) (k core : Nat) : Bool :=
  s.coreFor (s.task k).ld core && !s.coreClosed (s.task k).prio core && !s.coreClaimed (s.task k).ld core

/-- The saved groups of a team that no HOLD keeps away. -/
def State.savedOf (s : State) (t : Nat) : List Nat :=
  (s.awayOf t).filter (fun g => !(s.grp g).hold)

/-- The state with a saved group's team at its core, and the groups that came back. -/
def State.returnTo (s : State) (t core : Nat) (gids : List Nat) : Option (State × List Nat) :=
  let m := s.team t
  (s.seat t core gids).map (fun s =>
    (if m.resident then s else (s.unreserve (s.task m.task).ld m.recAddr).modTeam t (fun m => { m with recAddr := 0#64 }), gids))

/-- Where and with whom a saved group comes back: to its team's core; a felt of one team to any core; a felt whose teams are all
saved to another rectangle as a whole (R356). -/
def State.returnGroup (s : State) (g : Nat) : Option (State × List Nat) :=
  let x := s.grp g
  let m := s.team x.team
  let f := s.felt m.felt
  let tcb := (s.task x.task).tcb
  if m.resident then (if s.coreOpen m.core then s.returnTo x.team m.core [g] else none)
  else if f.teams.length ≤ 1 then
    ((rects 1 1).filter (fun r => s.returnCore x.task (r.1 * 24 + r.2))).findSome? (fun r =>
      (s.returnTo x.team (r.1 * 24 + r.2) [g]).map (fun o => (o.1.modFelt m.felt (fun f => { f with die := r.1, row := r.2 / 6, col := r.2 % 6 }), o.2)))
  else if s.returnCore x.task m.core then s.returnTo x.team m.core [g]
  else if f.teams.any (fun t => (s.team t).resident) then none
  else
    ((rects tcb.rows tcb.cols).filter (fun r => (rectCores r.1 r.2 tcb.rows tcb.cols).all (s.returnCore x.task))).findSome? (fun r =>
      let cores := rectCores r.1 r.2 tcb.rows tcb.cols
      ((List.range f.teams.length).foldl (fun (o : Option (State × List Nat)) i =>
        match o with
        | none => none
        | some (s, gs) =>
          let t := lane 0 f.teams i
          if (s.team t).retired then some (s, gs) else (s.returnTo t (lane 0 cores i) (s.savedOf t)).map (fun p => (p.1, gs ++ p.2))) (some (s, [])))
      |>.map (fun o => (o.1.modFelt m.felt (fun f => { f with die := r.1, row := r.2 / 6, col := r.2 % 6 }), o.2)))

/-- A team of a felt that must leave its place: the felt's other teams are saved too (R356). -/
def State.pullFelt (s : State) (g : Nat) : State :=
  let x := s.grp g
  let m := s.team x.team
  let f := s.felt m.felt
  if !m.resident && decide (1 < f.teams.length) && !s.coreFor x.ld m.core then s.tryPreempt (f.teams.flatMap (fun t => (s.team t).gids)) else s

/-- PLACE_SAVED_GROUP (R357). -/
def execPlaceSavedGroup (gid : Nat) (s : State) : Host.Outcome State Fault Refusal :=
  let x := s.grp gid
  if eligible s x && s.placing x.ld && !(s.task x.task).ended then
    match s.returnGroup gid with
    | some (s', gs) => event (s.agent (do
        set s'
        gs.forM comeBack
        (((gs.map (fun g => (s.grp g).team)).dedup.filter (fun t => !(s.team t).resident)).flatMap (fun t => s'.awayOf t)).forM writeRecord) (fun _ _ _ _ => s))
    | none => event (s.pullFelt gid)
  else event s

/-! ## FELT_PLACEMENT (R78, R96) -/

-- DEDUCED: log 58
/-- A saved group of a task's device and priority that can come back now goes first. -/
def State.savedFirst (s : State) (k : Nat) : Bool :=
  s.groups.any (fun (e : Nat × Group) => eligible s e.2 && e.2.ld == (s.task k).ld && (s.task e.2.task).prio == (s.task k).prio && (s.returnGroup e.1).isSome)

/-- A felt, a team that comes back, or what must come before one. -/
def placement (ld : Nat) : M Unit := do
  launchWaiting ld
  modify State.targetAll
  let s ← get
  let ks := (s.waitingTasks ld).filter (fun k => !s.savedFirst k)
  if ← placeFirst ks then pure ()
  else modify (fun s => ks.foldl (fun s k => if feltLeft (s.task k) then s.reclaim k else s) s)

/-- FELT_PLACEMENT (R96). -/
def execFeltPlacement (ld : Fin 16) (s : State) : Host.Outcome State Fault Refusal :=
  if s.placing ld.val then event (s.agent (placement ld.val) (fun _ _ _ _ => s)) else event s

end Sys2Proof.Machine
end

