-- ==== Sys2Proof/Machine/Ports.lean ====
section
/-! DEFINITION. The name ports (R314–R316). -/

namespace Sys2Proof.Machine

/-- What of the module answers at all (R370, R405). -/
def State.serving (s : State) (ld : Nat) : Bool := (s.stage == 1 || s.stage == 2) && (s.ldev ld).tdisp != .error

-- DEDUCED: log 61
/-- Whether a request's fields break its layout (R314, R315): `op` is 1 WAKE, 2 SIG, 3 DEP, 4 JOIN, 5 CLEAR, and any other is reserved. -/
def portBad (op : Nat) (r : PortReq) : Bool :=
  decide (5 < op) || r.rsv != 0#64 || (if op == 3 then decide (16 ≤ r.reg.toNat) else r.reg != 0#8) || (op != 2 && op != 3 && r.value != 0#64)
    || (op != 4 && r.time != 0#64) || (op == 5 && r.name != 0#64)

-- DEDUCED: log 61
/-- CLEAR (R315): SIG and DEPMASK of the port's own block, read and cleared; the status and the value. -/
def clearBlock (n : W64) : M (Nat × W64) := do
  let s ← get
  let e := s.nameEnt n
  match ← attempt (do
      let b ← agentRead (nameDom n) kernelRW 2 (e.loc + 16#64) 16
      kwrite (nameDom n) (e.loc + 16#64) (List.replicate 16 0#8)
      return b) with
  | .ok b =>
    if s.hostFresh.contains n then return (0, 0#64) else return (0, n64 (num b 0 4 + num b 8 4 * 2 ^ 32))
  | .error _ => return (8, 0#64)

/-- JOIN (R315): the record now, or a join that waits. -/
def portJoin (ld : Nat) (own : W64) (r : PortReq) : M Unit := do
  let s ← get
  let dom := nameDom own
  let give (st : Nat) (v : W64) : M Unit := set (s.portRecord ld dom r.caddr r.ticket st v)
  match s.resolve dom r.name r.gen.toNat 3 with
  | .error st => give st 0#64
  | .ok e =>
    if r.name = own then give 6 0#64
    else if e.st == 6 then give (if e.killed then 2 else 0) e.loc
    else if 4096 ≤ joinsOf s ld then give 5 0#64
    else do
      let j : Join := { ld := ld, target := r.name, gid := none, dom := dom, port := r.port.val, ticket := r.ticket, caddr := r.caddr, limit := r.time.toNat }
      set { s with joins := s.joins ++ [j] }

/-- One request of a bound port. -/
def portRun (ld : Nat) (own : W64) (op : Nat) (r : PortReq) : M Unit := do
  let rec' (st : Nat) (v : W64) : M Unit := modify (fun s => s.portRecord ld (nameDom own) r.caddr r.ticket st v)
  if portBad op r then rec' 7 0#64
  else if op == 4 then portJoin ld own r
  else if op == 5 then do
    let (st, v) ← clearBlock own
    rec' st v
  else do
    let st ← applyName (nameDom own) r.name r.gen.toNat op r.reg.toNat (if op == 2 then r.value &&& 0xFFFFFFFF#64 else r.value)
    rec' st 0#64

-- DEDUCED: log 61
/-- A request that arrives while an earlier one of its port waits for the host waits behind it. -/
def State.portAt (s : State) (ld op : Nat) (r : PortReq) : State :=
  match look (s.ldev ld).ports r.port.val with
  | none => s.modLd ld (fun l => { l with portErr := l.portErr + 1 })
  | some own =>
    if !aligned r.caddr 16 then s.modLd ld (fun l => { l with portErr := l.portErr + 1 })
    else match runAgent s (portRun ld own op r) with
      | .done s' => s'
      | .wait s' => { s' with pend := s'.pend ++ [.port ld op r] }
      | .failed _ k _ _ => s.undeny k
-- DEDUCED: log 61
def State.portReq (s : State) (ld op : Nat) (r : PortReq) : State :=
  if !s.serving ld then s
  else if s.pend.any (fun p => match p with | .port l _ q => l == ld && q.port == r.port | _ => false) then
    { s with pend := s.pend ++ [.port ld op r] }
  else s.portAt ld op r

/-- WAKE (R315). -/
def execWake (ld : Fin 16) (r : PortReq) (s : State) : Host.Outcome State Fault Refusal := event (s.portReq ld.val 1 r)
/-- SIG (R315). -/
def execSig (ld : Fin 16) (r : PortReq) (s : State) : Host.Outcome State Fault Refusal := event (s.portReq ld.val 2 r)
/-- DEP (R315). -/
def execDep (ld : Fin 16) (r : PortReq) (s : State) : Host.Outcome State Fault Refusal := event (s.portReq ld.val 3 r)
/-- JOIN (R315). -/
def execJoin (ld : Fin 16) (r : PortReq) (s : State) : Host.Outcome State Fault Refusal := event (s.portReq ld.val 4 r)
/-- CLEAR (R315). -/
def execClear (ld : Fin 16) (r : PortReq) (s : State) : Host.Outcome State Fault Refusal := event (s.portReq ld.val 5 r)

/-- PORT_JOIN_TIMEOUT (R315): the limit of a port's join has passed on the I/O die. -/
def execPortJoinTimeout (ld : Fin 16) (port : Fin 4096) (ticket : W32) (s : State) : Host.Outcome State Fault Refusal :=
  match s.joins.find? (fun j => j.gid == none && j.ld == ld.val && j.port == port.val && j.ticket == ticket && j.limit != 0) with
  | some j => event ((s.elapse 8 (1000 * j.limit)).endJoin j 6 0#64)
  | none => event s

end Sys2Proof.Machine
end

