-- ==== Sys2Proof/Machine/Inval.lean ====
section
/-! DEFINITION. The invalidation port and the host's ATS invalidations (R214–R217, R222, R337). -/

namespace Sys2Proof.Machine

/-! ## Accepting a command (R215) -/

/-- One command accepted: with a misaligned DONE it is counted and forgotten. -/
def State.acceptInval (s : State) (ld kind : Nat) (c : InvCmd) : State :=
  if !s.serving ld then s
  else if !aligned c.done 16 then s.modLd ld (fun l => { l with invErr := l.invErr + 1 })
  else
    let bad := c.rsv != 0#64 || decide (2 < kind) || (decide (kind ≤ 1) && domLd c.domain != ld)
    s.modLd ld (fun l => { l with invals := l.invals ++ [{ kind := kind, dom := c.domain, start := c.start, len := c.len, done := c.done, bad := bad }] })

/-- INVALIDATE_RANGE (R215). -/
def execInvalidateRange (ld : Fin 16) (c : InvCmd) (s : State) : Host.Outcome State Fault Refusal := event (s.acceptInval ld.val 0 c)
/-- INVALIDATE_DOMAIN (R215). -/
def execInvalidateDomain (ld : Fin 16) (c : InvCmd) (s : State) : Host.Outcome State Fault Refusal := event (s.acceptInval ld.val 1 c)
/-- INVALIDATE_ALL (R215). -/
def execInvalidateAll (ld : Fin 16) (c : InvCmd) (s : State) : Host.Outcome State Fault Refusal := event (s.acceptInval ld.val 2 c)

/-! ## Completion (R216, R217) -/

/-- Whether a command covers the leaf that an address of a domain used. -/
def Inval.covers (v : Inval) (ld : Nat) (dom : W16) (va size : Nat) : Bool :=
  domLd dom == ld && (v.kind == 2 || (v.dom == dom && (v.kind == 1 || (v.len != 0#64 && rangesMeet va size v.start.toNat v.len.toNat))))
/-- An entry is covered where it lies on the walk to any byte of the range; the smallest leaf is 32 KiB, the level of a used one is not
kept. -/
def Inval.coversEnt (v : Inval) (ld : Nat) (e : TlbEnt) : Bool := v.covers ld e.dom e.va (2 ^ entBits e.level)

-- DEDUCED: log 62
/-- Whether an access's leaf is covered: through any leaf that maps the address. -/
def usedCovered (s : State) (v : Inval) (ld : Nat) (u : Used) : Bool :=
  decide (u.va < 0xFFFFFF0000000000) &&
    ((s.tlb.filter (fun e => e.dom == u.dom && e.va / 2 ^ leafBits e.level == u.va / 2 ^ leafBits e.level)).any (v.coversEnt ld)
      || v.covers ld u.dom (u.va / 32768 * 32768) 32768)

/-- A store that is acknowledged as far as an invalidation waits for: device scope, system scope for host and CXL frames. -/
def entryDone (e : SbEntry) : Bool :=
  e.acked.getLsbD (if e.writes.any (fun w => match w.1 with | .host _ _ => true | .cxl _ _ => true | _ => false) then 5 else 4)

/-- What a group still has outstanding under covered translations: operations and store-buffer entries. -/
def coveredItems (x : Group) (cov : Used → Bool) : List Nat × List Nat :=
  ((x.ops.filter (fun o => !o.ready && o.used.any cov)).map (·.id), (x.sb.filter (fun e => !entryDone e && e.used.any cov)).map (·.id))

-- DEDUCED: log 62
/-- The covered entries of a saved group carried out from its context (R217), each operation after the group's earlier ones. -/
def carryOut (g : Nat) (cov : Used → Bool) : M Unit := do
  let (os, es) := coveredItems (← getG g) cov
  modify (fun s => es.foldl (fun s i => s.landInOrder g i) s)
  os.forM (carryOps g)
  modG g (fun x => { x with sb := x.sb.filter (fun e => !(es.contains e.id && e.landed)) })
-- DEDUCED: log 62
/-- Whether nothing of a saved group is left to carry out. -/
def carried (x : Group) (cov : Used → Bool) : Bool :=
  x.ops.all (fun o => o.work == .done || o.work == .command || !o.used.any cov) && x.sb.all (fun e => e.landed || !e.used.any cov)

def isAway (x : Group) : Bool := !inPlace x
-- DEDUCED: log 62
/-- Whether groups in place have nothing outstanding under covered translations. -/
def allReturned (s : State) (cov : Used → Bool) : Bool :=
  s.groups.all (fun (e : Nat × Group) => isAway e.2 || ((coveredItems e.2 cov).1.isEmpty && (coveredItems e.2 cov).2.isEmpty))
-- DEDUCED: log 62
/-- The covered entries of every saved group carried out: the state after, and whether none is left. -/
def State.carryAll (s : State) (cov : Used → Bool) : State × Bool :=
  let s := s.agent (((s.groups.filter (fun (e : Nat × Group) => isAway e.2)).map (·.1)).forM (fun g => carryOut g cov)) (fun _ _ _ _ => s)
  (s, s.groups.all (fun (e : Nat × Group) => !isAway e.2 || carried e.2 cov))
-- DEDUCED: log 62
/-- Whether no copy command holds a chunk that was read under a covered translation and has still to land (R216, R234). -/
def copiesLanded (s : State) (cov : Used → Bool) : Bool :=
  s.copies.all (fun c => c.heldRanges.all (fun (e : Nat × List (W64 × Nat)) => e.2.all (fun r =>
    let u (a : W64) : Used := { ld := c.ld, dom := c.dom, va := a.toNat, pasid := none, page := 0 }
    !cov (u r.1) && !cov (u (r.1 + n64 (r.2 - 1))))))

-- DESIGN CHOICE: log 13
/-- A keep leaf that is no longer what it was (R337): type, frame or validity. -/
def leafMoved (s : State) (e : TlbEnt) : Bool :=
  match s.walk e.dom e.va with
  | .ok (p, lv) => lv != e.level || bits p.toNat 4 2 != 3 || bits p.toNat 56 15 != bits e.pte.toNat 56 15
  | .error _ => true
/-- The cells of a frame lose their home state, but for sibling 0's value. -/
def State.forgetFrame (s : State) (frame size : Nat) : State :=
  (s.keeps.filter (fun (e : Nat × Keep) => decide (frame ≤ e.1) && decide (e.1 < frame + size))).foldl (fun s e => s.keepForget e.1) s
def State.forgetLeaves (s : State) (v : Inval) (ld : Nat) : State :=
  let gone := s.keepLeaves.filter (fun e => v.coversEnt ld e && leafMoved s e)
  let s := gone.foldl (fun s e => s.forgetFrame (bits e.pte.toNat 56 15 * 2 ^ 15) (2 ^ leafBits e.level)) s
  { s with keepLeaves := s.keepLeaves.filter (fun e => !gone.contains e) }

/-- The record of a command: TICKET and STATUS. -/
def invRecord (v : Inval) : List W8 := (if v.kind == 0 then bytes8 v.start else List.replicate 8 0#8) ++ toLe 8 (if v.bad then 1 else 0)

-- DEDUCED: log 62
/-- INVALIDATION_COMPLETE (R216): the oldest command of a device, once every access under a covered entry is over. -/
def execInvalidationComplete (ld : Fin 16) (s : State) : Host.Outcome State Fault Refusal :=
  match (s.ldev ld.val).invals with
  | [] => event s
  | v :: rest =>
    let tell (s : State) : State :=
      (s.modLd ld.val (fun l => { l with invals := rest })).putRecord ld.val (domBase ld.val) [(v.done, invRecord v)] 0
    let s1 := { s with tlb := s.tlb.filter (fun e => !v.coversEnt ld.val e), walks := s.walks.filter (fun e => !v.coversEnt ld.val e) }
    let cov := usedCovered s v ld.val
    if v.bad then event (tell s)
    else if !allReturned s cov || !copiesLanded s cov then event s
    else
      let (s2, all) := s1.carryAll cov
      event (if all then tell (s2.forgetLeaves v ld.val) else s2)

/-! ## The host's invalidations (R222) -/

/-- Whether two ranges of a PASID's pages meet. -/
def atsMeets (pasid : BitVec 20) (page : W64) (log2 : Nat) (p : BitVec 20) (a n : Nat) : Bool :=
  p == pasid && rangesMeet (page.toNat / 2 ^ log2 * 2 ^ log2) (2 ^ log2) a n

/-- ATS_INVALIDATE_REQUEST (R222): matching entries go; at most 32 wait. -/
def execAtsInvalidateRequest (ld : Fin 16) (pasid : BitVec 20) (page : W64) (log2 : Nat) (s : State) : Host.Outcome State Fault Refusal :=
  let n := max 12 log2
  let s := { s with atc := s.atc.filter (fun e => !(e.ld == ld.val && atsMeets pasid page n e.pasid e.page (2 ^ e.log2))) }
  if 32 ≤ (s.ldev ld.val).atsInvals.length then event s
  else event (s.modLd ld.val (fun l => { l with atsInvals := l.atsInvals ++ [{ pasid := pasid, page := page, log2 := n }] }))

-- DEDUCED: log 62
/-- ATS_INVALIDATE_COMPLETION (R222): loads and atomics under the entry are over, stores have left; saved ones are carried out. -/
def execAtsInvalidateCompletion (ld : Fin 16) (s : State) : Host.Outcome State Fault Refusal :=
  match (s.ldev ld.val).atsInvals with
  | [] => event s
  | v :: rest =>
    let cov (u : Used) : Bool := u.ld == ld.val && (match u.pasid with | some p => atsMeets v.pasid v.page v.log2 p u.page 1 | none => false)
    let left (x : Group) : Bool := x.ops.all (fun o => o.ready || !o.used.any cov) && x.sb.all (fun e => e.landed || !e.used.any cov)
    if s.groups.all (fun (e : Nat × Group) => isAway e.2 || left e.2) then
      let (s2, all) := s.carryAll cov
      event (if all then (s2.modLd ld.val (fun l => { l with atsInvals := rest })).emit (.atsDone ld.val) else s2)
    else event s

end Sys2Proof.Machine
end

