-- ==== Sys2Proof/Machine/CopyQueue.lean ====
section
/-! DEFINITION. The copy queues and the dies' shared engines (R226, R242, R243, R376, R381–R383). -/

namespace Sys2Proof.Machine

/-! ## The end of a queued command (R235, R242) -/

-- DEDUCED: log 51, 69
/-- COPY_FAULT of a queued command: to the group that appended it, if it has not exited, else to the grid's debug agent. -/
def State.queuedFault (s : State) (c : Copy) (tok : W64) (detail : W64) : State :=
  match look s.groups c.gid with
  | some x =>
    if alive x then s.postEvent c.gid { cause := 34, info := tok, detail := detail, site := c.site, seq := c.seq }
    else s.faultRecord c.ld (trapRecord x.name c.site c.seq 0#64 tok 0#64 detail 34 (flagImp + flagAgent) (wbits x.gstatus 4 0) (dieOf x) 0)
  | none => s.faultRecord c.ld (trapRecord c.name c.site c.seq 0#64 tok 0#64 detail 34 (flagImp + flagAgent) 0 8 0)

/-- A token deposited into the packet's NAME, waking it where it asks for that. -/
def depositToken (dom : W16) (n : W64) (pk : List W8) (tok : W64) : M Unit := do
  let _ ← applyName dom n 0 3 (num pk 5 1 % 16) tok
  if bits (num pk 5 1) 4 4 == 1 then do
    let _ ← applyName dom n 0 1 0 0#64
    pure ()
  else pure ()

-- DEDUCED: log 69
/-- A queued command ends with a token. -/
def endQueued (c : Copy) (tok : W64) (detail : W64) : M Unit := do
  modify (fun s => { s with copies := s.copies.filter (fun d => d.id != c.id) })
  depositToken c.dom c.name c.pk tok
  modify (fun s =>
    let s := s.trace c.ld c.dom.toNat c.die evCopyend (s.task (s.team c.team).task).attached c.name c.site c.seq 0#64 tok 0
    if tok.toNat % 256 == 2 then s.queuedFault c tok detail else s)
-- DEDUCED: log 69
def finishQueued (c : Copy) : M Unit :=
  endQueued c (copyStatus c) (match c.fault with | some (_, 2, x) => x | _ => 0#64)

/-! ## COPY_QUEUE_CONSUME (R242) -/

-- DEDUCED: log 69
/-- A command as the engines take it into service. -/
def queuedCopy (k : Nat) (q : Queue) (i : Nat) (slot : W64) (b : List W8) (prio id team : Nat) (recv : List Nat) : Copy :=
  let ps := slotSite q i
  { id := id, queue := some k, slot := i, gid := ps.2.2, name := word b 56, ld := q.ld, dom := q.dom, core := 0, die := q.die, site := ps.1, seq := ps.2.1
    pk := b, pkva := slot, team := team, receivers := recv, started := false, cleared := false, index := []
    left := recv.map (fun t => (t, List.range (pkChunks b))), heldData := [], sparse := none, cancel := false, fault := none, susp := 0
    prio := prio, turn := 0, fabric := q.peer.isSome, awaiting := [], spoilt := [] }

/-- What a fabric queue's packet may not be (R381, R382). -/
def fabricBad (q : Queue) (b : List W8) : Bool :=
  match q.peer with
  | none => false
  | some p => !(pkKind b == 0 || pkKind b == 3) || (Config.peerAppend p q.window && pkKind b == 3 && pkRb b != 64)

-- DEDUCED: log 55
/-- A good packet's name resolved (R242, steps 1 to 3): in service, or over at once. -/
def takePacket (k : Nat) (q : Queue) (d : List W8) (i : Nat) (slot : W64) (b : List W8) : M Unit := do
  let s ← get
  let id ← newId
  let prio := min (pkPrio b) (bits (num d 8 4) 11 8)
  let c := queuedCopy k q i slot b prio id 0 []
  match s.resolve q.dom (word b 56) 0 2 with
  | .error _ => do
    queueError q.dom q.desc d 3 i
    modify (fun s => s.queuedFault { c with gid := 0 } (copyToken c 2 0 1) 0#64)
  | .ok e =>
    if e.st == 6 then do
      queueError q.dom q.desc d 3 i
      modify (fun s => s.queuedFault { c with gid := 0 } (copyToken c 2 0 1) 0#64)
    else
      match (s.holder (word b 56)).filter (fun g => (s.grp g).mill.isNone && e.st != 5) with
      | none => do
        queueError q.dom q.desc d 3 i
        endQueued { c with gid := 0 } (copyToken c 2 0 1) 0#64
      | some g => do
        let t := (s.grp g).team
        let tcb := (s.task (s.grp g).task).tcb
        let recv := if pkKind b == 4 then (pkPeers b tcb.cols).map (fun i => lane t (s.felt (s.team t).felt).teams i) else [t]
        let c := queuedCopy k q i slot b prio id t recv
        if (lowest (pkFaults b true tcb.rows tcb.cols)).isSome || fabricBad q b then endQueued c (copyToken c 2 0 1) 0#64
        else if pkOutside b (s.scratchSize t) then endQueued c (copyToken c 4 0 0) 0#64
        else modify (fun s => { s with copies := s.copies ++ [c] })

def consumeCopy (k : Nat) (q : Queue) : M Unit := do
  match ← headSlot k q with
  | none => pure ()
  | some (i, d, slot, b) => do
    if num b 0 1 != 1 || num b 54 2 != 0 then queueError q.dom q.desc d 1 i else takePacket k q d i slot b
    slotDone k q i slot

/-- Commands of a die's engines in service. -/
def inService (s : State) (die : Nat) : List Copy := s.copies.filter (fun c => c.queue.isSome && c.die == die)

/-- COPY_QUEUE_CONSUME (R242). -/
def execCopyQueueConsume (queue : Nat) (s : State) : Host.Outcome State Fault Refusal :=
  match look s.queues queue with
  | none => event s
  | some q =>
    if queueServed s q && q.kind == 1 && !s.mhalt && decide ((inService s q.die).length < 64) && (s.die q.die).up then
      event (s.agent (consumeCopy queue q) (fun _ _ _ _ => s))
    else event s

/-! ## SHARED_ENGINE_CHUNK (R243) -/

/-- A tenant's units on a die: whether one is left in this period (R376). -/
def unitsLeft (s : State) (die ld : Nat) : Bool :=
  let n := wbits ((look (s.die die).budget ld).getD 0xFFFF0000FFFF#64) 15 0
  n == 0xFFFF || decide ((look (s.die die).ceu ld).getD 0 < n)
/-- The chunks a command may go on with: those already charged for where no unit is left. -/
def dueChunks (s : State) (c : Copy) : List Nat :=
  if unitsLeft s c.die c.ld then openChunks s c else (openChunks s c).filter (fun k => c.paid.contains k)
/-- A command that is not suspended. -/
def goesOn (s : State) (c : Copy) : Bool :=
  (copyDone s c || c.susp != 0 || !(dueChunks s c).isEmpty) && ((c.team :: c.receivers).all (fun t => (s.team t).resident || (s.team t).retired))
    && !c.awaiting.any s.outstanding && !c.lost && (s.ldev c.ld).tdisp != .error

/-- The bitmap words cleared, the index list read: a command's first act. -/
def State.beginQueued (s : State) (c : Copy) : State × Copy :=
  let s := c.receivers.foldl (fun s t => if (s.team t).retired then s else s.scrPut t (pkBm c.pk) (List.replicate (pkBmBytes c.pk) 0#8)) s
  let c : Copy := { c with cleared := true, started := true, index := indexList s c, spoilt := [] }
  ((s.indexed c).setCopy c, c)

-- DEDUCED: log 87
/-- The requests of a chunk to a peer's window (R381, R382). -/
def fabricSend (q : Queue) (c : Copy) (k : Nat) (s : State) : State :=
  let peer := q.peer.getD 0
  (copyPieces c.pk k).foldl (fun s p =>
    let (base, ok) := copyRow c p.1
    let n := if ok then min p.2.2 (pkExt c.pk 0 * pkE c.pk) - p.2.1 else 0
    if n == 0 then s
    else
      let t : Target := .scr c.team (pkSpad c.pk + p.1 * pkRb c.pk + p.2.1)
      let bs := s.seeT t n
      let s := if pkKind c.pk == 0 then s else s.sawT t n
      if pkKind c.pk == 0 then s.emit (.fabricRead peer q.window (base.toNat + p.2.1) n c.id k)
      else if Config.peerAppend peer q.window then s.emit (.fabricAppend peer q.window bs)
      else s.emit (.fabricWrite peer q.window (base.toNat + p.2.1) bs)) s

-- DEDUCED: log 69, 87
/-- Whether a port carries Filesk traffic: up, one-laned or its partner halted (R16, R379, R383). -/
def State.filesk (s : State) : Bool := s.ports.any (fun (e : Nat × Port) => decide (2 ≤ e.2.state) && decide (e.2.state ≤ 4))

-- DESIGN CHOICE: log 68
/-- The bytes of a chunk as the peer returns them: nothing here fixes those it reads. -/
def fabricData (c : Copy) : List (Nat × Nat × Nat) → M (List W8)
  | [] => pure []
  | (r, a, b) :: ps => do
    let (_, ok) := copyRow c r
    let n := if ok then min b (pkExt c.pk 0 * pkE c.pk) - a else 0
    let bs ← freeBytes n
    let rest ← fabricData c ps
    return bs ++ List.replicate (b - a - n) 0#8 ++ rest

-- DESIGN CHOICE: log 68; DEDUCED: log 87
/-- The peer's answers to a chunk's requests: all done, or a refusal with its code. -/
def fabricAnswer (c : Copy) (k : Nat) : M Copy := do
  if ← freeChoice then do
    let code ← freeVal
    return { c with susp := 0, left := [], fault := some (c.fault.getD (k, 2, detailOf (code.toNat % 9 + 1) 0)) }
  else do
    if pkKind c.pk == 0 then do
      let bs ← fabricData c (copyPieces c.pk k)
      landChunk c k bs c.team
    else landChunk c k [] c.team
    return { c with susp := 0, left := c.left.map (fun e => (e.1, e.2.filter (· != k))) }

-- DESIGN CHOICE: log 68; DEDUCED: log 69, 87
/-- One turn of a fabric command: requests go out, lost where no port carries them, or answers have come. -/
def fabricTurn (q : Queue) (c : Copy) (pick : Nat) : M Copy := do
  if c.susp != 0 then fabricAnswer c (c.susp - 1)
  else do
    let ks := dueChunks (← get) c
    let k := if Config.peerAppend (q.peer.getD 0) q.window && pkKind c.pk == 3 then ks.headD 0 else ks.getD (pick % ks.length) 0
    if (← get).filesk then modify (fabricSend q c k)
    return { c with susp := k + 1, lost := !(← get).filesk, paid := c.paid ++ [k] }

/-- A unit of a tenant's budget and the chunk counter of a die. -/
def State.spendUnit (s : State) (die ld : Nat) : State :=
  s.modDie die (fun d => { d with ceu := ins d.ceu ld ((look d.ceu ld).getD 0 + 1), counters := ins d.counters 4 (satAdd ((look d.counters 4).getD 0) 1) })

/-- A command over with all its chunks: its end, or a wait for its deposit. -/
def State.endIfDone (s : State) (id : Nat) : State :=
  match s.copy id with
  | some c => if copyDone s c && c.susp == 0 then s.agent (finishQueued c) (fun _ _ _ _ => s) else s
  | none => s

-- DEDUCED: log 78
/-- One chunk of a command, charged when it starts (R243). -/
def State.engineTurn (s : State) (die : Nat) (c : Copy) (pick : Nat) : State :=
  let (s, c) := if c.cleared then (s, c) else s.beginQueued c
  let c : Copy := { c with turn := s.nextId }
  let s := { s with nextId := s.nextId + 1 }
  match c.fabric, look s.queues (c.queue.getD 0) with
  | true, some q =>
    let s := if c.susp == 0 then s.spendUnit die c.ld else s
    s.agent (do
      let c ← fabricTurn q c pick
      modify (fun s => s.setCopy c)) (fun _ _ _ _ => s)
  | _, _ =>
    let ks := dueChunks s c
    let k := ks.getD (pick % ks.length) 0
    let s := if c.paid.contains k then s else s.spendUnit die c.ld
    s.copyChunk die (s.team c.team).task (208 + die) { c with paid := if c.paid.contains k then c.paid else c.paid ++ [k] } k

/-- SHARED_ENGINE_CHUNK (R243): one chunk, chosen among those left by `pick`; a command with nothing left ends. -/
def execSharedEngineChunk (die : Fin 8) (pick : Nat) (s : State) : Host.Outcome State Fault Refusal :=
  match nextCommand (fun c => c.prio) ((inService s die.val).filter (fun c => goesOn s c && (!s.mhalt || c.susp != 0 || copyDone s c))) with
  | none => event s
  | some c => if copyDone s c && c.susp == 0 then event (s.endIfDone c.id) else event ((s.engineTurn die.val c pick).endIfDone c.id)

-- DESIGN CHOICE: log 68, 97
/-- FABRIC_REQUEST_TIMEOUT (R381, R383): no response within FTIME, which stands still while the partner is halted. -/
def execFabricRequestTimeout (cmd : Nat) (s : State) : Host.Outcome State Fault Refusal :=
  match s.copy cmd with
  | none => event s
  | some c =>
    let peer := ((look s.queues (c.queue.getD 0)).bind (·.peer)).getD 0
    let still := s.ports.any (fun (e : Nat × Port) => e.2.partnerHalted && e.2.peer.toNat == peer)
    if c.susp == 0 || still then event s
    else
      let c : Copy := { c with left := [], susp := 0, fault := some (c.fault.getD (c.susp - 1, 2, detailOf 8 0)), lost := false }
      event (((s.elapse 8 (1000000 * ((look s.queues (c.queue.getD 0)).map (·.ftime)).getD 10)).setCopy c).endIfDone cmd)

/-- BUDGET_PERIOD (R376): unused units lapse; a new register value takes effect. -/
def execBudgetPeriod (die : Fin 8) (s : State) : Host.Outcome State Fault Refusal :=
  event ((s.elapse die.val 100000).modDie die.val (fun d =>
    { d with ceu := [], budget := d.budgetNext.foldl (fun b e => ins b e.1 e.2) d.budget, budgetNext := [] }))

end Sys2Proof.Machine
end

