-- ==== Sys2Proof/Machine/Ending.lean ====
section
/-! DEFINITION. Teams and tasks that are ended, storage errors, the floating-point threshold (R153, R262, R350, R363). -/

namespace Sys2Proof.Machine

/-! ## Groups and teams ended (R262, R363) -/

/-- A group is over without an exit: it stops where it stands; what it has sent is still performed, what a saved one had not sent
is dropped. -/
def State.endGroup (s : State) (g : Nat) : State :=
  let x := s.grp g
  if !alive x then s
  else
    let s := s.cutRun g
    let s := { s with joins := s.joins.filter (fun j => j.gid != some g), copies := s.copies.filter (fun c => c.queue.isSome || c.gid != g)
                      parked := s.parked.filter (fun p => p.1 != x.name) }
    let s := if x.ctxrec == 0#64 then s else s.unreserve x.ld x.ctxrec
    let s := s.modGrp g (fun x =>
      { x with
        place := .ended, wait := .none, sat := false, stalled := false, stopping := false, hold := false, dstop := false, stepping := false
        vval := [], spilled := [], wspill := [], spillimg := [], sval := [], floor := 0, trees := [], events := [], pinned := [], pinheld := []
        handler := none, shadow := none, loops := [], brks := [], ctxrec := 0#64, ctximg := []
        ops := if resident x then x.ops.map (fun o => { o with dests := [], win := [] }) else [] })
    s.nameDead x.name true 0#64

/-- A team's groups and commands are over; its slot and stores are freed. Groups that had exited keep their names (R363). -/
def State.endTeam (s : State) (t : Nat) : State :=
  let m := s.team t
  let s := m.gids.foldl State.endGroup s
  let s := { s with copies := s.copies.filter (fun c => c.team != t) }
  let s := if m.recAddr == 0#64 then s else s.unreserve (s.task m.task).ld m.recAddr
  let s := s.modFelt m.felt (fun f => { f with bars := f.bars.map (fun (e : Nat × Bar) => (e.1, { e.2 with wmask := erase e.2.wmask t })) })
  (s.freeTeam t).modTeam t (fun m => { m with recAddr := 0#64 })

/-! ## A task ended (R363) -/

/-- Every team of a task over, its felts released. -/
def State.endTeams (s : State) (k : Nat) : State :=
  let ts := (s.teams.filter (fun (e : Nat × Team) => e.2.task == k)).map (·.1)
  let s := ts.foldl State.endTeam s
  { s with
    teams := s.teams.map (fun (e : Nat × Team) => if e.2.task == k then (e.1, { e.2 with retired := true, gids := e.2.gids }) else e)
    felts := s.felts.map (fun (e : Nat × Felt) => if e.2.task == k then (e.1, { e.2 with released := true, bars := [] }) else e)
    drainers := s.drainers.filter (fun d => d.1 != k) }

-- DESIGN CHOICE: log 66
/-- The task enters FAILED: no completion word, no successors. -/
def endTask (k : Nat) : M Unit := do
  modify (fun s => (s.endTeams k).modTask k (fun t => { t with state := 5, ended := true, again := [] }))
  let t := (← get).task k
  taskTry t (writeState t 5 0)
-- DESIGN CHOICE: log 66
/-- The record of a task that was ended. -/
def State.endedRecord (s : State) (k cause : Nat) (info : W64) : State :=
  let t := s.task k
  s.faultRecord t.ld (trapRecord t.tcb.namebase t.site t.seq 0#64 info 0#64 0#64 cause (flagEnded + (if 32 ≤ cause && cause ≤ 35 then flagImp else 0)) 0 8 0)

/-! ## STORAGE_ERROR (R262, R350) -/

-- DESIGN CHOICE: log 67
/-- A team is ended and placed again, the fourth time its task is ended. -/
def endForError (t : Nat) (name : W64) (die unit : Nat) : M Unit := do
  let s ← get
  let m := s.team t
  let k := m.task
  if (s.task k).relaunches < 3 then
    modify (fun s =>
      let s := (s.endTeam t).modTeam t (fun m => { m with gids := [], scr := [], acc := [] })
      let s := s.modTask k (fun x => { x with relaunches := x.relaunches + 1, again := x.again ++ [t] })
      s.faultRecord (s.task k).ld (trapRecord name (s.task k).site (s.task k).seq 0#64 (n64 unit) 0#64 0#64 32 (flagImp + flagRelaunch) 0 die 0))
  else do
    endTask k
    modify (fun s => s.endedRecord k 32 (n64 unit))

-- DESIGN CHOICE: log 67
/-- The team an error strikes, the name its record carries and the unit code. -/
def errorTeam (s : State) : StorageSite → Option (Nat × W64 × Nat)
  | .registers g => some ((s.grp g).team, (s.grp g).name, 1)
  | .teamStore t => some (t, (s.task (s.team t).task).tcb.nameOf (s.team t).gridpos 0, 2)
  | .treeStore g => some ((s.grp g).team, (s.grp g).name, 3)
  | .syncState t => some (t, (s.task (s.team t).task).tcb.nameOf (s.team t).gridpos 0, 4)
  | .readData t => some (t, (s.task (s.team t).task).tcb.nameOf (s.team t).gridpos 0, 5)
  | .keepState _ => none

-- DESIGN CHOICE: log 67
/-- STORAGE_ERROR (R350). -/
def execStorageError (where_ : StorageSite) (s : State) : Host.Outcome State Fault Refusal :=
  match where_ with
  | .keepState c =>
    let a := c / 8 * 8
    if (look s.keeps a).isSome then
      let die := a / 2 ^ 37
      let ld := s.stackLd die (if a % 2 ^ 37 < stackBytes then 0 else 1)
      event ((s.keepReset a).faultRecord ld (trapRecord 0#64 0#64 0#64 0#64 6#64 (n64 a) 0#64 32 (flagImp + flagAgent) 0 die 0))
    else event s
  | w =>
    match errorTeam s w with
    | none => event s
    | some (t, name, unit) =>
      match look s.teams t with
      | none => event s
      | some m =>
        if m.retired || (s.task m.task).again.contains t || (s.task m.task).ended then event s
        else event (s.agent (endForError t name (m.core / 24) unit) (fun _ _ _ _ => s))

/-! ## FP_THRESHOLD (R153) -/

/-- FP_THRESHOLD: the sum has crossed; the event goes to the group whose instruction took it there. -/
def execFpThreshold (task : Nat) (s : State) : Host.Outcome State Fault Refusal :=
  match (s.task task).fpcross with
  | some (g, pc, seq, st) =>
    if (s.task task).fpfired then event s
    else
      event ((s.modTask task (fun t => { t with fpfired := true, fpcross := none })).postEvent g
        { cause := 35, info := st, detail := 0#64, site := pc, seq := seq })
  | none => event s

-- DESIGN CHOICE: log 70
/-- SAMPLE_TAG (R400): the interval is over; the next interval is drawn from the LFSR. -/
def lfsrStep (x : W32) : W32 :=
  (x <<< 1) ||| ((if (x.getLsbD 31 ^^ x.getLsbD 21 ^^ x.getLsbD 1 ^^ x.getLsbD 0) then 1#32 else 0#32))
-- DESIGN CHOICE: log 70
def execSampleTag (core : Fin 192) (part : Fin 8) (s : State) : Host.Outcome State Fault Refusal :=
  let site := core.val * 8 + part.val
  match look s.samples site with
  | none => event s
  | some m =>
    if m.left != 0 || m.tag then event s
    else
      let f := (Config.freeWord s.fresh).toNat
      event { s with
        fresh := s.fresh + 1
        samples := ins s.samples site { m with tag := true, lfsr := lfsrStep m.lfsr, left := f % (2 ^ (m.k + 1) - 1) + 1 } }

end Sys2Proof.Machine
end

