-- ==== Sys2Proof/Machine/Mgmt.lean ====
section
/-! DEFINITION. The management port's commands (R368, R369, R425). -/

namespace Sys2Proof.Machine

/-- Completion status and VALUE of a command. -/
abbrev Done := Nat × W64
def done0 : Done := (0, 0#64)
def badCmd : Done := (1, 0#64)
def refused : Done := (2, 0#64)

-- DEDUCED: log 63
/-- Where a record of a command is written; the error count is that of the management port. -/
def State.cmdRecord (s : State) (ld : Nat) (done : W64) (r : Done) : State :=
  if done = 0#64 then s else s.putRecord ld (domBase ld) [(done, bytes8 r.2 ++ toLe 8 r.1)] 1

/-- A name of the device's own domains. -/
def ownName (ld : Nat) (n : W64) : Bool := domLd (nameDom n) == ld
/-- A task of a device by the address under which it was submitted: the latest. -/
def State.taskAt (s : State) (ld : Nat) (tcb : W64) : Option Nat :=
  ((s.tasks.filter (fun (e : Nat × Task) => e.2.ld == ld && e.2.tcbva == tcb)).getLast?).map (·.1)
-- DEDUCED: log 64
/-- Whether an argument's bits from `n` on are 0. -/
def fitsBits (x : W64) (n : Nat) : Bool := decide (x.toNat < 2 ^ n)

/-! ## Queues -/

/-- Whether a queue descriptor is legal for a domain (R88). -/
def queueOk (d : List W8) (dom : W16) : Bool :=
  num d 48 16 == 0 && num d 36 4 == 0 && num d 12 4 == dom.toNat && bits (num d 8 4) 31 12 == 0 && decide (bits (num d 8 4) 7 5 < 2)
    && decide (1 ≤ bits (num d 8 4) 4 0) && decide (bits (num d 8 4) 4 0 ≤ 20) && num d 0 8 % 64 == 0

-- DEDUCED: log 36, 64, 65
/-- REGQ. -/
def cmdRegq (c : MgmtCmd) : M Done := do
  let ld := c.ld.val
  let dom := c.a2.setWidth 16
  if !fitsBits c.a2 16 || domLd dom != ld || !aligned c.a0 64 || wbits c.a1 15 4 != 0 || wbits c.a1 47 38 != 0 then return badCmd
  let d ← agentRead dom kernelRW 2 c.a0 64
  let s ← get
  if !queueOk d dom then return badCmd
  else if (s.queueAt dom c.a0).isSome || decide (64 ≤ (s.queues.filter (fun (e : Nat × Queue) => e.2.ld == ld)).length) then return refused
  else do
    let k ← newId
    let p := wbits c.a1 31 16
    let q : Queue := {
      ld := ld, desc := c.a0, dom := dom, kind := bits (num d 8 4) 7 5, die := wbits c.a1 2 0, peerAppend := c.a1.getLsbD 3
      peer := if p == 0 then none else some (p - 1), window := wbits c.a1 37 32
      ftime := if wbits c.a1 63 48 == 0 then 10 else wbits c.a1 63 48, stalled := false, sites := [] }
    modify (fun s => { s with queues := ins s.queues k q })
    return done0

/-- A device's queue by its descriptor's address. -/
def State.ownQueue (s : State) (ld : Nat) (desc : W64) : Option (Nat × Queue) :=
  s.queues.find? (fun (e : Nat × Queue) => e.2.ld == ld && e.2.desc == desc)

/-- Claimed slots discarded, commands in service ended (R369). -/
def resetQueue (k : Nat) (q : Queue) : M Unit := do
  let d ← agentRead q.dom kernelRW 2 q.desc 64
  let n := 2 ^ bits (num d 8 4) 4 0
  let w := num d 16 8
  let r := num d 24 8
  (List.range (min n ((w + 2 ^ 64 - r) % 2 ^ 64))).forM (fun i => do
    let _ ← attempt (kwrite q.dom (word d 0 + n64 ((r + i) % n * 64)) [0#8])
    pure ())
  kwrite q.dom (q.desc + 24#64) (toLe 8 w)
  modify (fun s => { s with queues := adjust s.queues k (fun q => { q with stalled := false, sites := [] }) })
  modify (fun s => { s with copies := s.copies.map (fun c =>
    if c.queue == some k && c.susp != 0 then { c with fault := some (0, 1, 0#64), left := c.left.map (fun e => (e.1, e.2.filter (· == c.susp - 1))) } else c) })
  ((← get).copies.filter (fun c => c.queue == some k && c.susp == 0)).forM (fun c => endQueued c (copyToken c 2 0 1) 0#64)

/-- RESETQ. -/
def cmdResetq (c : MgmtCmd) : M Done := do
  match (← get).ownQueue c.ld.val c.a0 with
  | none => return refused
  | some (k, q) => do
    resetQueue k q
    return done0

/-! ## Rings and the context pool -/

/-- A ring descriptor that may be registered (R349). -/
def ringOk (d : List W8) : Bool :=
  num d 40 24 == 0 && decide (4 ≤ bits (num d 32 4) 4 0) && decide (bits (num d 32 4) 4 0 ≤ 16) && bits (num d 32 4) 15 5 == 0
    && bits (num d 32 4) 31 28 == 0 && decide (bits (num d 32 4) 27 16 ≤ 2048) && num d 0 8 % 64 == 0

/-- Reads a ring's descriptor in the management domain, ready to be written. -/
def ringDesc (ld : Nat) (a : W64) : M (List W8) := agentRead (domBase ld) kernelRW 2 a 64
/-- Counts records lost before a ring was there in its DROPS. -/
def addDrops (ld : Nat) (a : W64) (d : List W8) (n : Nat) : M Unit :=
  if n == 0 then pure () else kwrite (domBase ld) (a + 36#64) (toLe 4 (num d 36 4 + n))

/-- FAULTRING. -/
def cmdFaultring (c : MgmtCmd) : M Done := do
  let ld := c.ld.val
  if !aligned c.a0 64 then return badCmd
  let d ← ringDesc ld c.a0
  if !ringOk d then return badCmd
  else do
    let l := (← get).ldev ld
    addDrops ld c.a0 d l.heldDrops
    let r : Ring := { desc := c.a0, mask := 0#64, dom0 := 0, domn := 0 }
    modify (fun s => l.heldRecs.foldl (fun s b => s.ringPush ld r b) (s.modLd ld (fun l => { l with fault := some r, heldRecs := [], heldDrops := 0 })))
    return done0

-- DEDUCED: log 65
def isSaved (x : Group) : Bool := x.place == .saved || x.place == .moving

-- DEDUCED: log 65
/-- CTXPOOL. -/
def cmdCtxpool (c : MgmtCmd) : M Done := do
  let ld := c.ld.val
  if !aligned c.a0 64 then return badCmd
  let _ ← if c.a1 = 0#64 then pure [] else agentTargets (domBase ld) kernelRW (c.a1.toNat / 4096 + 2) c.a0 (List.replicate (min c.a1.toNat 64) 0#8)
  let s ← get
  if s.groups.any (fun (e : Nat × Group) => e.2.ld == ld && (isSaved e.2 || e.2.stopping)) then return refused
  else do
    set (s.modLd ld (fun l => { l with ctxBase := c.a0, ctxLen := c.a1.toNat, ctxUsed := [] }))
    return done0

/-! ## Pre-emption, swapping, the end of a task -/

/-- The groups a PREEMPT or HALT names: 0 name, 1 team, 2 felt, 3 task. -/
def State.setOf (s : State) (ld kind : Nat) (a : W64) : Option (List Nat) :=
  if kind == 3 then
    match s.taskAt ld a with
    | none => none
    | some k => if (s.task k).ended then none else some ((s.teams.filter (fun (e : Nat × Team) => e.2.task == k && !e.2.retired)).flatMap (fun e => e.2.gids))
  else
    match s.holder a with
    | none => none
    | some g =>
      let x := s.grp g
      let t := s.team x.team
      if x.mill.isSome || !alive x || !ownName ld a then none
      else if kind == 0 then some [g]
      else if kind == 1 then some t.gids
      else some ((s.felt t.felt).teams.flatMap (fun t => (s.team t).gids))

-- DEDUCED: log 64
/-- PREEMPT. -/
def cmdPreempt (c : MgmtCmd) : M Done := do
  let ld := c.ld.val
  let kind := wbits c.a0 1 0
  if c.a0 &&& ~~~0x103#64 != 0#64 || (kind != 3 && !ownName ld c.a1) then return badCmd
  let s ← get
  match s.setOf ld kind c.a1 with
  | none => return refused
  | some gs =>
    if kind == 0 && (s.nameEnt c.a1).st != 1 then return refused
    else match s.preemptGroups gs with
      | none => return refused
      | some s => do
        set (if c.a0.getLsbD 8 then (gs.filter (fun g => alive (s.grp g))).foldl (fun s g => s.modGrp g (fun x => { x with hold := true })) s else s)
        return done0

/-- RELEASE. -/
def cmdRelease (c : MgmtCmd) : M Done := do
  if !ownName c.ld.val c.a1 then return badCmd
  else do
    modify (fun s => match s.holder c.a1 with
      | some g => s.modGrp g (fun x => { x with hold := false })
      | none => s)
    return done0

/-- SWAPOUT. -/
def cmdSwapout (c : MgmtCmd) : M Done := do
  if !ownName c.ld.val c.a1 || !aligned c.a2 1024 then return badCmd
  let s ← get
  let e := s.nameEnt c.a1
  match e.st, s.holder c.a1 with
  | 2, some g => do
    let _ ← agentTargets (nameDom c.a1) kernelRW 2 c.a2 (List.replicate 1024 0#8)
    modify (fun s => (s.setName c.a1 { e with st := 4, aux := 0, loc := c.a2 }).modGrp g (fun x => { x with place := .swapped }))
    return (0, (s.grp g).ctxrec)
  | _, _ => return refused

-- DESIGN CHOICE: log 34
/-- The inbox's records applied in order (R306). -/
def State.inbox (s : State) (g : Nat) (b : List W8) : Nat → State
  | 0 => s
  | n + 1 =>
    let s := s.inbox g b n
    let kind := num b (16 * n + 8) 1
    if kind == 0 || decide (3 < kind) then s else s.reach g kind (num b (16 * n + 9) 1 % 16) (word b (16 * n))

-- DEDUCED: log 60
/-- A record that lies in the pool takes its space there. -/
def State.adopt (s : State) (ld : Nat) (a : W64) (n : Nat) : State :=
  let l := s.ldev ld
  if decide (l.ctxBase.toNat ≤ a.toNat) && decide (a.toNat + n ≤ l.ctxBase.toNat + l.ctxLen) then
    s.modLd ld (fun l => { l with ctxUsed := l.ctxUsed ++ [(a.toNat - l.ctxBase.toNat, n)] })
  else s

-- DEDUCED: log 60
/-- SWAPIN. -/
def cmdSwapin (c : MgmtCmd) : M Done := do
  let ld := c.ld.val
  if !ownName ld c.a1 || !aligned c.a2 64 then return badCmd
  let s ← get
  let e := s.nameEnt c.a1
  match e.st, s.holder c.a1 with
  | 4, some g => do
    let x := s.grp g
    let bs ← agentRead (domBase ld) kernelRW (x.ctximg.length / 4096 + 2) c.a2 x.ctximg.length
    let b ← kread (nameDom c.a1) e.loc (16 * e.aux)
    modify (fun s =>
      let s := ((s.unreserve ld x.ctxrec).adopt ld c.a2 x.ctximg.length).modGrp g (fun x => { x with place := .saved, ctxrec := c.a2 })
      (s.inbox g b e.aux).setName c.a1 { e with st := 2, aux := 0, loc := c.a2 })
    if bs == x.ctximg then writeRecord g else pure ()
    return done0
  | _, _ => return refused

/-- ENDTASK. -/
def cmdEndtask (c : MgmtCmd) : M Done := do
  let s ← get
  match s.taskAt c.ld.val c.a1 with
  | none => return refused
  | some k =>
    if (s.task k).ended then return refused
    else do
      endTask k
      modify (fun s => s.endedRecord k 37 0#64)
      return done0

/-! ## Names -/

/-- NAMEHOST. -/
def cmdNamehost (c : MgmtCmd) : M Done := do
  let ld := c.ld.val
  if !ownName ld c.a1 || !aligned c.a2 256 || decide (2048 < c.a3.toNat) || decide (4096 ≤ c.a4.toNat) then return badCmd
  let _ ← agentRead (nameDom c.a1) kernelRW 2 c.a2 256
  let s ← get
  if (s.nameEnt c.a1).st != 0 || (s.nameSlot c.a1).isNone || (look (s.ldev ld).ports c.a4.toNat).isSome then return refused
  else do
    let s := (s.takeName c.a1 5 false c.a3.toNat c.a2).modLd ld (fun l => { l with ports := ins l.ports c.a4.toNat c.a1 })
    set { s with hostFresh := s.hostFresh ++ [c.a1] }
    return done0

/-- NAMEDROP. -/
def cmdNamedrop (c : MgmtCmd) : M Done := do
  if !ownName c.ld.val c.a1 then return badCmd
  let s ← get
  if (s.nameEnt c.a1).st != 5 then return refused
  else do
    let s := s.modLd c.ld.val (fun l => { l with ports := l.ports.filter (fun e => e.2 != c.a1) })
    set ({ s with hostFresh := s.hostFresh.filter (· != c.a1) }.nameDead c.a1 false c.a2)
    return done0

/-- NAMERIGHTS. -/
def cmdNamerights (c : MgmtCmd) : M Done := do
  if !ownName c.ld.val c.a1 || !fitsBits c.a2 4 then return badCmd
  let s ← get
  let e := s.nameEnt c.a1
  if e.st == 0 then return refused
  else do
    set (s.setName c.a1 { e with rights := c.a2.toNat })
    return done0

/-- NAMEFREE. -/
def cmdNamefree (c : MgmtCmd) : M Done := do
  if !ownName c.ld.val c.a1 then return badCmd
  let s ← get
  let e := s.nameEnt c.a1
  if e.st != 6 then return refused
  else do
    set (s.setName c.a1 { e with st := 0, killed := false, aux := 0, loc := 0#64 })
    return done0

/-- PAGEREQ. -/
def cmdPagereq (c : MgmtCmd) : M Done := do
  if !fitsBits c.a1 1 then return badCmd
  else do
    modify (fun s => s.modLd c.ld.val (fun l => { l with pageReqs := c.a1.getLsbD 0 }))
    return done0

/-! ## The port (R368) -/

def cmdBody (op : Nat) (c : MgmtCmd) : M Done :=
  if c.rsv != 0#64 then pure badCmd
  else match op with
    | 1 => cmdRegq c
    | 2 => cmdResetq c
    | 3 => cmdFaultring c
    | 4 => cmdCtxpool c
    | 5 => cmdPreempt c
    | 6 => cmdRelease c
    | 7 => cmdSwapout c
    | 8 => cmdSwapin c
    | 9 => cmdEndtask c
    | 10 => cmdNamehost c
    | 11 => cmdNamedrop c
    | 12 => cmdNamerights c
    | 13 => cmdNamefree c
    | 14 => cmdPagereq c
    | _ => pure badCmd

-- DEDUCED: log 63
/-- A command carried out; one whose own addresses do not translate completes BADCMD with nothing changed. -/
def State.mgmtAt (s : State) (op : Nat) (c : MgmtCmd) : State :=
  let ld := c.ld.val
  if !aligned c.done 16 then s.modLd ld (fun l => { l with mgmtErr := l.mgmtErr + 1 })
  else match runAgent s (do
      let r ← cmdBody op c
      modify (fun s => s.cmdRecord ld c.done r)) with
    | .done s' => s'
    | .wait s' => { s' with pend := s'.pend ++ [.mgmt op c] }
    | .failed _ k _ _ => (s.undeny k).cmdRecord ld c.done badCmd
/-- Commands are processed in arrival order: one waits behind an earlier one that waits for the host. -/
def State.mgmt (s : State) (op : Nat) (c : MgmtCmd) : State :=
  if !s.serving c.ld.val then s
  else if s.pend.any (fun p => match p with | .mgmt _ d => d.ld == c.ld | _ => false) then { s with pend := s.pend ++ [.mgmt op c] }
  else s.mgmtAt op c

/-- REGQ (R369). -/
def execRegq (c : MgmtCmd) (s : State) : Host.Outcome State Fault Refusal := event (s.mgmt 1 c)
/-- RESETQ (R369). -/
def execResetq (c : MgmtCmd) (s : State) : Host.Outcome State Fault Refusal := event (s.mgmt 2 c)
/-- FAULTRING (R349, R369). -/
def execFaultring (c : MgmtCmd) (s : State) : Host.Outcome State Fault Refusal := event (s.mgmt 3 c)
/-- CTXPOOL (R369). -/
def execCtxpool (c : MgmtCmd) (s : State) : Host.Outcome State Fault Refusal := event (s.mgmt 4 c)
/-- PREEMPT (R351, R369). -/
def execPreempt (c : MgmtCmd) (s : State) : Host.Outcome State Fault Refusal := event (s.mgmt 5 c)
/-- RELEASE (R369). -/
def execRelease (c : MgmtCmd) (s : State) : Host.Outcome State Fault Refusal := event (s.mgmt 6 c)
/-- SWAPOUT (R369). -/
def execSwapout (c : MgmtCmd) (s : State) : Host.Outcome State Fault Refusal := event (s.mgmt 7 c)
/-- SWAPIN (R306, R369). -/
def execSwapin (c : MgmtCmd) (s : State) : Host.Outcome State Fault Refusal := event (s.mgmt 8 c)
/-- ENDTASK (R363, R369). -/
def execEndtask (c : MgmtCmd) (s : State) : Host.Outcome State Fault Refusal := event (s.mgmt 9 c)
/-- NAMEHOST (R369). -/
def execNamehost (c : MgmtCmd) (s : State) : Host.Outcome State Fault Refusal := event (s.mgmt 10 c)
/-- NAMEDROP (R369). -/
def execNamedrop (c : MgmtCmd) (s : State) : Host.Outcome State Fault Refusal := event (s.mgmt 11 c)
/-- NAMERIGHTS (R369). -/
def execNamerights (c : MgmtCmd) (s : State) : Host.Outcome State Fault Refusal := event (s.mgmt 12 c)
/-- NAMEFREE (R369). -/
def execNamefree (c : MgmtCmd) (s : State) : Host.Outcome State Fault Refusal := event (s.mgmt 13 c)
/-- PAGEREQ (R221, R369). -/
def execPagereq (c : MgmtCmd) (s : State) : Host.Outcome State Fault Refusal := event (s.mgmt 14 c)

end Sys2Proof.Machine
end

