-- ==== Sys2Proof/Machine/Trees.lean ====
section
/-! DEFINITION. Weight trees: WLOAD, WUPD, WQRY, WFIND, WCUT and the WOP family (chapter "Weight trees and the nucleus
sampler"). -/

namespace Sys2Proof.Machine

/-! ## A tree's numbers (R63, R271–R273) -/

def Tree.empty : Tree where
  leaves := []
  cut := 4096
  status := 0#32

def leafAt (t : Tree) (i : Nat) : Nat := (look t.leaves i).getD 0
/-- A leaf set; a zero leaf is not listed. -/
def setLeaf (m : FMap Nat) (i v : Nat) : FMap Nat := if v == 0 then erase m i else ins m i v
/-- P(i), and the root. -/
def prefixSum (t : Tree) (i : Nat) : Nat := ((t.leaves.filter (fun e => decide (e.1 ≤ i))).map (·.2)).sum
def rootOf (t : Tree) : Nat := prefixSum t 4095
/-- The first leaf at which the running sum satisfies `p`, from `acc` on. -/
def firstLeaf (p : Nat → Bool) : FMap Nat → Nat → Option Nat
  | [], _ => none
  | (i, v) :: r, acc => if p (acc + v) then some i else firstLeaf p r (acc + v)
def trunc20 (n : Nat) : Nat := n % 2 ^ 20

def statusBit (t : Tree) (b : Nat) : Tree := { t with status := t.status ||| BitVec.ofNat 32 b }

/-! ## Shared rules (R274, R276) -/

/-- The tree of a number, or ILLEGAL_OPERAND (R271). -/
def needTree (cx : Cx) (w : Nat) : M Unit := do
  let x ← getG cx.g
  guardM (look x.trees w).isSome (.trap 2 0#64 0 0 0 0#64)
def getTree (cx : Cx) (w : Nat) : M Tree := do
  let x ← getG cx.g
  return (look x.trees w).getD Tree.empty
def setTree (cx : Cx) (w : Nat) (t : Tree) : M Unit := modG cx.g (fun x => { x with trees := ins x.trees w t })

-- DEDUCED: log 44
/-- A scratchpad operand (R276): its offset, aligned and within the allocation. The traps carry TRAPINFO 1, as the uniform form does. -/
def scratchOperand (cx : Cx) (n align size : Nat) : M Nat := do
  let x ← getG cx.g
  let v ← readS cx n
  let off := v.toNat % 2 ^ 32
  if off % align != 0 then trap 6 1#64
  else if (← get).scratchSize x.team < off + size then trap 7 1#64
  else return off

/-- The scratchpad bytes the group reads (R276). -/
def scratchBytes (cx : Cx) (off n : Nat) : M (List W8) := do
  let x ← getG cx.g
  settleBefore cx [(.scr x.team off, n)] [(.scr x.team off, n)]
  ownBytes cx.g n (.scr x.team off)

/-- A tree instruction: `regs` are its vector sources, `dst` its destination. -/
def treeUnit (z : Bool) (op w : Nat) (srcs : List (Bool × Nat)) (dst : Option Nat) (static : M Unit) (body : Cx → M Unit) (s : State) :
    Host.Outcome State Fault Refusal :=
  issue z op {} false
    (fun cx => do
      srcs.forM (fun p => okSpec p.2)
      okSpec (dst.getD 0)
      static
      match dst with
      | some d => okDest d
      | none => pure ()
      srcs.forM (fun p => okMark p.1 p.2)
      needTree cx w)
    (fun cx => skipMarks cx (srcs.filter (fun p => p.1)).length (thenNext (do
      refillSpecs cx (match dst with | some d => specRegs d 1 | none => []) (srcs.map (fun p => (p.2, 1)))
      body cx))) s

def lanes32 (w : Nat) (f : Nat → Nat) : List W32 := gen w (fun t => n32 (f t))
/-- The same result in every active thread. -/
def writeAllLanes (cx : Cx) (d v : Nat) : M Unit := do
  let x ← getG cx.g
  writeD cx d (lanes32 x.w (fun _ => v))

/-! ## WLOAD, WUPD, WQRY, WFIND, WCUT (R277–R281) -/

/-- WLOAD from registers (R277). -/
def execWload (f : FWload) (s : State) : Host.Outcome State Fault Refusal :=
  treeUnit f.z 0x72 f.w.toNat [(f.l, f.a.toNat)] none (guardM (decide (f.a.toNat + f.c.toNat + 1 ≤ 80)) badOperand) (fun cx => do
    let x ← getG cx.g
    let regs := gen (f.c.toNat + 1) (fun k => f.a.toNat + k)
    refillAll cx [] regs
    let vs ← regs.mapM (fun r => readV cx cx.exe f.a.toNat r)
    applyMarks cx (countMarks f.l false) (if f.l then regs else [])
    let leaves := (List.range regs.length).foldl (fun m k => (laneList x.w cx.exe).foldl (fun m t =>
      setLeaf m (k * x.w + t) (trunc20 (lane 0#32 (lane [] vs k) t).toNat)) m) ([] : FMap Nat)
    setTree cx f.w.toNat { leaves := leaves, cut := 4096, status := 0#32 }) s

/-- WLOAD from the scratchpad (R277). -/
def execWloadScratch (f : FWload) (s : State) : Host.Outcome State Fault Refusal :=
  treeUnit f.z 0x72 f.w.toNat [(f.l, f.a.toNat)] none (guardM (decide (96 ≤ f.a.toNat)) badOperand) (fun cx => do
    let n := 64 * (f.c.toNat + 1)
    let off ← scratchOperand cx (f.a.toNat - 96) 4 (4 * n)
    let bs ← scratchBytes cx off (4 * n)
    applyMarks cx (countMarks f.l false) (specMark f.l f.a.toNat 1)
    let leaves := (List.range n).foldl (fun m i => setLeaf m i (trunc20 (num bs (4 * i) 4))) ([] : FMap Nat)
    setTree cx f.w.toNat { leaves := leaves, cut := 4096, status := 0#32 }) s

/-- A last-use mark on a D source, by X (R278). -/
def markX (x : Bool) (d : Nat) : List Nat := specMark x d 1

/-- The deltas of one leaf summed and clamped once (R278). -/
def addDeltas (ds : List (Nat × Int)) : List Nat → Tree → Tree
  | [], t => t
  | i :: r, t =>
    let x : Int := leafAt t i + ((ds.filter (fun e => e.1 == i)).map (·.2)).sum
    let v := (clampI 0 ((2 ^ 20 : Nat) - 1) x).toNat
    let t1 := { t with leaves := setLeaf t.leaves i v }
    addDeltas ds r (if (v : Int) = x then t1 else statusBit t1 1)

/-- WUPD (R278). -/
def execWupd (f : FWupd) (s : State) : Host.Outcome State Fault Refusal :=
  treeUnit f.z 0x73 f.w.toNat [(f.l, f.a.toNat), (f.x, f.d.toNat)] none (pure ()) (fun cx => do
    let x ← getG cx.g
    let a ← readOp cx cx.exe f.a.toNat
    let d ← readOp cx cx.exe f.d.toNat
    applyMarks cx (countMarks f.l f.x) (specMark f.l f.a.toNat 1 ++ markX f.x f.d.toNat)
    let t ← getTree cx f.w.toNat
    let es := (laneList x.w cx.exe).map (fun l => ((lane 0#32 a l).toNat, (lane 0#32 d l).toInt))
    let t1 := if es.any (fun e => decide (4096 ≤ e.1)) then statusBit t 2 else t
    let t2 := if es.any (fun e => decide (t.cut ≤ e.1) && decide (e.1 < 4096)) then statusBit t1 4 else t1
    let good := es.filter (fun e => decide (e.1 < t.cut))
    setTree cx f.w.toNat (addDeltas good (sortN (good.map (·.1))) t2)) s

def wquery (excl : Bool) (f : FWq) (s : State) : Host.Outcome State Fault Refusal :=
  treeUnit f.z 0x74 f.w.toNat [(f.l, f.a.toNat)] (some f.d.toNat) (pure ()) (fun cx => do
    let x ← getG cx.g
    let a ← readOp cx cx.exe f.a.toNat
    applyMarks cx (countMarks f.l false) (specMark f.l f.a.toNat 1)
    let t ← getTree cx f.w.toNat
    writeD cx f.d.toNat (lanes32 x.w (fun l =>
      let i := (lane 0#32 a l).toNat
      if excl then (if i == 0 then 0 else prefixSum t (min i 4096 - 1)) else prefixSum t (min i 4095)))) s
/-- WQRY (R279). -/
def execWqry (f : FWq) (s : State) : Host.Outcome State Fault Refusal := wquery false f s
/-- WQRY.EXCL (R279). -/
def execWqryExcl (f : FWq) (s : State) : Host.Outcome State Fault Refusal := wquery true f s

/-- WFIND (R280). -/
def execWfind (f : FWfind) (s : State) : Host.Outcome State Fault Refusal :=
  treeUnit f.z 0x75 f.w.toNat [(f.l, f.a.toNat)] (some f.d.toNat) (pure ()) (fun cx => do
    let x ← getG cx.g
    let a ← readOp cx cx.exe f.a.toNat
    applyMarks cx (countMarks f.l false) (specMark f.l f.a.toNat 1)
    let t ← getTree cx f.w.toNat
    let hit (l : Nat) : Option Nat := firstLeaf (fun p => decide ((lane 0#32 a l).toNat < p)) t.leaves 0
    writeD cx f.d.toNat (lanes32 x.w (fun l => (hit l).getD 4096))
    writeP cx f.p.toNat (maskOf x.w (fun l => (hit l).isSome))) s

/-- WCUT (R281). With c = 0 leaf 0 alone is kept. -/
def execWcut (f : FWq) (s : State) : Host.Outcome State Fault Refusal :=
  treeUnit f.z 0x76 f.w.toNat [(f.l, f.a.toNat)] (some f.d.toNat) (guardM (f.a.toNat == 90 || decide (96 ≤ f.a.toNat)) badOperand) (fun cx => do
    let a ← readOp cx cx.exe f.a.toNat
    applyMarks cx (countMarks f.l false) (specMark f.l f.a.toNat 1)
    let t ← getTree cx f.w.toNat
    let c := (lane 0#32 a (lowLane 64 cx.exe)).toNat
    if rootOf t < c then writeAllLanes cx f.d.toNat 4096
    else do
      let i := if c == 0 then 0 else (firstLeaf (fun p => decide (c ≤ p)) t.leaves 0).getD 0
      setTree cx f.w.toNat { t with cut := i + 1, leaves := t.leaves.filter (fun e => decide (e.1 ≤ i)) }
      writeAllLanes cx f.d.toNat i) s

/-! ## The WOP family (R282, R283) -/

/-- WOP ROOT (R282). -/
def execWopRoot (f : FWD) (s : State) : Host.Outcome State Fault Refusal :=
  treeUnit f.z 0x77 f.w.toNat [] (some f.d.toNat) (pure ()) (fun cx => do
    let t ← getTree cx f.w.toNat
    writeAllLanes cx f.d.toNat (rootOf t)) s
/-- WOP CLEAR (R282). -/
def execWopClear (f : FW) (s : State) : Host.Outcome State Fault Refusal :=
  treeUnit f.z 0x77 f.w.toNat [] none (pure ()) (fun cx => setTree cx f.w.toNat Tree.empty) s
/-- WOP GET (R282). -/
def execWopGet (f : FWq) (s : State) : Host.Outcome State Fault Refusal :=
  treeUnit f.z 0x77 f.w.toNat [(f.l, f.a.toNat)] (some f.d.toNat) (pure ()) (fun cx => do
    let x ← getG cx.g
    let a ← readOp cx cx.exe f.a.toNat
    applyMarks cx (countMarks f.l false) (specMark f.l f.a.toNat 1)
    let t ← getTree cx f.w.toNat
    writeD cx f.d.toNat (lanes32 x.w (fun l => leafAt t (lane 0#32 a l).toNat))) s

/-- One thread's WOP SET. -/
def setOne (t : Tree) (i v : Nat) : Tree :=
  if 4096 ≤ i then statusBit t 2 else if t.cut ≤ i then statusBit t 4 else { t with leaves := setLeaf t.leaves i (trunc20 v) }
/-- WOP SET (R282). -/
def execWopSet (f : FWupd) (s : State) : Host.Outcome State Fault Refusal :=
  treeUnit f.z 0x77 f.w.toNat [(f.l, f.a.toNat), (f.x, f.d.toNat)] none (pure ()) (fun cx => do
    let x ← getG cx.g
    let a ← readOp cx cx.exe f.a.toNat
    let d ← readOp cx cx.exe f.d.toNat
    applyMarks cx (countMarks f.l f.x) (specMark f.l f.a.toNat 1 ++ markX f.x f.d.toNat)
    let t ← getTree cx f.w.toNat
    setTree cx f.w.toNat ((laneList x.w cx.exe).foldl (fun t l => setOne t (lane 0#32 a l).toNat (lane 0#32 d l).toNat) t)) s

/-- The save image (R283). -/
def saveImage (t : Tree) : List W8 :=
  (List.range 4096).flatMap (fun i => toLe 4 (leafAt t i)) ++ toLe 4 t.cut ++ bytes4 t.status ++ List.replicate 56 0#8
/-- WOP SAVE (R276, R282, R283): one store of the image through the store buffer. -/
def execWopSave (f : FWA) (s : State) : Host.Outcome State Fault Refusal :=
  treeUnit f.z 0x77 f.w.toNat [(f.l, 96 + f.a.toNat)] none (pure ()) (fun cx => do
    let x ← getG cx.g
    let off ← scratchOperand cx f.a.toNat 64 16448
    settleBefore cx [] [(.scr x.team off, 16448)]
    applyMarks cx (countMarks f.l false) (scalarMark f.l f.a.toNat)
    let t ← getTree cx f.w.toNat
    appendStore cx [(.scr x.team off, saveImage t)] [] []) s
/-- WOP RESTORE (R282, R283). -/
def execWopRestore (f : FWA) (s : State) : Host.Outcome State Fault Refusal :=
  treeUnit f.z 0x77 f.w.toNat [(f.l, 96 + f.a.toNat)] none (pure ()) (fun cx => do
    let off ← scratchOperand cx f.a.toNat 64 16448
    let x ← getG cx.g
    let rur := match look (← get).runs (siteOf x) with | some r => r.rur | none => none
    match rur with
    | some sp => if x.trapmask.getLsbD 0 then trap 14 (n64 sp) else pure ()
    | none => pure ()
    let bs ← scratchBytes cx off 16448
    let cut := num bs 16384 4
    if cut == 0 || decide (4096 < cut) then illegalOperand (n64 cut)
    applyMarks cx (countMarks f.l false) (scalarMark f.l f.a.toNat)
    setTree cx f.w.toNat
      { leaves := (List.range cut).foldl (fun m i => setLeaf m i (trunc20 (num bs (4 * i) 4))) []
        cut := cut
        status := n32 (num bs 16388 4 % 8) }) s
/-- WOP STAT (R273, R282). -/
def execWopStat (f : FWD) (s : State) : Host.Outcome State Fault Refusal :=
  treeUnit f.z 0x77 f.w.toNat [] (some f.d.toNat) (pure ()) (fun cx => do
    let t ← getTree cx f.w.toNat
    setTree cx f.w.toNat { t with status := 0#32 }
    writeAllLanes cx f.d.toNat t.status.toNat) s
/-- WOP CUTPTR (R282). -/
def execWopCutptr (f : FWD) (s : State) : Host.Outcome State Fault Refusal :=
  treeUnit f.z 0x77 f.w.toNat [] (some f.d.toNat) (pure ()) (fun cx => do
    let t ← getTree cx f.w.toNat
    writeAllLanes cx f.d.toNat t.cut) s

end Sys2Proof.Machine
end

