-- ==== Sys2Proof/Machine/Debug.lean ====
section
/-! DEFINITION. The debug commands (R390–R404, R425). -/

namespace Sys2Proof.Machine

/-! ## Levels (R390, R391) -/

-- DEDUCED: log 71
def Level.rank : Level → Nat
  | .user => 0
  | .guest => 1
  | .hypervisor => 2
  | .maker => 3
-- DEDUCED: log 71
/-- The level a command acts at: maker level needs a maker session. -/
def State.levelOf (s : State) (c : DbgCmd) : Nat :=
  if c.level == .maker && !(s.ldev c.c.ld.val).maker then 2 else Level.rank c.level

/-! ## Attaching and stopping (R392–R395) -/

/-- The live group a name of the device's own names, where a debugger is attached to its task. -/
def State.debugged (s : State) (n : W64) : Option Nat :=
  match s.holder n with
  | none => none
  | some g => if alive (s.grp g) && (s.grp g).mill.isNone && (s.task (s.grp g).task).attached then some g else none

/-- ATTACH. -/
def cmdAttach (c : MgmtCmd) : M Done := do
  if !fitsBits c.a2 2 then return badCmd
  let s ← get
  match s.taskAt c.ld.val c.a1 with
  | none => return refused
  | some k =>
    if (s.task k).ended then return refused
    else do
      let on := c.a2.getLsbD 0
      let s := s.modTask k (fun t => { t with attached := on, bkptstop := on && c.a2.getLsbD 1 })
      set (if on then s else { s with groups := s.groups.map (fun (e : Nat × Group) => if e.2.task == k && e.2.mill.isNone then (e.1, { e.2 with brks := [] }) else e) })
      return done0

/-- The groups a HALT or RESUME names: 0 name, 1 team, 2 task. -/
def State.debugSet (s : State) (c : MgmtCmd) : Option (List Nat) :=
  let kind := wbits c.a0 1 0
  match s.setOf c.ld.val (if kind == 2 then 3 else kind) c.a1 with
  | none => none
  | some gs =>
    let k : Option Nat := if kind == 2 then s.taskAt c.ld.val c.a1 else (s.holder c.a1).map (fun g => (s.grp g).task)
    if k.any (fun k => (s.task k).attached) then some (gs.filter (fun g => alive (s.grp g))) else none
-- DEDUCED: log 64
def setBad (c : MgmtCmd) : Bool := !fitsBits c.a0 2 || wbits c.a0 1 0 == 3 || (wbits c.a0 1 0 != 2 && !ownName c.ld.val c.a1)

/-- A group stopped at its unit boundary; a halted or stopped one stays as it is (R393). -/
def State.haltDebug (s : State) (g : Nat) : State :=
  let x := s.grp g
  if x.halted || x.dstop then s
  else
    let s := s.cutRun g
    s.debugStop g evDhalt 0 (leadPc (s.grp g)) 0#64 (leadPc (s.grp g))

/-- HALT. -/
def cmdHalt (c : MgmtCmd) : M Done := do
  if setBad c then return badCmd
  match (← get).debugSet c with
  | none => return refused
  | some gs => do
    modify (fun s => gs.foldl State.haltDebug s)
    return done0

/-- RESUME. -/
def cmdResume (c : MgmtCmd) : M Done := do
  if setBad c then return badCmd
  match (← get).debugSet c with
  | none => return refused
  | some gs => do
    modify (fun s => gs.foldl (fun s g => s.modGrp g (fun x => { x with dstop := false, stepping := false })) s)
    return done0

-- DEDUCED: log 78
/-- STEP. -/
def cmdStep (c : MgmtCmd) : M Done := do
  if !ownName c.ld.val c.a1 then return badCmd
  let s ← get
  match s.debugged c.a1 with
  | none => return refused
  | some g =>
    if !(s.grp g).dstop then return refused
    else do
      set (s.modGrp g (fun x => { x with dstop := false, stepping := true }))
      return done0

/-- BRK. -/
def cmdBrk (c : MgmtCmd) : M Done := do
  if !ownName c.ld.val c.a1 || !fitsBits c.a2 2 || !aligned c.a3 4 || !fitsBits c.a4 1 then return badCmd
  let s ← get
  match s.debugged c.a1 with
  | none => return refused
  | some g => do
    set (s.modGrp g (fun x => { x with brks := ins x.brks c.a2.toNat { addr := c.a3, on := c.a4.getLsbD 0 } }))
    return done0

-- DEDUCED: log 74
/-- WATCH: a watchpoint another device has set is not taken from it. -/
def cmdWatch (c : MgmtCmd) : M Done := do
  let ld := c.ld.val
  let d := wbits c.a0 2 0
  let i := wbits c.a1 2 0
  let dom := c.a4.setWidth 16
  let s ← get
  if !fitsBits c.a0 3 || !fitsBits c.a1 3 || c.a3 = 0#64 || decide (2 ^ 48 < c.a3.toNat) || !fitsBits c.a4 20 || domLd dom != ld
      || (s.stackLd d 0 != ld && s.stackLd d 1 != ld) then return badCmd
  else if (look (s.die d).watches i).any (fun w => w.on && w.ld != ld) then return refused
  else do
    let w : Watch := {
      start := c.a2, len := c.a3.toNat, ld := ld, dom := dom, rd := c.a4.getLsbD 16, wr := c.a4.getLsbD 17, stop := c.a4.getLsbD 18, on := c.a4.getLsbD 19 }
    set (s.modDie d (fun x => { x with watches := ins x.watches i w }))
    return done0

/-! ## Registers of a stopped group (R399) -/

/-- A selector's fields. -/
def selThread (x : W64) : Nat := wbits x 31 26
def selNum (x : W64) : Nat := wbits x 23 8
def selClass (x : W64) : Nat := wbits x 7 0

-- DEDUCED: log 76
/-- Whether a selector names something the group has; a class 9 number is a specifier of R24. -/
def selOk (x : Group) (sel : W64) : Bool :=
  let n := selNum sel
  let perThread := decide (selThread sel < x.w)
  wbits sel 63 32 == 0 && wbits sel 25 24 == 0 && (match selClass sel with
    | 0 => decide (n < 80) && perThread
    | 1 => decide (n < 64)
    | 2 => decide (n < 8) && perThread
    | 3 => decide (n < 2) && perThread
    | 4 => decide (n < 8) && perThread
    | 5 => decide (n < 3)
    | 6 => csrKnown n
    | 7 => n == 0 && perThread
    | 8 => decide (n < 16384) && (look x.trees (n / 4096)).isSome
    | 9 => decide (n < 80) || (decide (96 ≤ n) && decide (n < 160))
    | _ => false)

/-- A context of one thread of a stopped group. -/
def threadCx (s : State) (g t : Nat) : Cx :=
  let x := s.grp g
  { g := g, act := activeSet x, exe := maskOf x.w (fun i => i == t), pc := leadPc x, upc := leadPc x, h := {} }
/-- A context of the active set. -/
def setCx (s : State) (g : Nat) : Cx :=
  let x := s.grp g
  { g := g, act := activeSet x, exe := activeSet x, pc := leadPc x, upc := leadPc x, h := {} }

/-- A read that leaves no trace but the free values it took. -/
def peek {α : Type} (k : M α) : M α := do
  let s ← get
  let v ← k
  modify (fun t => { s with fresh := t.fresh })
  return v

/-- A vector register as the group's next instruction would read it; a SPILLED one comes from the spill area. -/
def peekV (cx : Cx) (r : Nat) : M (List W32) := peek (do
  let vs ← readV cx cx.exe r r
  let s ← get
  let x := s.grp cx.g
  if !(x.spilled.contains r || x.wspill.contains r) then return vs
  else do
    let img := (look x.spillimg r).getD []
    let ts ← agentTargets x.dom { r := true } 4 (spillAddr s x r) img
    let s ← get
    if ts.flatMap (fun t => s.readT t.1 t.2.length) == img then return vs
    else do
      let f ← freeWords x.w
      return gen x.w (fun t => (f t).setWidth 32))

-- DEDUCED: log 76
/-- The mapping state of a v or s register. -/
def mapState (x : Group) (r : Nat) : Nat :=
  if (pendingReg x r).any (fun p => !p.1.ready) then 3
  else if x.spilled.contains r then 2
  else if (if 96 ≤ r then (look x.sval r).isSome else (look x.vval r).isSome) then 1
  else 0

-- DEDUCED: log 76
def regValue (g : Nat) (sel : W64) : M W64 := do
  let s ← get
  let x := s.grp g
  let t := selThread sel
  let n := selNum sel
  match selClass sel with
  | 0 => return (lane 0#32 (← peekV (threadCx s g t) n) t).setWidth 64
  | 1 => peek (readS (setCx s g) n)
  | 2 => return (lane 0#32 (← peekV (threadCx s g t) (80 + n)) t).setWidth 64
  | 3 => return lane 0#64 (if n == 0 then x.y0 else x.y1) t
  | 4 => return b64 (hasLane ((look x.p n).getD 0#64) t)
  | 5 => return lane 0#64 x.lc n
  | 6 => readCsr g n
  | 7 => return lane 0#64 x.pcs t
  | 8 => return n64 (leafAt ((look x.trees (n / 4096)).getD Tree.empty) (n % 4096))
  | _ => return n64 (mapState x n)

/-- The stopped group a READREG or WRITEREG names. -/
def State.stoppedGroup (s : State) (n : W64) : Option Nat :=
  match s.debugged n with
  | none => none
  | some g => if (s.grp g).dstop then some g else none

-- DEDUCED: log 76
/-- READREG. -/
def cmdReadreg (c : MgmtCmd) : M Done := do
  if !ownName c.ld.val c.a1 || wbits c.a2 63 32 != 0 then return badCmd
  let s ← get
  match s.stoppedGroup c.a1 with
  | none => return refused
  | some g =>
    if !selOk (s.grp g) c.a2 then return badCmd
    else return (0, ← regValue g c.a2)

-- DEDUCED: log 76
def putReg (g : Nat) (sel v : W64) : M Unit := do
  let s ← get
  let x := s.grp g
  let t := selThread sel
  let n := selNum sel
  let cx := threadCx s g t
  let one (old : W64) : W64 := (old &&& ~~~cx.exe) ||| (if v.getLsbD 0 then cx.exe else 0#64)
  match selClass sel with
  | 0 => writeV cx cx.exe n (gen x.w (fun _ => v.setWidth 32)) []
  | 1 => writeS (setCx s g) n v
  | 2 => writeQ cx cx.exe n (gen x.w (fun _ => v.setWidth 32))
  | 3 => modG g (fun x => if n == 0 then { x with y0 := setAt x.y0 t v } else { x with y1 := setAt x.y1 t v })
  | 4 => modG g (fun x => { x with p := ins x.p n (one ((look x.p n).getD 0#64)) })
  | 5 => modG g (fun x => { x with lc := setAt x.lc n v })
  | 6 => modG g (fun x => writeCsr x n v)
  | 7 => modG g (fun x => { x with pcs := setAt x.pcs t v })
  | _ => modG g (fun x => { x with trees := ins x.trees (n / 4096) (setOne ((look x.trees (n / 4096)).getD Tree.empty) (n % 4096) (v.toNat % 2 ^ 32)) })

-- DEDUCED: log 76
/-- A write that must spill and cannot halts the group (R83); the write is not made. -/
def putOrHalt (g : Nat) (k : M Unit) : M Done := fun s =>
  match k.run s with
  | .ok (_, s') => .ok (done0, s')
  | .error (.spillFault c k l a) =>
    .ok (refused, s.halt g { cause := c, info := 0#64, pc := leadPc (s.grp g), set := activeSet (s.grp g), code := k, level := l, addr := a
                             sitePc := leadPc (s.grp g), siteSeq := (s.grp g).cmdseq } false)
  | .error e => .error e

-- DEDUCED: log 76
/-- WRITEREG. -/
def cmdWritereg (c : MgmtCmd) : M Done := do
  if !ownName c.ld.val c.a1 || wbits c.a2 63 32 != 0 then return badCmd
  let s ← get
  match s.stoppedGroup c.a1 with
  | none => return refused
  | some g =>
    if !selOk (s.grp g) c.a2 || selClass c.a2 == 9 || (selClass c.a2 == 6 && !csrWritable (selNum c.a2)) || (selClass c.a2 == 7 && !aligned c.a3 4)
    then return badCmd
    else putOrHalt g (putReg g c.a2 c.a3)

/-! ## Sampling and tracing (R396, R400) -/

-- DEDUCED: log 75
/-- A ring a command names, ready to be used. -/
def dbgRing (ld : Nat) (a mask dom : W64) : M (Option (Ring × List W8)) := do
  let d ← ringDesc ld a
  return if ringOk d then some ({ desc := a, mask := mask, dom0 := wbits dom 15 0, domn := wbits dom 31 16 }, d) else none

-- DEDUCED: log 75
/-- SAMPLE: the partitions of the mask on every core of the die. -/
def cmdSample (c : MgmtCmd) : M Done := do
  let ld := c.ld.val
  let k := c.a2.toNat
  if !fitsBits c.a0 11 || !fitsBits c.a2 5 || (k != 0 && decide (k < 4)) || decide (24 < k) || !fitsBits c.a3 32 || !fitsBits c.a4 32
      || !aligned c.a1 64 then return badCmd
  let sites := (List.range 24).flatMap (fun i => ((List.range 8).filter (fun p => c.a0.getLsbD p)).map (fun p => (wbits c.a0 10 8 * 24 + i) * 8 + p))
  if k == 0 then do
    modify (fun s => { s with samples := s.samples.filter (fun e => !(sites.contains e.1 && e.2.ld == ld)) })
    return done0
  else match ← dbgRing ld c.a1 0#64 c.a4 with
    | none => return badCmd
    | some (r, _) => do
      sites.forM (fun p => do
        let f ← freeVal
        let m : Sample := { k := k, lfsr := (c.a3.setWidth 32) ^^^ n32 (p % 8), left := f.toNat % (2 ^ (k + 1) - 1) + 1, tag := false, ring := r, ld := ld }
        modify (fun s => { s with samples := ins s.samples p m }))
      return done0

-- DEDUCED: log 75
/-- TRACE: a ring address of 0 turns tracing off. -/
def cmdTrace (c : MgmtCmd) : M Done := do
  let ld := c.ld.val
  if !aligned c.a1 64 || c.a2.getLsbD 0 || !fitsBits c.a2 14 || !fitsBits c.a4 32 then return badCmd
  if c.a1 = 0#64 then do
    modify (fun s => s.modLd ld (fun l => { l with trace := none }))
    return done0
  else match ← dbgRing ld c.a1 c.a2 c.a4 with
    | none => return badCmd
    | some (r, d) => do
      addDrops ld c.a1 d ((← get).ldev ld).traceDrops
      modify (fun s => s.modLd ld (fun l => { l with trace := some r, traceDrops := 0 }))
      return done0

/-! ## Counters and time (R378, R401–R403) -/

-- DEDUCED: log 77
/-- A task's counters. -/
def taskCtr (t : Task) (id : Nat) : Nat := if id < 16 then (look t.fp id).getD 0 else if id == 16 then t.idivz else t.keepRefusals
-- DEDUCED: log 77
/-- A group's counters; `none` is a count of clocks, which nothing here fixes. -/
def groupCtr (s : State) (x : Group) (id : Nat) : Option Nat :=
  if id < 0x27 then some (vstatVal s x (id - 0x20))
  else if id == 0x30 then some x.runs
  else if id < 0x35 then some (lane 0 x.words (id - 0x31))
  else if id == 0x38 then some x.saves
  else none
-- DEDUCED: log 77
/-- The group whose counters a name shows: its holder, or the group that has exited under it. -/
def State.counted (s : State) (ld : Nat) (n : W64) : Option Nat :=
  let e := s.nameEnt n
  if e.st == 0 || e.st == 5 || !ownName ld n then none
  else ((s.groups.filter (fun (e : Nat × Group) => e.2.name == n && e.2.mill.isNone)).getLast?).map (·.1)

inductive CtrClass where
  | task | group | shared | clock | bad
  deriving DecidableEq, Repr
-- DEDUCED: log 77
def ctrClass (id : Nat) : CtrClass :=
  if id < 0x12 then .task
  else if (0x20 ≤ id && id < 0x27) || (0x30 ≤ id && id < 0x39) then .group
  else if 0x100 ≤ id && id < 0x140 then (if id % 8 == 7 then .clock else .shared)
  else if (0x200 ≤ id && id < 0x260) || (0x300 ≤ id && id < 0x360) || (0x380 ≤ id && id < 0x3E0) then .shared
  else .bad

/-- The ingest port `k` of the module. -/
def State.ing (s : State) (k : Nat) : Ingest := (look s.ingest k).getD { held := [], xoff := 0#8, stopped := [], counts := [], frames := 0, dropped := 0 }
-- DEDUCED: log 77
/-- The die of a shared counter and its place among that die's. -/
def ctrPlace (id : Nat) : Nat × Nat :=
  if id < 0x140 then ((id - 0x100) / 8, id % 8)
  else if id < 0x300 then ((id - 0x200) / 12, 8 + (id - 0x200) % 12)
  else if id < 0x380 then ((id - 0x300) / 12, 20 + (id - 0x300) % 12)
  else ((id - 0x380) / 12, 32 + (id - 0x380) % 12)
-- DEDUCED: log 77
/-- A shared counter as it stands, `f` being what its events have added since it was last looked at where the model has no count of them. -/
def sharedCtr (s : State) (id f : Nat) : Nat :=
  let (d, i) := ctrPlace id
  let k := (look (s.die d).counters i).getD 0
  if i == 4 then k
  else if i == 5 then s.sibsUsed d
  else if i < 20 then min (k + f) (2 ^ 64 - 1)
  else if i < 32 then (s.ing (id - 0x300)).frames
  else (s.ing (id - 0x380)).dropped
-- DEDUCED: log 77
/-- What a shared counter was a millisecond ago (R378): of an event count, no less than such a read gave before and no more than it is. -/
def delayedCtr (s : State) (id v f : Nat) : Nat :=
  let (d, i) := ctrPlace id
  let old := (look (s.die d).counters (64 + i)).getD 0
  if i == 5 then f % 2 ^ 20 else old + f % (v - old + 1)
-- DEDUCED: log 77
/-- A shared counter read at a level. -/
def readShared (lv id : Nat) : M Done := do
  let f ← freeVal
  let g ← freeVal
  let s ← get
  let (d, i) := ctrPlace id
  let v := sharedCtr s id f.toNat
  let s := if i < 20 && i != 4 && i != 5 then s.modDie d (fun x => { x with counters := ins x.counters i v }) else s
  if 2 ≤ lv then do
    set s
    return (0, n64 v)
  else do
    let old := delayedCtr s id v g.toNat
    set (s.modDie d (fun x => { x with counters := ins x.counters (64 + i) old }))
    return (0, n64 (old / 4096 * 4096))
-- DEDUCED: log 77
/-- A count of clocks of a group: no less than it was, and fixed once the group has exited (R402). -/
def readClocks (g id : Nat) : M Done := do
  let f ← freeVal
  let x := (← get).grp g
  let old := (look x.clocks id).getD 0
  let v := if (look x.clocks (64 + id)).isSome then old else min (old + f.toNat) (2 ^ 64 - 1)
  modify (fun s => s.modGrp g (fun x => { x with clocks := if alive x then ins x.clocks id v else ins (ins x.clocks id v) (64 + id) 1 }))
  return (0, n64 v)

-- DEDUCED: log 77
/-- READCTR. -/
def cmdReadctr (lv : Nat) (c : MgmtCmd) : M Done := do
  let s ← get
  let id := c.a0.toNat
  match ctrClass id with
  | .bad => return badCmd
  | .task =>
    match s.taskAt c.ld.val c.a1 with
    | none => return refused
    | some k => return (0, n64 (taskCtr (s.task k) id))
  | .group =>
    match s.counted c.ld.val c.a1 with
    | none => return refused
    | some g =>
      match groupCtr s (s.grp g) id with
      | some v => return (0, n64 v)
      | none => readClocks g id
  | .clock => if c.a1 != 0#64 then return badCmd else if lv < 2 then return refused else return (0, n64 (s.die ((id - 0x100) / 8)).coreClk)
  | .shared => if c.a1 != 0#64 then return badCmd else readShared lv id

/-- Every die's clock, 0 for a die outside the partition. -/
def clocksOf (part : List Nat) : List Nat → M (List W8)
  | [] => pure []
  | d :: ds => do
    let v ← if d == 8 || part.contains d then clock d else pure 0#64
    return bytes8 v ++ (← clocksOf part ds)
/-- TIMESNAP. -/
def cmdTimesnap (c : MgmtCmd) : M Done := do
  let ld := c.ld.val
  if !aligned c.a1 8 then return badCmd
  let s ← get
  let bs ← clocksOf (s.partDies (s.ldPart ld)) (List.range 9)
  kwrite (domBase ld) c.a1 bs
  return done0

/-! ## Lifetime counters (R404): keyed by the byte where the counter lies -/

def lifeSize (off : Nat) : Nat := if off < 64 then 8 else if off < 128 then 1 else if off < 256 then 4 else 8
def State.bumpLife (s : State) (off n : Nat) : State :=
  let v := (look s.life off).getD 0
  { s with life := ins s.life off (min (v + n) (2 ^ (8 * lifeSize off) - 1)) }
def State.lifeImage (s : State) : List W8 :=
  let m := s.life.foldl (fun m e => wrN m e.1 (toLe (lifeSize e.1) e.2)) (wrN [] 0 (toLe 8 1))
  rdN m 0 4096
/-- LIFETIME. -/
def cmdLifetime (lv : Nat) (c : MgmtCmd) : M Done := do
  if !aligned c.a1 64 || !fitsBits c.a2 1 then return badCmd
  else if c.a2.getLsbD 0 && lv < 3 then return refused
  else do
    let s ← get
    kwrite (domBase c.ld.val) c.a1 s.lifeImage
    modify (fun s => if c.a2.getLsbD 0 then { s with life := s.life.filter (fun e => decide (e.1 < 128)) } else s)
    return done0

-- DEDUCED: log 78
/-- MHALT (R383). -/
def cmdMhalt (c : MgmtCmd) : M Done := do
  if !fitsBits c.a1 1 then return badCmd
  else do
    modify (fun s => { s with mhalt := c.a1.getLsbD 0 })
    return done0

end Sys2Proof.Machine
end

