-- ==== Sys2Proof/Machine/Tdisp.lean ====
section
/-! DEFINITION. The TDISP interface of a logical device: lock, error, stop and Function Level Reset (R370–R372). -/

namespace Sys2Proof.Machine

/-- An address in a device's stacks. -/
def State.inStacks (s : State) (ld a : Nat) : Bool := s.frameOk ld a 1

/-- The keep cells of a device's stacks lose their home state and hold 0 (R337, R371). -/
def State.scrubKeeps (s : State) (ld : Nat) : State :=
  let mine := s.keeps.filter (fun e => s.inStacks ld e.1)
  { s with keeps := s.keeps.filter (fun e => !s.inStacks ld e.1)
           dmem := mine.foldl (fun m e => wrN m e.1 (List.replicate 8 0#8)) s.dmem }

-- DEDUCED: log 81
/-- Entry to ERROR (R371): the groups halt with no record; copies and ingest windows stop, since they look at the state; the keep
cells are scrubbed. -/
def State.toError (s : State) (ld : Nat) : State :=
  if (s.ldev ld).tdisp == .error then s
  else
    let s := s.modLd ld (fun l => { l with tdisp := .error })
    let gs := (s.groups.filter (fun (e : Nat × Group) => e.2.ld == ld && e.2.mill.isNone && alive e.2)).map (·.1)
    let s := gs.foldl (fun s g => (s.cutRun g).modGrp g (fun x => { x with halted := true, wait := .none, stalled := false })) s
    s.scrubKeeps ld

/-- A task ended with no record, its STATE written where it can be. -/
def State.dropTask (s : State) (k : Nat) : State :=
  let s := (s.endTeams k).modTask k (fun t => { t with state := 5, ended := true, again := [] })
  match runAgent s (writeState (s.task k) 5 0) with
  | .done s' => s'
  | _ => s
-- DEDUCED: log 81
/-- Every task of a device ended, with no records. -/
def State.dropTasks (s : State) (ld : Nat) : State :=
  ((s.tasks.filter (fun (e : Nat × Task) => e.2.ld == ld && !e.2.ended)).map (·.1)).foldl State.dropTask s
-- DEDUCED: log 36
/-- A queue reset, also where its descriptor cannot be reached. -/
def State.clearQueue (s : State) (k : Nat) : State :=
  match look s.queues k with
  | none => s
  | some q =>
    match runAgent s (resetQueue k q) with
    | .done s' => s'
    | _ => { s with queues := ins s.queues k { q with stalled := false, sites := [] }, copies := s.copies.filter (fun c => c.queue != some k) }
def State.clearQueues (s : State) (ld : Nat) : State :=
  ((s.queues.filter (fun (e : Nat × Queue) => e.2.ld == ld)).map (·.1)).foldl State.clearQueue s

/-- Every byte of a device's stacks 0. -/
def State.zeroStack (s : State) (lo : Nat) : State :=
  let here (a : Nat) : Bool := decide (lo ≤ a) && decide (a < lo + stackBytes)
  { s with dmem := zeroRange s.dmem lo stackBytes, keeps := s.keeps.filter (fun e => !here e.1), nameMirror := s.nameMirror.filter (fun e => !here e.1) }
def stackBase (die stack : Nat) : Nat := die * 2 ^ 37 + stack * stackBytes
def State.zeroStacks (s : State) (ld : Nat) : State :=
  (List.range 16).foldl (fun s' i => if s.stackLd (i / 2) (i % 2) == ld then s'.zeroStack (stackBase (i / 2) (i % 2)) else s') s

/-- A device's stores zero, and what stood for names there gone with them. -/
def State.scrubLd (s : State) (ld : Nat) : State :=
  let s := s.zeroStacks ld
  { s with
    teams := s.teams.map (fun (e : Nat × Team) => if (s.task e.2.task).ld == ld then (e.1, { e.2 with scr := [], acc := [] }) else e)
    joins := s.joins.filter (fun j => j.ld != ld)
    hostFresh := s.hostFresh.filter (fun n => domLd (nameDom n) != ld)
    parked := s.parked.filter (fun p => domLd (nameDom p.1) != ld) }.modLd ld (fun l => { l with ports := [], ctxUsed := [] })

-- DEDUCED: log 81
/-- What STOP_INTERFACE_REQUEST and a Function Level Reset do (R371). -/
def State.resetLd (s : State) (ld : Nat) : State :=
  (((s.dropTasks ld).clearQueues ld).scrubLd ld).modLd ld (fun l => { l with tdisp := .unlocked })

-- DEDUCED: log 81
/-- Whether every queue of a device is empty. -/
def queuesEmpty (ld : Nat) : M Bool := do
  let qs := (← get).queues.filter (fun (e : Nat × Queue) => e.2.ld == ld)
  let es ← qs.mapM (fun e => do
    let d ← agentRead e.2.dom kernelR 2 e.2.desc 64
    return num d 16 8 == num d 24 8)
  return es.all id

/-- Whether the module is in a stage, or shut down, where nothing but STARTST and the debug DVSEC answers (R405, R406, R410). -/
def State.dark (s : State) : Bool := s.shut || s.stage == 0 || s.stage == 15

-- DEDUCED: log 81
/-- LOCK_INTERFACE_REQUEST (R370). -/
def execLockInterfaceRequest (ld : Fin 16) (s : State) : Host.Outcome State Fault Refusal :=
  let l := ld.val
  let busy := s.groups.any (fun (e : Nat × Group) => e.2.ld == l && e.2.mill.isNone && alive e.2)
  if s.dark then event s
  else if (s.ldev l).tdisp != .unlocked || busy then event (s.emit (.tdispError l))
  else
    match (queuesEmpty l).run s with
    | .ok (true, _) => event ((s.modLd l (fun x => { x with tdisp := .locked })).emit (.tdispOk l))
    | _ => event (s.emit (.tdispError l))

-- DEDUCED: log 81
/-- STOP_INTERFACE_REQUEST (R370, R371). -/
def execStopInterfaceRequest (ld : Fin 16) (s : State) : Host.Outcome State Fault Refusal :=
  if s.dark then event s
  else if (s.ldev ld.val).tdisp == .unlocked then event (s.emit (.tdispOk ld.val))
  else event ((s.resetLd ld.val).emit (.tdispOk ld.val))
/-- FUNCTION_LEVEL_RESET (R364, R371). -/
def execFunctionLevelReset (ld : Fin 16) (s : State) : Host.Outcome State Fault Refusal := event (s.resetLd ld.val)
-- DESIGN CHOICE: log 99
/-- IDE_INTEGRITY_FAILURE (R371): in LOCKED or RUN. -/
def execIdeIntegrityFailure (ld : Fin 16) (s : State) : Host.Outcome State Fault Refusal :=
  match (s.ldev ld.val).tdisp with
  | .locked => event (s.toError ld.val)
  | .run => event (s.toError ld.val)
  | _ => event s

/-- LDINFO (R366). -/
def State.stacksOf (s : State) (ld : Nat) : Nat := (List.range 16).foldl (fun n i => if s.stackLd (i / 2) (i % 2) == ld then n + 2 ^ i else n) 0
def tdispCode : Tdisp → Nat
  | .unlocked => 0
  | .locked => 1
  | .run => 2
  | .error => 3
def State.ldInfo (s : State) (ld : Nat) : W64 :=
  n64 (ld * 256 * 2 ^ 48 + s.stacksOf ld * 2 ^ 32 + tdispCode (s.ldev ld).tdisp * 2 ^ 24 + s.ldPart ld * 2 ^ 8 + ld)
/-- The ranges of R366 with their marks. -/
def reportRanges : List ReportRange :=
  [⟨0, 0, 0x1000, .teeReadOnly⟩, ⟨0, 0x1000, 0x1000, .tee⟩, ⟨0, 0x2000, 0x1000, .tee⟩, ⟨0, 0x3000, 0x100, .teeReadOnly⟩,
   ⟨0, 0x8000, 0x8000, .teeLocked⟩, ⟨0, 0x10000, 0x2000, .teeLocked⟩, ⟨0, 0x20000, 0x800, .tee⟩, ⟨0, 0x30000, 0x8000, .tee⟩,
   ⟨2, 0, 2 ^ 40, .teeMemory⟩, ⟨4, 0, 2 ^ 24, .tee⟩]
-- DESIGN CHOICE: log 99
/-- INTERFACE_REPORT (R372): LDINFO, the stacks, the ranges and the constants of R364. -/
def execInterfaceReport (ld : Fin 16) (s : State) : Host.Outcome State Fault Refusal :=
  if s.dark then event s
  else event (s.emit (.report ld.val (s.ldInfo ld.val) (n32 (s.stacksOf ld.val) |>.setWidth 16) reportRanges [2048, 16, ld.val, 4, 8]))

end Sys2Proof.Machine
end

