-- ==== Sys2Proof/Machine/Preut.lean ====
section
/-! DEFINITION. The Preut configuration commands (R373–R376, R384, R408) and the debug mailbox (R391). -/

namespace Sys2Proof.Machine

/-! ## Firewall registers (R373–R375) -/

-- DEDUCED: log 79
/-- Whether an FWCTL value has no reserved field set. -/
def fwOk (v : W64) : Bool :=
  wbits v 62 32 == 0 && wbits v 23 20 == 0 && wbits v 15 12 == 0 && wbits v 7 3 == 0 && decide (wbits v 19 16 ≤ 8) && decide (wbits v 11 8 < 8)

-- DEDUCED: log 79
/-- The register in force after a write: the link bits and LOCK at once, the rest at the next partition reset. -/
def fwNow (old new : W64) : W64 := (old &&& ~~~0x8000000000000007#64) ||| (new &&& 0x8000000000000007#64)

-- DEDUCED: log 79
/-- The devices whose frozen set holds a die's firewall register (R371). -/
def State.frozenBy (s : State) (d : Nat) : List Nat :=
  [s.stackLd d 0, s.stackLd d 1].filter (fun l => (s.ldev l).tdisp == .locked || (s.ldev l).tdisp == .run)

-- DEDUCED: log 79
/-- FWSET. -/
def cmdFwset (c : MgmtCmd) : M Done := do
  if !fitsBits c.a0 3 || !fwOk c.a1 || c.a2 != 0#64 || c.a3 != 0#64 || c.a4 != 0#64 || c.a5 != 0#64 then return badCmd
  let s ← get
  let d := c.a0.toNat
  if (s.die d).fwctl.getLsbD 63 then return refused
  else if c.a1 != (s.die d).fwnext && !(s.frozenBy d).isEmpty then do
    set ((s.frozenBy d).foldl State.toError s)
    return done0
  else do
    set (s.modDie d (fun x => { x with fwctl := fwNow x.fwctl c.a1, fwnext := c.a1 }))
    return done0

/-- BUDGETSET. -/
def cmdBudgetset (c : MgmtCmd) : M Done := do
  if !fitsBits c.a0 7 || wbits c.a1 63 48 != 0 || wbits c.a1 31 16 != 0 || c.a2 != 0#64 || c.a3 != 0#64 || c.a4 != 0#64 || c.a5 != 0#64 then return badCmd
  else do
    modify (fun s => s.modDie (wbits c.a0 6 4) (fun x => { x with budgetNext := ins x.budgetNext (wbits c.a0 3 0) c.a1 }))
    return done0

/-- A device whose stacks lie on one of some dies. -/
def State.ldsOn (s : State) (ds : List Nat) : List Nat := (List.range 16).filter (fun l => ds.any (fun d => s.stackLd d 0 == l || s.stackLd d 1 == l))

-- DEDUCED: log 80
/-- One die as its reset leaves it: the pending fields apply, LOCK is clear, its clock and registers start again. -/
def Die.restarted (d : Die) : Die :=
  { d with
    clk := 0#64, fwctl := d.fwnext &&& ~~~0x8000000000000000#64, fwnext := d.fwnext &&& ~~~0x8000000000000000#64
    portMode := d.portNext, budget := [], budgetNext := [], ceu := [], watches := [], counters := [] }

-- DEDUCED: log 80
/-- The link status of ports 10 and 11 of a die, as its port mode has it (R379, R384). -/
def State.portModes (s : State) (d : Nat) : State :=
  [10, 11].foldl (fun s p =>
    let k := 12 * d + p
    let eth := (s.die d).portMode.getLsbD (p - 10)
    let s := { s with ingest := if eth then s.ingest else erase s.ingest k }
    if eth then s.setPort k { state := 5 }
    else if (s.port k).state == 5 then s.setPort k {} else s) s

/-! ## Milliners (R298, R365, R406) -/

-- DESIGN CHOICE: log 29
/-- A milliner core as its image takes it up: it issues words of its own once Preut gives it a PC, and a name with it. -/
def millGroup (m ld : Nat) : Group :=
  { Group.blank with
    mill := some m, ld := ld, dom := domBase ld, w := 1, place := .resident, slot := 0, y0 := [0#64], y1 := [0#64], pcs := [0#64], ages := [0] }

/-- The logical devices that hold a stack, in rising order. -/
def State.ldsThere (s : State) : List Nat := (List.range 16).filter (fun l => (List.range 8).any (fun d => s.stackLd d 0 == l || s.stackLd d 1 == l))
-- DESIGN CHOICE: log 29
/-- The device a milliner serves: the 16 are split evenly over the devices there are (R365). -/
def State.millLd (s : State) (m : Nat) : Nat := lane 0 s.ldsThere (m % s.ldsThere.length)
-- DESIGN CHOICE: log 29
/-- Preut assigns the milliners anew: one that changes its device starts again. -/
def State.assignMillers (s : State) : State :=
  s.groups.foldl (fun s (e : Nat × Group) => match e.2.mill with
    | none => s
    | some m => if e.2.ld == s.millLd m then s else (s.cutRun e.1).setGrp e.1 (millGroup m (s.millLd m))) s

/-! ## Stage 2 (R405, R409) -/

/-- Whether a band of the avoidance list holds a harmonic of a frequency. -/
def inBand (e : W64) (f : Nat) : Bool :=
  let lo := wbits e 31 0 * 16
  let hi := wbits e 63 32 * 16
  hi != 0 && decide (lo ≤ hi) && (List.range 31).any (fun h => decide (lo ≤ (h + 1) * f) && decide ((h + 1) * f ≤ hi))
def clear16 (avoid : List W64) (f : Nat) : Bool := avoid.all (fun e => !inBand e f)

-- DESIGN CHOICE: log 90
/-- Whether a clock plan keeps every harmonic clear of the list in force. -/
def planFits (avoid : List W64) (p : Nat × Nat × Nat) : Bool := clear16 avoid (p.1 * 16000) && clear16 avoid p.2.1 && clear16 avoid (p.2.2 * 16000)
-- DESIGN CHOICE: log 90
/-- Whether the clocks spread their spectrum (R409): off where the list in force is not empty. -/
def State.spreadSpectrum (s : State) : Bool := s.avoidNow.all (fun e => wbits e 63 32 == 0)
/-- A port that holds back stage 2 no more. -/
def portSettled (p : Port) : Bool := p.alone || p.state == 2 || p.state == 3 || p.state == 4 || p.state == 5
/-- Stage 2 once every die has joined and every port has settled, where every clock found a candidate. -/
def State.checkStage (s : State) : State :=
  if s.stage == 1 && planFits s.avoidNow s.plan && (List.range 8).all (fun d => (s.die d).up) && (List.range 96).all (fun k => portSettled (s.port k)) then
    { s with stage := 2 }
  else s

/-- STARTST (R407). -/
def State.startst (s : State) : W64 :=
  let mask (f : Die → Bool) : Nat := (List.range 8).foldl (fun n d => if f (s.die d) then n + 2 ^ d else n) 0
  n64 (mask (fun d => d.failed) * 2 ^ 40 + mask (fun d => d.up && !d.updating) * 2 ^ 32 + s.plan.1 * 2 ^ 16 + (if s.images.millB then 2 ^ 8 else 0)
    + (if s.images.preutB then 2 ^ 9 else 0) + s.stage)

/-- The link status of a port (R379). -/
def State.linkStatus (s : State) (k : Nat) : W64 := n64 ((s.port k).peer.toNat * 2 ^ 32 + (s.port k).state)

-- DEDUCED: log 80
/-- A partition reset (R374). -/
def State.resetPartition (s : State) (p : Nat) : State :=
  let ds := s.partDies p
  let s := (s.ldsOn ds).foldl (fun s l => (s.dropTasks l).scrubLd l) s
  let s := ds.foldl (fun s d => (s.zeroStack (stackBase d 0)).zeroStack (stackBase d 1)) s
  let s := { s with samples := s.samples.filter (fun e => !ds.contains (e.1 / 192)), ingest := s.ingest.filter (fun e => !ds.contains (e.1 / 12)) }
  (ds.foldl (fun s d => (s.modDie d Die.restarted).portModes d) s).assignMillers.checkStage

-- DEDUCED: log 80
/-- PRESET. -/
def cmdPreset (c : MgmtCmd) : M Done := do
  if !fitsBits c.a0 3 || c.a1 != 0#64 || c.a2 != 0#64 || c.a3 != 0#64 || c.a4 != 0#64 || c.a5 != 0#64 then return badCmd
  else do
    modify (fun s => s.resetPartition c.a0.toNat)
    return done0

/-! ## The avoidance list, port modes, slices, reading back -/

/-- AVOIDSET. -/
def cmdAvoidset (c : MgmtCmd) : M Done := do
  let s ← get
  if c.a0 != 0#64 || !aligned c.a1 8 || !s.frameOk c.ld.val c.a1.toNat 256 || c.a2 != 0#64 || c.a3 != 0#64 || c.a4 != 0#64 || c.a5 != 0#64 then return badCmd
  else do
    let b := rdN s.dmem c.a1.toNat 256
    set { s with avoid := gen 32 (fun i => word b (8 * i)) }
    return done0

/-- PORTMODE. -/
def cmdPortmode (c : MgmtCmd) : M Done := do
  if !fitsBits c.a0 3 || !fitsBits c.a1 2 || c.a2 != 0#64 || c.a3 != 0#64 || c.a4 != 0#64 || c.a5 != 0#64 then return badCmd
  else do
    modify (fun s => s.modDie c.a0.toNat (fun x => { x with portNext := c.a1.setWidth 2 }))
    return done0

/-- The cores of a 192-bit mask. -/
def maskCores (a b c : W64) : List Nat := (List.range 192).filter (fun i => (if i < 64 then a else if i < 128 then b else c).getLsbD (i % 64))

-- DEDUCED: log 56, 80
/-- SLICESET: teams on cores that leave the slice are reclaimed (R359). -/
def cmdSliceset (c : MgmtCmd) : M Done := do
  let s ← get
  let l := wbits c.a0 3 0
  let cores := maskCores c.a1 c.a2 c.a3
  let dies := s.partDies (s.ldPart l)
  if !fitsBits c.a0 5 || c.a4 != 0#64 || c.a5 != 0#64 || cores.any (fun i => !dies.contains (i / 24)) then return badCmd
  else do
    let gone := (s.ldev l).slice.filter (fun i => !cores.contains i)
    let s := s.modLd l (fun x => { x with slice := cores, lendable := c.a0.getLsbD 4 })
    set ((gone.flatMap (fun i => (s.coreTeams i).map (·.1))).foldl (fun s t => s.tryPreempt (s.team t).gids) s)
    return done0

-- DEDUCED: log 79
/-- CFGREAD. -/
def cmdCfgread (c : MgmtCmd) : M Done := do
  let s ← get
  let item := wbits c.a0 1 0
  let d := s.die (wbits c.a0 6 4)
  let l := wbits c.a0 11 8
  if !fitsBits c.a0 12 || wbits c.a0 3 2 != 0 || wbits c.a0 7 7 != 0 || (item != 3 && c.a1 != 0#64) || c.a2 != 0#64 || c.a3 != 0#64 || c.a4 != 0#64
      || c.a5 != 0#64 then return badCmd
  else match item with
    | 0 => return (0, d.fwnext)
    | 1 => return (0, (look d.budgetNext l).getD ((look d.budget l).getD 0xFFFF0000FFFF#64))
    | 2 => return (0, d.portNext.setWidth 64)
    | _ =>
      if !aligned c.a1 8 || !s.frameOk c.ld.val c.a1.toNat 256 then return badCmd
      else do
        set (s.devPut c.a1.toNat ((gen 32 (fun i => lane 0#64 s.avoid i)).flatMap bytes8))
        return done0

/-! ## The debug mailbox (R391, R392) -/

-- DEDUCED: log 71
/-- The least level of a command; a reserved OP has none (R390, R392). -/
def leastLevel (op : Nat) : Nat :=
  if op == 0 || op == 15 || decide (22 < op) || op == 9 || op == 10 || op == 11 || op == 12 then 0 else if op ≤ 10 then 1 else 2

-- DEDUCED: log 71
def dbgBody (op lv : Nat) (c : MgmtCmd) : M Done :=
  if c.rsv != 0#64 then pure badCmd
  else if lv < leastLevel op then pure refused
  else match op with
    | 1 => cmdAttach c
    | 2 => cmdHalt c
    | 3 => cmdResume c
    | 4 => cmdStep c
    | 5 => cmdBrk c
    | 6 => cmdWatch c
    | 7 => cmdReadreg c
    | 8 => cmdWritereg c
    | 9 => cmdSample c
    | 10 => cmdTrace c
    | 11 => cmdReadctr lv c
    | 12 => cmdTimesnap c
    | 13 => cmdLifetime lv c
    | 14 => cmdMhalt c
    | 16 => cmdFwset c
    | 17 => cmdBudgetset c
    | 18 => cmdPreset c
    | 19 => cmdAvoidset c
    | 20 => cmdPortmode c
    | 21 => cmdSliceset c
    | 22 => cmdCfgread c
    | _ => pure badCmd

-- DEDUCED: log 72; DESIGN CHOICE: log 73
/-- A command carried out, its record written last. -/
def State.dbgAt (s : State) (op : Nat) (c : DbgCmd) : State :=
  let ld := c.c.ld.val
  if !aligned c.c.done 16 then s.modLd ld (fun l => { l with mgmtErr := l.mgmtErr + 1 })
  else match runAgent s (do
      let r ← dbgBody op (s.levelOf c) c.c
      modify (fun s => s.cmdRecord ld c.c.done r)) with
    | .done s' => s'
    | .wait s' => { s' with pend := s'.pend ++ [.dbg op c] }
    | .failed _ k _ _ => (s.undeny k).cmdRecord ld c.c.done badCmd

-- DESIGN CHOICE: log 73
/-- A command of the mailbox that waits. -/
def Pend.isDbg : Pend → Bool
  | .dbg _ _ => true
  | _ => false

-- DEDUCED: log 72
/-- The mailbox's commands that wait, in their order, each tried again: one at a time, whatever device they came from (R375, R391). -/
def State.dbgAgain (s : State) : State :=
  (s.pend.filter Pend.isDbg).foldl (fun s p => match p with
    | .dbg op c => if s.pend.any Pend.isDbg then { s with pend := s.pend ++ [.dbg op c] } else s.dbgAt op c
    | _ => s) { s with pend := s.pend.filter (fun p => !p.isDbg) }

-- DEDUCED: log 72
/-- A command of the mailbox: it waits behind those that wait. A module that has shut down answers nothing. -/
def State.dbg (s : State) (op : Nat) (c : DbgCmd) : State :=
  if s.shut then s
  else
    let s := s.dbgAgain
    if s.pend.any Pend.isDbg then { s with pend := s.pend ++ [.dbg op c] } else s.dbgAt op c

-- DESIGN CHOICE: log 73
/-- Whether a device's doorbell reads 1 (R391): a command of its waits behind one in service. -/
def State.bell (s : State) (ld : Nat) : Bool :=
  ((s.pend.filter Pend.isDbg).drop 1).any (fun p => match p with | .dbg _ d => d.c.ld.val == ld | _ => false)

-- DESIGN CHOICE: log 73
/-- ATTACH (R392). -/
def execAttach (c : DbgCmd) (s : State) : Host.Outcome State Fault Refusal := event (s.dbg 1 c)
/-- HALT (R393). -/
def execHalt (c : DbgCmd) (s : State) : Host.Outcome State Fault Refusal := event (s.dbg 2 c)
/-- RESUME (R393). -/
def execResume (c : DbgCmd) (s : State) : Host.Outcome State Fault Refusal := event (s.dbg 3 c)
/-- STEP (R395). -/
def execStep (c : DbgCmd) (s : State) : Host.Outcome State Fault Refusal := event (s.dbg 4 c)
/-- BRK (R394). -/
def execBrk (c : DbgCmd) (s : State) : Host.Outcome State Fault Refusal := event (s.dbg 5 c)
/-- WATCH (R397). -/
def execWatch (c : DbgCmd) (s : State) : Host.Outcome State Fault Refusal := event (s.dbg 6 c)
-- DESIGN CHOICE: log 73
/-- READREG (R399). -/
def execReadreg (c : DbgCmd) (s : State) : Host.Outcome State Fault Refusal := event (s.dbg 7 c)
/-- WRITEREG (R399). -/
def execWritereg (c : DbgCmd) (s : State) : Host.Outcome State Fault Refusal := event (s.dbg 8 c)
/-- SAMPLE (R400). -/
def execSample (c : DbgCmd) (s : State) : Host.Outcome State Fault Refusal := event (s.dbg 9 c)
/-- TRACE (R396). -/
def execTrace (c : DbgCmd) (s : State) : Host.Outcome State Fault Refusal := event (s.dbg 10 c)
/-- READCTR (R401, R402). -/
def execReadctr (c : DbgCmd) (s : State) : Host.Outcome State Fault Refusal := event (s.dbg 11 c)
/-- TIMESNAP (R403). -/
def execTimesnap (c : DbgCmd) (s : State) : Host.Outcome State Fault Refusal := event (s.dbg 12 c)
/-- LIFETIME (R404). -/
def execLifetime (c : DbgCmd) (s : State) : Host.Outcome State Fault Refusal := event (s.dbg 13 c)
/-- MHALT (R383). -/
def execMhalt (c : DbgCmd) (s : State) : Host.Outcome State Fault Refusal := event (s.dbg 14 c)
/-- FWSET (R373, R375). -/
def execFwset (c : DbgCmd) (s : State) : Host.Outcome State Fault Refusal := event (s.dbg 16 c)
/-- BUDGETSET (R375, R376). -/
def execBudgetset (c : DbgCmd) (s : State) : Host.Outcome State Fault Refusal := event (s.dbg 17 c)
/-- PRESET (R374, R375). -/
def execPreset (c : DbgCmd) (s : State) : Host.Outcome State Fault Refusal := event (s.dbg 18 c)
/-- AVOIDSET (R375, R408). -/
def execAvoidset (c : DbgCmd) (s : State) : Host.Outcome State Fault Refusal := event (s.dbg 19 c)
/-- PORTMODE (R375, R384). -/
def execPortmode (c : DbgCmd) (s : State) : Host.Outcome State Fault Refusal := event (s.dbg 20 c)
/-- SLICESET (R358, R375). -/
def execSliceset (c : DbgCmd) (s : State) : Host.Outcome State Fault Refusal := event (s.dbg 21 c)
-- DESIGN CHOICE: log 73
/-- CFGREAD (R375). -/
def execCfgread (c : DbgCmd) (s : State) : Host.Outcome State Fault Refusal := event (s.dbg 22 c)

end Sys2Proof.Machine
end

