-- ==== Sys2Proof/Machine/HostMem.lean ====
section
/-! DEFINITION. What a host does to the module's memory and registers, and what a peer does through a fabric window (R335, R364,
R366, R379–R382, R385). -/

namespace Sys2Proof.Machine

/-! ## Host memory accesses through BAR2 or HDM (R335, R364, R405) -/

-- DEDUCED: log 82
/-- A range of a device's stacks, on dies that have joined. -/
def State.barOk (s : State) (ld a n : Nat) : Bool :=
  s.serving ld && decide (1 ≤ n) && s.frameOk ld a n && (s.die (a / 2 ^ 37)).up
-- DEDUCED: log 83
/-- The 8-byte cells a range touches. -/
def cellsOf (a n : Nat) : List Nat := (List.range ((a + n + 7) / 8 - a / 8)).map (fun i => (a / 8 + i) * 8)
-- DEDUCED: log 83
def State.heldCell (s : State) (a : Nat) : Bool := (look s.keeps a).isSome
-- DEDUCED: log 83
/-- The operator of the keep leaf that maps a cell. -/
def State.cellOp (s : State) (a : Nat) : Nat :=
  match (s.keepLeaves.filter (fun e =>
      let f := bits e.pte.toNat 56 15 * 2 ^ 15
      decide (f ≤ a) && decide (a < f + 2 ^ leafBits e.level))).getLast? with
  | some e => bits e.pte.toNat 14 12
  | none => 0
-- DESIGN CHOICE: log 95
/-- A byte as a host reads it: of the fold of a cell's siblings where the cell holds home state. -/
def State.hostByte (s : State) (a : Nat) : W8 :=
  let c := a / 8 * 8
  match (look s.keeps c).map (fun _ => s.keep c) with
  | some k =>
    let v := if s.cellOp c == 0 then (k.sibs.head?.map (·.1)).getD 0#64 else foldAll (s.cellOp c) (k.sibs.map (·.1))
    (v >>> (8 * (a % 8))).setWidth 8
  | none => rd s.dmem a

-- DEDUCED: log 83
/-- A write's bytes, but for those that fall on cells with home state, which are counted. -/
def State.hostPlain (s : State) (ld a : Nat) (bs : List W8) : State :=
  let kept := (cellsOf a bs.length).filter s.heldCell
  let m := (List.range bs.length).foldl (fun m i => if kept.contains ((a + i) / 8 * 8) then m else wr m (a + i) (lane 0#8 bs i)) s.dmem
  let s' : State := { s with dmem := m }
  (s'.spoilNames (s.touchedNames a bs.length)).modLd ld
    (fun l => { l with keepErr := l.keepErr + kept.length })
-- DEDUCED: log 83
/-- A keep write of a host; a refusal is counted. -/
def State.hostKeep (s : State) (ld a : Nat) (v : W64) : State :=
  let (s, st, _) := s.keepWrite a (s.cellOp a) (192 + ld) v 0#64
  if st == 2 then s.modLd ld (fun l => { l with keepErr := l.keepErr + 1 }) else s

-- DEDUCED: log 82
/-- HOST_MEMORY_WRITE (R335, R364). -/
def execHostMemoryWrite (ld : Fin 16) (addr : W64) (bytes : List W8) (s : State) : Host.Outcome State Fault Refusal :=
  let a := addr.toNat
  if s.dark then event s
  else if !s.barOk ld.val a bytes.length then event (s.emit (.unsupported ld.val))
  else if bytes.length == 8 && a % 8 == 0 && s.heldCell a then event (s.hostKeep ld.val a (le64 bytes))
  else event (s.hostPlain ld.val a bytes)

-- DEDUCED: log 82
/-- HOST_ATOMICOP (R364): the old value goes back. -/
def execHostAtomicop (ld : Fin 16) (op : AtomOp) (addr : W64) (size : Nat) (a b : W64) (s : State) : Host.Outcome State Fault Refusal :=
  let p := addr.toNat
  if s.dark then event s
  else if op == .cas128 || (size != 4 && size != 8) || p % size != 0 || !s.barOk ld.val p size || s.heldCell (p / 8 * 8) then
    event (s.emit (.unsupported ld.val))
  else
    let old := n64 (leNat (rdN s.dmem p size))
    let cut (v : W64) : W64 := if size == 4 then v &&& 0xFFFFFFFF#64 else v
    let new := match op with
      | .fetchAdd => some (cut (old + a))
      | .swap => some (cut a)
      | _ => if old = cut a then some (cut b) else none
    let s := match new with
      | some v => s.devPut p (toLe size v.toNat)
      | none => s
    event (s.emit (.atomicData ld.val old))

/-! ## Register writes (R366) -/

/-- A 64-byte block as a command of the invalidation port, of the management port, as a request of a name port (R215, R314, R368). -/
def invCmd (b : List W8) : Nat × InvCmd :=
  (num b 32 2, {
    domain := BitVec.ofNat 16 (num b 30 2), start := word b 0, len := word b 8, done := word b 16
    rsv := if num b 24 6 == 0 && num b 34 30 == 0 then 0#64 else 1#64 })
def mgmtCmd (ld : Fin 16) (b : List W8) : Nat × MgmtCmd :=
  (num b 0 1, {
    ld := ld, a0 := word b 8, a1 := word b 16, a2 := word b 24, a3 := word b 32, a4 := word b 40, a5 := word b 48, done := word b 56
    rsv := n64 (num b 1 7) })
def portCmd (port : Fin 4096) (b : List W8) : Nat × PortReq :=
  (num b 0 1, {
    port := port, name := word b 8, gen := BitVec.ofNat 16 (num b 6 2), reg := BitVec.ofNat 8 (num b 1 1), value := word b 16
    caddr := word b 24, ticket := n32 (num b 32 4), time := word b 40
    rsv := if num b 2 4 == 0 && num b 36 4 == 0 && num b 48 16 == 0 then 0#64 else 1#64 })

-- DEDUCED: log 85
/-- The frozen ranges (R366, R371). -/
def isFrozen (o : Nat) : Bool := (decide (0x8000 ≤ o) && decide (o < 0x12000))
/-- Whether a device's Ethernet block of port 10 + `p` of die `d` is there for it (R384, R385). -/
def State.ownsEth (s : State) (ld d p : Nat) : Bool := s.stackLd d 0 == ld && (s.die d).portMode.getLsbD p
-- DEDUCED: log 85
/-- A register byte a write changes. -/
def State.writable (s : State) (ld o : Nat) : Bool :=
  isFrozen o || (decide (0x20000 ≤ o) && decide (o < 0x20800))
    || (decide (0x30000 ≤ o) && decide (o < 0x38000) && (let b := (o - 0x30000) / 0x800
        s.ownsEth ld (b / 2) (b % 2) && decide ((o - 0x30000) % 0x800 < 0x600)))

/-- The window descriptors of a device's Ethernet blocks: where descriptor `i` of block `b` lies. -/
def ethWin (b i : Nat) : Nat := 0x30000 + b * 0x800 + 0x200 + 64 * i
/-- Whether a descriptor has V set. -/
def winV (bar : Mem) (b i : Nat) : Bool := bits (num (rdN bar (ethWin b i) 64) 32 2) 0 0 == 1

/-- FAULT of a window's status word written (R386); a missing host page is waited for. -/
def State.winFault (s : State) (die : Nat) (d : List W8) (v : List W8) : State :=
  s.putRecord (s.stackLd die 0) (BitVec.ofNat 16 (num d 8 2)) [(word d 16 + 40#64, List.replicate 24 0#8), (word d 16 + 32#64, v)] 3

/-- A window whose V goes from clear to set runs again, with FAULT 0 (R388). -/
def State.restartWin (s : State) (ld : Nat) (old : Mem) (b i : Nat) : State :=
  if winV old b i || !winV (s.ldev ld).bar0 b i then s
  else
    let k := 12 * (b / 2) + 10 + b % 2
    let s := { s with ingest := adjust s.ingest k (fun g => { g with stopped := erase g.stopped i }) }
    s.winFault (b / 2) (rdN (s.ldev ld).bar0 (ethWin b i) 64) (List.replicate 8 0#8)

-- DEDUCED: log 85
/-- Plain register bytes written. -/
def State.regBytes (s : State) (ld off : Nat) (bs : List W8) : State :=
  let old := (s.ldev ld).bar0
  let m := (List.range bs.length).foldl (fun m i => if s.writable ld (off + i) then wr m (off + i) (lane 0#8 bs i ^^^ bar0Reset (off + i)) else m) old
  let s := s.modLd ld (fun l => { l with bar0 := m })
  let s := if rangesMeet 0x8000 0x8000 off bs.length then (List.range 2048).foldl (fun s v => s.unmask ld v) s else s
  let hit := (List.range 256).filter (fun k => rangesMeet (ethWin (k / 16) (k % 16)) 64 off bs.length)
  hit.foldl (fun s k => s.restartWin ld old (k / 16) (k % 16)) s

-- DESIGN CHOICE: log 84
/-- Where the name ports' BAR stands in the numbering of registers, and a device's configuration space as its own host and as the fabric
manager reach it. -/
def bar4Base : Nat := 2 ^ 24
-- DESIGN CHOICE: log 84
def cfgBase : Nat := 2 ^ 25
-- DESIGN CHOICE: log 84
def fmBase : Nat := 2 ^ 26
-- DESIGN CHOICE: log 84
/-- Where the debug DVSEC's capability stands within a configuration space. -/
def dvsecAt : Nat := 0x1000
-- PRESUMED: log 113
/-- The BAR registers of a configuration space: BAR0, BAR2 and BAR4, 8 bytes each. -/
def isBarReg (o : Nat) : Bool := decide (0x10 ≤ o) && decide (o < 0x28)

/-! ## Configuration space: BAR registers and the debug DVSEC (R371, R391) -/

-- DESIGN CHOICE: log 73; PRESUMED: log 113
/-- The first 12 bytes of the DVSEC (R391): the capability header, then vendor, revision 0 and length 0x50, then ID 1. -/
def dvsecHead (o : Nat) : W8 :=
  if o < 4 then (Config.dvsecCap >>> (8 * o)).setWidth 8
  else if o < 8 then ((Config.vendorId.setWidth 32 ||| 0x05000000#32) >>> (8 * (o - 4))).setWidth 8
  else if o = 8 then 1#8 else 0#8
-- DESIGN CHOICE: log 73
/-- A byte of a device's configuration space as it reads: a BAR register, the DVSEC, else 0. -/
def State.cfgByte (s : State) (ld o : Nat) : W8 :=
  if isBarReg o then rd (s.ldev ld).cfg o
  else if o < dvsecAt || dvsecAt + 0x50 ≤ o then 0#8
  else
    let d := o - dvsecAt
    if 0x10 ≤ d then rd (s.ldev ld).window (d - 0x10) else if d = 0xC && s.bell ld then 1#8 else dvsecHead d
-- DESIGN CHOICE: log 73
/-- A write to a device's configuration space (R391): BAR registers; the request window, unless the doorbell reads 1; 1 to the doorbell
starts the command in the window at the level of the path it came by. -/
def State.cfgWrite (s : State) (ld : Nat) (level : Level) (o : Nat) (bs : List W8) : State :=
  let t := (s.ldev ld).tdisp
  let at' (lo hi : Nat) : List Nat := (List.range bs.length).filter (fun i => decide (lo ≤ o + i) && decide (o + i < hi))
  if (List.range bs.length).any (fun i => isBarReg (o + i)) && t != .unlocked then (if t == .error then s else s.toError ld)
  else
    let put (m : Mem) (lo hi : Nat) : Mem := (at' lo hi).foldl (fun m i => wr m (o + i - (if lo = 0x10 then 0 else lo)) (lane 0#8 bs i)) m
    let s := s.modLd ld (fun l => { l with cfg := put l.cfg 0x10 0x28 })
    if s.bell ld then s
    else
      let s := s.modLd ld (fun l => { l with window := put l.window (dvsecAt + 0x10) (dvsecAt + 0x50) })
      if o ≤ dvsecAt + 0xC && dvsecAt + 0x10 ≤ o + bs.length && leNat ((bs.drop (dvsecAt + 0xC - o)).take 4) == 1 then
        let c := mgmtCmd (Fin.ofNat 16 ld) (rdN (s.ldev ld).window 0 64)
        s.dbg c.1 { level := level, c := c.2 }
      else s

/-! ## Register reads (R366) -/

-- DESIGN CHOICE: log 84
/-- A byte of a device's BAR0 as it reads; `free` stands for one that the spec gives no value. -/
def State.bar0Byte (s : State) (ld o : Nat) (free : W8) : W8 :=
  let part (v : W64) : W8 := (v >>> (8 * (o % 8))).setWidth 8
  if o < 0x1000 then
    if o < 8 then part (s.ldInfo ld)
    else if o < 0x10 then part (s.peerno.setWidth 64)
    else if o < 0x18 then part s.startst
    else if 0x400 ≤ o && o < 0x400 + 8 * 96 then part (s.linkStatus ((o - 0x400) / 8))
    else 0#8
  else if o < 0x3000 then free
  else if (0x3000 ≤ o && o < 0x3100) || s.writable ld o then s.bar0Reg ld o
  else 0#8
-- DESIGN CHOICE: log 84
/-- A byte of the register numbering as it reads; a name port gives no value. -/
def State.regByte (s : State) (ld o : Nat) (free : W8) : W8 :=
  if fmBase ≤ o then s.cfgByte ld (o - fmBase)
  else if cfgBase ≤ o then s.cfgByte ld (o - cfgBase)
  else if bar4Base ≤ o then free
  else s.bar0Byte ld o free
-- DESIGN CHOICE: log 84
/-- A read of registers; in the stages where nothing else answers, of STARTST or a configuration space only (R405). -/
def State.regRead (s : State) (ld o n : Nat) : State :=
  if s.shut || (s.dark && o < cfgBase && !(0x10 ≤ o && o + n ≤ 0x18)) then s
  else
    let b := gen n (fun i => s.regByte ld (o + i) ((Config.freeWord (s.fresh + i)).setWidth 8))
    ({ s with fresh := s.fresh + n } : State).emit (.readData ld b)
-- DESIGN CHOICE: log 84
/-- The addresses from which HOST_MEMORY_READ stands for a read of registers. -/
def regRegion : Nat := 2 ^ 63
-- DEDUCED: log 82
/-- HOST_MEMORY_READ (R335, R364, R366, R405). -/
def execHostMemoryRead (ld : Fin 16) (addr : W64) (size : Nat) (s : State) : Host.Outcome State Fault Refusal :=
  if regRegion ≤ addr.toNat then event (s.regRead ld.val (addr.toNat - regRegion) size)
  else if s.dark then event s
  else if s.barOk ld.val addr.toNat size then event (s.emit (.readData ld.val (gen size (fun i => s.hostByte (addr.toNat + i)))))
  else event (s.emit (.unsupported ld.val))

-- DESIGN CHOICE: log 84
/-- A write into the name ports' BAR (R314). -/
def State.portWrite (s : State) (ld o : Nat) (bs : List W8) : State :=
  if bs.length != 64 || o % 64 != 0 then s.modLd ld (fun l => { l with portErr := l.portErr + 1 })
  else
    let (op, r) := portCmd (Fin.ofNat 4096 (o / 4096)) bs
    if op == 0 then s else s.portReq ld op r

-- DESIGN CHOICE: log 84; DEDUCED: log 85
/-- REGISTER_WRITE (R366, R371, R391): offsets from 2^24 on stand for BAR4, from 2^25 on for the configuration space. -/
def execRegisterWrite (ld : Fin 16) (offset : Nat) (bytes : List W8) (s : State) : Host.Outcome State Fault Refusal :=
  let l := ld.val
  let t := (s.ldev l).tdisp
  let frozen := (List.range bytes.length).any (fun i => isFrozen (offset + i))
  if s.shut || bytes.isEmpty then event s
  else if fmBase ≤ offset then event (s.cfgWrite l .hypervisor (offset - fmBase) bytes)
  else if cfgBase ≤ offset then event (s.cfgWrite l .guest (offset - cfgBase) bytes)
  else if s.dark then event s
  else if bar4Base ≤ offset then event (if s.serving l then s.portWrite l (offset - bar4Base) bytes else s)
  else if frozen && (t == .locked || t == .run) then event (s.toError l)
  else if frozen && t == .error then event s
  else if 0x1000 ≤ offset && offset < 0x3000 then
    if bytes.length != 64 || offset % 64 != 0 then event s
    else if offset < 0x2000 then event (let c := invCmd bytes; s.acceptInval l c.1 c.2)
    else event (let c := mgmtCmd ld bytes; s.mgmt c.1 c.2)
  else event (s.regBytes l offset bytes)

/-! ## Fabric windows (R379–R382) -/

-- DEDUCED: log 87
/-- Window `w` of a device. -/
def State.fabWin (s : State) (ld w : Nat) : List W8 := rdN (s.ldev ld).bar0 (0x20000 + 32 * w) 32
/-- Whether a window lets an access in; `none` refuses it. -/
def winOk (ld : Nat) (e : List W8) (a : PeerAccess) : Bool :=
  let flags := num e 24 1
  let peer := num e 30 2
  num e 8 8 == 0 && num e 25 3 == 0 && bits flags 7 4 == 0 && bits flags 0 0 == 1 && num e 28 2 / 256 == ld && num e 0 8 % 64 == 0
    && num e 16 8 % 64 == 0 && (peer == 0xFFFF || peer == a.peer.toNat)
    && (if a.append then bits flags 3 3 == 1 else if a.write then bits flags 2 2 == 1 else bits flags 1 1 == 1)
    && decide (a.offset + a.size ≤ num e 16 8) && (bits flags 3 3 == 0 || num e 16 8 == 64)

def peerWriter (p : W16) : Nat := 240 + p.toNat % 784

-- DEDUCED: log 86
/-- Writes of a peer at their homes; keep cells take whole 8-byte words. -/
def State.peerLand (s : State) (w : Nat) : List (Target × List W8) → State
  | [] => s
  | (.keep a m, bs) :: r =>
    ((List.range (bs.length / 8)).foldl (fun (s : State) i => (s.keepWrite (a + 8 * i) m.toNat w (word bs (8 * i)) 0#64).1) s).peerLand w r
  | (t, bs) :: r => (s.writeT t bs).peerLand w r

-- DEDUCED: log 86
/-- Whether a piece of a write on a keep page is made of whole cells. -/
def wholeCells (e : Target × List W8) : Bool := match e.1 with | .keep a _ => a % 8 == 0 && e.2.length % 8 == 0 | _ => true

/-- The record of a watched access of a peer (R398). -/
def State.peerWatch (s : State) (ld port : Nat) (dom : W16) (peer : W16) (wr : Bool) (va : W64) (n : Nat) : State :=
  match watchHit s (port / 12) ld dom (!wr) wr [(va, n)] with
  | some (i, _, at') => s.trace ld dom.toNat (port / 12) evWreport false 0#64 0#64 (peer.setWidth 64) at' 0#64 (i + (if wr then 8 else 0))
  | none => s

-- DEDUCED: log 86
/-- The row of an append put into its queue (R382): its slot, `none` where the queue is full. -/
def peerAppend (dom : W16) (qd : W64) (row : List W8) : M (Option W64) := do
  let need : Need := { r := true, w := true }
  let d ← agentRead dom need 2 qd 64
  let log2 := bits (num d 8 4) 4 0
  let w := num d 16 8
  if decide (2 ^ log2 ≤ (w + 2 ^ 64 - num d 24 8) % 2 ^ 64) then return none
  else do
    let slot := word d 0 + n64 (w % 2 ^ log2 * 64)
    let ws ← agentTargets dom { w := true } 3 slot row
    let cs ← agentTargets dom { w := true } 2 (qd + 16#64) (toLe 8 (w + 1))
    modify (fun s => (s.writeAll cs).writeAll ws)
    return some slot

-- DEDUCED: log 86
/-- What a peer is told; `none` where an append finds its queue full. -/
def peerBody (ld port : Nat) (a : PeerAccess) : M (Option Out) := do
  let s ← get
  let e := s.fabWin ld a.window.val
  let dom := BitVec.ofNat 16 (num e 28 2)
  let base := word e 0
  if !winOk ld e a then return some (.peerRefused a.peer 3)
  else if a.append then
    match s.queueAt dom base with
    | none => return some (.peerRefused a.peer 3)
    | some k =>
      if a.size != 64 || !((look s.queues k).map (·.peerAppend)).getD false then return some (.peerRefused a.peer 3)
      else do
        match ← peerAppend dom base (gen 64 (lane 0#8 a.data)) with
        | some slot =>
          modify (fun s => s.peerWatch ld port dom a.peer true slot 64)
          return some (.peerDone a.peer)
        | none => return none
  else do
    let va := base + n64 a.offset
    let bs := if a.write then gen a.size (lane 0#8 a.data) else List.replicate a.size 0#8
    let ts ← agentTargets dom { r := !a.write, w := a.write } (a.size / 4096 + 2) va bs
    if a.write && !ts.all wholeCells then return some (.peerRefused a.peer 3)
    else do
      let s ← get
      set ((if a.write then s.peerLand (peerWriter a.peer) ts else s).peerWatch ld port dom a.peer a.write va a.size)
      return some (if a.write then .peerDone a.peer else .peerData a.peer (ts.flatMap (fun t => s.readT t.1 t.2.length)))

-- DEDUCED: log 86
/-- An access carried out; one that waits for the host or for room in its queue stays. -/
def State.peerAt (s : State) (ld port : Nat) (a : PeerAccess) (again : Bool) : State :=
  match (peerBody ld port a).run s with
  | .ok (some o, s') => s'.emit o
  | .ok (none, s') =>
    let s' := { s' with pend := s'.pend ++ [.peer ld port a] }
    if again then s' else s'.emit (.peerWait a.peer)
  | .error (.suspend m) =>
    let s' := s.requestPages none m
    { s' with pend := s'.pend ++ [.peer ld port a] }
  | .error (.fail _ k _ _) => (s.undeny k).emit (.peerRefused a.peer k)
  | .error _ => s.emit (.peerRefused a.peer 3)

/-- FILESK_WINDOW_ACCESS (R380, R382): a port that is down or in Ethernet mode carries none; an append waits behind the earlier ones
of its window. -/
def execFileskWindowAccess (ld : Fin 16) (port : Fin 96) (acc : PeerAccess) (s : State) : Host.Outcome State Fault Refusal :=
  let st := (s.port port.val).state
  if !s.serving ld.val || !(st == 2 || st == 3 || st == 4) then event s
  else if acc.append && s.pend.any (fun p => match p with | .peer l _ a => l == ld.val && a.append && a.window == acc.window | _ => false) then
    event (({ s with pend := s.pend ++ [.peer ld.val port.val acc] } : State).emit (.peerWait acc.peer))
  else event (s.peerAt ld.val port.val acc false)

end Sys2Proof.Machine
end

