-- ==== Sys2Proof/Machine/Ethernet.lean ====
section
/-! DEFINITION. Ethernet ingest (R384–R389). -/

namespace Sys2Proof.Machine

def State.modIng (s : State) (k : Nat) (f : Ingest → Ingest) : State := { s with ingest := ins s.ingest k (f (s.ing k)) }
/-- A frame dropped and counted by the port. -/
def State.portDrop (s : State) (k : Nat) : State := s.modIng k (fun g => { g with dropped := satAdd g.dropped 1 })

-- DEDUCED: log 88
/-- The lowest valid flow entry of a block that takes a UDP port: its window (R385). -/
def flowWin (bar : Mem) (b : Nat) (port : W16) : Option Nat :=
  ((List.range 64).map (fun i => leNat (rdN bar (0x30000 + b * 0x800 + 8 * i) 8))).findSome? (fun e =>
    if bits e 63 63 == 1 && bits e 62 20 == 0 && bits e 15 0 == port.toNat then some (bits e 19 16) else none)

/-- A window descriptor's fields (R385). -/
def winLog2 (d : List W8) : Nat := bits (num d 32 2) 9 5
def winPause (d : List W8) : Bool := bits (num d 32 2) 1 1 == 1
-- DEDUCED: log 88
def winPcp (d : List W8) : BitVec 3 := BitVec.ofNat 3 (bits (num d 32 2) 4 2)
def winDom (d : List W8) : W16 := BitVec.ofNat 16 (num d 8 2)
def winStatus (d : List W8) : W64 := word d 16
-- DEDUCED: log 88
/-- Whether a descriptor counts as valid. -/
def ethWinOk (ld : Nat) (d : List W8) : Bool :=
  bits (num d 32 2) 0 0 == 1 && bits (num d 32 2) 15 10 == 0 && num d 48 16 == 0 && num d 24 8 == 0 && num d 10 6 == 0
    && decide (12 ≤ winLog2 d) && decide (winLog2 d ≤ 30) && num d 0 8 % 2 ^ winLog2 d == 0 && num d 16 8 % 64 == 0 && domLd (winDom d) == ld

/-- A frame's record (R387). -/
def frameLen (f : EthFrame) : Nat := (16 + f.payload.length + 63) / 64 * 64
def frameRecord (f : EthFrame) (time : W64) : List W8 :=
  toLe 2 f.payload.length ++ toLe 2 f.sport.toNat ++ [BitVec.ofNat 8 ((if f.ipv6 then 1 else 0) + (if f.vlan then 2 else 0)), 0#8, 0#8, 0#8]
    ++ bytes8 time ++ f.payload ++ List.replicate (frameLen f - 16 - f.payload.length) 0#8

/-- The free space a status word tells of (R386). -/
def ethFree (st : List W8) (log2 : Nat) : Nat :=
  let w := num st 0 8
  let r := num st 8 8
  if w < r || 2 ^ log2 < w - r then 0 else 2 ^ log2 - (w - r)

-- DEDUCED: log 88
/-- One more frame of a window dropped (R386). -/
def dropFrame (d : List W8) : M Unit := do
  let st ← kread (winDom d) (winStatus d + 24#64) 8
  kwrite (winDom d) (winStatus d + 40#64) (List.replicate 24 0#8)
  kwrite (winDom d) (winStatus d + 24#64) (toLe 8 (num st 0 8 + 1))
/-- `dropFrame`, which waits for a missing host page; where the status word cannot be written the port counts the frame. -/
def State.dropAt (s : State) (k : Nat) (d : List W8) : State :=
  match runAgent s (dropFrame d) with
  | .done s' => s'
  | .wait s' => { s' with pend := s'.pend ++ [.drop k d] }
  | .failed _ c _ _ => (s.portDrop k).undeny c

/-- The steps of R388 for one frame: `false` where it does not fit. -/
def putFrame (k win : Nat) (d : List W8) (f : EthFrame) (time : W64) : M Bool := do
  let dom := winDom d
  let log2 := winLog2 d
  let st ← kread dom (winStatus d) 40
  if ethFree st log2 < frameLen f then return false
  else do
    let o := num st 0 8 % 2 ^ log2
    let bs := frameRecord f time
    kwrite dom (word d 0 + n64 o) (bs.take (2 ^ log2 - o))
    kwrite dom (word d 0) (bs.drop (2 ^ log2 - o))
    kwrite dom (winStatus d + 40#64) (List.replicate 24 0#8)
    kwrite dom (winStatus d + 16#64) (toLe 8 (num st 16 8 + 1))
    kwrite dom (winStatus d) (toLe 8 (num st 0 8 + frameLen f))
    let s ← get
    let n := (look (s.ing k).counts win).getD 0 + 1
    let every := num d 34 2
    let due := every != 0 && n % every == 0 && num d 40 8 != 0
    set (s.modIng k (fun g => { g with counts := ins g.counts win (if every == 0 then 0 else n % every) }))
    if due then do
      let r ← applyName dom (word d 40) 0 2 0 (n64 (num d 36 4))
      if r == 0 then pure () else modify (fun s => s.portDrop k)
    else pure ()
    return true

-- DEDUCED: log 88
/-- A window that met a fault stops, with FAULT set where its status word can be written (R388). -/
def State.stopWin (s : State) (k win : Nat) (d : List W8) (code : Nat) : State :=
  let s := s.modIng k (fun g => { g with stopped := ins g.stopped win code })
  (s.winFault (k / 12) d (toLe 8 code)).dropAt k d

/-- A held frame's place in the buffer (R389): the frames of its priority wait, and their sender is told. -/
def heldBytes (g : Ingest) : Nat := (g.held.map (fun h => h.frame.size)).sum
def State.hold (s : State) (die p win : Nat) (d : List W8) (f : EthFrame) (time : W64) : State :=
  let k := 12 * die + 10 + p
  let g := s.ing k
  if 4 * 2 ^ 20 < heldBytes g + f.size then s.dropAt k d
  else
    let c := winPcp d
    (s.modIng k (fun g => { g with held := g.held ++ [{ win := win, pcp := c, frame := f, time := time }], xoff := g.xoff ||| (1#8 <<< c.toNat) })).emit
      (.pfc die (10 + p) c true)

/-- What becomes of a frame of a window. -/
inductive Fate where
  /-- written or dropped -/
  | over
  /-- it does not fit and its window pauses -/
  | noRoom
  /-- a host page is missing -/
  | waits
  deriving DecidableEq, Repr
-- DEDUCED: log 88
/-- A frame written where it can be. -/
def State.tryFrame (s : State) (ld die p win : Nat) (f : EthFrame) (time : W64) : Fate × State :=
  let k := 12 * die + 10 + p
  let d := rdN (s.ldev ld).bar0 (ethWin (2 * die + p) win) 64
  let drop (s : State) : State := s.dropAt k d
  if !ethWinOk ld d then (.over, s.portDrop k)
  else if (look (s.ing k).stopped win).isSome || decide (2 ^ winLog2 d < frameLen f) then (.over, drop s)
  else
    match (putFrame k win d f time).run s with
    | .ok (true, s') => (.over, s')
    | .ok (false, s') => if winPause d then (.noRoom, s') else (.over, drop s')
    | .error (.suspend m) => (.waits, s.requestPages none m)
    | .error (.fail _ c _ _) => (.over, (s.undeny c).stopWin k win d c)
    | .error _ => (.over, s)

/-- A frame of the port in arrival order: behind one that waits for the host, and behind those held at its priority. -/
def State.frameAt (s : State) (die p : Nat) (f : EthFrame) (time : W64) : State :=
  let k := 12 * die + 10 + p
  let ld := s.stackLd die 0
  match flowWin (s.ldev ld).bar0 (2 * die + p) f.dport with
  | none => s.portDrop k
  | some win =>
    let d := rdN (s.ldev ld).bar0 (ethWin (2 * die + p) win) 64
    if (s.ing k).held.any (fun h => h.pcp == winPcp d) then s.hold die p win d f time
    else match s.tryFrame ld die p win f time with
      | (.over, s) => s
      | (.noRoom, s) => s.hold die p win d f time
      | (.waits, s) => { s with pend := s.pend ++ [.frame die p f time] }

/-- ETHERNET_FRAME_RECEIVE (R384–R389). -/
def execEthernetFrameReceive (die : Fin 8) (port : Fin 2) (frame : EthFrame) (s : State) : Host.Outcome State Fault Refusal :=
  let d := die.val
  let p := port.val
  let k := 12 * d + 10 + p
  let ld := s.stackLd d 0
  if !s.ownsEth ld d p || !s.serving ld then event s
  else
    let (t, s) := s.clock d
    let s := s.modIng k (fun g => { g with frames := satAdd g.frames 1 })
    if !frame.fcsOk || !frame.ipOk || frame.fragment || !frame.udp || decide (9216 < frame.size) then event (s.portDrop k)
    else if s.pend.any (fun e => match e with | .frame a b _ _ => a == d && b == p | _ => false) then
      event { s with pend := s.pend ++ [.frame d p frame t] }
    else event (s.frameAt d p frame t)

/-- The held frames of a port looked at in order: the head of each priority is written once it fits. -/
def State.pollHeld (ld die p : Nat) : List HeldFrame → List (BitVec 3) → State → State × List HeldFrame
  | [], _, s => (s, [])
  | h :: hs, stuck, s =>
    if stuck.contains h.pcp then
      let (s, r) := State.pollHeld ld die p hs stuck s
      (s, h :: r)
    else
      match s.tryFrame ld die p h.win h.frame h.time with
      | (.over, s') => State.pollHeld ld die p hs stuck s'
      | (_, s) =>
        let (s, r) := State.pollHeld ld die p hs (h.pcp :: stuck) s
        (s, h :: r)

/-- INGEST_ROFF_POLL (R389). -/
def execIngestRoffPoll (die : Fin 8) (port : Fin 2) (s : State) : Host.Outcome State Fault Refusal :=
  let d := die.val
  let p := port.val
  let k := 12 * d + 10 + p
  let ld := s.stackLd d 0
  if (s.ing k).held.isEmpty || !s.serving ld || s.pend.any (fun e => match e with | .frame a b _ _ => a == d && b == p | _ => false) then event s
  else
    let (s1, left) := State.pollHeld ld d p (s.ing k).held [] s
    let on (c : Nat) : Bool := left.any (fun h => h.pcp.toNat == c)
    let was := (s1.ing k).xoff
    let now : BitVec 8 := BitVec.ofNat 8 ((List.range 8).foldl (fun n c => if on c then n + 2 ^ c else n) 0)
    let s2 := s1.modIng k (fun g => { g with held := left, xoff := now })
    event ((List.range 8).foldl (fun s c => if on c then s.emit (.pfc d (10 + p) (BitVec.ofNat 3 c) true)
      else if was.getLsbD c then s.emit (.pfc d (10 + p) (BitVec.ofNat 3 c) false) else s) s2)

end Sys2Proof.Machine
end

