-- ==== Sys2Proof/Machine/Service.lean ====
section
/-! DEFINITION. Start, clocks, power, sparing and updates; links; lifetime counters (R346, R379, R383, R391, R404–R412). -/

namespace Sys2Proof.Machine

/-! ## Clock plans (R408, R409): frequencies in sixteenths of a kHz -/

-- DESIGN CHOICE: log 90
/-- The first candidate that keeps clear of every band, else the last one. -/
def firstClear (avoid : List W64) (unit : Nat) : List Nat → Nat
  | [] => 0
  | [f] => f
  | f :: fs => if clear16 avoid (f * unit) then f else firstClear avoid unit fs
-- DESIGN CHOICE: log 90
/-- The core clock's candidates, in MHz, from the highest down. -/
def coreCandidates : List Nat := gen 701 (fun i => 1700 - i)
-- DESIGN CHOICE: log 90
/-- The fabric references, in sixteenths of a kHz. -/
def fabricCandidates : List Nat := [2500000, 2578125, 2665625]
-- DESIGN CHOICE: log 90
def hbmCandidates : List Nat := gen 91 (fun i => 2500 - 10 * i)
-- DESIGN CHOICE: log 90
/-- Core clock in MHz, fabric reference in sixteenths of a kHz, HBM clock in MHz. -/
def planOf (avoid : List W64) : Nat × Nat × Nat :=
  (firstClear avoid 16000 coreCandidates, firstClear avoid 1 fabricCandidates, firstClear avoid 16000 hbmCandidates)

-- DESIGN CHOICE: log 90
/-- The next lower and the next higher core clock that the list allows. -/
def stepDown (avoid : List W64) (f : Nat) : Nat := ((coreCandidates.filter (fun c => decide (c < f) && clear16 avoid (c * 16000))).head?).getD f
-- DESIGN CHOICE: log 90
def stepUp (avoid : List W64) (plan f : Nat) : Nat :=
  ((coreCandidates.filter (fun c => decide (f < c) && decide (c ≤ plan) && clear16 avoid (c * 16000))).getLast?).getD (if f < plan then plan else f)

/-! ## Staged start (R405–R407) -/

-- DESIGN CHOICE: log 89, 99
/-- Images that run (R406). -/
def bootImages (img : ImageCheck) : Images where
  preutB := !img.preutA && img.preutB
  millB := !img.millinerA && img.millinerB
  microB := if !img.microA && img.microB then List.range 8 else []
  noMicro := !img.microA && !img.microB
-- DESIGN CHOICE: log 89, 99
def bootOk (img : ImageCheck) : Bool := (img.preutA || img.preutB) && (img.millinerA || img.millinerB)

-- DESIGN CHOICE: log 89
/-- What of a die outlasts a module reset: its spent spares. -/
def Die.kept (d : Die) (clk : Nat) : Die := { coreClk := clk, retired := d.retired, spareCores := d.spareCores, spareHbm := d.spareHbm }

-- DESIGN CHOICE: log 29, 89; PRESUMED: log 112
/-- The module after a reset (R405): what is kept is non-volatile or lies outside the module. -/
def State.restart (s : State) (img : ImageCheck) : State :=
  let ok := bootOk img
  let plan := planOf s.avoid
  let n := (look s.life 16).getD 0 + 1
  { State.reset with
    agenda := s.agenda, hmem := s.hmem, out := s.out, fresh := s.fresh, avoid := s.avoid, life := ins s.life 16 (min n (2 ^ 64 - 1))
    stage := if ok then 1 else 15
    images := bootImages img
    plan := if ok then plan else (0, 0, 0)
    dies := (List.range 8).map (fun d => (d, Die.kept (s.die d) (if ok then plan.1 else 0)))
    avoidNow := s.avoid
    groups := if ok then gen 16 (fun m => (m + 1, millGroup m 0)) else []
    nextId := max s.nextId 17 }

-- DESIGN CHOICE: log 29, 89
/-- MODULE_RESET (R405, R406, R409). -/
def execModuleReset (img : ImageCheck) (s : State) : Host.Outcome State Fault Refusal := event (s.restart img)

/-- DIE_JOIN (R405): a die without microcode that verified does not join. -/
def execDieJoin (die : Fin 8) (s : State) : Host.Outcome State Fault Refusal :=
  let d := s.die die.val
  if (s.stage == 1 || s.stage == 2) && !d.up && !d.failed && !s.images.noMicro then
    event (s.modDie die.val (fun d => { d with up := true })).checkStage else event s
-- DESIGN CHOICE: log 97
/-- DIE_JOIN_TIMEOUT (R405). -/
def execDieJoinTimeout (die : Fin 8) (s : State) : Host.Outcome State Fault Refusal :=
  if (s.stage == 1 || s.stage == 2) && !(s.die die.val).up then event (s.modDie die.val (fun d => { d with failed := true })) else event s

/-! ## Links (R379, R383, R405, R411, R412) -/

/-- The state of a link that carries traffic. -/
def upState (p : Port) : Nat := if p.laneLost then 3 else 2
-- DEDUCED: log 87
def isUp (p : Port) : Bool := p.state == 2 || p.state == 3

-- DESIGN CHOICE: log 99
/-- FILESK_LINK_TRAIN (R379, R405): the first partner signal, then the end of training. -/
def execFileskLinkTrain (port : Fin 96) (peer : W16) (s : State) : Host.Outcome State Fault Refusal :=
  let p := s.port port.val
  if !(s.stage == 1 || s.stage == 2) then event s
  else if p.state == 0 then event (s.setPort port.val { p with state := 1 })
  else if p.state == 1 then
    event (s.setPort port.val { p with state := upState p, peer := peer, alone := false }).checkStage
  else event s
/-- FILESK_PARTNER_TIMEOUT (R405). -/
def execFileskPartnerTimeout (port : Fin 96) (s : State) : Host.Outcome State Fault Refusal :=
  if (s.port port.val).state == 0 then event (s.modPort port.val (fun p => { p with alone := true })).checkStage else event s
/-- FILESK_LANE_LOSS (R411). -/
def execFileskLaneLoss (port : Fin 96) (s : State) : Host.Outcome State Fault Refusal :=
  let p := s.port port.val
  if p.laneLost || !(isUp p || p.state == 4) then event s
  else
    event ((s.setPort port.val { p with laneLost := true, state := if isUp p then 3 else p.state, before := if isUp p then p.before else 3 }).bumpLife
      (64 + 8 * (port.val / 12) + 2) 1)
/-- FILESK_RETRAINING (R412): ONE_LANE while it lasts, or once a halt that hides it ends. -/
def execFileskRetraining (port : Fin 96) (done : Bool) (s : State) : Host.Outcome State Fault Refusal :=
  let p := s.port port.val
  if p.state == 4 then
    if done then event ((s.setPort port.val { p with before := upState p }).bumpLife (160 + 4 * (port.val / 12)) 1)
    else event (s.setPort port.val { p with before := 3 })
  else if !isUp p then event s
  else if done then event ((s.setPort port.val { p with state := upState p }).bumpLife (160 + 4 * (port.val / 12)) 1)
  else event (s.setPort port.val { p with state := 3 })
/-- FILESK_PARTNER_HALT (R383). -/
def execFileskPartnerHalt (port : Fin 96) (halted : Bool) (s : State) : Host.Outcome State Fault Refusal :=
  let p := s.port port.val
  if halted && isUp p then event (s.setPort port.val { p with before := p.state, state := 4, partnerHalted := true })
  else if !halted && p.state == 4 then event (s.setPort port.val { p with state := p.before, partnerHalted := false })
  else event s
/-- PEER_NUMBER_ASSIGN (R379): at hypervisor or maker level; 0xFFFF is no number. -/
def execPeerNumberAssign (level : Level) (n : W16) (s : State) : Host.Outcome State Fault Refusal :=
  if 2 ≤ Level.rank level && n != 0xFFFF#16 then event { s with peerno := n } else event s

/-! ## Power and thermal limits (R410) -/

-- DESIGN CHOICE: log 90
def State.slower (s : State) (d : Nat) : State := s.modDie d (fun x => { x with coreClk := stepDown s.avoidNow x.coreClk })
-- DESIGN CHOICE: log 90
/-- A die's clock goes up one step where nothing holds it down. -/
def State.faster (s : State) (d : Nat) : State :=
  if s.overPower || s.coolant || (s.die d).hot then s else s.modDie d (fun x => { x with coreClk := stepUp s.avoidNow s.plan.1 x.coreClk })
def State.allDies (s : State) (f : State → Nat → State) : State := (List.range 8).foldl f s

/-- POWER_LIMIT (R410). -/
def execPowerLimit (exceeded : Bool) (s : State) : Host.Outcome State Fault Refusal :=
  let s : State := { s with overPower := exceeded }
  if exceeded then event (s.allDies State.slower) else event (s.allDies State.faster)
/-- THERMAL_THROTTLE (R410). -/
def execThermalThrottle (die : Fin 8) (hot : Bool) (s : State) : Host.Outcome State Fault Refusal :=
  let s := s.modDie die.val (fun d => { d with hot := hot })
  if hot then event (s.slower die.val) else event (s.faster die.val)
/-- COOLANT_EXCURSION (R410). -/
def execCoolantExcursion (outside : Bool) (s : State) : Host.Outcome State Fault Refusal :=
  let s : State := { s with coolant := outside }
  if outside then event (s.allDies State.slower) else event (s.allDies State.faster)
-- DESIGN CHOICE: log 91
/-- THERMAL_SHUTDOWN (R410): nothing runs or answers until a module reset; what is non-volatile stays. -/
def State.shutDown (s : State) : State :=
  { State.reset with
    agenda := s.agenda, hmem := s.hmem, out := s.out ++ [.shutdown], fresh := s.fresh, nextId := s.nextId, avoid := s.avoid, life := s.life, shut := true
    dies := s.dies.map (fun (e : Nat × Die) => (e.1, e.2.kept 0)) }
-- DESIGN CHOICE: log 91
def execThermalShutdown (_die : Fin 8) (s : State) : Host.Outcome State Fault Refusal := event s.shutDown

/-! ## Sparing and updates (R411, R412) -/

-- DESIGN CHOICE: log 91
/-- CORE_RETIRE (R411): the core's teams are pre-empted; a spare takes the position, or it is kept out of placement. -/
def execCoreRetire (core : Fin 192) (s : State) : Host.Outcome State Fault Refusal :=
  let d := core.val / 24
  let gs := (s.groups.filter (fun (e : Nat × Group) => e.2.mill.isNone && resident e.2 && e.2.core == core.val)).map (·.1)
  let s := s.tryPreempt gs
  if (s.die d).spareCores == 0 then event (s.modDie d (fun x => { x with retired := if x.retired.contains core.val then x.retired else x.retired ++ [core.val] }))
  else event ((s.modDie d (fun x => { x with spareCores := x.spareCores - 1 })).bumpLife (64 + 8 * d) 1)
/-- HBM_CHANNEL_SPARE (R411). -/
def execHbmChannelSpare (die : Fin 8) (channel : Nat) (s : State) : Host.Outcome State Fault Refusal :=
  event ((s.modDie die.val (fun x => { x with spareHbm := ins x.spareHbm channel ((look x.spareHbm channel).getD 0 + 1) })).bumpLife (64 + 8 * die.val + 1) 1)
-- DESIGN CHOICE: log 91
/-- HBM_CALIBRATION (R412): timing only, beside the count of retrains. -/
def execHbmCalibration (die : Fin 8) (_channel : Nat) (s : State) : Host.Outcome State Fault Refusal := event (s.bumpLife (128 + 4 * die.val) 1)
/-- MILLINER_FIRMWARE_UPDATE (R406, R412): the inactive slot's image takes over where it verifies; the milliners' state is kept. -/
def execMillinerFirmwareUpdate (img : ImageCheck) (s : State) : Host.Outcome State Fault Refusal :=
  let ok := if s.images.millB then img.millinerA else img.millinerB
  if ok && (s.stage == 1 || s.stage == 2) then event { s with images := { s.images with millB := !s.images.millB } } else event s
-- DESIGN CHOICE: log 89
/-- A die's microcode from its other slot. -/
def State.flipMicro (s : State) (d : Nat) : State :=
  let b := s.images.microB
  { s with images := { s.images with microB := if b.contains d then b.filter (· != d) else b ++ [d] } }
-- DESIGN CHOICE: log 89, 91
/-- MICROCODE_UPDATE (R406, R412): the die drains; once it holds no group it rejoins, on the image of its other slot where that verifies,
which nothing here fixes. -/
def execMicrocodeUpdate (die : Fin 8) (rejoin : Bool) (s : State) : Host.Outcome State Fault Refusal :=
  let d := die.val
  let gs := (s.groups.filter (fun (e : Nat × Group) => e.2.mill.isNone && resident e.2 && e.2.core / 24 == d)).map (·.1)
  let s' : State := if (Config.freeWord s.fresh).getLsbD 0 then s.flipMicro d else s
  if rejoin then (if (s.die d).updating && gs.isEmpty then event (({ s' with fresh := s.fresh + 1 } : State).modDie d (fun x => { x with updating := false })) else event s)
  else if (s.die d).up then event ((s.modDie d (fun x => { x with updating := true })).tryPreempt gs)
  else event s
-- DESIGN CHOICE: log 29
/-- The name a milliner has from now on (R298): the one it had, or one of its device's names that firmware gives it. -/
def millName (x : Group) (name : W64) : W64 := if x.name != 0#64 then x.name else if domLd (nameDom name) == x.ld then name else 0#64
-- DESIGN CHOICE: log 29
/-- A milliner with its name, whose entry is RESIDENT with the milliner as its place where it was FREE or DEAD. -/
def State.nameMiller (s : State) (g : Nat) (name : W64) : State :=
  let x := s.grp g
  let n := millName x name
  if n == 0#64 then s
  else
    let s := s.modGrp g (fun x => { x with name := n, dom := nameDom n })
    let st := (s.nameEnt n).st
    if st == 0 || st == 6 then s.takeName n 1 false 0 (locOf x) else s

-- DEDUCED: log 27; DESIGN CHOICE: log 29
/-- MILLINER_RESTART (R298, R346): a milliner that has halted, or has not yet been given a PC, starts at one, under its name. -/
def execMillinerRestart (m : Fin 16) (pc : W64) (s : State) : Host.Outcome State Fault Refusal :=
  match s.groups.find? (fun (e : Nat × Group) => e.2.mill == some m.val) with
  | none => event s
  | some (g, x) =>
    if x.started && !x.halted then event s
    else event ((s.nameMiller g (Config.millinerName m.val x.ld)).modGrp g (fun x =>
      { x with started := true, halted := false, pcs := [pc &&& ~~~3#64], exited := 0#64, handler := none, shadow := none, loops := [], wait := .none
               stalled := false, events := [], fetched := [] }))

/-! ## Lifetime counters and the maker's session (R391, R404) -/

-- DESIGN CHOICE: log 91
/-- LIFETIME_HISTOGRAM_UPDATE (R404): seconds added to bins of TEMP and VOLT, by the byte where each lies, and to the powered seconds. -/
def execLifetimeHistogramUpdate (bins : List (Nat × Nat)) (s : State) : Host.Outcome State Fault Refusal :=
  event ((bins.filter (fun b => decide (512 ≤ b.1) && decide (b.1 < 2240) && b.1 % 8 == 0)).foldl (fun s b => s.bumpLife b.1 b.2) (s.bumpLife 8 60))
/-- CORRECTED_ERROR (R404). -/
def errByte (d : Nat) : ErrUnit → Nat
  | .l2 => 256 + 32 * d
  | .scratchpad => 256 + 32 * d + 8
  | .accumulator => 256 + 32 * d + 16
  | .registers => 256 + 32 * d + 24
  | .stack k => 192 + 4 * (2 * d + k.val)
def execCorrectedError (die : Fin 8) (site : ErrUnit) (s : State) : Host.Outcome State Fault Refusal := event (s.bumpLife (errByte die.val site) 1)
/-- MAKER_SESSION_OPEN (R391): maker level where the token verifies under both signatures. -/
def execMakerSessionOpen (ld : Fin 16) (rsaOk slhOk : Bool) (s : State) : Host.Outcome State Fault Refusal :=
  if rsaOk && slhOk then event (s.modLd ld.val (fun l => { l with maker := true })) else event s

end Sys2Proof.Machine
end

