-- ==== Sys2Proof/Machine/HostPages.lean ====
section
/-! DEFINITION. The host's answers about its pages, and what waits for them (R218–R221, R370). -/

namespace Sys2Proof.Machine

/-! ## What waits for a host page -/

-- DEDUCED: log 92
/-- One waiting request or write taken up again, behind the earlier ones of its kind that still wait. -/
def State.retryOne (s : State) : Pend → State
  | .mgmt op c => s.mgmt op c
  | .dbg op c => if s.pend.any Pend.isDbg then { s with pend := s.pend ++ [.dbg op c] } else s.dbgAt op c
  | .port ld op r => s.portReq ld op r
  | .write ld dom ws err => s.putRecord ld dom ws err
  | .ring ld r bytes => s.ringPush ld r bytes
  | .frame die p f time =>
    if s.pend.any (fun e => match e with | .frame a b _ _ => a == die && b == p | _ => false) then { s with pend := s.pend ++ [.frame die p f time] }
    else s.frameAt die p f time
  | .drop k d => s.dropAt k d
  | .peer ld port a =>
    if a.append && s.pend.any (fun e => match e with | .peer l _ b => l == ld && b.append && b.window == a.window | _ => false) then
      { s with pend := s.pend ++ [.peer ld port a] }
    else s.peerAt ld port a true
-- DEDUCED: log 72, 93
def State.retryPend (s : State) : State := s.pend.foldl State.retryOne { s with pend := [] }

/-! ## Owners of misses (R220, R221) -/

-- DEDUCED: log 93
/-- A page the host does not give: told to the group's unit or to the agent's access when it is tried again. -/
def State.deny (s : State) (owner : Option Nat) (m : Miss) (code : Nat) : State :=
  match owner with
  | some g => s.modGrp g (fun x => { x with xfault := x.xfault ++ [(m, code)] })
  | none => s.modLd m.ld (fun l => { l with denied := l.denied.filter (fun d => d.1 != m) ++ [(m, code)] })

/-- A group with nothing outstanding at the host is ready at the unit it stopped at (R220), or its wait is over where it is away. -/
def State.answered (s : State) (ld g : Nat) : State :=
  let l := s.ldev ld
  let open' := l.trs.any (fun e => e.1 == some g) || l.ungranted.any (fun e => e.1 == some g) || l.prgs.any (fun p => p.owner == some g)
  match (s.grp g).wait with
  | .xlat (_ :: _) _ => if open' then s else (s.modGrp g overWait).refreshRecord g
  | _ => s

/-- The page requests of one page request group, Last on the final one. -/
def emitPrg (ld prg : Nat) : List Miss → State → State
  | [], s => s
  | [m], s => s.emit (.pageReq ld prg m true)
  | m :: ms, s => emitPrg ld prg ms (s.emit (.pageReq ld prg m false))
-- DEDUCED: log 92
/-- Page request groups that wait are sent, the oldest first, as far as the host's allocation goes (R218): a group goes whole, and one
larger than the allocation alone. -/
def pumpList (ld alloc : Nat) : List PageReq → Nat → State → State
  | [], _, s => s
  | p :: r, out, s =>
    if p.sent then pumpList ld alloc r out s
    else if out == 0 || out + p.miss.length ≤ alloc then
      pumpList ld alloc r (out + p.miss.length)
        (emitPrg ld p.prg p.miss (s.modLd ld (fun l => { l with prgs := l.prgs.map (fun q => if q.prg == p.prg then { q with sent := true } else q) })))
    else s
-- DEDUCED: log 92
def State.pumpPrgs (s : State) (ld : Nat) : State :=
  let ps := (s.ldev ld).prgs
  pumpList ld (Config.pageAlloc ld) ps ((ps.filter (·.sent)).map (fun p => p.miss.length)).sum s

-- DEDUCED: log 92
/-- One page request group for misses the host's answers did not grant; while page requests are off they raise code 9. -/
def State.sendPrg (s : State) (ld : Nat) (owner : Option Nat) (ms : List Miss) : State :=
  if ms.isEmpty then s
  else if !(s.ldev ld).pageReqs then ms.foldl (fun s m => s.deny owner m 9) s
  else
    let n := (s.ldev ld).nextPrg
    (s.modLd ld (fun l => { l with nextPrg := n + 1, prgs := l.prgs ++ [{ prg := n, owner := owner, miss := ms, sent := false }] })).pumpPrgs ld

-- DEDUCED: log 92
/-- After an answer, an owner whose answers are all in sends its page requests, or is ready. -/
def State.settleOwner (s : State) (ld : Nat) (owner : Option Nat) : State :=
  match owner with
  | none => s
  | some g =>
    let l := s.ldev ld
    if l.trs.any (fun e => e.1 == some g) then s
    else
      let ms := (l.ungranted.filter (fun e => e.1 == some g)).map (·.2)
      ((s.modLd ld (fun l => { l with ungranted := l.ungranted.filter (fun e => e.1 != some g) })).sendPrg ld owner ms).answered ld g

/-- Whether a page's permissions cover a miss. -/
def grants (r w x : Bool) (m : Miss) : Bool := (!m.read || r) && (!m.write || w) && (!m.exec || x)

/-- The misses an answer is for, each with its owner. -/
def State.asked (s : State) (ld : Nat) (pasid : BitVec 20) (page : W64) : List (Option Nat × Miss) :=
  (s.ldev ld).trs.filter (fun e => e.2.pasid == pasid && e.2.page.toNat / 4096 == page.toNat / 4096)

-- DESIGN CHOICE: log 111
/-- Room for one more entry of the ATC's 16,384 (R219): which one gives way is free. -/
def State.atcRoom (s : State) : State :=
  if s.atc.length < 16384 then s else { s with atc := s.atc.eraseIdx ((Config.freeWord s.fresh).toNat % s.atc.length), fresh := s.fresh + 1 }
def State.atcAdd (s : State) (e : AtcEnt) : State := { s with atc := s.atc ++ [e] }

-- DEDUCED: log 92
/-- An answer taken in: cached where it grants, else a page request follows. -/
def State.answer (s : State) (ld : Nat) (pasid : BitVec 20) (page : W64) (ans : HostAnswer) : State :=
  let es := s.asked ld pasid page
  let s := s.modLd ld (fun l => { l with trs := l.trs.filter (fun e => !es.contains e) })
  let s := match ans with
    | .refused => es.foldl (fun s e => s.deny e.1 e.2 6) s
    | .page ta log2 r w x =>
      let n := max 12 log2
      let good := es.filter (fun e => grants r w x e.2)
      let bad := es.filter (fun e => !grants r w x e.2)
      let lo := page.toNat / 2 ^ n * 2 ^ n
      let ent : AtcEnt := { ld := ld, pasid := pasid, page := lo, log2 := n, ta := ta.toNat / 2 ^ n * 2 ^ n, r := r, w := w, x := x }
      let s := if good.isEmpty then s
        else ({ s with atc := s.atc.filter (fun e => !(e.ld == ld && e.pasid == pasid && rangesMeet e.page (2 ^ e.log2) lo (2 ^ n))) }.atcRoom).atcAdd ent
      bad.foldl (fun s e => match e.1 with
        | some _ => s.modLd ld (fun l => { l with ungranted := l.ungranted ++ [e] })
        | none => s.sendPrg ld none [e.2]) s
  (es.map (·.1)).dedup.foldl (fun s o => s.settleOwner ld o) s

/-- TRANSLATION_ANSWER (R219–R221). -/
def execTranslationAnswer (ld : Fin 16) (pasid : BitVec 20) (page : W64) (ans : HostAnswer) (s : State) : Host.Outcome State Fault Refusal :=
  if (s.asked ld.val pasid page).isEmpty then event s else event (s.answer ld.val pasid page ans).retryPend

/-- A page request group over: what it asked for is tried again, or denied with a code. -/
def State.endPrg (s : State) (ld prg : Nat) (code : Option Nat) : State :=
  match (s.ldev ld).prgs.find? (fun p => p.prg == prg) with
  | none => s
  | some p =>
    let s := s.modLd ld (fun l => { l with prgs := l.prgs.filter (fun q => q.prg != prg) })
    let s := match code with
      | none => s
      | some c => p.miss.foldl (fun s m => s.deny p.owner m c) s
    let s := match p.owner with
      | some g => s.answered ld g
      | none => s
    (s.pumpPrgs ld).retryPend

-- DEDUCED: log 92
/-- Page requests stop (R221): those still to be sent are denied. -/
def State.stopPrgs (s : State) (ld : Nat) : State :=
  let s := s.modLd ld (fun l => { l with pageReqs := false })
  (((s.ldev ld).prgs.filter (fun p => !p.sent)).map (·.prg)).foldl (fun s n => s.endPrg ld n (some 9)) s

/-- PAGE_REQUEST_RESPONSE (R221); one that comes too late names nothing. -/
def execPageRequestResponse (ld : Fin 16) (prg : Nat) (resp : PrgResponse) (s : State) : Host.Outcome State Fault Refusal :=
  if (s.ldev ld.val).prgs.all (fun p => p.prg != prg || !p.sent) then event s
  else match resp with
    | .success => event (s.endPrg ld.val prg none)
    | .invalidRequest => event (s.endPrg ld.val prg (some 6))
    | .responseFailure => event ((s.stopPrgs ld.val).endPrg ld.val prg (some 7))

/-- PAGE_REQUEST_TIMEOUT (R221). -/
def execPageRequestTimeout (ld : Fin 16) (prg : Nat) (s : State) : Host.Outcome State Fault Refusal :=
  if (s.ldev ld.val).prgs.all (fun p => p.prg != prg || !p.sent) then event s else event (s.endPrg ld.val prg (some 8))

/-- START_INTERFACE_REQUEST (R370): what waited for host memory goes on. -/
def execStartInterfaceRequest (ld : Fin 16) (s : State) : Host.Outcome State Fault Refusal :=
  if s.dark then event s
  else if (s.ldev ld.val).tdisp == .locked then event (((s.modLd ld.val (fun l => { l with tdisp := .run })).emit (.tdispOk ld.val)).retryPend)
  else event (s.emit (.tdispError ld.val))

end Sys2Proof.Machine
end

