-- ==== Sys2Proof/Machine/Auto.lean ====
section
/-! DEFINITION. The fixed schedule of what happens when no input waits and no run can go on: one of the orders the spec allows. -/

namespace Sys2Proof.Machine

-- DESIGN CHOICE: log 7
/-- A site whose run in progress can go on. -/
def State.runnable (s : State) : Option Nat :=
  (s.runs.find? (fun e => !e.2.held && waitMet s (s.grp e.2.gid))).map (·.1)
-- DESIGN CHOICE: log 7
/-- A site without a run that has a ready group. -/
def State.choosable (s : State) : Option Nat :=
  (s.groups.find? (fun e => ready s e.2 && (look s.runs (siteOf e.2)).isNone)).map (fun e => siteOf e.2)

/-- A step that an engine, an agent or a timer takes of itself. -/
abbrev Turn := State → Host.Outcome State Fault Refusal

/-- The steps that finish what groups have issued. -/
def State.opTurns (s : State) : List Turn :=
  (s.groups.flatMap (fun (e : Nat × Group) => e.2.ops)).flatMap (fun o =>
    [execAtomicPerform o.id, execKeepWriteApply o.id, execKeepReconcileApply o.id, execNameOperationApply o.id, execLongLatencyResult o.id])
def State.storeTurns (s : State) : List Turn :=
  s.groups.flatMap (fun (e : Nat × Group) => e.2.sb.flatMap (fun b => (List.finRange 6).map (fun k => execStoreAcknowledge e.1 b.id k)))
/-- The copy and matrix engines. -/
def State.copyTurns (s : State) : List Turn :=
  s.copies.map (fun c => execCopyCommandStart c.id)
    ++ s.copies.map (fun c => execCopyUnitChunk (Fin.ofNat 192 (s.grp c.gid).core) 0)
    ++ s.queues.map (fun (e : Nat × Queue) => execCopyQueueConsume e.1)
    ++ (List.finRange 8).map (fun d => execSharedEngineChunk d 0)
def State.matrixTurns (s : State) : List Turn :=
  (s.teams.filter (fun (e : Nat × Team) => !e.2.mq.isEmpty)).flatMap (fun e =>
    [execMatrixOperationStart e.1, execMatrixOperationComplete e.1 false, execMaccPerform e.1])
/-- Names, teams, tasks, queues, saves and placement. -/
def State.workTurns (s : State) : List Turn :=
  s.groups.map (fun (e : Nat × Group) => execGroupNameDead e.1)
    ++ s.teams.map (fun (e : Nat × Team) => execTeamRetire e.1)
    ++ s.tasks.map (fun (e : Nat × Task) => execTaskRetire e.1)
    ++ s.queues.map (fun (e : Nat × Queue) => execLaunchPacketConsume e.1)
    ++ s.tasks.map (fun (e : Nat × Task) => execFpThreshold e.1)
    ++ s.groups.map (fun (e : Nat × Group) => execSaveGroup e.1)
    ++ s.groups.map (fun (e : Nat × Group) => execPlaceSavedGroup e.1)
    ++ s.lds.map (fun (e : Nat × Ld) => execFeltPlacement (Fin.ofNat 16 e.1))
    ++ s.lds.map (fun (e : Nat × Ld) => execInvalidationComplete (Fin.ofNat 16 e.1))
    ++ s.lds.map (fun (e : Nat × Ld) => execAtsInvalidateCompletion (Fin.ofNat 16 e.1))
/-- Timers and polls, after everything else. -/
def State.timerTurns (s : State) : List Turn :=
  s.samples.map (fun (e : Nat × Sample) => execSampleTag (Fin.ofNat 192 (e.1 / 8)) (Fin.ofNat 8 e.1))
    ++ [fun s => event s.retryPend]
    ++ s.groups.map (fun (e : Nat × Group) => execClaimDeadlockDetect (Fin.ofNat 192 e.2.core) (Fin.ofNat 8 e.2.part))
    ++ s.groups.map (fun (e : Nat × Group) => execSleepExpiry e.1)
    ++ s.groups.map (fun (e : Nat × Group) => execNwaitTimeout e.1)
    ++ s.groups.map (fun (e : Nat × Group) => execNjoinTimeout e.1)
    ++ ((List.finRange 8).filter (fun d => !(s.die d.val).ceu.isEmpty)).map (fun d => execBudgetPeriod d)
-- DESIGN CHOICE: log 4, 7
def State.turns (s : State) : List Turn := s.opTurns ++ s.storeTurns ++ s.copyTurns ++ s.matrixTurns ++ s.workTurns ++ s.timerTurns

/-- The memories of a state, as the past keeps them. -/
def State.memories (s : State) : Past where
  dmem := s.dmem
  hmem := s.hmem
  scr := s.teams.map (fun (e : Nat × Team) => (e.1, e.2.scr))
-- DESIGN CHOICE: log 14
/-- Keeps what the memories held before a step that changed them, while any task has not ended (R188). -/
def State.remember (s0 s : State) : State :=
  if s.tasks.all (fun e => e.2.ended) then { s with past := [] }
  else if s.memories = s0.memories then s
  else { s with past := s.past ++ [s0.memories] }
-- DESIGN CHOICE: log 14
/-- `State.remember` where the step has a next state. -/
def keepPast (s0 : State) : Host.Outcome State Fault Refusal → Host.Outcome State Fault Refusal
  | .next s => .next (State.remember s0 s)
  | .fault e => .fault e
  | .refused r => .refused r

/-- The first of some turns that changes the state. -/
def firstTurn (s : State) : List Turn → Host.Outcome State Fault Refusal
  | [] => event s
  | t :: ts =>
    match t s with
    | .next s' => if s' = s.wake then firstTurn s ts else .next s'
    | o => o

-- DESIGN CHOICE: log 7
/-- The step taken when the agenda is empty and the focus has no word to issue. -/
def State.auto (s : State) : Host.Outcome State Fault Refusal :=
  match s.runnable with
  | some site => .next { s with focus := some site }
  | none =>
    match s.choosable with
    | some site => .next (s.selectRun site)
    | none => firstTurn s s.turns

end Sys2Proof.Machine
end

