-- ==== Sys2Proof/Machine/Approx.lean ====
section
/-! DEFINITION. The approximate functions of FUN (R142, R143): exact cases exactly, every other value free within
its bound. -/

namespace Sys2Proof.Machine

/-- A real number enclosed: it lies between lo · 2^e and hi · 2^e. -/
structure Encl where
  lo : Int
  hi : Int
  e : Int

/-- Bits of the fixed-point numbers below, and ln 2, log2 of e and 2π in them. -/
def fixBits : Nat := 96
def fixLn2 : Nat := 54916777467707473351141471128
def fixLog2e : Nat := 114302077158074026402637675936
def fixTwoPi : Nat := 497805226624462170461043889244

/-- 1/x for x = m · 2^e. -/
def enclRcp (neg : Bool) (m : Nat) (e : Int) : Encl :=
  let k := bitLen m + 80
  let q : Int := (2 ^ k / m : Nat)
  if neg then { lo := -(q + 1), hi := -q, e := -e - k } else { lo := q, hi := q + 1, e := -e - k }

/-- 1/√x. -/
def enclRsq (m : Nat) (e : Int) : Encl :=
  let odd := (e % 2).toNat
  let m := m * 2 ^ odd
  let k := bitLen m + 80
  let r : Int := isqrt (2 ^ (2 * k) / m)
  { lo := r, hi := r + 2, e := -((e - odd) / 2) - k }

/-- The sum of the series of e^y from its term `t` of index `i` on, `y` and `t` in fixed point. -/
def expSeries (y : Nat) : Nat → Nat → Nat → Nat
  | 0, _, _ => 0
  | n + 1, i, t => t + expSeries y n (i + 1) (t * y / 2 ^ fixBits / (i + 1))
/-- 2^f for a fixed-point fraction, from below by less than 128 units. -/
def exp2Fix (f : Nat) : Nat := expSeries (f * fixLn2 / 2 ^ fixBits) 32 0 (2 ^ fixBits)

/-- 2^x for x = ± m · 2^(-d). -/
def enclExp2 (neg : Bool) (m d : Nat) : Encl :=
  let v : Int := if neg then -(m : Int) else m
  let n := v / (2 ^ d : Nat)
  let f := (v % (2 ^ d : Nat)).toNat
  let s : Int := exp2Fix (f * 2 ^ fixBits / 2 ^ d)
  { lo := s, hi := s + 128, e := clampI (-400) 400 n - fixBits }

/-- The first `n` bits of log2 of x in [1, 2), x in fixed point of 160 bits. -/
def log2Bits : Nat → Nat → Nat → Nat
  | 0, _, acc => acc
  | n + 1, x, acc =>
    let y := x * x / 2 ^ 160
    if 2 ^ 161 ≤ y then log2Bits n (y / 2) (2 * acc + 1) else log2Bits n y (2 * acc)

/-- log2 of x = m · 2^e. -/
def enclLog2 (m : Nat) (e : Int) : Encl :=
  let k := bitLen m - 1
  let t : Int := (e + k) * 2 ^ 64 + log2Bits 64 (m * 2 ^ (160 - k)) 0
  { lo := t, hi := t + 4, e := -64 }

/-- The alternating series of sine (from index 1) or cosine (from index 0): terms of index i, i + 2, …. -/
def trigSeries (y : Nat) : Nat → Nat → Bool → Nat → Int
  | 0, _, _, _ => 0
  | n + 1, i, minus, t =>
    (if minus then -(t : Int) else t) + trigSeries y n (i + 2) (!minus) (t * y / 2 ^ fixBits * y / 2 ^ fixBits / ((i + 1) * (i + 2)))

/-- The argument of SIN and COS, in turns, reduced to −1/2 .. 1/2: numerator over 2^d. -/
def turnOf (neg : Bool) (m d : Nat) : Int :=
  let v : Int := if neg then -(m : Int) else m
  let r := v % (2 ^ d : Nat)
  if (2 ^ d : Nat) ≤ 2 * r then r - (2 ^ d : Nat) else r

def enclTrig (cosine : Bool) (r : Int) (d : Nat) : Encl :=
  let y := (r.natAbs * 2 ^ fixBits / 2 ^ d) * fixTwoPi / 2 ^ fixBits
  let s : Int := if cosine then trigSeries y 24 0 false (2 ^ fixBits)
    else (if r < 0 then -1 else 1) * trigSeries y 24 1 false y
  { lo := s - 65536, hi := s + 65536, e := -(fixBits : Int) }

/-- tanh of |x|, x = m · 2^e: |x| itself, nearly, where it is small; 1, nearly, where it is large; else
(1 − q) / (1 + q) with q = 2^(−2|x| log2 e). -/
def enclTanh (m : Nat) (e : Int) : Encl :=
  let top := e + bitLen m - 1
  if top < -24 then { lo := (m : Int) * (2 ^ 44 - 1), hi := (m : Int) * 2 ^ 44, e := e - 44 }
  else if 4 ≤ top then { lo := 2 ^ 44 - 1, hi := 2 ^ 44, e := -44 }
  else
    let d := (-e).toNat
    let y := (2 * m * 2 ^ e.toNat * fixLog2e) / 2 ^ d
    let w := y / 2 ^ fixBits + 1
    let q := exp2Fix (w * 2 ^ fixBits - y) / 2 ^ w
    let one := 2 ^ fixBits
    { lo := ((one - q - 512) * 2 ^ fixBits / (one + q + 512) : Nat), hi := ((one - q + 512) * 2 ^ fixBits / (one + q - 512) + 1 : Nat), e := -(fixBits : Int) }

def Encl.neg (x : Encl) : Encl := { lo := -x.hi, hi := -x.lo, e := x.e }

/-- |a − x| ≤ k · 2^u for every x of the enclosure. -/
def Encl.near (x : Encl) (a : Num) (k : Nat) (u : Int) : Bool :=
  match a with
  | .fin s m e =>
    let l := min (min x.e e) u
    let av := atExp s m e l
    let lo := x.lo * (2 ^ (x.e - l).toNat : Nat)
    let hi := x.hi * (2 ^ (x.e - l).toNat : Nat)
    let b : Int := (k * 2 ^ (u - l).toNat : Nat)
    decide (av - lo ≤ b) && decide (lo - av ≤ b) && decide (av - hi ≤ b) && decide (hi - av ≤ b)
  | _ => false

/-- The unit in the last place of FP32 at a number. -/
def Encl.ulp (x : Encl) : Int := max (x.e + bitLen x.lo.natAbs - 24) (-149)

-- DESIGN CHOICE: log 39
/-- A rounded result under its mode: overflow, SAT, flushing, and the events (R56, R57, R151). -/
def finish (f : Fmt) (m : FpMode) (r : Rounded) : Nat × Ev :=
  if r.ovf then (if m.sat then (if f.signBit ≤ r.bits then f.signBit else 0) + f.maxFinite else r.bits, { ovf := true })
  else if r.sub && m.ftz then (if f.signBit ≤ r.bits then f.signBit else 0, { unf := true })
  else (r.bits, { unf := r.tiny && r.inexact })

-- DESIGN CHOICE: log 39
/-- A result known to lie in an enclosure: the free value of the function where it keeps the bound, `k` units of
2^u, and otherwise the enclosed number rounded. -/
def approxValue (fn : Nat) (m : FpMode) (x : W32) (en : Encl) (k : Nat) (u : Int) : Nat × Ev :=
  let neg := decide (en.lo < 0)
  let mag := if neg then en.hi.natAbs else en.lo.natAbs
  let r := roundF f32 m.rm neg mag en.e true
  if r.ovf then finish f32 m r
  else
    let a := (Config.approx (fn + 16 * m.rm + (if m.sat then 64 else 0) + (if m.ftz then 128 else 0)) x).toNat
    let b := if en.near (decodeF f32 false a) k u then a else r.bits
    let small := decide (b % 2 ^ 31 < 2 ^ 23)
    if small && m.ftz then (if 2 ^ 31 ≤ b then 2 ^ 31 else 0, { unf := true }) else (b, { unf := small })

/-- An FP32 NaN, an infinity, an exact integer power and other exact results. -/
def nan32 (inv : Bool) : Nat × Ev := (f32.nanBits, { inv := inv })
def inf32 (neg dz : Bool) : Nat × Ev := ((if neg then f32.signBit else 0) + f32.infBits, { dz := dz })
def zero32 (neg : Bool) : Nat × Ev := (if neg then f32.signBit else 0, {})
def one32 (neg : Bool) : Nat × Ev := ((if neg then f32.signBit else 0) + 0x3F800000, {})
def exact32 (m : FpMode) (neg : Bool) (k : Nat) (e : Int) : Nat × Ev := finish f32 m (roundF f32 m.rm neg k e false)

def isPow2 (m : Nat) : Bool := m == 2 ^ (bitLen m - 1)

/-- The zero that SIN or COS gives at a multiple of 1/4 that is not zero: the spec does not say its sign, which is
free. -/
def freeZero (fn : Nat) (x : W32) : Nat × Ev := zero32 (Config.approx (fn + 256) x).msb

-- DESIGN CHOICE: log 39
/-- The FP32 function `fn` of R142, 3 to 9, of a pattern (R143). -/
def approxFun (fn : Nat) (m : FpMode) (x : W32) : Nat × Ev :=
  match decodeF f32 m.ftz x.toNat with
  | .nan => nan32 (bits x.toNat 22 22 == 0)
  | .inf s =>
    match fn with
    | 3 => zero32 s
    | 4 => if s then nan32 true else zero32 false
    | 5 => if s then zero32 false else inf32 false false
    | 6 => if s then nan32 true else inf32 false false
    | 9 => one32 s
    | _ => nan32 true
  | .fin s 0 _ =>
    match fn with
    | 3 => inf32 s true
    | 4 => inf32 s true
    | 5 => one32 false
    | 6 => inf32 true true
    | 8 => one32 false
    | _ => zero32 s
  | .fin s k e =>
    let top := e + bitLen k - 1
    match fn with
    | 3 =>
      if isPow2 k && decide (-top ≤ 127) then exact32 m s 1 (-top)
      else let en := enclRcp s k e; approxValue fn m x en 1 en.ulp
    | 4 =>
      if s then nan32 true
      else if isPow2 k && top % 2 == 0 then exact32 m false 1 (-(top / 2))
      else let en := enclRsq k e; approxValue fn m x en 2 en.ulp
    | 5 =>
      if 0 ≤ e then
        let v := clampI (-400) 400 (if s then -((k * 2 ^ e.toNat : Nat) : Int) else (k * 2 ^ e.toNat : Nat))
        if -149 ≤ v then exact32 m false 1 v else approxValue fn m x { lo := 1, hi := 1, e := v } 2 (-149)
      else
        let d := (-e).toNat
        if k % 2 ^ d == 0 then
          let v : Int := if s then -((k / 2 ^ d : Nat) : Int) else (k / 2 ^ d : Nat)
          if -149 ≤ v then exact32 m false 1 v else approxValue fn m x { lo := 1, hi := 1, e := v } 2 (-149)
        else let en := enclExp2 s k d; approxValue fn m x en 2 en.ulp
    | 6 =>
      if s then nan32 true
      else if isPow2 k then exact32 m (decide (top < 0)) top.natAbs 0
      else
        let en := enclLog2 k e
        if top == -1 || top == 0 then approxValue fn m x en 1 (-22) else approxValue fn m x en 2 en.ulp
    | 9 =>
      let en := enclTanh k e
      let en := if s then en.neg else en
      approxValue fn m x en 2 en.ulp
    | _ =>
      let d := (-e).toNat
      let r : Int := if 0 ≤ e then 0 else turnOf s k d
      if 4 * r % (2 ^ d : Nat) == 0 then
        let q := 4 * r / (2 ^ d : Nat)
        if fn == 7 then (if q == 1 then one32 false else if q == -1 then one32 true else freeZero fn x)
        else (if q == 0 then one32 false else if q == -2 then one32 true else freeZero fn x)
      else approxValue fn m x (enclTrig (fn == 8) r d) 1 (-22)

end Sys2Proof.Machine
end

