-- ==== Sys2Proof/Machine/Scalar.lean ====
section
/-! DEFINITION. The scalar families SALU0 and SALU1, SCMP, and ADDI to LEA (chapter "Scalar and vector
arithmetic"). -/

namespace Sys2Proof.Machine

/-! ## Bit operations on numbers of `n` bits -/

def shl64 (a b : W64) : W64 := if b.toNat < 64 then a <<< b.toNat else 0#64
def shr64 (a b : W64) : W64 := if b.toNat < 64 then a >>> b.toNat else 0#64
def sar64 (a b : W64) : W64 := a.sshiftRight (min b.toNat 64)
def rotl64 (a b : W64) : W64 := a.rotateLeft (b.toNat % 64)
/-- Leading and trailing zeros, set bits, bits reversed. -/
def clzN (n v : Nat) : Nat := n - bitLen (v % 2 ^ n)
def ctzN (n v : Nat) : Nat := ((List.range n).find? (fun i => bits v i i == 1)).getD n
def popN (n v : Nat) : Nat := ((List.range n).filter (fun i => bits v i i == 1)).length
def brevN (n v : Nat) : Nat := (List.range n).foldl (fun acc i => 2 * acc + bits v i i) 0

/-! ## Shapes -/

/-- Two scalar sources, one scalar result, with what else the instruction leaves to do. -/
def scalarBin (op : Nat) (r : Cx → W64 → W64 → M (W64 × Ctl)) (f : FS3) (s : State) : Host.Outcome State Fault Refusal :=
  issue f.z op {} true (fun _ => pure ()) (fun cx => skipMarks cx (countMarks f.l f.m) (do
    let a ← readS cx f.a.toNat
    let b ← readS cx f.b.toNat
    let (v, c) ← r cx a b
    applyMarks cx (countMarks f.l f.m) (scalarMark f.l f.a.toNat ++ scalarMark f.m f.b.toNat)
    writeS cx f.d.toNat v
    return c)) s
def scalar3 (op : Nat) (r : W64 → W64 → W64) (f : FS3) (s : State) : Host.Outcome State Fault Refusal :=
  scalarBin op (fun _ a b => pure (r a b, {})) f s
/-- A unary scalar instruction. -/
def scalar2 (op : Nat) (r : W64 → W64) (f : FS2) (s : State) : Host.Outcome State Fault Refusal :=
  issue f.z op {} true (fun _ => pure ()) (fun cx => skipMarks cx (countMarks f.l false) (thenNext (do
    let a ← readS cx f.a.toNat
    applyMarks cx (countMarks f.l false) (scalarMark f.l f.a.toNat)
    writeS cx f.d.toNat (r a)))) s
/-- A scalar division (R127, R128). -/
def scalarDiv (signed rem : Bool) (f : FS3) (s : State) : Host.Outcome State Fault Refusal :=
  scalarBin 0x11 (fun cx a b => do
    let (q, r, c) := divide 64 signed (ofBits 64 signed a.toNat) (ofBits 64 signed b.toNat)
    let ctl ← noteDiv cx (b64 c)
    return (BitVec.ofInt 64 (if rem then r else q), ctl)) f s
/-- A scalar source and the widened, sign-extended immediate (R31, R130). -/
def scalarImm (op : Nat) (r : W64 → W64 → W64) (f : FSI) (s : State) : Host.Outcome State Fault Refusal :=
  issue f.z op { imm := 2 } true (fun _ => pure ()) (fun cx => skipMarks cx (countMarks f.l false) (thenNext (do
    let a ← readS cx f.a.toNat
    applyMarks cx (countMarks f.l false) (scalarMark f.l f.a.toNat)
    writeS cx f.d.toNat (r a (immS cx.h 11 f.i.toNat))))) s
/-- A shift by an immediate amount (R131). -/
def scalarShift (r : W64 → W64 → W64) (f : FSN) (s : State) : Host.Outcome State Fault Refusal :=
  issue f.z 0x17 {} true (fun _ => pure ()) (fun cx => skipMarks cx (countMarks f.l false) (thenNext (do
    let a ← readS cx f.a.toNat
    applyMarks cx (countMarks f.l false) (scalarMark f.l f.a.toNat)
    writeS cx f.d.toNat (r a (n64 f.n.toNat))))) s

/-! ## SALU0 (R124) -/

/-- ADD (R124). -/
def execSalu0Add (f : FS3) (s : State) : Host.Outcome State Fault Refusal := scalar3 0x10 (fun a b => a + b) f s
/-- SUB (R124). -/
def execSalu0Sub (f : FS3) (s : State) : Host.Outcome State Fault Refusal := scalar3 0x10 (fun a b => a - b) f s
/-- AND (R124). -/
def execSalu0And (f : FS3) (s : State) : Host.Outcome State Fault Refusal := scalar3 0x10 (fun a b => a &&& b) f s
/-- OR (R124). -/
def execSalu0Or (f : FS3) (s : State) : Host.Outcome State Fault Refusal := scalar3 0x10 (fun a b => a ||| b) f s
/-- XOR (R124). -/
def execSalu0Xor (f : FS3) (s : State) : Host.Outcome State Fault Refusal := scalar3 0x10 (fun a b => a ^^^ b) f s
/-- ANDN (R124). -/
def execSalu0Andn (f : FS3) (s : State) : Host.Outcome State Fault Refusal := scalar3 0x10 (fun a b => a &&& ~~~b) f s
/-- SHL (R124). -/
def execSalu0Shl (f : FS3) (s : State) : Host.Outcome State Fault Refusal := scalar3 0x10 (fun a b => shl64 a b) f s
/-- SHR (R124). -/
def execSalu0Shr (f : FS3) (s : State) : Host.Outcome State Fault Refusal := scalar3 0x10 (fun a b => shr64 a b) f s
/-- SAR (R124). -/
def execSalu0Sar (f : FS3) (s : State) : Host.Outcome State Fault Refusal := scalar3 0x10 (fun a b => sar64 a b) f s
/-- ROTL (R124). -/
def execRotl (f : FS3) (s : State) : Host.Outcome State Fault Refusal := scalar3 0x10 (fun a b => rotl64 a b) f s
/-- MIN (R124). -/
def execSalu0Min (f : FS3) (s : State) : Host.Outcome State Fault Refusal := scalar3 0x10 (fun a b => if a.toInt ≤ b.toInt then a else b) f s
/-- MAX (R124). -/
def execSalu0Max (f : FS3) (s : State) : Host.Outcome State Fault Refusal := scalar3 0x10 (fun a b => if a.toInt ≤ b.toInt then b else a) f s
/-- MINN (R124). -/
def execMinn (f : FS3) (s : State) : Host.Outcome State Fault Refusal := scalar3 0x10 (fun a b => if a.toNat ≤ b.toNat then a else b) f s
/-- MAXN (R124). -/
def execMaxn (f : FS3) (s : State) : Host.Outcome State Fault Refusal := scalar3 0x10 (fun a b => if a.toNat ≤ b.toNat then b else a) f s
/-- MOV (R124). -/
def execSalu0Mov (f : FS2) (s : State) : Host.Outcome State Fault Refusal := scalar2 0x10 (fun a => a) f s

/-! ## SALU1 (R125) -/

/-- MUL (R125). -/
def execMul (f : FS3) (s : State) : Host.Outcome State Fault Refusal := scalar3 0x11 (fun a b => a * b) f s
/-- MULH (R125). -/
def execMulh (f : FS3) (s : State) : Host.Outcome State Fault Refusal := scalar3 0x11 (fun a b => BitVec.ofInt 64 (a.toInt * b.toInt / 2 ^ 64)) f s
/-- MULHN (R125). -/
def execMulhn (f : FS3) (s : State) : Host.Outcome State Fault Refusal := scalar3 0x11 (fun a b => n64 (a.toNat * b.toNat / 2 ^ 64)) f s
/-- DIV (R125, R127, R128). -/
def execDiv (f : FS3) (s : State) : Host.Outcome State Fault Refusal := scalarDiv true false f s
/-- DIVN (R125, R127, R128). -/
def execDivn (f : FS3) (s : State) : Host.Outcome State Fault Refusal := scalarDiv false false f s
/-- REM (R125, R127, R128). -/
def execRem (f : FS3) (s : State) : Host.Outcome State Fault Refusal := scalarDiv true true f s
/-- REMN (R125, R127, R128). -/
def execRemn (f : FS3) (s : State) : Host.Outcome State Fault Refusal := scalarDiv false true f s
/-- POPC (R125). -/
def execPopc (f : FS2) (s : State) : Host.Outcome State Fault Refusal := scalar2 0x11 (fun a => n64 (popc a)) f s
/-- CLZ (R125). -/
def execClz (f : FS2) (s : State) : Host.Outcome State Fault Refusal := scalar2 0x11 (fun a => n64 (clzN 64 a.toNat)) f s
/-- CTZ (R125). -/
def execCtz (f : FS2) (s : State) : Host.Outcome State Fault Refusal := scalar2 0x11 (fun a => n64 (ctzN 64 a.toNat)) f s
/-- BREV (R125). -/
def execBrev (f : FS2) (s : State) : Host.Outcome State Fault Refusal := scalar2 0x11 (fun a => n64 (brevN 64 a.toNat)) f s
/-- ABS (R125). -/
def execAbs (f : FS2) (s : State) : Host.Outcome State Fault Refusal := scalar2 0x11 (fun a => if a.msb then 0#64 - a else a) f s
/-- NEG (R125). -/
def execNeg (f : FS2) (s : State) : Host.Outcome State Fault Refusal := scalar2 0x11 (fun a => 0#64 - a) f s
/-- The field descriptor of R126: position, effective length, SGN. -/
def fieldOf (b : W64) : Nat × Nat × Bool :=
  let pos := wbits b 5 0
  (pos, min (min (wbits b 12 6) 64) (64 - pos), b.getLsbD 13)
def bfeVal (a b : W64) : W64 :=
  let (pos, k, sgn) := fieldOf b
  let f := (a.toNat / 2 ^ pos) % 2 ^ k
  if k == 0 then 0#64 else if sgn then sextN f k else n64 f
def bfiVal (a b d : W64) : W64 :=
  let (pos, k, _) := fieldOf b
  let m := n64 ((2 ^ k - 1) * 2 ^ pos)
  (d &&& ~~~m) ||| ((a <<< pos) &&& m)
/-- BFE (R126). -/
def execBfe (f : FS3) (s : State) : Host.Outcome State Fault Refusal := scalar3 0x11 bfeVal f s
/-- BFI (R126): D's old value is read first. -/
def execBfi (f : FS3) (s : State) : Host.Outcome State Fault Refusal :=
  scalarBin 0x11 (fun cx a b => do
    let d ← readS cx f.d.toNat
    return (bfiVal a b d, {})) f s

/-- SCMP (R129). -/
def execScmp (f : FScmp) (s : State) : Host.Outcome State Fault Refusal :=
  issue f.z 0x12 {} true (fun _ => pure ()) (fun cx => skipMarks cx (countMarks f.l f.m) (thenNext (do
    let a ← readS cx f.a.toNat
    let b ← readS cx f.b.toNat
    applyMarks cx (countMarks f.l f.m) (scalarMark f.l f.a.toNat ++ scalarMark f.m f.b.toNat)
    writeP cx f.p.toNat (if scalarCond f.c.toNat a b then BitVec.allOnes 64 else 0#64)))) s

/-! ## Immediates (R130–R132) -/

/-- ADDI (R130). -/
def execAddi (f : FSI) (s : State) : Host.Outcome State Fault Refusal := scalarImm 0x13 (fun a b => a + b) f s
/-- ANDI (R130). -/
def execAndi (f : FSI) (s : State) : Host.Outcome State Fault Refusal := scalarImm 0x14 (fun a b => a &&& b) f s
/-- ORI (R130). -/
def execOri (f : FSI) (s : State) : Host.Outcome State Fault Refusal := scalarImm 0x15 (fun a b => a ||| b) f s
/-- XORI (R130). -/
def execXori (f : FSI) (s : State) : Host.Outcome State Fault Refusal := scalarImm 0x16 (fun a b => a ^^^ b) f s
/-- SHLI (R131). -/
def execShli (f : FSN) (s : State) : Host.Outcome State Fault Refusal := scalarShift shl64 f s
/-- SHRI (R131). -/
def execShri (f : FSN) (s : State) : Host.Outcome State Fault Refusal := scalarShift shr64 f s
/-- SARI (R131). -/
def execSari (f : FSN) (s : State) : Host.Outcome State Fault Refusal := scalarShift sar64 f s
/-- ROTLI (R131). -/
def execRotli (f : FSN) (s : State) : Host.Outcome State Fault Refusal := scalarShift rotl64 f s
/-- MOVI (R130). -/
def execMovi (f : FDI) (s : State) : Host.Outcome State Fault Refusal :=
  issue f.z 0x18 { imm := 2 } true (fun _ => pure ()) (fun cx => skipIfNone cx (thenNext (writeS cx f.d.toNat (immS cx.h 11 f.i.toNat)))) s
/-- LEA (R132). -/
def execLea (f : FDI) (s : State) : Host.Outcome State Fault Refusal :=
  issue f.z 0x19 { imm := 2 } true (fun _ => pure ())
    (fun cx => skipIfNone cx (thenNext (writeS cx f.d.toNat (cx.pc + 4#64 * immS cx.h 11 f.i.toNat)))) s

end Sys2Proof.Machine
end

