-- ==== Sys2Proof/Machine/VectorInt.lean ====
section
/-! DEFINITION. Vector integer arithmetic, IUN, ICMP, SEL and PMOV (R133–R138). -/

namespace Sys2Proof.Machine

/-! ## Shapes -/

/-- What an instruction does with one lane: type, hints, the operands and D's old value. -/
abbrev Lane3 := Nat → Hints → W64 → W64 → W64 → LaneOut

/-- The word's own checks for vector sources and a vector destination (R25–R27, R36). -/
def vecStatic (cx : Cx) (types : List Nat) (dflt d : Nat) (srcs : List (Bool × Nat)) : M Unit := do
  srcs.forM (fun p => okSpec p.2)
  let ty := unitType cx.h dflt
  guardM (types.contains ty) (.trap 1 0#64 0 0 0 0#64)
  okDest d
  srcs.forM (fun p => okMark p.1 p.2)
  if isWide ty then do
    okPair d
    srcs.forM (fun p => okPair p.2)
  else pure ()

/-- Per-lane results put in place: the writes, SATD, the counts of R127 and R151. -/
def finishLanes (cx : Cx) (ty fty d : Nat) (outs : List LaneOut) : M Ctl := do
  let x ← getG cx.g
  writeEl cx d (isWide ty) (outs.map (·.v))
  let act := (laneList x.w cx.exe).map (fun t => lane { v := 0#64 } outs t)
  noteSat cx (act.any (·.sat))
  noteEvents cx fty (act.map (·.ev))
  noteDiv cx (maskOf x.w (fun t => hasLane cx.exe t && (lane { v := 0#64 } outs t).idz))

/-- Two vector sources and one vector result; `rd` reads D first, `acc` are the hints accepted, `types` the HTYPE types; a list of
one type takes none. -/
def vec3 (op : Nat) (mode rd : Bool) (types : List Nat) (dflt : Nat) (r : Lane3) (f : FV3) (s : State) :
    Host.Outcome State Fault Refusal :=
  issue f.z op { mode := mode, type := decide (1 < types.length) } false
    (fun cx => vecStatic cx types dflt f.d.toNat [(f.l, f.a.toNat), (f.m, f.b.toNat)])
    (fun cx => skipMarks cx (countMarks f.l f.m) (do
      let ty := unitType cx.h dflt
      let wide := isWide ty
      let n := if wide then 2 else 1
      refillSpecs cx (specRegs f.d.toNat n) ([(f.a.toNat, n), (f.b.toNat, n)] ++ (if rd then [(f.d.toNat, n)] else []))
      let a ← readEl cx cx.exe f.a.toNat wide
      let b ← readEl cx cx.exe f.b.toNat wide
      let d ← if rd then readEl cx cx.exe f.d.toNat wide else pure []
      applyMarks cx (countMarks f.l f.m) (specMark f.l f.a.toNat n ++ specMark f.m f.b.toNat n)
      let x ← getG cx.g
      finishLanes cx ty ty f.d.toNat (gen x.w (fun t => r ty cx.h (lane 0#64 a t) (lane 0#64 b t) (lane 0#64 d t))))) s

/-- One vector source and one vector result. -/
def vec2 (op : Nat) (mode rd : Bool) (types : List Nat) (dflt : Nat) (r : Nat → Hints → W64 → W64 → LaneOut)
    (z l : Bool) (dst src : Nat) (s : State) : Host.Outcome State Fault Refusal :=
  issue z op { mode := mode, type := types != [11] } false
    (fun cx => vecStatic cx types dflt dst [(l, src)])
    (fun cx => skipMarks cx (countMarks l false) (do
      let ty := unitType cx.h dflt
      let wide := isWide ty
      let n := if wide then 2 else 1
      refillSpecs cx (specRegs dst n) ([(src, n)] ++ (if rd then [(dst, n)] else []))
      let a ← readEl cx cx.exe src wide
      let d ← if rd then readEl cx cx.exe dst wide else pure []
      applyMarks cx (countMarks l false) (specMark l src n)
      let x ← getG cx.g
      finishLanes cx ty ty dst (gen x.w (fun t => r ty cx.h (lane 0#64 a t) (lane 0#64 d t))))) s

def intOp (op : Nat) (r : Lane3) (f : FV3) (s : State) : Host.Outcome State Fault Refusal := vec3 op true false intTypes 2 r f s
/-- A formula on exact integers that honours SAT where `sat` (R134). -/
def exactOp (sat : Bool) (r : Int → Int → Int) : Lane3 := fun ty h a b _ => satInt ty (sat && satOf h) (r (eltInt ty a) (eltInt ty b))
/-- A formula on bit patterns of the type's width. -/
def bitOp (r : Nat → Nat → Nat → Nat) : Lane3 := fun ty _ a b _ => { v := holdBits ty (r (tyBits ty) (eltBits ty a) (eltBits ty b)) }
/-- All bits of an N-bit pattern inverted. -/
def notN (n v : Nat) : Nat := 2 ^ n - 1 - v

/-! ## The rows of R133 -/

/-- IADD (R133, R134). -/
def execIadd (f : FV3) (s : State) : Host.Outcome State Fault Refusal :=
  intOp 0x20 (exactOp true (· + ·)) f s
/-- ISUB (R133, R134). -/
def execIsub (f : FV3) (s : State) : Host.Outcome State Fault Refusal :=
  intOp 0x21 (exactOp true (· - ·)) f s
/-- IMUL (R133, R134). -/
def execImul (f : FV3) (s : State) : Host.Outcome State Fault Refusal :=
  intOp 0x22 (exactOp true (· * ·)) f s
/-- IMULH (R133, R134). -/
def execImulh (f : FV3) (s : State) : Host.Outcome State Fault Refusal :=
  intOp 0x22 (fun ty _ a b _ => { v := holdInt ty (eltInt ty a * eltInt ty b / (2 ^ tyBits ty : Nat)) }) f s
/-- IMIN (R133, R134). -/
def execImin (f : FV3) (s : State) : Host.Outcome State Fault Refusal :=
  intOp 0x26 (exactOp false min) f s
/-- IMAX (R133, R134). -/
def execImax (f : FV3) (s : State) : Host.Outcome State Fault Refusal :=
  intOp 0x27 (exactOp false max) f s
/-- AND (R133, R134). -/
def execAnd (f : FV3) (s : State) : Host.Outcome State Fault Refusal :=
  intOp 0x28 (bitOp (fun _ a b => a &&& b)) f s
/-- ANDN (R133, R134). -/
def execAndn (f : FV3) (s : State) : Host.Outcome State Fault Refusal :=
  intOp 0x28 (bitOp (fun n a b => a &&& notN n b)) f s
/-- OR (R133, R134). -/
def execOr (f : FV3) (s : State) : Host.Outcome State Fault Refusal :=
  intOp 0x29 (bitOp (fun _ a b => a ||| b)) f s
/-- ORN (R133, R134). -/
def execOrn (f : FV3) (s : State) : Host.Outcome State Fault Refusal :=
  intOp 0x29 (bitOp (fun n a b => a ||| notN n b)) f s
/-- XOR (R133, R134). -/
def execXor (f : FV3) (s : State) : Host.Outcome State Fault Refusal :=
  intOp 0x2A (bitOp (fun _ a b => a ^^^ b)) f s
/-- XNOR (R133, R134). -/
def execXnor (f : FV3) (s : State) : Host.Outcome State Fault Refusal :=
  intOp 0x2A (bitOp (fun n a b => notN n (a ^^^ b))) f s
/-- SHL (R133, R134). -/
def execShl (f : FV3) (s : State) : Host.Outcome State Fault Refusal :=
  intOp 0x2B (bitOp (fun n a b => if b < n then a * 2 ^ b else 0)) f s
/-- SHR (R133, R134). -/
def execShr (f : FV3) (s : State) : Host.Outcome State Fault Refusal :=
  intOp 0x2C (bitOp (fun n a b => if b < n then a / 2 ^ b else 0)) f s
/-- SAR (R133, R134). -/
def execSar (f : FV3) (s : State) : Host.Outcome State Fault Refusal :=
  intOp 0x2C (fun ty _ a b _ => { v := holdInt ty (ofBits (tyBits ty) true (eltBits ty a) / (2 ^ min (eltBits ty b) (tyBits ty) : Nat)) }) f s
/-- IMAD (R133): D's old value is the addend. -/
def execImad (f : FV3) (s : State) : Host.Outcome State Fault Refusal :=
  vec3 0x23 true true intTypes 2 (fun ty h a b d => satInt ty (satOf h) (eltInt ty a * eltInt ty b + eltInt ty d)) f s

/-- A vector division (R127). -/
def divOp (rem : Bool) : Lane3 := fun ty _ a b _ =>
  let (q, r, c) := divide (tyBits ty) (isSigned ty) (eltInt ty a) (eltInt ty b)
  { v := holdInt ty (if rem then r else q), idz := c }
/-- IDIV (R127, R128, R133). -/
def execIdiv (f : FV3) (s : State) : Host.Outcome State Fault Refusal := intOp 0x24 (divOp false) f s
/-- IREM (R127, R128, R133). -/
def execIrem (f : FV3) (s : State) : Host.Outcome State Fault Refusal := intOp 0x25 (divOp true) f s

/-- IADDI (R133): the immediate, widened, is the second operand. -/
def execIaddi (f : FVI) (s : State) : Host.Outcome State Fault Refusal :=
  issue f.z 0x2F { imm := 2, mode := true, type := true } false
    (fun cx => vecStatic cx intTypes 2 f.d.toNat [(f.l, f.a.toNat)])
    (fun cx => skipMarks cx (countMarks f.l false) (do
      let ty := unitType cx.h 2
      let n := if isWide ty then 2 else 1
      refillSpecs cx (specRegs f.d.toNat n) [(f.a.toNat, n)]
      let a ← readEl cx cx.exe f.a.toNat (isWide ty)
      applyMarks cx (countMarks f.l false) (specMark f.l f.a.toNat n)
      let x ← getG cx.g
      finishLanes cx ty ty f.d.toNat (gen x.w (fun t => satInt ty (satOf cx.h) (eltInt ty (lane 0#64 a t) + (immS cx.h 8 f.i.toNat).toInt))))) s

/-! ## IUN (R135) -/

def unBits (r : Nat → Nat → Nat) : Nat → Hints → W64 → W64 → LaneOut :=
  fun ty _ a _ => { v := holdBits ty (r (tyBits ty) (eltBits ty a)) }
/-- A count: the value itself, whatever the type's width. -/
def unCount (r : Nat → Nat → Nat) : Nat → Hints → W64 → W64 → LaneOut :=
  fun ty _ a _ => { v := holdBits ty (r (tyBits ty) (eltBits ty a)) }
def bswapN (n v : Nat) : Nat := (List.range (n / 8)).foldl (fun acc i => 256 * acc + bits v (8 * i + 7) (8 * i)) 0

def iun (mode rd : Bool) (types : List Nat) (r : Nat → Hints → W64 → W64 → LaneOut) (f : FV2) (s : State) :
    Host.Outcome State Fault Refusal := vec2 0x3C mode rd types 2 r f.z f.l f.d.toNat f.a.toNat s
/-- IUN.MOV: the element's pattern, whole (R52). -/
def execIunMov (f : FV2) (s : State) : Host.Outcome State Fault Refusal := iun true false allTypes (fun _ _ a _ => { v := a }) f s
/-- IUN.NOT. -/
def execIunNot (f : FV2) (s : State) : Host.Outcome State Fault Refusal := iun true false intTypes (unBits notN) f s
/-- IUN.NEG, with SAT the type maximum for the most negative value. -/
def execIunNeg (f : FV2) (s : State) : Host.Outcome State Fault Refusal :=
  iun true false intTypes (fun ty h a _ =>
    if isSigned ty then satInt ty (satOf h) (-(eltInt ty a)) else satInt ty false (-(eltInt ty a))) f s
/-- IUN.ABS. -/
def execIunAbs (f : FV2) (s : State) : Host.Outcome State Fault Refusal :=
  iun true false intTypes (fun ty h a _ => satInt ty (satOf h) ((eltInt ty a).natAbs : Int)) f s
/-- IUN.POPC. -/
def execIunPopc (f : FV2) (s : State) : Host.Outcome State Fault Refusal := iun true false intTypes (unCount popN) f s
/-- IUN.CLZ. -/
def execIunClz (f : FV2) (s : State) : Host.Outcome State Fault Refusal := iun true false intTypes (unCount clzN) f s
/-- IUN.CTZ. -/
def execIunCtz (f : FV2) (s : State) : Host.Outcome State Fault Refusal := iun true false intTypes (unCount ctzN) f s
/-- IUN.BREV. -/
def execIunBrev (f : FV2) (s : State) : Host.Outcome State Fault Refusal := iun true false intTypes (unBits brevN) f s
/-- IUN.BSWAP. -/
def execIunBswap (f : FV2) (s : State) : Host.Outcome State Fault Refusal := iun true false [1, 2, 3, 5, 6, 7] (unBits bswapN) f s

/-- A field of the element, `n` bits from bit `lo`, extended. -/
def extract (n lo : Nat) (signed : Bool) : Nat → Hints → W64 → W64 → LaneOut :=
  fun _ _ a _ => { v := holdInt 2 (ofBits n signed (bits a.toNat (lo + n - 1) lo)) }
/-- IUN.XNIB. -/
def execIunXnib (f : FVK3) (s : State) : Host.Outcome State Fault Refusal :=
  vec2 0x3C true false [2] 2 (extract 4 (4 * f.k.toNat) true) f.z f.l f.d.toNat f.a.toNat s
/-- IUN.XNIBN. -/
def execIunXnibn (f : FVK3) (s : State) : Host.Outcome State Fault Refusal :=
  vec2 0x3C true false [2] 2 (extract 4 (4 * f.k.toNat) false) f.z f.l f.d.toNat f.a.toNat s
/-- IUN.XBYTE. -/
def execIunXbyte (f : FVK2) (s : State) : Host.Outcome State Fault Refusal :=
  vec2 0x3C true false [2] 2 (extract 8 (8 * f.k.toNat) true) f.z f.l f.d.toNat f.a.toNat s
/-- IUN.XBYTEN. -/
def execIunXbyten (f : FVK2) (s : State) : Host.Outcome State Fault Refusal :=
  vec2 0x3C true false [2] 2 (extract 8 (8 * f.k.toNat) false) f.z f.l f.d.toNat f.a.toNat s
/-- IUN.INSNIB: D's old value with one nibble replaced. -/
def execIunInsnib (f : FVK3) (s : State) : Host.Outcome State Fault Refusal :=
  vec2 0x3C true true [2] 2 (fun _ _ a d =>
    let v := d.toNat % 2 ^ 32
    { v := n64 (v - bits v (4 * f.k.toNat + 3) (4 * f.k.toNat) * 2 ^ (4 * f.k.toNat) + bits a.toNat 3 0 * 2 ^ (4 * f.k.toNat)) })
    f.z f.l f.d.toNat f.a.toNat s

/-! ## Compares (R136) -/

/-- A compare: the condition's value and its events in each executing thread; `anded` ANDs it into the predicate. -/
def compareOp (op : Nat) (types : List Nat) (dflt : Nat) (anded : Bool) (r : Nat → Hints → W64 → W64 → Bool × Ev) (f : FVC) (s : State) :
    Host.Outcome State Fault Refusal :=
  issue f.z op { mode := true, type := decide (1 < types.length) } false
    (fun cx => vecStatic cx types dflt 88 [(f.l, f.a.toNat), (f.m, f.b.toNat)])
    (fun cx => skipMarks cx (countMarks f.l f.m) (thenNext (do
      let ty := unitType cx.h dflt
      let wide := isWide ty
      let n := if wide then 2 else 1
      refillSpecs cx [] [(f.a.toNat, n), (f.b.toNat, n)]
      let a ← readEl cx cx.exe f.a.toNat wide
      let b ← readEl cx cx.exe f.b.toNat wide
      applyMarks cx (countMarks f.l f.m) (specMark f.l f.a.toNat n ++ specMark f.m f.b.toNat n)
      let x ← getG cx.g
      let rs := gen x.w (fun t => r ty cx.h (lane 0#64 a t) (lane 0#64 b t))
      let m := maskOf x.w (fun t => (lane (false, {}) rs t).1)
      let old ← readP cx f.p.toNat
      writeP cx f.p.toNat (if anded then m &&& old else m)
      noteEvents cx ty ((laneList x.w cx.exe).map (fun t => (lane (false, {}) rs t).2))))) s

def icmp (anded : Bool) (f : FVC) (s : State) : Host.Outcome State Fault Refusal :=
  compareOp 0x2D intTypes 2 anded (fun ty _ a b => (intCond f.c.toNat ty a b, {})) f s
/-- ICMP. -/
def execIcmp (f : FVC) (s : State) : Host.Outcome State Fault Refusal := icmp false f s
/-- ICMPAND. -/
def execIcmpand (f : FVC) (s : State) : Host.Outcome State Fault Refusal := icmp true f s

/-! ## SEL (R137) -/

/-- SEL on p0, or on its inverse. -/
def select (inv : Bool) (f : FV3) (s : State) : Host.Outcome State Fault Refusal :=
  issue f.z 0x2E { mode := true, type := true } false
    (fun cx => vecStatic cx allTypes 2 f.d.toNat [(f.l, f.a.toNat), (f.m, f.b.toNat)])
    (fun cx => skipMarks cx (countMarks f.l f.m) (thenNext (do
      let wide := isWide (unitType cx.h 2)
      let n := if wide then 2 else 1
      refillSpecs cx (specRegs f.d.toNat n) [(f.a.toNat, n), (f.b.toNat, n)]
      let a ← readEl cx cx.exe f.a.toNat wide
      let b ← readEl cx cx.exe f.b.toNat wide
      applyMarks cx (countMarks f.l f.m) (specMark f.l f.a.toNat n ++ specMark f.m f.b.toNat n)
      let x ← getG cx.g
      let p ← readP cx 0
      writeEl cx f.d.toNat wide (gen x.w (fun t => if hasLane p t != inv then lane 0#64 a t else lane 0#64 b t))))) s
/-- SEL with p0. -/
def execSel (f : FV3) (s : State) : Host.Outcome State Fault Refusal := select false f s
/-- SEL with ~p0. -/
def execSelNotP0 (f : FV3) (s : State) : Host.Outcome State Fault Refusal := select true f s

/-! ## PMOV (R138) -/

/-- PMOV.TOP. -/
def execPmovTop (f : FPtop) (s : State) : Host.Outcome State Fault Refusal :=
  issue f.z 0x4A {} false
    (fun _ => do
      okSpec f.a.toNat
      okMark f.l f.a.toNat)
    (fun cx => skipMarks cx (countMarks f.l false) (thenNext (do
      refillSpecs cx [] [(f.a.toNat, 1)]
      let a ← readOp cx cx.exe f.a.toNat
      applyMarks cx (countMarks f.l false) (specMark f.l f.a.toNat 1)
      let x ← getG cx.g
      writeP cx f.k.toNat (maskOf x.w (fun t => lane 0#32 a t != 0#32))))) s
/-- PMOV.FROMP. -/
def execPmovFromp (f : FPfrom) (s : State) : Host.Outcome State Fault Refusal :=
  issue f.z 0x4A {} false (fun _ => okDest f.d.toNat)
    (fun cx => skipIfNone cx (thenNext (do
      let x ← getG cx.g
      let p ← readP cx f.k.toNat
      writeD cx f.d.toNat (gen x.w (fun t => if hasLane p t then 1#32 else 0#32))))) s
/-- Two predicates into the first. -/
def pmovBin (r : W64 → W64 → W64) (f : FPP) (s : State) : Host.Outcome State Fault Refusal :=
  issue f.z 0x4A {} false (fun _ => pure ())
    (fun cx => skipIfNone cx (thenNext (do
      let k ← readP cx f.k.toNat
      let j ← readP cx f.j.toNat
      writeP cx f.k.toNat (r k j)))) s
/-- PMOV.AND. -/
def execPmovAnd (f : FPP) (s : State) : Host.Outcome State Fault Refusal := pmovBin (fun k j => k &&& j) f s
/-- PMOV.OR. -/
def execPmovOr (f : FPP) (s : State) : Host.Outcome State Fault Refusal := pmovBin (fun k j => k ||| j) f s
/-- PMOV.XOR. -/
def execPmovXor (f : FPP) (s : State) : Host.Outcome State Fault Refusal := pmovBin (fun k j => k ^^^ j) f s
/-- PMOV.NOT. -/
def execPmovNot (f : FPP) (s : State) : Host.Outcome State Fault Refusal := pmovBin (fun _ j => ~~~j) f s
/-- PMOV.FROMS: a scalar's bits into a predicate. -/
def execPmovFroms (f : FPfroms) (s : State) : Host.Outcome State Fault Refusal :=
  issue f.z 0x4A {} false (fun _ => pure ())
    (fun cx => skipMarks cx (countMarks f.l false) (thenNext (do
      let v ← readS cx f.a.toNat
      applyMarks cx (countMarks f.l false) (scalarMark f.l f.a.toNat)
      writeP cx f.k.toNat v))) s

end Sys2Proof.Machine
end

