-- ==== Sys2Proof/Machine/VectorFloat.lean ====
section
/-! DEFINITION. Floating-point arithmetic in each thread: FADD to FDIV, FMIN and FMAX, FUN, the FP64 instructions, FCMP and
DCMP (R136, R139–R144). -/

namespace Sys2Proof.Machine

/-! ## Operations on patterns: the result and its events -/

/-- A signalling NaN (R55). -/
def isSnan (f : Fmt) (x : Nat) : Bool := (decodeF f false x).isNan && bits x (f.mb - 1) (f.mb - 1) == 0

/-- The pattern of an exact result, rounded once, with its events; a NaN is the canonical one. -/
def roundNum (f : Fmt) (m : FpMode) (inv : Bool) (x : Num) : Nat × Ev :=
  match x with
  | .nan => (f.nanBits, { inv := inv })
  | .inf s => ((encodeF f m.rm (.inf s)).bits, { inv := inv })
  | .fin s k e =>
    let (b, ev) := finish f m (roundF f m.rm s k e false)
    (b, { ev with inv := inv })

def oppositeInf (a b : Num) : Bool := match a, b with | .inf s, .inf t => s != t | _, _ => false
def zeroTimesInf (a b : Num) : Bool :=
  match a, b with
  | .inf _, y => y.isZero
  | x, .inf _ => x.isZero
  | _, _ => false

/-- a + b (R139). -/
def fpAdd (f : Fmt) (m : FpMode) (a b : Nat) : Nat × Ev :=
  let x := decodeF f m.ftz a
  let y := decodeF f m.ftz b
  roundNum f m (isSnan f a || isSnan f b || oppositeInf x y) (addN m.rm x y)
/-- A pattern with its sign inverted, a NaN apart. -/
def fpFlip (f : Fmt) (a : Nat) : Nat := if f.signBit ≤ a % 2 ^ f.width then a % 2 ^ f.width - f.signBit else a % 2 ^ f.width + f.signBit
def fpSub (f : Fmt) (m : FpMode) (a b : Nat) : Nat × Ev := fpAdd f m a (fpFlip f b)
/-- a × b. -/
def fpMul (f : Fmt) (m : FpMode) (a b : Nat) : Nat × Ev :=
  let x := decodeF f m.ftz a
  let y := decodeF f m.ftz b
  roundNum f m (isSnan f a || isSnan f b || zeroTimesInf x y) (mulN x y)
/-- ±(a × b) + d with one rounding. -/
def fpFma (f : Fmt) (m : FpMode) (negate : Bool) (a b d : Nat) : Nat × Ev :=
  let x := decodeF f m.ftz a
  let y := decodeF f m.ftz b
  let z := decodeF f m.ftz d
  let p := if negate then (mulN x y).neg else mulN x y
  roundNum f m (isSnan f a || isSnan f b || isSnan f d || zeroTimesInf x y || oppositeInf p z) (addN m.rm p z)
/-- a / b. -/
def fpDiv (f : Fmt) (m : FpMode) (a b : Nat) : Nat × Ev :=
  let x := decodeF f m.ftz a
  let y := decodeF f m.ftz b
  let bothInf := match x, y with | .inf _, .inf _ => true | _, _ => false
  let inv := isSnan f a || isSnan f b || (x.isZero && y.isZero) || bothInf
  let dz := match x with | .fin _ k _ => k != 0 && y.isZero | _ => false
  let (r, ev) := finish f m (divF f m.rm x y)
  (r, { ev with inv := inv, dz := dz })
/-- √a. -/
def fpSqrt (f : Fmt) (m : FpMode) (a : Nat) : Nat × Ev :=
  let x := decodeF f m.ftz a
  let below := match x with | .nan => false | .inf s => s | .fin s k _ => s && k != 0
  let (r, ev) := finish f m (sqrtF f m.rm x)
  (r, { ev with inv := isSnan f a || below })

/-- A pattern read under FTZ (R56). -/
def flushed (f : Fmt) (m : FpMode) (a : Nat) : Nat :=
  let a := a % 2 ^ f.width
  if m.ftz && a % f.signBit < 2 ^ f.mb then (if f.signBit ≤ a then f.signBit else 0) else a
/-- The order of R140: −0 below +0. -/
def orderKey (f : Fmt) (a : Nat) : Int := if f.signBit ≤ a then -((a - f.signBit : Nat) : Int) - 1 else a
/-- FMIN and FMAX (R140). -/
def fpMinMax (f : Fmt) (m : FpMode) (greater nanWins : Bool) (a b : Nat) : Nat × Ev :=
  let ev : Ev := { inv := isSnan f a || isSnan f b }
  let na := (decodeF f false a).isNan
  let nb := (decodeF f false b).isNan
  let a := flushed f m a
  let b := flushed f m b
  if na || nb then (if nanWins || (na && nb) then f.nanBits else if na then b else a, ev)
  else
    let first := if greater then decide (orderKey f b ≤ orderKey f a) else decide (orderKey f a ≤ orderKey f b)
    (if first then a else b, ev)

/-- abs and neg: a NaN gives the canonical one. -/
def fpSign (f : Fmt) (m : FpMode) (r : Nat → Nat) (a : Nat) : Nat × Ev :=
  if (decodeF f false a).isNan then (f.nanBits, { inv := isSnan f a }) else (r (flushed f m a), {})
/-- The integer value by a rounding mode (R142, functions 10 to 13); the sign of a zero result is the operand's. -/
def fpIntegral (f : Fmt) (m : FpMode) (rm : Nat) (a : Nat) : Nat × Ev :=
  match decodeF f m.ftz a with
  | .nan => (f.nanBits, { inv := isSnan f a })
  | .inf _ => (a % 2 ^ f.width, {})
  | .fin s k e => ((roundF f 0 s (intOf rm s k e).natAbs 0 false).bits, {})
/-- frac (R142): a − floor(a), exact or rounded once; a zero result is +0. -/
def fpFrac (f : Fmt) (m : FpMode) (a : Nat) : Nat × Ev :=
  match decodeF f m.ftz a with
  | .nan => (f.nanBits, { inv := isSnan f a })
  | .inf _ => (f.nanBits, { inv := true })
  | .fin s k e =>
    if 0 ≤ e then (0, {})
    else
      let v : Int := if s then -(k : Int) else k
      finish f m (roundF f m.rm false (v % (2 ^ (-e).toNat : Nat)).toNat e false)

-- DESIGN CHOICE: log 101
/-- A number of one format in another (R68): exact, or rounded by the mode. -/
def fpConvert (src dst : Fmt) (m : FpMode) (a : Nat) : Nat × Ev := roundNum dst m (isSnan src a) (decodeF src m.ftz a)

/-- Functions 3 to 9 (R142): the FP32 function, rounded to a narrower type by RNE. -/
def fpApprox (fn ty : Nat) (m : FpMode) (a : Nat) : Nat × Ev :=
  if ty == 10 then approxFun fn m (n32 a)
  else
    let (x, e1) := fpConvert (fmtOf ty) f32 m a
    let (y, e2) := approxFun fn m (n32 x)
    let (z, e3) := fpConvert f32 (fmtOf ty) { m with rm := 0 } y
    (z, (e1.or e2).or e3)

/-! ## Shapes -/

def lane2 (ty : Nat) (r : Nat × Ev) : LaneOut := { v := holdBits ty r.1, ev := r.2 }
/-- A binary operation on patterns of the type's format. -/
def fpOp (r : Fmt → FpMode → Nat → Nat → Nat × Ev) : Lane3 :=
  fun ty h a b _ => lane2 ty (r (fmtOf ty) (fpMode h) (eltBits ty a) (eltBits ty b))
def fpOp3 (negate : Bool) : Lane3 :=
  fun ty h a b d => lane2 ty (fpFma (fmtOf ty) (fpMode h) negate (eltBits ty a) (eltBits ty b) (eltBits ty d))
/-- A function of FUN or DUN on patterns of the type's format. -/
def fpUn (r : Nat → FpMode → Nat → Nat × Ev) : Nat → Hints → W64 → W64 → LaneOut :=
  fun ty h a _ => lane2 ty (r ty (fpMode h) (eltBits ty a))

/-! ## FADD to FDIV (R139, R140) -/

/-- FADD (R139). -/
def execFadd (f : FV3) (s : State) : Host.Outcome State Fault Refusal :=
  vec3 0x30 true false floatTypes 10 (fpOp fpAdd) f s
/-- FSUB (R139). -/
def execFsub (f : FV3) (s : State) : Host.Outcome State Fault Refusal :=
  vec3 0x31 true false floatTypes 10 (fpOp fpSub) f s
/-- FMUL (R139). -/
def execFmul (f : FV3) (s : State) : Host.Outcome State Fault Refusal :=
  vec3 0x32 true false floatTypes 10 (fpOp fpMul) f s
/-- FFMA (R139). -/
def execFfma (f : FV3) (s : State) : Host.Outcome State Fault Refusal :=
  vec3 0x33 true true floatTypes 10 (fpOp3 false) f s
/-- FNMA (R139). -/
def execFnma (f : FV3) (s : State) : Host.Outcome State Fault Refusal :=
  vec3 0x33 true true floatTypes 10 (fpOp3 true) f s
/-- FMIN (R140). -/
def execFmin (f : FV3) (s : State) : Host.Outcome State Fault Refusal :=
  vec3 0x34 true false floatTypes 10 (fpOp (fun f m => fpMinMax f m false false)) f s
/-- FMINNAN (R140). -/
def execFminnan (f : FV3) (s : State) : Host.Outcome State Fault Refusal :=
  vec3 0x34 true false floatTypes 10 (fpOp (fun f m => fpMinMax f m false true)) f s
/-- FMAX (R140). -/
def execFmax (f : FV3) (s : State) : Host.Outcome State Fault Refusal :=
  vec3 0x35 true false floatTypes 10 (fpOp (fun f m => fpMinMax f m true false)) f s
/-- FMAXNAN (R140). -/
def execFmaxnan (f : FV3) (s : State) : Host.Outcome State Fault Refusal :=
  vec3 0x35 true false floatTypes 10 (fpOp (fun f m => fpMinMax f m true true)) f s
/-- FDIV (R139). -/
def execFdiv (f : FV3) (s : State) : Host.Outcome State Fault Refusal :=
  vec3 0x37 true false floatTypes 10 (fpOp fpDiv) f s

/-! ## FP64 (R141) -/

/-- DADD (R141). -/
def execDadd (f : FV3) (s : State) : Host.Outcome State Fault Refusal :=
  vec3 0x39 true false [11] 11 (fpOp fpAdd) f s
/-- DSUB (R141). -/
def execDsub (f : FV3) (s : State) : Host.Outcome State Fault Refusal :=
  vec3 0x39 true false [11] 11 (fpOp fpSub) f s
/-- DMUL (R141). -/
def execDmul (f : FV3) (s : State) : Host.Outcome State Fault Refusal :=
  vec3 0x3A true false [11] 11 (fpOp fpMul) f s
/-- DFMA (R141). -/
def execDfma (f : FV3) (s : State) : Host.Outcome State Fault Refusal :=
  vec3 0x3B true true [11] 11 (fpOp3 false) f s
/-- DNMA (R141). -/
def execDnma (f : FV3) (s : State) : Host.Outcome State Fault Refusal :=
  vec3 0x3B true true [11] 11 (fpOp3 true) f s
/-- DDIV (R141). -/
def execDdiv (f : FV3) (s : State) : Host.Outcome State Fault Refusal :=
  vec3 0x3F true false [11] 11 (fpOp fpDiv) f s

/-! ## FUN (R142, R143) and DUN (R144) -/

def fun1 (r : Nat → FpMode → Nat → Nat × Ev) (f : FV2) (s : State) : Host.Outcome State Fault Refusal :=
  vec2 0x38 true false floatTypes 10 (fpUn r) f.z f.l f.d.toNat f.a.toNat s
def dun1 (r : Nat → FpMode → Nat → Nat × Ev) (f : FV2) (s : State) : Host.Outcome State Fault Refusal :=
  vec2 0x3E true false [11] 11 (fpUn r) f.z f.l f.d.toNat f.a.toNat s
def absR : Nat → FpMode → Nat → Nat × Ev := fun ty m a => fpSign (fmtOf ty) m (fun x => x % (fmtOf ty).signBit) a
def negR : Nat → FpMode → Nat → Nat × Ev := fun ty m a => fpSign (fmtOf ty) m (fpFlip (fmtOf ty)) a
def sqrtR : Nat → FpMode → Nat → Nat × Ev := fun ty m a => fpSqrt (fmtOf ty) m a
def floorR : Nat → FpMode → Nat → Nat × Ev := fun ty m a => fpIntegral (fmtOf ty) m 3 a
def ceilR : Nat → FpMode → Nat → Nat × Ev := fun ty m a => fpIntegral (fmtOf ty) m 2 a
def truncR : Nat → FpMode → Nat → Nat × Ev := fun ty m a => fpIntegral (fmtOf ty) m 1 a
def rintR : Nat → FpMode → Nat → Nat × Ev := fun ty m a => fpIntegral (fmtOf ty) m m.rm a

/-- FUN.ABS (R142). -/
def execFunAbs (f : FV2) (s : State) : Host.Outcome State Fault Refusal := fun1 (absR) f s
/-- FUN.NEG (R142). -/
def execFunNeg (f : FV2) (s : State) : Host.Outcome State Fault Refusal := fun1 (negR) f s
/-- FUN.SQRT (R142). -/
def execFunSqrt (f : FV2) (s : State) : Host.Outcome State Fault Refusal := fun1 (sqrtR) f s
/-- FUN.RCP (R142). -/
def execFunRcp (f : FV2) (s : State) : Host.Outcome State Fault Refusal := fun1 (fpApprox 3) f s
/-- FUN.RSQ (R142). -/
def execFunRsq (f : FV2) (s : State) : Host.Outcome State Fault Refusal := fun1 (fpApprox 4) f s
/-- FUN.EXP2 (R142). -/
def execFunExp2 (f : FV2) (s : State) : Host.Outcome State Fault Refusal := fun1 (fpApprox 5) f s
/-- FUN.LOG2 (R142). -/
def execFunLog2 (f : FV2) (s : State) : Host.Outcome State Fault Refusal := fun1 (fpApprox 6) f s
/-- FUN.SIN (R142). -/
def execFunSin (f : FV2) (s : State) : Host.Outcome State Fault Refusal := fun1 (fpApprox 7) f s
/-- FUN.COS (R142). -/
def execFunCos (f : FV2) (s : State) : Host.Outcome State Fault Refusal := fun1 (fpApprox 8) f s
/-- FUN.TANH (R142). -/
def execFunTanh (f : FV2) (s : State) : Host.Outcome State Fault Refusal := fun1 (fpApprox 9) f s
/-- FUN.FLOOR (R142). -/
def execFunFloor (f : FV2) (s : State) : Host.Outcome State Fault Refusal := fun1 (floorR) f s
/-- FUN.CEIL (R142). -/
def execFunCeil (f : FV2) (s : State) : Host.Outcome State Fault Refusal := fun1 (ceilR) f s
/-- FUN.TRUNC (R142). -/
def execFunTrunc (f : FV2) (s : State) : Host.Outcome State Fault Refusal := fun1 (truncR) f s
/-- FUN.RINT (R142). -/
def execFunRint (f : FV2) (s : State) : Host.Outcome State Fault Refusal := fun1 (rintR) f s
/-- FUN.FRAC (R142). -/
def execFunFrac (f : FV2) (s : State) : Host.Outcome State Fault Refusal := fun1 (fun ty m a => fpFrac (fmtOf ty) m a) f s
/-- DUN.ABS (R144). -/
def execDunAbs (f : FV2) (s : State) : Host.Outcome State Fault Refusal := dun1 absR f s
/-- DUN.NEG (R144). -/
def execDunNeg (f : FV2) (s : State) : Host.Outcome State Fault Refusal := dun1 negR f s
/-- DUN.SQRT (R144). -/
def execDunSqrt (f : FV2) (s : State) : Host.Outcome State Fault Refusal := dun1 sqrtR f s
/-- DUN.FLOOR (R144). -/
def execDunFloor (f : FV2) (s : State) : Host.Outcome State Fault Refusal := dun1 floorR f s
/-- DUN.CEIL (R144). -/
def execDunCeil (f : FV2) (s : State) : Host.Outcome State Fault Refusal := dun1 ceilR f s
/-- DUN.TRUNC (R144). -/
def execDunTrunc (f : FV2) (s : State) : Host.Outcome State Fault Refusal := dun1 truncR f s
/-- DUN.RINT (R144). -/
def execDunRint (f : FV2) (s : State) : Host.Outcome State Fault Refusal := dun1 rintR f s

/-! ## FCMP and DCMP (R136) -/

/-- A floating-point compare; only a signalling NaN counts. -/
def fpCompare (c : Nat) : Nat → Hints → W64 → W64 → Bool × Ev := fun ty h a b =>
  let f := fmtOf ty
  let m := fpMode h
  (floatCond c (cmpN (decodeF f m.ftz (eltBits ty a)) (decodeF f m.ftz (eltBits ty b))),
    { inv := isSnan f (eltBits ty a) || isSnan f (eltBits ty b) })
/-- FCMP. -/
def execFcmp (f : FVC) (s : State) : Host.Outcome State Fault Refusal := compareOp 0x36 floatTypes 10 false (fpCompare f.c.toNat) f s
/-- FCMPAND. -/
def execFcmpand (f : FVC) (s : State) : Host.Outcome State Fault Refusal := compareOp 0x36 floatTypes 10 true (fpCompare f.c.toNat) f s
/-- DCMP. -/
def execDcmp (f : FVC) (s : State) : Host.Outcome State Fault Refusal := compareOp 0x3D [11] 11 false (fpCompare f.c.toNat) f s
/-- DCMPAND. -/
def execDcmpand (f : FVC) (s : State) : Host.Outcome State Fault Refusal := compareOp 0x3D [11] 11 true (fpCompare f.c.toNat) f s

end Sys2Proof.Machine
end

