-- ==== Sys2Proof/Machine/Convert.lean ====
section
/-! DEFINITION. CVT, CVTN, CVTB and CVTM (chapter "Numbers, described blocks and conversions"). -/

namespace Sys2Proof.Machine

/-! ## CVT (R67, R68) -/

/-- The destination type of a CVT word. -/
def cvtDest (g : Nat) (u : Bool) : Nat := if g < 4 then g + (if u then 4 else 0) else g + 4

/-- One conversion: the pattern in the destination's width and its events; under SAT an integer is clamped. -/
def convert (src dst : Nat) (m : FpMode) (x : W64) : Nat × Ev :=
  if isFloat src then
    if isFloat dst then fpConvert (fmtOf src) (fmtOf dst) m (eltBits src x)
    else
      let lim (i : Int) : Nat := (i % (2 ^ tyBits dst : Nat)).toNat
      match decodeF (fmtOf src) m.ftz (eltBits src x) with
      | .nan => (0, { inv := true })
      | .inf s => (lim (if s then tyMin dst else tyMax dst), { inv := true })
      | .fin s k e =>
        let i := intOf m.rm s k e
        (lim (clampI (tyMin dst) (tyMax dst) i), { inv := decide (i < tyMin dst) || decide (tyMax dst < i) })
  else
    let i := eltInt src x
    if isFloat dst then finish (fmtOf dst) m (roundF (fmtOf dst) m.rm (decide (i < 0)) i.natAbs 0 false)
    else (((if m.sat then clampI (tyMin dst) (tyMax dst) i else i) % (2 ^ tyBits dst : Nat)).toNat, {})

/-- CVT. -/
def execCvt (f : FCvt) (s : State) : Host.Outcome State Fault Refusal :=
  let src := f.t.toNat
  let dst := cvtDest f.g.toNat f.u
  issue f.z 0x40 { mode := true } false
    (fun _ => do
      okSpec f.a.toNat
      okDest f.d.toNat
      okMark f.l f.a.toNat
      if isWide src then okPair f.a.toNat else pure ()
      if isWide dst then okPair f.d.toNat else pure ())
    (fun cx => skipMarks cx (countMarks f.l false) (do
      let n := if isWide src then 2 else 1
      refillSpecs cx (specRegs f.d.toNat (if isWide dst then 2 else 1)) [(f.a.toNat, n)]
      let a ← readEl cx cx.exe f.a.toNat (isWide src)
      applyMarks cx (countMarks f.l false) (specMark f.l f.a.toNat n)
      let x ← getG cx.g
      finishLanes cx dst (if isFloat dst then dst else src) f.d.toNat
        (gen x.w (fun t => lane2 dst (convert src dst (fpMode cx.h) (lane 0#64 a t)))))) s

/-! ## CVTN (R69) -/

/-- A value plus a residue, to nearest: FTZ flushes the two, not their sum (R69, R71). -/
def addResidue (ftz : Bool) (a q : Nat) : Nat × Ev :=
  let x := decodeF f32 ftz a
  let y := decodeF f32 ftz q
  roundNum f32 {} (isSnan f32 a || isSnan f32 q || oppositeInf x y) (addN 0 x y)

-- DESIGN CHOICE: log 102, 106, 107
/-- One lane of CVTN: the value, the residue and the events. -/
def narrow (ty : Nat) (ftz : Bool) (a q : Nat) : Nat × Nat × Ev :=
  let m : FpMode := { ftz := ftz }
  let (xp, e1) := addResidue ftz a q
  match decodeF f32 false xp with
  | .nan => (if isFloat ty then (fmtOf ty).nanBits else 0, 0, e1)
  | .inf s =>
    if isFloat ty then ((if s then (fmtOf ty).signBit else 0) + (fmtOf ty).maxFinite, 0, e1)
    else (((if s then tyMin ty else tyMax ty) % (2 ^ tyBits ty : Nat)).toNat, 0, e1)
  | .fin s k e =>
    if isFloat ty then
      let (y, e2) := roundNum (fmtOf ty) { m with sat := true } false (.fin s k e)
      let (r, e3) := roundNum f32 m false (addN 0 (.fin s k e) (decodeF (fmtOf ty) false y).neg)
      (y, r, (e1.or e2).or e3)
    else
      let y := clampI (tyMin ty) (tyMax ty) (intOf 0 s k e)
      let (r, e3) := roundNum f32 m false (addN 0 (.fin s k e) (ofInt (-y)))
      ((y % (2 ^ tyBits ty : Nat)).toNat, r, e1.or e3)

-- DESIGN CHOICE: log 107
/-- CVTN. -/
def execCvtn (f : FCvtn) (s : State) : Host.Outcome State Fault Refusal :=
  issue f.z 0x41 { mode := true, type := true } false
    (fun cx => do
      okSpec f.a.toNat
      guardM ([0, 1, 4, 5, 8, 9].contains (unitType cx.h 9)) (.trap 1 0#64 0 0 0 0#64)
      okDest f.d.toNat
      okMark f.l f.a.toNat
      guardM (f.d.toNat != 80 + f.c.toNat) (.trap 2 0#64 0 0 0 0#64))
    (fun cx => skipMarks cx (countMarks f.l false) (thenNext (do
      let ty := unitType cx.h 9
      refillSpecs cx (specRegs f.d.toNat 1) [(f.a.toNat, 1)]
      let a ← readOp cx cx.exe f.a.toNat
      let q ← readOp cx cx.exe (80 + f.c.toNat)
      applyMarks cx (countMarks f.l false) (specMark f.l f.a.toNat 1)
      let x ← getG cx.g
      let rs := gen x.w (fun t => narrow ty (fpMode cx.h).ftz (lane 0#32 a t).toNat (lane 0#32 q t).toNat)
      writeEl cx f.d.toNat false (rs.map (fun r => holdBits ty r.1))
      writeQ cx cx.exe f.c.toNat (rs.map (fun r => n32 r.2.1))
      noteEvents cx (if isFloat ty then ty else 10) ((laneList x.w cx.exe).map (fun t => (lane (0, 0, {}) rs t).2.2))))) s

/-! ## CVTB (R70, R71) -/

/-- The control word: mantissa bits, first element, count, error feedback, and whether its fields are legal. -/
structure BlockCtl where
  m : Nat
  j : Nat
  c : Nat
  ef : Bool
  ok : Bool
def blockCtl (w : Nat) : BlockCtl :=
  let m := bits w 3 0
  { m := m, j := bits w 11 4, c := bits w 15 12 + 1, ef := bits w 16 16 == 1, ok := bits w 31 17 == 0 && decide (2 ≤ m) && decide (m ≤ 8) }
/-- The largest mantissa. -/
def blockLim (m : Nat) : Int := (2 ^ (m - 1) : Nat) - 1

/-- A number divided by 2^e, rounded and clamped to a mantissa. -/
def quantize (m : Nat) (e : Int) : Num → Int
  | .nan => 0
  | .inf s => if s then -(blockLim m) - 1 else blockLim m
  | .fin s k x => clampI (-(blockLim m) - 1) (blockLim m) (intOf 0 s k (x - e))

/-- The header's scale: the smallest that fits the magnitude; −128 for a NaN. -/
def blockScale (m : Nat) : Num → Int
  | .nan => -128
  | .inf _ => 127
  | .fin _ k x =>
    (((List.range 255).map (fun i => (i : Int) - 127)).find? (fun e => decide (intOf 0 false k (x - e) ≤ blockLim m))).getD 127

/-- `n` bits from bit `lo` replaced. -/
def putBits (b lo n v : Nat) : Nat := b - bits b (lo + n - 1) lo * 2 ^ lo + (v % 2 ^ n) * 2 ^ lo
def scaleByte (e : Int) : Nat := (e % 256).toNat

-- DESIGN CHOICE: log 102
/-- One lane of the pack form: the block, the residues that change, the events. `xs` are the sources, `qs` the residues. -/
def packBlock (k : BlockCtl) (ftz : Bool) (blk : Nat) (xs qs : List Nat) : Nat × List (Nat × Nat) × Ev :=
  let m : FpMode := { ftz := ftz }
  let snan : Ev := { inv := xs.any (isSnan f32) }
  if bits blk 15 8 == 0x80 || xs.any (fun x => (decodeF f32 false x).isNan) then (putBits blk 8 8 0x80, [], snan)
  else
    let sums := (List.range k.c).map (fun i => if k.ef then addResidue ftz (xs.getD i 0) (qs.getD i 0) else (flushed f32 m (xs.getD i 0), {}))
    let ev := sums.foldl (fun e r => e.or r.2) snan
    let bad := (List.range k.c).filter (fun i => (decodeF f32 false (sums.getD i (0, {})).1).isNan)
    if !bad.isEmpty then (putBits blk 8 8 0x80, bad.map (fun i => (i, 0)), ev)
    else
      let e := ofBits 8 true (bits blk 15 8)
      let ys := sums.map (fun r => quantize k.m e (decodeF f32 false r.1))
      let res := (List.range k.c).map (fun i =>
        match decodeF f32 false (sums.getD i (0, {})).1 with
        | .fin s n x =>
          let y := ys.getD i 0
          roundNum f32 m false (addN 0 (.fin s n x) (.fin (decide (0 < y)) y.natAbs e))
        | _ => (0, {}))
      let blk := (List.range k.c).foldl (fun b i => putBits b (16 + (k.j + i) * k.m) k.m ((ys.getD i 0) % (2 ^ k.m : Nat)).toNat) blk
      (putBits blk 0 8 (0x20 + k.m), if k.ef then (List.range k.c).map (fun i => (i, (res.getD i (0, {})).1)) else [],
        if k.ef then res.foldl (fun e r => e.or r.2) ev else ev)

/-- The words of a block. -/
def blockWords (b : Nat) : List W32 := gen 16 (fun k => n32 (b / 2 ^ (32 * k)))

/-- The checks CVTB's two forms share. -/
def cvtbStatic (f : FCvtb) (pack : Bool) : M Unit := do
  okSpec f.a.toNat
  guardM (f.d.toNat % 16 == 0 && decide (f.d.toNat ≤ 64)) (.trap 2 0#64 0 0 0 0#64)
  okMark f.l f.a.toNat
  guardM (!pack || decide (f.a.toNat < 80)) (.trap 2 0#64 0 0 0 0#64)

/-- A block's 16 registers written from one block a lane; no vector result (R70). -/
def writeBlocks (cx : Cx) (d : Nat) (blks : List (List W32)) : M Unit :=
  writeRegs cx cx.exe (gen 16 (fun k => (d + k, blks.map (fun b => lane 0#32 b k))))

/-- CVTB, pack form. -/
def execCvtb (f : FCvtb) (s : State) : Host.Outcome State Fault Refusal :=
  issue f.z 0x42 { mode := true } false (fun _ => cvtbStatic f true)
    (fun cx => skipMarks cx (countMarks f.l f.m) (thenNext (do
      let ctl ← readS cx f.c.toNat
      let k := blockCtl (ctl.toNat % 2 ^ 32)
      let a := f.a.toNat
      let d := f.d.toNat
      guardM (k.ok && decide (a + k.c ≤ 80) && decide (k.j + k.c ≤ 496 / k.m) && !(k.ef && decide (8 < k.c))) (.trap 2 0#64 0 0 0 0#64)
      refillSpecs cx (specRegs d 16) [(d, 16), (a, k.c)]
      let srcs ← (gen k.c (fun i => a + i)).mapM (readV cx cx.exe a)
      let qs ← if k.ef then (gen k.c (fun i => 80 + i)).mapM (readV cx cx.exe 80) else pure []
      let old ← (gen 16 (fun i => d + i)).mapM (readV cx cx.exe d)
      applyMarks cx (countMarks f.l f.m) (specMark f.l a k.c ++ scalarMark f.m f.c.toNat)
      let x ← getG cx.g
      let col (rs : List (List W32)) (t : Nat) : List Nat := rs.map (fun r => (lane 0#32 r t).toNat)
      let outs := gen x.w (fun t =>
        packBlock k (fpMode cx.h).ftz (((List.range 16).map (fun i => (lane 0#32 (lane [] old i) t).toNat * 2 ^ (32 * i))).sum) (col srcs t) (col qs t))
      writeBlocks cx d (outs.map (fun o => blockWords o.1))
      (List.range (if k.ef then k.c else 0)).forM (fun i =>
        writeQ cx (cx.exe &&& maskOf x.w (fun t => (lane (0, [], {}) outs t).2.1.any (fun r => r.1 == i))) i
          (gen x.w (fun t => n32 ((((lane (0, [], {}) outs t).2.1.find? (fun r => r.1 == i)).map (·.2)).getD 0))))
      noteEvents cx 10 ((laneList x.w cx.exe).map (fun t => (lane (0, [], {}) outs t).2.2))))) s

/-- CVTB.HDR, header form. -/
def execCvtbHdr (f : FCvtb) (s : State) : Host.Outcome State Fault Refusal :=
  issue f.z 0x42 { mode := true } false (fun _ => cvtbStatic f false)
    (fun cx => skipMarks cx (countMarks f.l f.m) (thenNext (do
      let ctl ← readS cx f.c.toNat
      let k := blockCtl (ctl.toNat % 2 ^ 32)
      guardM k.ok (.trap 2 0#64 0 0 0 0#64)
      refillSpecs cx (specRegs f.d.toNat 16) [(f.a.toNat, 1)]
      let a ← readOp cx cx.exe f.a.toNat
      applyMarks cx (countMarks f.l f.m) (specMark f.l f.a.toNat 1 ++ scalarMark f.m f.c.toNat)
      writeBlocks cx f.d.toNat (a.map (fun v =>
        blockWords (0x20 + k.m + 256 * scaleByte (blockScale k.m (decodeF f32 (fpMode cx.h).ftz v.toNat)))))
      let x ← getG cx.g
      noteEvents cx 10 ((laneList x.w cx.exe).map (fun t => { inv := isSnan f32 (lane 0#32 a t).toNat }))))) s

/-! ## CVTM (R72) -/

/-- A mass: x · 2^k to an integer, half to even, at most 2^20 − 1. -/
def toMass (ftz : Bool) (k : Int) (a : Nat) : Nat × Ev :=
  match decodeF f32 ftz a with
  | .nan => (0, { inv := true })
  | .inf s => if s then (0, { inv := true }) else (2 ^ 20 - 1, {})
  | .fin s m e =>
    if s && m != 0 then (0, { inv := true })
    else
      let size := e + k + bitLen m
      if m = 0 || size < -1 then (0, {})
      else if 21 < size then (2 ^ 20 - 1, {})
      else (min (intOf 0 false m (e + k)).toNat (2 ^ 20 - 1), {})

/-- CVTM. -/
def execCvtm (f : FVK8) (s : State) : Host.Outcome State Fault Refusal :=
  issue f.z 0x43 { imm := 2, mode := true } false
    (fun _ => do
      okSpec f.a.toNat
      okDest f.d.toNat
      okMark f.l f.a.toNat)
    (fun cx => skipMarks cx (countMarks f.l false) (do
      refillSpecs cx (specRegs f.d.toNat 1) [(f.a.toNat, 1)]
      let a ← readOp cx cx.exe f.a.toNat
      applyMarks cx (countMarks f.l false) (specMark f.l f.a.toNat 1)
      let x ← getG cx.g
      finishLanes cx 6 10 f.d.toNat
        (gen x.w (fun t => lane2 6 (toMass (fpMode cx.h).ftz (immS cx.h 8 f.k.toNat).toInt (lane 0#32 a t).toNat))))) s

end Sys2Proof.Machine
end

