-- ==== Sys2Proof/Machine/CrossLane.lean ====
section
/-! DEFINITION. The cross-lane instructions: SHFL, SHFLI, VOTE, REDUX, SCAN and MATCH (R145–R150). -/

namespace Sys2Proof.Machine

/-! ## SHFL and SHFLI (R146) -/

/-- Each executing thread takes the element of its source thread; the elements are read as their own threads would read
them (R145). `srcs` reads the source indices. -/
def shuffle (cx : Cx) (d a : Nat) (marks : Nat) (regs : List Nat) (more : List (Nat × Nat)) (srcs : M (List Nat)) : M Unit := do
  let wide := isWide (unitType cx.h 2)
  let n := if wide then 2 else 1
  refillSpecs cx (specRegs d n) ((a, n) :: more)
  let src ← srcs
  let x ← getG cx.g
  let need := maskOf x.w (fun u => (laneList x.w cx.exe).any (fun t => lane 0 src t == u))
  let v ← readEl cx need a wide
  applyMarks cx marks regs
  writeEl cx d wide (gen x.w (fun t => lane 0#64 v (lane 0 src t)))

def shfl (rel : Bool) (f : FV3) (s : State) : Host.Outcome State Fault Refusal :=
  issue f.z 0x44 { mode := true, type := true } false
    (fun cx => do
      okSpec f.a.toNat
      okSpec f.b.toNat
      okDest f.d.toNat
      okMark f.l f.a.toNat
      okMark f.m f.b.toNat
      if isWide (unitType cx.h 2) then do
        okPair f.d.toNat
        okPair f.a.toNat
      else pure ())
    (fun cx => skipMarks cx (countMarks f.l f.m) (thenNext (do
      let n := if isWide (unitType cx.h 2) then 2 else 1
      shuffle cx f.d.toNat f.a.toNat (countMarks f.l f.m) (specMark f.l f.a.toNat n ++ specMark f.m f.b.toNat 1) [(f.b.toNat, 1)] (do
        let b ← readOp cx cx.exe f.b.toNat
        let x ← getG cx.g
        return gen x.w (fun t =>
          if rel then (((t : Int) + (lane 0#32 b t).toInt) % (x.w : Int)).toNat else (lane 0#32 b t).toNat % x.w))))) s
/-- SHFL.ABS. -/
def execShflAbs (f : FV3) (s : State) : Host.Outcome State Fault Refusal := shfl false f s
/-- SHFL.REL. -/
def execShflRel (f : FV3) (s : State) : Host.Outcome State Fault Refusal := shfl true f s

/-- A form of SHFLI: its limit on k, and the source of each thread. -/
def shfli (ok : Nat → Nat → Bool) (src : Nat → Nat → Nat → Nat) (f : FVK6) (s : State) : Host.Outcome State Fault Refusal :=
  issue f.z 0x45 { mode := true, type := true } false
    (fun cx => do
      okSpec f.a.toNat
      okDest f.d.toNat
      okMark f.l f.a.toNat
      let x ← getG cx.g
      guardM (ok x.w f.k.toNat) (.trap 2 0#64 0 0 0 0#64)
      if isWide (unitType cx.h 2) then do
        okPair f.d.toNat
        okPair f.a.toNat
      else pure ())
    (fun cx => skipMarks cx (countMarks f.l false) (thenNext (do
      let n := if isWide (unitType cx.h 2) then 2 else 1
      let x ← getG cx.g
      shuffle cx f.d.toNat f.a.toNat (countMarks f.l false) (specMark f.l f.a.toNat n) []
        (pure (gen x.w (fun t => src x.w f.k.toNat t)))))) s
/-- SHFLI.BC. -/
def execShfliBc (f : FVK6) (s : State) : Host.Outcome State Fault Refusal := shfli (fun w k => decide (k < w)) (fun _ k _ => k) f s
/-- SHFLI.ROT. -/
def execShfliRot (f : FVK6) (s : State) : Host.Outcome State Fault Refusal := shfli (fun w k => decide (k < w)) (fun w k t => (t + k) % w) f s
/-- SHFLI.REV. -/
def execShfliRev (f : FVK6) (s : State) : Host.Outcome State Fault Refusal :=
  shfli (fun w k => decide (1 ≤ k) && decide (2 ^ k ≤ w)) (fun _ k t => t ^^^ (2 ^ k - 1)) f s
/-- SHFLI.SWAP. -/
def execShfliSwap (f : FVK6) (s : State) : Host.Outcome State Fault Refusal :=
  shfli (fun w k => decide (2 ^ (k + 1) ≤ w)) (fun _ k t => t ^^^ 2 ^ k) f s

/-! ## VOTE (R147) -/

/-- A census of a predicate over the executing threads: `r` is given the threads and those among them where it is
true. -/
def vote (r : Nat → W64 → W64 → W64) (f : FVote) (s : State) : Host.Outcome State Fault Refusal :=
  issue f.z 0x46 {} false (fun _ => pure ())
    (fun cx => skipIfNone cx (thenNext (do
      let x ← getG cx.g
      let p ← readP cx f.p.toNat
      writeS cx f.d.toNat (r x.w cx.exe (p &&& cx.exe))))) s
/-- VOTE.MASK. -/
def execVoteMask (f : FVote) (s : State) : Host.Outcome State Fault Refusal := vote (fun _ _ m => m) f s
/-- VOTE.COUNT. -/
def execVoteCount (f : FVote) (s : State) : Host.Outcome State Fault Refusal := vote (fun _ _ m => n64 (popc m)) f s
/-- VOTE.FIRST. -/
def execVoteFirst (f : FVote) (s : State) : Host.Outcome State Fault Refusal :=
  vote (fun w _ m => if m = 0#64 then 64#64 else n64 (lowLane w m)) f s
/-- VOTE.LAST. -/
def execVoteLast (f : FVote) (s : State) : Host.Outcome State Fault Refusal :=
  vote (fun w _ m => if m = 0#64 then 64#64 else n64 (((laneList w m).getLast?).getD 0)) f s
/-- VOTE.PARITY. -/
def execVoteParity (f : FVote) (s : State) : Host.Outcome State Fault Refusal := vote (fun _ _ m => n64 (popc m % 2)) f s
/-- VOTE.FULL. -/
def execVoteFull (f : FVote) (s : State) : Host.Outcome State Fault Refusal := vote (fun _ e m => b64 (m == e)) f s
/-- VOTE.EMPTY. -/
def execVoteEmpty (f : FVote) (s : State) : Host.Outcome State Fault Refusal := vote (fun _ _ m => b64 (m == 0#64)) f s

/-! ## REDUX and SCAN (R148, R149) -/

/-- A value on the way through a tree: an exact integer, or a floating-point pattern with the events met. -/
structure Node where
  i : Int
  b : Nat
  ev : Ev
  deriving DecidableEq, Repr

/-- The combination of two nodes, EMPTY being `none`. -/
def join (r : Node → Node → Node) : Option Node → Option Node → Option Node
  | none, y => y
  | x, none => x
  | some x, some y => some (r x y)

/-- One level of the tree: neighbours combined. -/
def pairUp (r : Node → Node → Node) : List (Option Node) → List (Option Node)
  | a :: b :: t => join r a b :: pairUp r t
  | l => l
/-- The nodes of level `n` (R149). -/
def levels (r : Node → Node → Node) : Nat → List (Option Node) → List (Option Node)
  | 0, l => l
  | n + 1, l => levels r n (pairUp r l)
/-- The doubling steps of prefix from the step 2^k on, within segments of `l` threads. -/
def scanSteps (r : Node → Node → Node) (l : Nat) : Nat → Nat → List (Option Node) → List (Option Node)
  | 0, _, z => z
  | n + 1, d, z => scanSteps r l n (2 * d) (gen z.length (fun t => if d ≤ t % l then join r (z.getD (t - d) none) (z.getD t none) else z.getD t none))

/-- The operators of R148 by code, on a type. -/
def reduceOp (code ty : Nat) (h : Hints) (x y : Node) : Node :=
  if isFloat ty then
    let f := fmtOf ty
    let (b, ev) := match code with
      | 0 => fpAdd f (fpMode h) x.b y.b
      | 1 => fpMinMax f (fpMode h) false false x.b y.b
      | _ => fpMinMax f (fpMode h) true false x.b y.b
    { i := 0, b := b, ev := (x.ev.or y.ev).or ev }
  else
    let n := tyBits ty
    let u (i : Int) : Nat := (i % (2 ^ n : Nat)).toNat
    let i : Int := match code with
      | 0 => x.i + y.i
      | 1 => min x.i y.i
      | 2 => max x.i y.i
      | 3 => ofBits n (isSigned ty) (u x.i &&& u y.i)
      | 4 => ofBits n (isSigned ty) (u x.i ||| u y.i)
      | _ => ofBits n (isSigned ty) (u x.i ^^^ u y.i)
    { i := i, b := 0, ev := {} }

/-- The identities of R148. -/
def identityOf (code ty : Nat) : Node :=
  let n := tyBits ty
  if isFloat ty then
    let f := fmtOf ty
    { i := 0, b := if code == 1 then f.infBits else if code == 2 then f.signBit + f.infBits else 0, ev := {} }
  else
    { i := match code with | 1 => tyMax ty | 2 => tyMin ty | 3 => ofBits n (isSigned ty) (2 ^ n - 1) | _ => 0, b := 0, ev := {} }

/-- A node as a held element: a sum is clamped once under SAT; a NaN is the canonical one (R55). -/
def nodeOut (code ty : Nat) (h : Hints) (x : Node) : LaneOut :=
  if isFloat ty then { v := holdBits ty (if (decodeF (fmtOf ty) false x.b).isNan then (fmtOf ty).nanBits else x.b), ev := x.ev }
  else satInt ty (code == 0 && satOf h) x.i
/-- The 64 bits a scalar destination receives. -/
def nodeScalar (code ty : Nat) (h : Hints) (x : Node) : W64 × Bool :=
  let o := nodeOut code ty h x
  if isFloat ty then (o.v, false)
  else
    let v := if satOf h && code == 0 then clampI (tyMin ty) (tyMax ty) x.i else ofBits (tyBits ty) (isSigned ty) (x.i % (2 ^ tyBits ty : Nat)).toNat
    (BitVec.ofInt 64 v, o.sat)

def log2N : Nat → Nat
  | 16 => 4
  | 32 => 5
  | _ => 6

/-- Checks of REDUX and SCAN (R148). -/
def reduceStatic (cx : Cx) (code seg : Nat) (l : Bool) (d a : Nat) (redux : Bool) : M Unit := do
  okSpec a
  okSpec d
  let ty := unitType cx.h 2
  guardM (decide (ty ≤ 11) && (decide (code ≤ 2) || !isFloat ty)) (.trap 1 0#64 0 0 0 0#64)
  let x ← getG cx.g
  guardM (seg != 7 && decide (seg == 0 ∨ 2 ^ seg ≤ x.w)) (.trap 2 0#64 0 0 0 0#64)
  if redux && decide (96 ≤ d) then guardM (seg == 0) (.trap 2 0#64 0 0 0 0#64) else okDest d
  okMark l a
  if isWide ty then do
    okPair a
    okPair d
  else pure ()

/-- The source elements as nodes, read under FTZ (R55, R56): EMPTY for a thread that does not execute. -/
def sources (cx : Cx) (l : Bool) (a d : Nat) : M (List (Option Node)) := do
  let ty := unitType cx.h 2
  let n := if isWide ty then 2 else 1
  refillSpecs cx (specRegs d n) [(a, n)]
  let v ← readEl cx cx.exe a (isWide ty)
  applyMarks cx (countMarks l false) (specMark l a n)
  let x ← getG cx.g
  let node (y : W64) : Node :=
    if isFloat ty then { i := 0, b := flushed (fmtOf ty) (fpMode cx.h) (eltBits ty y), ev := { inv := isSnan (fmtOf ty) (eltBits ty y) } }
    else { i := eltInt ty y, b := 0, ev := {} }
  return gen x.w (fun t => if hasLane cx.exe t then some (node (lane 0#64 v t)) else none)

/-- Every event met anywhere in a tree, once (R151). -/
def eventsOf (l : List (Option Node)) : Ev := l.foldl (fun e n => match n with | some n => e.or n.ev | none => e) {}

def redux (code : Nat) (f : FRedux) (s : State) : Host.Outcome State Fault Refusal :=
  issue f.z 0x47 { mode := true, type := true } false
    (fun cx => reduceStatic cx code f.s.toNat f.l f.d.toNat f.a.toNat true)
    (fun cx => skipMarks cx (countMarks f.l false) (thenNext (do
      let ty := unitType cx.h 2
      let xs ← sources cx f.l f.a.toNat f.d.toNat
      let x ← getG cx.g
      let seg := f.s.toNat
      let k := if seg == 0 then log2N x.w else seg
      let rs := levels (reduceOp code ty cx.h) k xs
      let at' (t : Nat) : Node := ((rs.getD (t / 2 ^ k) none)).getD (identityOf code ty)
      if 96 ≤ f.d.toNat then do
        let (v, sat) := nodeScalar code ty cx.h (at' 0)
        writeS cx (f.d.toNat - 96) v
        noteSat cx sat
      else do
        let outs := gen x.w (fun t => nodeOut code ty cx.h (at' t))
        writeEl cx f.d.toNat (isWide ty) (outs.map (·.v))
        noteSat cx ((laneList x.w cx.exe).any (fun t => (lane { v := 0#64 } outs t).sat))
      if isFloat ty then noteEvents cx ty [eventsOf rs] else pure ()))) s

def scan (code : Nat) (f : FScan) (s : State) : Host.Outcome State Fault Refusal :=
  issue f.z 0x48 { mode := true, type := true } false
    (fun cx => reduceStatic cx code f.s.toNat f.l f.d.toNat f.a.toNat false)
    (fun cx => skipMarks cx (countMarks f.l false) (thenNext (do
      let ty := unitType cx.h 2
      let xs ← sources cx f.l f.a.toNat f.d.toNat
      let x ← getG cx.g
      let k := if f.s.toNat == 0 then log2N x.w else f.s.toNat
      let z := scanSteps (reduceOp code ty cx.h) (2 ^ k) k 1 xs
      let at' (t : Nat) : Option Node := if f.e then (if t % 2 ^ k == 0 then none else z.getD (t - 1) none) else z.getD t none
      let outs := gen x.w (fun t => nodeOut code ty cx.h ((at' t).getD (identityOf code ty)))
      writeEl cx f.d.toNat (isWide ty) (outs.map (·.v))
      noteSat cx ((laneList x.w cx.exe).any (fun t => (lane { v := 0#64 } outs t).sat))
      if isFloat ty then noteEvents cx ty [eventsOf z] else pure ()))) s

/-- REDUX.ADD. -/
def execReduxAdd (f : FRedux) (s : State) : Host.Outcome State Fault Refusal := redux 0 f s
/-- REDUX.MIN. -/
def execReduxMin (f : FRedux) (s : State) : Host.Outcome State Fault Refusal := redux 1 f s
/-- REDUX.MAX. -/
def execReduxMax (f : FRedux) (s : State) : Host.Outcome State Fault Refusal := redux 2 f s
/-- REDUX.AND. -/
def execReduxAnd (f : FRedux) (s : State) : Host.Outcome State Fault Refusal := redux 3 f s
/-- REDUX.OR. -/
def execReduxOr (f : FRedux) (s : State) : Host.Outcome State Fault Refusal := redux 4 f s
/-- REDUX.XOR. -/
def execReduxXor (f : FRedux) (s : State) : Host.Outcome State Fault Refusal := redux 5 f s
/-- SCAN.ADD. -/
def execScanAdd (f : FScan) (s : State) : Host.Outcome State Fault Refusal := scan 0 f s
/-- SCAN.MIN. -/
def execScanMin (f : FScan) (s : State) : Host.Outcome State Fault Refusal := scan 1 f s
/-- SCAN.MAX. -/
def execScanMax (f : FScan) (s : State) : Host.Outcome State Fault Refusal := scan 2 f s
/-- SCAN.AND. -/
def execScanAnd (f : FScan) (s : State) : Host.Outcome State Fault Refusal := scan 3 f s
/-- SCAN.OR. -/
def execScanOr (f : FScan) (s : State) : Host.Outcome State Fault Refusal := scan 4 f s
/-- SCAN.XOR. -/
def execScanXor (f : FScan) (s : State) : Host.Outcome State Fault Refusal := scan 5 f s

/-! ## MATCH (R150) -/

/-- Each executing thread's place among the executing threads that have its key. -/
def sortKeys (masked : Bool) (f : FV3) (s : State) : Host.Outcome State Fault Refusal :=
  issue f.z 0x49 {} false
    (fun cx => vecStatic cx [2] 2 f.d.toNat [(f.l, f.a.toNat), (f.m, f.b.toNat)])
    (fun cx => skipMarks cx (countMarks f.l f.m) (thenNext (do
      refillSpecs cx (specRegs f.d.toNat 1) [(f.a.toNat, 1), (f.b.toNat, 1)]
      let a ← readOp cx cx.exe f.a.toNat
      let b ← readOp cx cx.exe f.b.toNat
      applyMarks cx (countMarks f.l f.m) (specMark f.l f.a.toNat 1 ++ specMark f.m f.b.toNat 1)
      let x ← getG cx.g
      let key (t : Nat) : W32 × W32 := if masked then (lane 0#32 a t &&& lane 0#32 b t, 0#32) else (lane 0#32 a t, lane 0#32 b t)
      let act := laneList x.w cx.exe
      writeD cx f.d.toNat (gen x.w (fun t =>
        let same := act.filter (fun u => key u == key t)
        n32 ((same.filter (fun u => decide (u < t))).length + same.length * 2 ^ 8 + (same.headD 0) * 2 ^ 16 + (same.getLastD 0) * 2 ^ 24)))))) s
/-- MATCH on pairs. -/
def execMatchPair (f : FV3) (s : State) : Host.Outcome State Fault Refusal := sortKeys false f s
/-- MATCH.MASK. -/
def execMatchMask (f : FV3) (s : State) : Host.Outcome State Fault Refusal := sortKeys true f s

end Sys2Proof.Machine
end

