-- ==== Sys2Proof/Machine/Hint.lean ====
section
/-! DEFINITION. The hint words (R30–R36, R121): each is gathered until its unit's target. -/

namespace Sys2Proof.Machine

/-- One hint word: the unit's hints grow by it. If the run's 24th word would fall inside the unit, the run ends
before the unit's first hint (R21); a repeated kind faults when the target is reached (R30). -/
def hint (add : Hints → Hints) (s : State) : Host.Outcome State Fault Refusal :=
  match s.current with
  | none => .fault .noRun
  | some (run, cx) =>
    let h := add cx.h
    if 24 ≤ run.words + h.n + 1 && run.words != 0 then .next ((s.runOver cx.g cx.act).stepOver cx.g run.last)
    else .next { s with runs := ins s.runs (siteOf (s.grp cx.g)) { run with hints := { h with n := h.n + 1 }, pc := cx.pc + 4#64 } }

/-- HIMM (R31): 20 more bits of the target's immediate; a third is a fault. -/
def execHimm (f : FHimm) (s : State) : Host.Outcome State Fault Refusal :=
  hint (fun h => { h with imm := h.imm ++ [f.h], bad := h.bad || decide (2 ≤ h.imm.length) }) s
/-- HPRED (R32). -/
def execHpred (f : FHpred) (s : State) : Host.Outcome State Fault Refusal :=
  hint (fun h => { h with pred := some f, bad := h.bad || h.pred.isSome }) s
/-- HMODE (R33). -/
def execHmode (f : FHmode) (s : State) : Host.Outcome State Fault Refusal :=
  hint (fun h => { h with mode := some f, bad := h.bad || h.mode.isSome }) s
/-- HORD (R34). -/
def execHord (f : FHord) (s : State) : Host.Outcome State Fault Refusal :=
  hint (fun h => { h with ord := some f, bad := h.bad || h.ord.isSome }) s
/-- HCACHE (R35). -/
def execHcache (f : FHcache) (s : State) : Host.Outcome State Fault Refusal :=
  hint (fun h => { h with cache := some f, bad := h.bad || h.cache.isSome }) s
/-- HTYPE (R36). -/
def execHtype (f : FHtype) (s : State) : Host.Outcome State Fault Refusal :=
  hint (fun h => { h with type := some f, bad := h.bad || h.type.isSome }) s

end Sys2Proof.Machine
end

