-- ==== Sys2Proof/Machine/Reserved.lean ====
section
/-! DEFINITION. A word that decodes to no instruction: which trap it raises (R40, R41). -/

namespace Sys2Proof.Machine

/-- Bits `hi` to `lo` of a word. -/
def wf32 (w : W32) (hi lo : Nat) : Nat := bits w.toNat hi lo

-- DEDUCED: log 94
/-- Words whose only fault is an operand field, for which their entry names ILLEGAL_OPERAND: VMOVS and VOTE with a destination
that is no scalar (R147, R173), CVTN and CVTB with the wrong Bs (R69, R70), PMOV (R138), stores and PREF with the fields R181
and R189 fix, CWAIT, MWAIT, NJOIN and NWAIT (R245, R267, R312, R313), and WOP SAVE and RESTORE (R276). -/
def operandFault (w : W32) : Bool :=
  let a := wf32 w 15 9
  let b := wf32 w 7 1
  match wf32 w 30 24 with
  | 0x1E => a != 95
  | 0x46 => wf32 w 16 9 == 0 && wf32 w 0 0 == 0 && decide (wf32 w 8 4 ≤ 6)
  | 0x41 => a != 95 && b != 95 && wf32 w 23 17 != 95 && wf32 w 0 0 == 0
  | 0x42 => a != 95 && b != 95
  | 0x4A => wf32 w 23 17 == 0 && wf32 w 0 0 == 0 && a != 95
      && (wf32 w 8 4 == 4 || wf32 w 8 4 == 6 || wf32 w 8 4 == 8 || wf32 w 8 4 == 10 || wf32 w 8 4 == 12)
  | 0x77 => wf32 w 23 17 == 0 && wf32 w 0 0 == 0 && a != 95 && (wf32 w 8 3 == 4 || wf32 w 8 3 == 5)
  | 0x55 => a != 95 && wf32 w 23 17 != 95
  | 0x56 => a != 95 && wf32 w 23 17 != 95
  | 0x57 => a != 95 && wf32 w 23 17 != 95
  | 0x58 => a != 95 && wf32 w 23 17 != 95
  | 0x59 => a != 95 && wf32 w 23 17 != 95
  | 0x5B => a != 95
  | 0x6A => true
  | 0x6F => wf32 w 10 4 == 0
  | 0x7B => true
  | 0x7C => true
  | _ => false

-- DEDUCED: log 94
/-- The hints such a word accepts (R424). -/
def operandAccepts (op : Nat) : Accepts :=
  match op with
  | 0x41 => { mode := true, type := true }
  | 0x42 => { mode := true }
  | 0x55 => { imm := 2, ord := true, cache := true }
  | 0x56 => { imm := 2, ord := true, cache := true }
  | 0x57 => { imm := 2, ord := true, cache := true }
  | 0x58 => { imm := 2, ord := true, cache := true }
  | 0x59 => { imm := 2, ord := true, cache := true }
  | 0x5B => { imm := 2, cache := true }
  | 0x7B => { imm := 1 }
  | _ => {}
-- DEDUCED: log 94
def operandHints (op : Nat) (h : Hints) : Bool :=
  (h.type.all (fun t => [0, 1, 4, 5, 8, 9].contains t.t.toNat))
    && (!(decide (0x55 ≤ op) && decide (op ≤ 0x59)) || h.ord.all (fun o => [0, 2, 4].contains o.o.toNat))

-- DEDUCED: log 94
/-- RESERVED_WORD (R40): ILLEGAL_INSTRUCTION, or ILLEGAL_OPERAND where the entry says so. -/
def execReservedWord (w : W32) (s : State) : Host.Outcome State Fault Refusal :=
  let op := wf32 w 30 24
  issue true op { imm := 2, mode := true, ord := true, cache := true, type := true } true
    (fun cx => do
      let x ← getG cx.g
      let mill := x.mill.isNone || (decide (0x55 ≤ op) && decide (op ≤ 0x5B)) || op == 0x7B || op == 0x7C
      if operandFault w && (operandAccepts op).ok cx.h && operandHints op cx.h && mill then illegalOperand 0#64 else illegalInstruction)
    (fun _ => pure {}) s

end Sys2Proof.Machine
end

