-- ==== Sys2Proof/Machine/Dispatch.lean ====
section
/-! DEFINITION. The meaning of every constructor of `Instr`, one arm each. -/

namespace Sys2Proof.Machine

def exec (i : Instr) (s : State) : Host.Outcome State Fault Refusal :=
  match i with
  | .himm f => Sys2Proof.Machine.execHimm f s
  | .hpred f => Sys2Proof.Machine.execHpred f s
  | .hmode f => Sys2Proof.Machine.execHmode f s
  | .hord f => Sys2Proof.Machine.execHord f s
  | .hcache f => Sys2Proof.Machine.execHcache f s
  | .htype f => Sys2Proof.Machine.execHtype f s
  | .bra f => Sys2Proof.Machine.execBra f s
  | .call f => Sys2Proof.Machine.execCall f s
  | .ret f => Sys2Proof.Machine.execRet f s
  | .jmpi f => Sys2Proof.Machine.execJmpi f s
  | .exit f => Sys2Proof.Machine.execExit f s
  | .yield f => Sys2Proof.Machine.execYield f s
  | .sleep f => Sys2Proof.Machine.execSleep f s
  | .nop f => Sys2Proof.Machine.execNop f s
  | .bkpt f => Sys2Proof.Machine.execBkpt f s
  | .trap f => Sys2Proof.Machine.execTrap f s
  | .trapret f => Sys2Proof.Machine.execTrapret f s
  | .drain f => Sys2Proof.Machine.execDrain f s
  | .loop f => Sys2Proof.Machine.execLoop f s
  | .csrr f => Sys2Proof.Machine.execCsrr f s
  | .csrw f => Sys2Proof.Machine.execCsrw f s
  | .tlaunch f => Sys2Proof.Machine.execTlaunch f s
  | .tsucc f => Sys2Proof.Machine.execTsucc f s
  | .icinv f => Sys2Proof.Machine.execIcinv f s
  | .ifence f => Sys2Proof.Machine.execIfence f s
  | .fence f => Sys2Proof.Machine.execFence f s
  | .salu0Add f => Sys2Proof.Machine.execSalu0Add f s
  | .salu0Sub f => Sys2Proof.Machine.execSalu0Sub f s
  | .salu0And f => Sys2Proof.Machine.execSalu0And f s
  | .salu0Or f => Sys2Proof.Machine.execSalu0Or f s
  | .salu0Xor f => Sys2Proof.Machine.execSalu0Xor f s
  | .salu0Andn f => Sys2Proof.Machine.execSalu0Andn f s
  | .salu0Shl f => Sys2Proof.Machine.execSalu0Shl f s
  | .salu0Shr f => Sys2Proof.Machine.execSalu0Shr f s
  | .salu0Sar f => Sys2Proof.Machine.execSalu0Sar f s
  | .rotl f => Sys2Proof.Machine.execRotl f s
  | .salu0Min f => Sys2Proof.Machine.execSalu0Min f s
  | .salu0Max f => Sys2Proof.Machine.execSalu0Max f s
  | .minn f => Sys2Proof.Machine.execMinn f s
  | .maxn f => Sys2Proof.Machine.execMaxn f s
  | .salu0Mov f => Sys2Proof.Machine.execSalu0Mov f s
  | .mul f => Sys2Proof.Machine.execMul f s
  | .mulh f => Sys2Proof.Machine.execMulh f s
  | .mulhn f => Sys2Proof.Machine.execMulhn f s
  | .div f => Sys2Proof.Machine.execDiv f s
  | .divn f => Sys2Proof.Machine.execDivn f s
  | .rem f => Sys2Proof.Machine.execRem f s
  | .remn f => Sys2Proof.Machine.execRemn f s
  | .popc f => Sys2Proof.Machine.execPopc f s
  | .clz f => Sys2Proof.Machine.execClz f s
  | .ctz f => Sys2Proof.Machine.execCtz f s
  | .brev f => Sys2Proof.Machine.execBrev f s
  | .bfe f => Sys2Proof.Machine.execBfe f s
  | .bfi f => Sys2Proof.Machine.execBfi f s
  | .abs f => Sys2Proof.Machine.execAbs f s
  | .neg f => Sys2Proof.Machine.execNeg f s
  | .scmp f => Sys2Proof.Machine.execScmp f s
  | .addi f => Sys2Proof.Machine.execAddi f s
  | .andi f => Sys2Proof.Machine.execAndi f s
  | .ori f => Sys2Proof.Machine.execOri f s
  | .xori f => Sys2Proof.Machine.execXori f s
  | .shli f => Sys2Proof.Machine.execShli f s
  | .shri f => Sys2Proof.Machine.execShri f s
  | .sari f => Sys2Proof.Machine.execSari f s
  | .rotli f => Sys2Proof.Machine.execRotli f s
  | .movi f => Sys2Proof.Machine.execMovi f s
  | .lea f => Sys2Proof.Machine.execLea f s
  | .vgive f => Sys2Proof.Machine.execVgive f s
  | .vclaim f => Sys2Proof.Machine.execVclaim f s
  | .vfree f => Sys2Proof.Machine.execVfree f s
  | .vstat f => Sys2Proof.Machine.execVstat f s
  | .vmovs f => Sys2Proof.Machine.execVmovs f s
  | .vmovsFirst f => Sys2Proof.Machine.execVmovsFirst f s
  | .vmovsD f => Sys2Proof.Machine.execVmovsD f s
  | .vmovsFirstD f => Sys2Proof.Machine.execVmovsFirstD f s
  | .iadd f => Sys2Proof.Machine.execIadd f s
  | .isub f => Sys2Proof.Machine.execIsub f s
  | .imul f => Sys2Proof.Machine.execImul f s
  | .imulh f => Sys2Proof.Machine.execImulh f s
  | .imad f => Sys2Proof.Machine.execImad f s
  | .idiv f => Sys2Proof.Machine.execIdiv f s
  | .irem f => Sys2Proof.Machine.execIrem f s
  | .imin f => Sys2Proof.Machine.execImin f s
  | .imax f => Sys2Proof.Machine.execImax f s
  | .and f => Sys2Proof.Machine.execAnd f s
  | .andn f => Sys2Proof.Machine.execAndn f s
  | .or f => Sys2Proof.Machine.execOr f s
  | .orn f => Sys2Proof.Machine.execOrn f s
  | .xor f => Sys2Proof.Machine.execXor f s
  | .xnor f => Sys2Proof.Machine.execXnor f s
  | .shl f => Sys2Proof.Machine.execShl f s
  | .shr f => Sys2Proof.Machine.execShr f s
  | .sar f => Sys2Proof.Machine.execSar f s
  | .icmp f => Sys2Proof.Machine.execIcmp f s
  | .icmpand f => Sys2Proof.Machine.execIcmpand f s
  | .sel f => Sys2Proof.Machine.execSel f s
  | .selNotP0 f => Sys2Proof.Machine.execSelNotP0 f s
  | .iaddi f => Sys2Proof.Machine.execIaddi f s
  | .fadd f => Sys2Proof.Machine.execFadd f s
  | .fsub f => Sys2Proof.Machine.execFsub f s
  | .fmul f => Sys2Proof.Machine.execFmul f s
  | .ffma f => Sys2Proof.Machine.execFfma f s
  | .fnma f => Sys2Proof.Machine.execFnma f s
  | .fmin f => Sys2Proof.Machine.execFmin f s
  | .fminnan f => Sys2Proof.Machine.execFminnan f s
  | .fmax f => Sys2Proof.Machine.execFmax f s
  | .fmaxnan f => Sys2Proof.Machine.execFmaxnan f s
  | .fcmp f => Sys2Proof.Machine.execFcmp f s
  | .fcmpand f => Sys2Proof.Machine.execFcmpand f s
  | .fdiv f => Sys2Proof.Machine.execFdiv f s
  | .funAbs f => Sys2Proof.Machine.execFunAbs f s
  | .funNeg f => Sys2Proof.Machine.execFunNeg f s
  | .funSqrt f => Sys2Proof.Machine.execFunSqrt f s
  | .funRcp f => Sys2Proof.Machine.execFunRcp f s
  | .funRsq f => Sys2Proof.Machine.execFunRsq f s
  | .funExp2 f => Sys2Proof.Machine.execFunExp2 f s
  | .funLog2 f => Sys2Proof.Machine.execFunLog2 f s
  | .funSin f => Sys2Proof.Machine.execFunSin f s
  | .funCos f => Sys2Proof.Machine.execFunCos f s
  | .funTanh f => Sys2Proof.Machine.execFunTanh f s
  | .funFloor f => Sys2Proof.Machine.execFunFloor f s
  | .funCeil f => Sys2Proof.Machine.execFunCeil f s
  | .funTrunc f => Sys2Proof.Machine.execFunTrunc f s
  | .funRint f => Sys2Proof.Machine.execFunRint f s
  | .funFrac f => Sys2Proof.Machine.execFunFrac f s
  | .dadd f => Sys2Proof.Machine.execDadd f s
  | .dsub f => Sys2Proof.Machine.execDsub f s
  | .dmul f => Sys2Proof.Machine.execDmul f s
  | .dfma f => Sys2Proof.Machine.execDfma f s
  | .dnma f => Sys2Proof.Machine.execDnma f s
  | .iunMov f => Sys2Proof.Machine.execIunMov f s
  | .iunNot f => Sys2Proof.Machine.execIunNot f s
  | .iunNeg f => Sys2Proof.Machine.execIunNeg f s
  | .iunAbs f => Sys2Proof.Machine.execIunAbs f s
  | .iunPopc f => Sys2Proof.Machine.execIunPopc f s
  | .iunClz f => Sys2Proof.Machine.execIunClz f s
  | .iunCtz f => Sys2Proof.Machine.execIunCtz f s
  | .iunBrev f => Sys2Proof.Machine.execIunBrev f s
  | .iunBswap f => Sys2Proof.Machine.execIunBswap f s
  | .iunXnib f => Sys2Proof.Machine.execIunXnib f s
  | .iunXnibn f => Sys2Proof.Machine.execIunXnibn f s
  | .iunXbyte f => Sys2Proof.Machine.execIunXbyte f s
  | .iunXbyten f => Sys2Proof.Machine.execIunXbyten f s
  | .iunInsnib f => Sys2Proof.Machine.execIunInsnib f s
  | .dcmp f => Sys2Proof.Machine.execDcmp f s
  | .dcmpand f => Sys2Proof.Machine.execDcmpand f s
  | .dunAbs f => Sys2Proof.Machine.execDunAbs f s
  | .dunNeg f => Sys2Proof.Machine.execDunNeg f s
  | .dunSqrt f => Sys2Proof.Machine.execDunSqrt f s
  | .dunFloor f => Sys2Proof.Machine.execDunFloor f s
  | .dunCeil f => Sys2Proof.Machine.execDunCeil f s
  | .dunTrunc f => Sys2Proof.Machine.execDunTrunc f s
  | .dunRint f => Sys2Proof.Machine.execDunRint f s
  | .ddiv f => Sys2Proof.Machine.execDdiv f s
  | .cvt f => Sys2Proof.Machine.execCvt f s
  | .cvtn f => Sys2Proof.Machine.execCvtn f s
  | .cvtb f => Sys2Proof.Machine.execCvtb f s
  | .cvtbHdr f => Sys2Proof.Machine.execCvtbHdr f s
  | .cvtm f => Sys2Proof.Machine.execCvtm f s
  | .shflAbs f => Sys2Proof.Machine.execShflAbs f s
  | .shflRel f => Sys2Proof.Machine.execShflRel f s
  | .shfliBc f => Sys2Proof.Machine.execShfliBc f s
  | .shfliRot f => Sys2Proof.Machine.execShfliRot f s
  | .shfliRev f => Sys2Proof.Machine.execShfliRev f s
  | .shfliSwap f => Sys2Proof.Machine.execShfliSwap f s
  | .voteMask f => Sys2Proof.Machine.execVoteMask f s
  | .voteCount f => Sys2Proof.Machine.execVoteCount f s
  | .voteFirst f => Sys2Proof.Machine.execVoteFirst f s
  | .voteLast f => Sys2Proof.Machine.execVoteLast f s
  | .voteParity f => Sys2Proof.Machine.execVoteParity f s
  | .voteFull f => Sys2Proof.Machine.execVoteFull f s
  | .voteEmpty f => Sys2Proof.Machine.execVoteEmpty f s
  | .reduxAdd f => Sys2Proof.Machine.execReduxAdd f s
  | .reduxMin f => Sys2Proof.Machine.execReduxMin f s
  | .reduxMax f => Sys2Proof.Machine.execReduxMax f s
  | .reduxAnd f => Sys2Proof.Machine.execReduxAnd f s
  | .reduxOr f => Sys2Proof.Machine.execReduxOr f s
  | .reduxXor f => Sys2Proof.Machine.execReduxXor f s
  | .scanAdd f => Sys2Proof.Machine.execScanAdd f s
  | .scanMin f => Sys2Proof.Machine.execScanMin f s
  | .scanMax f => Sys2Proof.Machine.execScanMax f s
  | .scanAnd f => Sys2Proof.Machine.execScanAnd f s
  | .scanOr f => Sys2Proof.Machine.execScanOr f s
  | .scanXor f => Sys2Proof.Machine.execScanXor f s
  | .matchPair f => Sys2Proof.Machine.execMatchPair f s
  | .matchMask f => Sys2Proof.Machine.execMatchMask f s
  | .pmovTop f => Sys2Proof.Machine.execPmovTop f s
  | .pmovFromp f => Sys2Proof.Machine.execPmovFromp f s
  | .pmovAnd f => Sys2Proof.Machine.execPmovAnd f s
  | .pmovOr f => Sys2Proof.Machine.execPmovOr f s
  | .pmovXor f => Sys2Proof.Machine.execPmovXor f s
  | .pmovNot f => Sys2Proof.Machine.execPmovNot f s
  | .pmovFroms f => Sys2Proof.Machine.execPmovFroms f s
  | .ldb f => Sys2Proof.Machine.execLdb f s
  | .ldh f => Sys2Proof.Machine.execLdh f s
  | .ldw f => Sys2Proof.Machine.execLdw f s
  | .ldd f => Sys2Proof.Machine.execLdd f s
  | .ldq f => Sys2Proof.Machine.execLdq f s
  | .stb f => Sys2Proof.Machine.execStb f s
  | .sth f => Sys2Proof.Machine.execSth f s
  | .stw f => Sys2Proof.Machine.execStw f s
  | .std f => Sys2Proof.Machine.execStd f s
  | .stq f => Sys2Proof.Machine.execStq f s
  | .ldv f => Sys2Proof.Machine.execLdv f s
  | .pref f => Sys2Proof.Machine.execPref f s
  | .aadd f => Sys2Proof.Machine.execAadd f s
  | .amin f => Sys2Proof.Machine.execAmin f s
  | .amax f => Sys2Proof.Machine.execAmax f s
  | .aand f => Sys2Proof.Machine.execAand f s
  | .aor f => Sys2Proof.Machine.execAor f s
  | .axor f => Sys2Proof.Machine.execAxor f s
  | .axchg f => Sys2Proof.Machine.execAxchg f s
  | .acas f => Sys2Proof.Machine.execAcas f s
  | .afadd f => Sys2Proof.Machine.execAfadd f s
  | .kld f => Sys2Proof.Machine.execKld f s
  | .kst f => Sys2Proof.Machine.execKst f s
  | .krec f => Sys2Proof.Machine.execKrec f s
  | .cpy f => Sys2Proof.Machine.execCpy f s
  | .cpyq f => Sys2Proof.Machine.execCpyq f s
  | .cwait f => Sys2Proof.Machine.execCwait f s
  | .ctest f => Sys2Proof.Machine.execCtest f s
  | .ccancel f => Sys2Proof.Machine.execCcancel f s
  | .mma f => Sys2Proof.Machine.execMma f s
  | .mrdy f => Sys2Proof.Machine.execMrdy f s
  | .mwait f => Sys2Proof.Machine.execMwait f s
  | .macc f => Sys2Proof.Machine.execMacc f s
  | .mstat f => Sys2Proof.Machine.execMstat f s
  | .wload f => Sys2Proof.Machine.execWload f s
  | .wloadScratch f => Sys2Proof.Machine.execWloadScratch f s
  | .wupd f => Sys2Proof.Machine.execWupd f s
  | .wqry f => Sys2Proof.Machine.execWqry f s
  | .wqryExcl f => Sys2Proof.Machine.execWqryExcl f s
  | .wfind f => Sys2Proof.Machine.execWfind f s
  | .wcut f => Sys2Proof.Machine.execWcut f s
  | .wopRoot f => Sys2Proof.Machine.execWopRoot f s
  | .wopClear f => Sys2Proof.Machine.execWopClear f s
  | .wopGet f => Sys2Proof.Machine.execWopGet f s
  | .wopSet f => Sys2Proof.Machine.execWopSet f s
  | .wopSave f => Sys2Proof.Machine.execWopSave f s
  | .wopRestore f => Sys2Proof.Machine.execWopRestore f s
  | .wopStat f => Sys2Proof.Machine.execWopStat f s
  | .wopCutptr f => Sys2Proof.Machine.execWopCutptr f s
  | .nwake f => Sys2Proof.Machine.execNwake f s
  | .nsig f => Sys2Proof.Machine.execNsig f s
  | .ndep f => Sys2Proof.Machine.execNdep f s
  | .njoin f => Sys2Proof.Machine.execNjoin f s
  | .nwait f => Sys2Proof.Machine.execNwait f s
  | .barInit f => Sys2Proof.Machine.execBarInit f s
  | .barArv f => Sys2Proof.Machine.execBarArv f s
  | .barWait f => Sys2Proof.Machine.execBarWait f s
  | .barSync f => Sys2Proof.Machine.execBarSync f s
  | .barFarv f => Sys2Proof.Machine.execBarFarv f s
  | .barFwait f => Sys2Proof.Machine.execBarFwait f s
  | .barFsync f => Sys2Proof.Machine.execBarFsync f s
  | .barTest f => Sys2Proof.Machine.execBarTest f s
  | .bandInit f => Sys2Proof.Machine.execBandInit f s
  | .bandPut f => Sys2Proof.Machine.execBandPut f s
  | .bandTake f => Sys2Proof.Machine.execBandTake f s
  | .bandDone f => Sys2Proof.Machine.execBandDone f s
  | .bandTest f => Sys2Proof.Machine.execBandTest f s
  | .runSelect at_ => Sys2Proof.Machine.execRunSelect at_ s
  | .longLatencyResult op => Sys2Proof.Machine.execLongLatencyResult op s
  | .storeAcknowledge gid entry scope => Sys2Proof.Machine.execStoreAcknowledge gid entry scope s
  | .atomicPerform op => Sys2Proof.Machine.execAtomicPerform op s
  | .keepWriteApply op => Sys2Proof.Machine.execKeepWriteApply op s
  | .keepReconcileApply op => Sys2Proof.Machine.execKeepReconcileApply op s
  | .translationAnswer ld pasid page ans => Sys2Proof.Machine.execTranslationAnswer ld pasid page ans s
  | .pageRequestResponse ld prg resp => Sys2Proof.Machine.execPageRequestResponse ld prg resp s
  | .pageRequestTimeout ld prg => Sys2Proof.Machine.execPageRequestTimeout ld prg s
  | .parkTimeout gid => Sys2Proof.Machine.execParkTimeout gid s
  | .sleepExpiry gid => Sys2Proof.Machine.execSleepExpiry gid s
  | .nwaitTimeout gid => Sys2Proof.Machine.execNwaitTimeout gid s
  | .njoinTimeout gid => Sys2Proof.Machine.execNjoinTimeout gid s
  | .claimDeadlockDetect core part => Sys2Proof.Machine.execClaimDeadlockDetect core part s
  | .fpThreshold task => Sys2Proof.Machine.execFpThreshold task s
  | .nameOperationApply op => Sys2Proof.Machine.execNameOperationApply op s
  | .groupNameDead gid => Sys2Proof.Machine.execGroupNameDead gid s
  | .teamRetire team => Sys2Proof.Machine.execTeamRetire team s
  | .taskRetire task => Sys2Proof.Machine.execTaskRetire task s
  | .launchPacketConsume queue => Sys2Proof.Machine.execLaunchPacketConsume queue s
  | .feltPlacement ld => Sys2Proof.Machine.execFeltPlacement ld s
  | .drainLimit task => Sys2Proof.Machine.execDrainLimit task s
  | .saveGroup gid => Sys2Proof.Machine.execSaveGroup gid s
  | .placeSavedGroup gid => Sys2Proof.Machine.execPlaceSavedGroup gid s
  | .copyCommandStart cmd => Sys2Proof.Machine.execCopyCommandStart cmd s
  | .copyUnitChunk core pick => Sys2Proof.Machine.execCopyUnitChunk core pick s
  | .copyQueueConsume queue => Sys2Proof.Machine.execCopyQueueConsume queue s
  | .sharedEngineChunk die pick => Sys2Proof.Machine.execSharedEngineChunk die pick s
  | .fabricRequestTimeout cmd => Sys2Proof.Machine.execFabricRequestTimeout cmd s
  | .matrixOperationStart team => Sys2Proof.Machine.execMatrixOperationStart team s
  | .matrixOperationComplete team differs => Sys2Proof.Machine.execMatrixOperationComplete team differs s
  | .maccPerform team => Sys2Proof.Machine.execMaccPerform team s
  | .storageError where_ => Sys2Proof.Machine.execStorageError where_ s
  | .budgetPeriod die => Sys2Proof.Machine.execBudgetPeriod die s
  | .sampleTag core part => Sys2Proof.Machine.execSampleTag core part s
  | .ethernetFrameReceive die port frame => Sys2Proof.Machine.execEthernetFrameReceive die port frame s
  | .ingestRoffPoll die port => Sys2Proof.Machine.execIngestRoffPoll die port s
  | .fileskWindowAccess ld port acc => Sys2Proof.Machine.execFileskWindowAccess ld port acc s
  | .hostMemoryRead ld addr size => Sys2Proof.Machine.execHostMemoryRead ld addr size s
  | .hostMemoryWrite ld addr bytes => Sys2Proof.Machine.execHostMemoryWrite ld addr bytes s
  | .hostAtomicop ld op addr size a b => Sys2Proof.Machine.execHostAtomicop ld op addr size a b s
  | .registerWrite ld offset bytes => Sys2Proof.Machine.execRegisterWrite ld offset bytes s
  | .invalidateRange ld c => Sys2Proof.Machine.execInvalidateRange ld c s
  | .invalidateDomain ld c => Sys2Proof.Machine.execInvalidateDomain ld c s
  | .invalidateAll ld c => Sys2Proof.Machine.execInvalidateAll ld c s
  | .invalidationComplete ld => Sys2Proof.Machine.execInvalidationComplete ld s
  | .atsInvalidateRequest ld pasid page log2 => Sys2Proof.Machine.execAtsInvalidateRequest ld pasid page log2 s
  | .atsInvalidateCompletion ld => Sys2Proof.Machine.execAtsInvalidateCompletion ld s
  | .wake ld r => Sys2Proof.Machine.execWake ld r s
  | .sig ld r => Sys2Proof.Machine.execSig ld r s
  | .dep ld r => Sys2Proof.Machine.execDep ld r s
  | .join ld r => Sys2Proof.Machine.execJoin ld r s
  | .portJoinTimeout ld port ticket => Sys2Proof.Machine.execPortJoinTimeout ld port ticket s
  | .clear ld r => Sys2Proof.Machine.execClear ld r s
  | .regq c => Sys2Proof.Machine.execRegq c s
  | .resetq c => Sys2Proof.Machine.execResetq c s
  | .faultring c => Sys2Proof.Machine.execFaultring c s
  | .ctxpool c => Sys2Proof.Machine.execCtxpool c s
  | .preempt c => Sys2Proof.Machine.execPreempt c s
  | .release c => Sys2Proof.Machine.execRelease c s
  | .swapout c => Sys2Proof.Machine.execSwapout c s
  | .swapin c => Sys2Proof.Machine.execSwapin c s
  | .endtask c => Sys2Proof.Machine.execEndtask c s
  | .namehost c => Sys2Proof.Machine.execNamehost c s
  | .namedrop c => Sys2Proof.Machine.execNamedrop c s
  | .namerights c => Sys2Proof.Machine.execNamerights c s
  | .namefree c => Sys2Proof.Machine.execNamefree c s
  | .pagereq c => Sys2Proof.Machine.execPagereq c s
  | .attach c => Sys2Proof.Machine.execAttach c s
  | .halt c => Sys2Proof.Machine.execHalt c s
  | .resume c => Sys2Proof.Machine.execResume c s
  | .step c => Sys2Proof.Machine.execStep c s
  | .brk c => Sys2Proof.Machine.execBrk c s
  | .watch c => Sys2Proof.Machine.execWatch c s
  | .readreg c => Sys2Proof.Machine.execReadreg c s
  | .writereg c => Sys2Proof.Machine.execWritereg c s
  | .sample c => Sys2Proof.Machine.execSample c s
  | .trace c => Sys2Proof.Machine.execTrace c s
  | .readctr c => Sys2Proof.Machine.execReadctr c s
  | .timesnap c => Sys2Proof.Machine.execTimesnap c s
  | .lifetime c => Sys2Proof.Machine.execLifetime c s
  | .mhalt c => Sys2Proof.Machine.execMhalt c s
  | .fwset c => Sys2Proof.Machine.execFwset c s
  | .budgetset c => Sys2Proof.Machine.execBudgetset c s
  | .preset c => Sys2Proof.Machine.execPreset c s
  | .avoidset c => Sys2Proof.Machine.execAvoidset c s
  | .portmode c => Sys2Proof.Machine.execPortmode c s
  | .sliceset c => Sys2Proof.Machine.execSliceset c s
  | .cfgread c => Sys2Proof.Machine.execCfgread c s
  | .lockInterfaceRequest ld => Sys2Proof.Machine.execLockInterfaceRequest ld s
  | .startInterfaceRequest ld => Sys2Proof.Machine.execStartInterfaceRequest ld s
  | .stopInterfaceRequest ld => Sys2Proof.Machine.execStopInterfaceRequest ld s
  | .functionLevelReset ld => Sys2Proof.Machine.execFunctionLevelReset ld s
  | .ideIntegrityFailure ld => Sys2Proof.Machine.execIdeIntegrityFailure ld s
  | .interfaceReport ld => Sys2Proof.Machine.execInterfaceReport ld s
  | .moduleReset img => Sys2Proof.Machine.execModuleReset img s
  | .dieJoin die => Sys2Proof.Machine.execDieJoin die s
  | .dieJoinTimeout die => Sys2Proof.Machine.execDieJoinTimeout die s
  | .fileskLinkTrain port peer => Sys2Proof.Machine.execFileskLinkTrain port peer s
  | .fileskPartnerTimeout port => Sys2Proof.Machine.execFileskPartnerTimeout port s
  | .powerLimit exceeded => Sys2Proof.Machine.execPowerLimit exceeded s
  | .thermalThrottle die hot => Sys2Proof.Machine.execThermalThrottle die hot s
  | .thermalShutdown die => Sys2Proof.Machine.execThermalShutdown die s
  | .coolantExcursion outside => Sys2Proof.Machine.execCoolantExcursion outside s
  | .coreRetire core => Sys2Proof.Machine.execCoreRetire core s
  | .hbmChannelSpare die channel => Sys2Proof.Machine.execHbmChannelSpare die channel s
  | .fileskLaneLoss port => Sys2Proof.Machine.execFileskLaneLoss port s
  | .millinerFirmwareUpdate img => Sys2Proof.Machine.execMillinerFirmwareUpdate img s
  | .microcodeUpdate die rejoin => Sys2Proof.Machine.execMicrocodeUpdate die rejoin s
  | .hbmCalibration die channel => Sys2Proof.Machine.execHbmCalibration die channel s
  | .fileskRetraining port done => Sys2Proof.Machine.execFileskRetraining port done s
  | .lifetimeHistogramUpdate bins => Sys2Proof.Machine.execLifetimeHistogramUpdate bins s
  | .reservedWord w => Sys2Proof.Machine.execReservedWord w s
  | .millinerRestart m pc => Sys2Proof.Machine.execMillinerRestart m pc s
  | .correctedError die site => Sys2Proof.Machine.execCorrectedError die site s
  | .fileskPartnerHalt port halted => Sys2Proof.Machine.execFileskPartnerHalt port halted s
  | .makerSessionOpen ld rsaOk slhOk => Sys2Proof.Machine.execMakerSessionOpen ld rsaOk slhOk s
  | .peerNumberAssign level n => Sys2Proof.Machine.execPeerNumberAssign level n s

end Sys2Proof.Machine
end

