-- ==== Sys2Proof/Machine/Step.lean ====
section
/-! DEFINITION. One step of the module: the agenda's next input, else the next word of the run in focus, else the fixed
schedule. -/

namespace Sys2Proof.Machine

/-- What a fetched word stands for. -/
noncomputable def wordInstr (w : W32) : Instr :=
  match decode w with
  | some i => i
  | none => .reservedWord w

/-- The next word of the run in focus (R77, R99, R107): `none` where there is no such run, or its word stalls. -/
def State.fetching (s : State) : Option (Run × Cx) :=
  match s.current with
  | none => none
  | some (r, cx) => if r.held || !waitMet s (s.grp cx.g) then none else some (r, cx)

/-- Fetches, decodes and runs one word. -/
noncomputable def runWord (r : Run) (cx : Cx) (s : State) : Host.Outcome State Fault Refusal :=
  match (fetchWord cx.g cx.pc).run s with
  | .ok (w, s') => exec (wordInstr w) s'
  | .error e => .next (if r.probe then s.unblock r else s.stopped cx r e)

/-- What a step does before the memories of the past are kept. -/
noncomputable def stepRaw (s : State) : Host.Outcome State Fault Refusal :=
  match s.agenda with
  | i :: rest => if i.isEvent then exec i { s with agenda := rest } else .fault .wordInAgenda
  | [] =>
    match s.fetching with
    | some (r, cx) => runWord r cx s
    | none => s.auto

/-- One step: what it replaces in a memory while a task lives is remembered, for LDV (R188). -/
noncomputable def step (s : State) : Host.Outcome State Fault Refusal := keepPast s (stepRaw s)

/-! ## Placing an instruction where the next step fetches it -/

-- DESIGN CHOICE: log 3
/-- Where a step fetches its next word, where the focus has one and its page is in device memory. -/
def State.fetchSpot (s : State) : Option (Nat × W64 × Nat) :=
  match s.current with
  | none => none
  | some (_, cx) =>
    match s.walk (s.grp cx.g).dom cx.pc.toNat with
    | .ok (pte, lv) => some (cx.g, cx.pc, bits pte.toNat 56 15 * 2 ^ 15 + cx.pc.toNat % 2 ^ leafBits lv)
    | .error _ => none

-- DESIGN CHOICE: log 3
/-- A group of 16 threads in domain 0, its code at 0x20000 mapped to the same device address, its run in focus. -/
def State.withLoader (s : State) : State :=
  let bar := wrN (wrN (s.ldev 0).bar0 0x10000 (List.replicate 32 0#8)) 0x1001C [1#8]
  let mem := wrN (wrN (wrN s.dmem 0 (toLe 8 0x8001)) 0x8000 (toLe 8 0x10001)) 0x10000 (toLe 8 0xE3)
  let s := s.modLd 0 (fun l => { l with bar0 := bar })
  let s := s.setGrp 0 { Group.blank with w := 16, place := .resident, started := true, role := 2, floor := 80
                                         y0 := gen 16 (fun _ => 0#64), y1 := gen 16 (fun _ => 0#64), pcs := gen 16 (fun _ => 0x20000#64)
                                         ages := gen 16 (fun _ => 0) }
  { s with
    dmem := mem
    runs := ins s.runs 0 { gid := 0, act := 0xFFFF#64, words := 0, pc := 0x20000#64, upc := 0x20000#64, hints := {}, held := false, rur := none }
    focus := some 0 }

-- DESIGN CHOICE: log 3
/-- The state with an instruction stored where the next step fetches. -/
def State.withFetchWord (s : State) (_nbits w : Nat) : State :=
  let s := match s.fetchSpot with | some _ => s | none => s.withLoader
  match s.fetchSpot with
  | none => s
  | some (g, pc, a) =>
    let s := s.modGrp g (fun x => { x with fetched := erase x.fetched pc.toNat, wait := .none })
    { s with agenda := [], dmem := wrN s.dmem a (toLe 4 w), icache := [], tlb := [], walks := []
             runs := s.runs.map (fun (e : Nat × Run) => (e.1, { e.2 with held := false })) }

end Sys2Proof.Machine
end

