-- ==== Sys2Proof/Safety.lean ====
section
/-! DEFINITION. What counts as a safe run, and the terms claims are stated in: what a unit needs to issue, what its
operands read, what issuing leaves unchanged. -/

namespace Sys2Proof.Machine

/-- Device memory and host memory are in canonical form: addresses strictly rising, no listed byte equal to what an unlisted
one reads as. -/
def State.memOk (s : State) : Prop :=
  s.dmem.wf = true ∧ s.hmem.wf = true

/-- A run of `n` steps from `s` that meets no fault and no refusal. -/
def safeRun : Nat → State → Prop
  | 0, _ => True
  | n + 1, s => ∃ t, step s = .next t ∧ safeRun n t

/-! ## A unit that may issue -/

/-- The unit `cx` of the run `run` is in progress on its group's own partition, and nothing stops it before its body: no hint
twice, none the target does not accept (R30, R424), no HPRED under an open shadow (R32), no breakpoint (R394); on
a milliner only where `mill` (R42). -/
structure UnitOk (s : State) (run : Run) (cx : Cx) (acc : Accepts) (mill : Bool) : Prop where
  cur : s.current = some (run, cx)
  own : s.focus = some (siteOf (s.grp cx.g))
  rur : run.rur = none
  probe : run.probe = false
  once : cx.h.bad = false
  hints : acc.ok cx.h = true
  shadow : (cx.h.pred.isSome && (s.grp cx.g).shadow.isSome) = false
  mill : (mill || (s.grp cx.g).mill.isNone) = true
  noBreak : breakHit (s.grp cx.g) cx.upc = none

/-- Nothing observes or waits on the partition: it is not sampled (R400), the group is not stepped (R395), and no group waits for
a claim (R170). -/
structure Calm (s : State) (g : Nat) : Prop where
  samples : look s.samples (siteOf (s.grp g)) = none
  recs : s.sampleRecs = []
  step : (s.grp g).stepping = false
  claims : ∀ e ∈ s.groups, claimOf e.2 = none

/-- A group without what issuing any word moves on: PCs, ages, the shadow, arbitration and word counts, the order of writes, the
words fetched and the marks of an interrupted unit or of a word that stalled. -/
def Group.arch (x : Group) : Group :=
  { x with pcs := [], ages := [], shadow := none, lastw := [], stamp := 0, waited := 0, runs := 0, words := [], unmatched := none, xfault := [], fetched := [], word := 0#32, retry := false }

/-- `t` is what a unit of `cx` leaves after the state `s` of its effect, whose group stands at no loop end: the group as it is in `s`,
its windows one tick on (R28); each thread of the active set that has not exited where `goes` says; every other group and every
other part of the state as in `s`. -/
structure Leaves (s t : State) (cx : Cx) (goes : Nat → W64) : Prop where
  group : (t.grp cx.g).arch = (settle (tick cx.act (s.grp cx.g))).arch
  pcs : ∀ u, u < (s.grp cx.g).w → (t.grp cx.g).pcs.getD u 0#64 =
    if hasLane cx.act u && !hasLane (s.grp cx.g).exited u then goes u else (s.grp cx.g).pcs.getD u 0#64
  others : ∀ g, g ≠ cx.g → (t.grp g).arch = (s.grp g).arch
  rest : { t with groups := s.groups, runs := s.runs, focus := s.focus } = s

/-- The next word's address. -/
def Cx.next (cx : Cx) (_ : Nat) : W64 := cx.pc + 4#64

/-! ## Operands -/

/-- A scalar register that holds a value no operation in flight is about to change. -/
def ScalarOk (x : Group) (n : Nat) (v : W64) : Prop :=
  look x.sval (96 + n) = some v ∧ pendingReg x (96 + n) = none

/-- A source specifier of R24 whose `k` registers are in place: mapped, not spilled, with nothing on the way to them. -/
def SourceOk (x : Group) (spec k : Nat) : Prop :=
  if spec < 80 then ∀ i < k, isMapped x (spec + i) = true ∧ x.wspill.contains (spec + i) = false ∧ pendingReg x (spec + i) = none
  else if spec < 88 then ∀ i < k, pendingReg x (spec + i) = none
  else if spec < 96 then spec ≠ 95
  else (look x.sval spec).isSome = true ∧ pendingReg x spec = none

/-- A thread's 32-bit element of a specifier (R24). -/
def Group.el32 (x : Group) (spec t : Nat) : W32 :=
  if spec < 80 then lane 0#32 ((look x.vval spec).getD []) t
  else if spec < 88 then lane 0#32 ((look x.q (spec - 80)).getD []) t
  else if spec = 88 then (lane 0#64 x.y0 t).setWidth 32
  else if spec = 89 then (lane 0#64 x.y1 t).setWidth 32
  else if spec = 90 then 0#32
  else if spec = 91 then 0xFFFFFFFF#32
  else if spec = 92 then BitVec.ofNat 32 t
  else if spec = 93 then BitVec.ofNat 32 x.gidx
  else if spec = 94 then BitVec.ofNat 32 x.w
  else ((look x.sval spec).getD 0#64).setWidth 32

/-- A thread's 64-bit element of a specifier (R25): a pair, the whole of a last result or of a scalar, a constant. -/
def Group.el64 (x : Group) (spec t : Nat) : W64 :=
  if spec < 88 then x.el32 (spec + 1) t ++ x.el32 spec t
  else if spec = 88 then lane 0#64 x.y0 t
  else if spec = 89 then lane 0#64 x.y1 t
  else if spec = 91 then 0xFFFFFFFFFFFFFFFF#64
  else if 96 ≤ spec then (look x.sval spec).getD 0#64
  else (x.el32 spec t).setWidth 64

/-- A thread's element of the unit's type, as a 64-bit pattern. -/
def Group.el (x : Group) (wide : Bool) (spec t : Nat) : W64 :=
  if wide then x.el64 spec t else (x.el32 spec t).setWidth 64

/-- A destination register that can be written at once: v with an entry, q, or none of both (y0). -/
def DestOk (x : Group) (d k : Nat) : Prop :=
  d ≤ 88 ∧ (d < 80 → ∀ i < k, isMapped x (d + i) = true ∧ x.pinned.all (fun e => e.2 != d + i) = true)
    ∧ (d < 88 → ∀ i < k, pendingReg x (d + i) = none)

/-- A group with a register unmapped (R155): no value, no spilled copy, nothing on the way to it. -/
def Group.unmap (x : Group) (r : Nat) : Group :=
  { x with
    ops := x.ops.map (dropDest r (BitVec.allOnes 64))
    sval := if 96 ≤ r then erase x.sval r else x.sval
    vval := if 96 ≤ r then x.vval else erase x.vval r
    spilled := x.spilled.filter (· != r)
    wspill := x.wspill.filter (· != r)
    spillimg := erase x.spillimg r }

/-- What the last-use marks of an instruction on `regs`, `k` marks in all, do to its group (R27): each register unmapped where every
thread executes, else LUIGN set and the ignored marks counted. -/
def Group.marked (x : Group) (exe : W64) (k : Nat) (regs : List Nat) : Group :=
  if regs.isEmpty then x
  else if exe = fullMask x.w then regs.foldl Group.unmap x
  else { x with gstatus := x.gstatus ||| 2#64, luign := satAdd x.luign k }

/-- A group with a scalar written. -/
def Group.setS (x : Group) (n : Nat) (v : W64) : Group := { x with sval := ins x.sval (96 + n) v }

/-- A group whose scalar stands written with the value it has. -/
def Group.holdS (x : Group) (n : Nat) : Group :=
  { x with sval := match look x.sval (96 + n) with | some v => ins x.sval (96 + n) v | none => x.sval }

/-- A group with one vector register written in the lanes of `m` (R28, R155); a v register is now its most recently written
(R162). -/
def Group.setV (x : Group) (m : W64) (r : Nat) (vals : List W32) : Group :=
  if r < 80 then
    let y := { x with
      ops := x.ops.map (dropDest r m), spilled := x.spilled.filter (· != r), spillimg := erase x.spillimg r
      vval := ins x.vval r (blend 0#32 x.w m vals ((look x.vval r).getD [])) }
    stampReg y r
  else if r < 88 then { x with ops := x.ops.map (dropDest r m), q := ins x.q (r - 80) (blend 0#32 x.w m vals ((look x.q (r - 80)).getD [])) }
  else x

/-- A group with the last-result file pushed (R26): y1 takes y0, y0 the result. -/
def Group.push (x : Group) (m : W64) (vals : List W64) : Group :=
  { x with y1 := blend 0#64 x.w m x.y0 x.y1, y0 := blend 0#64 x.w m vals x.y0 }

/-- A group with a vector result of the executing threads in place (R25, R26). -/
def Group.result (x : Group) (m : W64) (d : Nat) (wide : Bool) (vals : List W64) : Group :=
  let lo := vals.map (fun v => v.setWidth 32)
  if wide then
    ((if d < 88 then (x.setV m d lo).setV m (d + 1) (vals.map (fun v => v.extractLsb' 32 32)) else x)).push m vals
  else (x.setV m d lo).push m (lo.map (fun v => v.setWidth 64))

/-- A group with a predicate written in the executing threads. -/
def Group.setP (x : Group) (exe : W64) (k : Nat) (m : W64) : Group :=
  { x with p := ins x.p k ((m &&& exe) ||| ((look x.p k).getD 0#64 &&& ~~~exe)) }

/-! ## Vector instructions -/

/-- The registers a unit needs in place: 2 for an element of 64 bits (R25). -/
def regsOf (wide : Bool) : Nat := if wide then 2 else 1

/-- A group with the last-use marks of the sources done (R27). -/
def Group.marks (x : Group) (exe : W64) (wide : Bool) (srcs : List (Bool × Nat)) : Group :=
  x.marked exe (srcs.filter (fun p => p.1)).length
    (srcs.flatMap (fun p => if p.1 then (if 96 ≤ p.2 then [p.2] else (List.range (regsOf wide)).map (p.2 + ·)) else []))

/-- A marked source is a v or an s register, and none that a matrix command still has open (R24, R27, R251). -/
def MarksOk (x : Group) (wide : Bool) (srcs : List (Bool × Nat)) : Prop :=
  ∀ p ∈ srcs, p.1 = true → (p.2 < 80 ∨ 96 ≤ p.2) ∧ ∀ i < regsOf wide, x.pinned.all (fun e => e.2 != p.2 + i) = true

/-- The sources of a vector unit: in place, a pair at an even register, their marks legal. -/
structure SourcesOk (x : Group) (wide : Bool) (srcs : List (Bool × Nat)) : Prop where
  place : ∀ p ∈ srcs, SourceOk x p.2 (regsOf wide)
  even : wide = true → ∀ p ∈ srcs, p.2 < 88 → p.2 % 2 = 0
  marks : MarksOk x wide srcs

/-- The operands of a vector unit: its sources, and a destination that can be written once the marks are done. -/
structure VecOk (x : Group) (exe : W64) (wide : Bool) (srcs : List (Bool × Nat)) (d : Nat) : Prop extends SourcesOk x wide srcs where
  dest : DestOk (x.marks exe wide srcs) d (regsOf wide)
  evenD : wide = true → d < 88 → d % 2 = 0

/-- The element type of a unit (R36): its HTYPE's, or the default of the instruction. -/
def eltType (cx : Cx) (dflt : Nat) : Nat := match cx.h.type with | some t => t.t.toNat | none => dflt
/-- The number an element of an integer type stands for. -/
def numOf (ty : Nat) (v : W64) : Int := if ty < 4 then (v.setWidth (tyBits ty)).toInt else ((v.setWidth (tyBits ty)).toNat : Int)
/-- A pattern of an integer type as its register holds it (R52): i8 and i16 with their sign, every other with zeros above. -/
def heldAs (ty : Nat) (p : BitVec (tyBits ty)) : W64 := if ty < 2 then (p.signExtend 32).setWidth 64 else p.setWidth 64
/-- HMODE's S bit. -/
def saturates (cx : Cx) : Bool := match cx.h.mode with | some m => m.s | none => false
/-- The least and the greatest number of an integer type. -/
def least (ty : Nat) : Int := if ty < 4 then -(2 ^ (tyBits ty - 1)) else 0
def greatest (ty : Nat) : Int := if ty < 4 then 2 ^ (tyBits ty - 1) - 1 else 2 ^ tyBits ty - 1

/-- The executing threads. -/
def Cx.lanes (cx : Cx) (x : Group) : List Nat := (List.range x.w).filter (hasLane cx.exe)
/-- A group with sticky bits of GSTATUS set where `c` holds. -/
def Group.sticky (x : Group) (c : Bool) (b : W64) : Group := if c then { x with gstatus := x.gstatus ||| b } else x

/-- A pattern of a floating-point type in its register: zeros above (R52). -/
def heldF (ty v : Nat) : W64 := BitVec.ofNat 64 (v % 2 ^ tyBits ty)
/-- An element's bits. -/
def bitsOf (ty : Nat) (v : W64) : Nat := (v.setWidth (tyBits ty)).toNat
/-- Floating-point events counted in the group's task, once for each lane that meets them (R151). -/
def State.counting (s : State) (cx : Cx) (ty : Nat) (es : List Ev) : State :=
  s.countEvents cx.g (fmtIdx ty) [es.countP (·.inv), es.countP (·.dz), es.countP (·.ovf), es.countP (·.unf)] cx.pc (s.grp cx.g).cmdseq

/-- Nothing beside what EMPTY combines with (R148). -/
def joinOf {α : Type} (r : α → α → α) : Option α → Option α → Option α
  | none, y => y
  | x, none => x
  | some x, some y => some (r x y)
/-- The nodes of R149's tree: level and index. -/
def nodeOf {α : Type} (r : α → α → α) (x : Nat → Option α) : Nat → Nat → Option α
  | 0, i => x i
  | l + 1, i => joinOf r (nodeOf r x l (2 * i)) (nodeOf r x l (2 * i + 1))
/-- R149's prefix after `k` doubling steps, within segments of `n` threads. -/
def prefixOf {α : Type} (r : α → α → α) (x : Nat → Option α) (n : Nat) : Nat → Nat → Option α
  | 0, t => x t
  | k + 1, t => if 2 ^ k ≤ t % n then joinOf r (prefixOf r x n k (t - 2 ^ k)) (prefixOf r x n k t) else prefixOf r x n k t

/-- An immediate widened by the unit's HIMMs, the first holding the highest bits, and sign-extended (R31). -/
def widened (h : Hints) {n : Nat} (i : BitVec n) : Int :=
  match h.imm with
  | [] => i.toInt
  | [a] => (a ++ i).toInt
  | a :: b :: _ => (a ++ b ++ i).toInt

/-! ## What an instruction does -/

/-- A unit of `cx` may issue in `s`, in which nothing else acts on its partition; it is not the last word of a loop body, and some
thread executes. -/
structure Issuing (s : State) (run : Run) (cx : Cx) (acc : Accepts) (mill : Bool) : Prop where
  unit : UnitOk s run cx acc mill
  calm : Calm s cx.g
  loop : atLoopEnd (s.grp cx.g) cx.pc = false
  some : cx.exe ≠ 0#64

/-- Executing `i` answers a next state that is `u` with the unit issued and its threads at the next word, and nothing else changed. -/
def Comes (i : Instr) (s u : State) (cx : Cx) : Prop := ∃ t, exec i s = .next t ∧ Leaves u t cx cx.next

/-- Executing `i` answers a next state that is `s` with the unit's group as in `y`, the unit issued and its threads at the next
word, and nothing else changed. -/
def Does (i : Instr) (s : State) (cx : Cx) (y : Group) : Prop :=
  Comes i s (s.setGrp cx.g y) cx

/-- As `Comes`, the threads going where `goes` says. -/
def Goes (i : Instr) (s u : State) (cx : Cx) (goes : Nat → W64) : Prop := ∃ t, exec i s = .next t ∧ Leaves u t cx goes

/-- Executing `i` has its effect, which leaves `u`, and then raises a trap at the next unit (R50, R128). -/
def TrapsAfter (i : Instr) (s u : State) (cx : Cx) (cause : Nat) (info : W64) (lowest : Nat) : Prop :=
  ∃ v, Leaves u v cx cx.next ∧ exec i s = .next (v.takeTrap cx.g
    { cause := cause, info := info, pc := cx.pc + 4#64, set := cx.act, lane := lowest, sitePc := cx.pc, siteSeq := (s.grp cx.g).cmdseq })

/-- As `Traps`, with the lane, code, level and address of R339. -/
def TrapsAt (i : Instr) (s : State) (run : Run) (cx : Cx) (cause : Nat) (info : W64) (lowest code level : Nat) (addr : W64) : Prop :=
  exec i s = .next ((((s.sampleTrap cx run).runOver cx.g cx.act).takeTrap cx.g
    { cause := cause, info := info, pc := cx.upc, set := cx.act, lane := lowest, code := code, level := level, addr := addr
      sitePc := cx.pc, siteSeq := (s.grp cx.g).cmdseq }).stepTrap cx.g cx.pc)

/-- Executing `i` stalls (R107): nothing of it happens, and it is tried again. -/
def Stalls (i : Instr) (s : State) (run : Run) (cx : Cx) : Prop := exec i s = .next (s.stopped cx run .stall)

/-- Executing `i` raises a precise trap (R50, R338): nothing of its effect happens, its run is over (R20), and the group takes the trap
at the unit's first word. -/
def Traps (i : Instr) (s : State) (run : Run) (cx : Cx) (cause : Nat) (info : W64) : Prop :=
  exec i s = .next ((((s.sampleTrap cx run).runOver cx.g cx.act).takeTrap cx.g
    { cause := cause, info := info, pc := cx.upc, set := cx.act, sitePc := cx.pc, siteSeq := (s.grp cx.g).cmdseq }).stepTrap cx.g cx.pc)

/-- A step that carries no instruction word has the effect `u`; every word that waited for such an effect then tries again (R107). -/
def Becomes (i : Instr) (s u : State) : Prop := exec i s = .next u.wake

/-- Writes of the milliner complex, in their order, at kernel privilege in a domain: nothing of them faults or is missing at the host. -/
def Recorded (s : State) (dom : W16) (writes : List (W64 × List W8)) (t : State) : Prop := (writes.forM (fun w => kwrite dom w.1 w.2)).run s = .ok ((), t)

/-- Such a step finds nothing to do. -/
def Idle (i : Instr) (s : State) : Prop := Becomes i s s

/-! ## Memory instructions -/

/-- The threads that access memory: every executing one, or the lowest alone in the uniform form (R178, R179). -/
def Cx.users (cx : Cx) (x : Group) (d a : Nat) : List Nat := if (a = 90 ∨ 96 ≤ a) ∧ 96 ≤ d then (cx.lanes x).take 1 else cx.lanes x
/-- The displacement of a unit's HIMMs (R178). -/
def displacement (h : Hints) : W64 :=
  match h.imm with
  | [] => 0#64
  | [a] => a.signExtend 64
  | a :: b :: _ => (a ++ b).signExtend 64
/-- Each accessing thread with its address (R178). -/
def Cx.spots (cx : Cx) (x : Group) (d a : Nat) (base disp : W64) : List (Nat × W64) :=
  (cx.users x d a).map (fun t => (t, base + (x.el32 a t).signExtend 64 + disp))
/-- The registers whose last use an address marks (LA, LS). -/
def lastAddr (l k : Bool) (a sr : Nat) : List Nat := (if l then [a] else []) ++ (if k then [96 + sr] else [])
/-- A group with `k` last-use marks on `regs` done; a milliner has none (R27, R42). -/
def Group.lastUse (x : Group) (exe : W64) (k : Nat) (regs : List Nat) : Group := if x.mill = none then x.marked exe k regs else x

/-- The operands of a memory word: base, offset and marks in order; nothing watched on the die, no operation of the group's own on its
way to memory; a milliner's form (R42). `regs` are the marked registers. -/
structure AddrOk (s : State) (cx : Cx) (d a sr : Nat) (l : Bool) (regs : List Nat) (base : W64) : Prop where
  base : ScalarOk (s.grp cx.g) sr base
  offset : SourceOk (s.grp cx.g) a 1
  mark : l = true → a < 80 ∨ 96 ≤ a
  mill : (s.grp cx.g).mill ≠ none → a = 90 ∧ l = false ∧ 96 ≤ d
  free : ∀ r ∈ regs, (s.grp cx.g).pinned.all (fun e => e.2 != r) = true
  watch : (s.die (dieOf (s.grp cx.g))).watches = []
  still : ∀ o ∈ (s.grp cx.g).ops, workSpots o.work = []
  some : cx.lanes (s.grp cx.g) ≠ []

/-- The `k` registers of a data operand are in place; a special source stands alone. -/
def PlacesOk (x : Group) (d k : Nat) : Prop := if 88 ≤ d ∧ d < 96 then SourceOk x d 1 else ∀ i < k, SourceOk x (d + i) 1

/-- The destination set of a long-latency operation can be taken at once (R110, R160): nothing on the way to a register, no window copy
needed or room for it under the floor. -/
def LongOk (x : Group) (ahead : Nat) (regs : List Nat) : Prop :=
  ∀ r ∈ regs, pendingReg x r = none
    ∧ (r < 80 → isMapped x r = true ∧ x.pinned.all (fun e => e.2 != r) = true ∧ (ahead = 0 ∨ x.mill ≠ none ∨ entries x + regs.length ≤ x.floor))
    ∧ (96 ≤ r → (look x.sval r).isSome = true ∧ x.ops.all (fun o => o.ready || !o.disc.contains r) = true)

/-- A group with its registers `regs` no longer awaited by any earlier operation. -/
def Group.takes (x : Group) (exe : W64) (regs : List Nat) : Group :=
  regs.foldl (fun x r => { x with ops := x.ops.map (dropDest r (if 96 ≤ r then BitVec.allOnes 64 else exe)) }) x

/-- A long-latency operation as a unit issues it (R28, R110): `regs` are pending in the executing threads, the window of AHEAD is open
in them. -/
def longOp (x : Group) (cx : Cx) (id : Nat) (kind : OpKind) (base ahead : Nat) (seq : W64) (regs : List Nat) (vals : Nat → List W64) (work again : Work)
    (acq : Bool) (used : List Used) : LOp where
  id := id
  kind := kind
  site := cx.pc
  seq := seq
  base := base
  dests := regs.map (fun r => { reg := r, mask := cx.exe, was := false, vals := vals r, copy := if ahead ≠ 0 ∧ r < 80 then 1 else 0 })
  win := if ahead = 0 then [] else
    (List.range x.w).map (fun t => if hasLane cx.exe t then ahead + (if x.handler.isSome then 0 else 1) else 0)
  work := work
  again := again
  acq := acq
  ready := false
  disc := []
  used := used

/-- A state whose group has one more operation in flight, or one more buffered store. -/
def State.sent (s : State) (g : Nat) (y : Group) : State := { s.setGrp g y with nextId := s.nextId + 1 }
def Group.sends (x : Group) (exe : W64) (o : LOp) : Group :=
  { x.takes exe (o.dests.map (·.reg)) with ops := (x.takes exe (o.dests.map (·.reg))).ops ++ [o] }

/-- A group whose loads keep what they have read, whatever a save does (R195). -/
def Group.keeps (x : Group) : Group := { x with ops := x.ops.map (fun o => { o with again := .done }) }

/-- A state in which the groups of `gs` have left their waits: one that is not resident is marked satisfied (R297), in its context record
too (R355). -/
def State.freed (s : State) (gs : List Nat) : State :=
  gs.foldl (fun s g => (s.modGrp g (fun x => if resident x then { x.keeps with wait := .none } else { x with sat := true })).refreshRecord g) s

/-- What register `r` of a result receives: the lowest thread's value in a scalar, each thread's own in a vector register. -/
def resultOf (x : Group) (users : List Nat) (r : Nat) (v : Nat → W64) : List W64 :=
  if 96 ≤ r then [v (users.headD 0)] else (List.range x.w).map (fun t => if t ∈ users then v t else 0#64)

/-- The registers of `n` bytes of data from `d` on (R180, R181). -/
def runOf (d n : Nat) : List Nat :=
  if 96 ≤ d then (if n = 16 then [d, d + 1] else [d]) else (List.range (max 1 (n / 4))).map (d + ·)
/-- A legal data register of a load (R180): on the boundary of its run; a scalar only in the uniform form. -/
def RunOk (d a n : Nat) : Prop :=
  (d < 88 ∧ d % max 1 (n / 4) = 0) ∨ (96 ≤ d ∧ (a = 90 ∨ 96 ≤ a) ∧ (n = 16 → d % 2 = 0))
/-- The value of `n` bytes in register `i` of their run (R180). -/
def pieceOf (d n : Nat) (signed : Bool) (bs : List W8) (i : Nat) : W64 :=
  let wide : W64 := if signed then (BitVec.ofNat (8 * n) (leNat bs)).signExtend 64 else BitVec.ofNat 64 (leNat bs)
  if 96 ≤ d then (if n = 16 then BitVec.ofNat 64 (leNat ((bs.drop (8 * i)).take 8)) else wide)
  else if n ≤ 4 then (wide.setWidth 32).setWidth 64
  else BitVec.ofNat 64 (leNat ((bs.drop (4 * i)).take 4))
/-- The bytes thread `t` stores from `d` on (R181). -/
def Group.bytesOf (x : Group) (d n t : Nat) : List W8 :=
  if n ≤ 4 then (bytes8 (x.el false d t)).take n
  else if n = 8 then bytes8 (x.el64 d t)
  else if d = 90 then List.replicate 16 0#8
  else bytes8 (x.el64 d t) ++ bytes8 (x.el64 (if 96 ≤ d then d + 1 else d + 2) t)

/-- The order of a unit lets it issue: what a release waits for has happened (R190). -/
def OrderOk (x : Group) (cx : Cx) (orders waits : List Nat) : Prop :=
  (cx.h.ord ≠ none → orderOf cx.h ∈ orders) ∧ (orderOf cx.h ∈ waits → released x (scopeOf cx.h) = true)

end Sys2Proof.Machine
end

