-- ==== Sys2Proof/Certificates/Slice0/Obligations.lean ====
section
/-! DEFINITION. The statements for the provers, family by family of the opcode table. -/

open Sys2Proof Sys2Proof.Machine

/-! ## Scalar arithmetic (chapter "Scalar and vector arithmetic") -/

/-- The binary members of SALU0 with their results (R124). -/
noncomputable def salu0Rows : List ((FS3 → Instr) × (W64 → W64 → W64)) :=
  [(.salu0Add, fun a b => a + b), (.salu0Sub, fun a b => a - b), (.salu0And, fun a b => a &&& b), (.salu0Or, fun a b => a ||| b),
    (.salu0Xor, fun a b => a ^^^ b), (.salu0Andn, fun a b => a &&& ~~~b),
    (.salu0Shl, fun a b => if b.toNat < 64 then a <<< b.toNat else 0#64),
    (.salu0Shr, fun a b => if b.toNat < 64 then a >>> b.toNat else 0#64),
    (.salu0Sar, fun a b => if b.toNat < 64 then a.sshiftRight b.toNat else if a.getLsbD 63 then BitVec.allOnes 64 else 0#64),
    (.rotl, fun a b => a.rotateLeft (b.toNat % 64)),
    (.salu0Min, fun a b => if a.slt b then a else b), (.salu0Max, fun a b => if a.slt b then b else a),
    (.minn, fun a b => if a.ult b then a else b), (.maxn, fun a b => if a.ult b then b else a)]

/-- R124: every SALU0 member completes for every value of its sources, writes the table's result to S[D], changes nothing else, and FN4 15
is no instruction. The sources carry no last-use mark here (ScalarLastUse has the marks). -/
def scalarAlu0Rule : Prop :=
  (∀ r ∈ salu0Rows,
    ∀ (f : FS3) (s : State) (run : Run) (cx : Cx) (a b : W64), Issuing s run cx {} true → f.l = false → f.m = false →
      ScalarOk (s.grp cx.g) f.a.toNat a → ScalarOk (s.grp cx.g) f.b.toNat b → pendingReg (s.grp cx.g) (96 + f.d.toNat) = none →
      Does (r.1 f) s cx ((s.grp cx.g).setS f.d.toNat (r.2 a b)))
  ∧ (∀ (f : FS2) (s : State) (run : Run) (cx : Cx) (a : W64), Issuing s run cx {} true → f.l = false →
      ScalarOk (s.grp cx.g) f.a.toNat a → pendingReg (s.grp cx.g) (96 + f.d.toNat) = none →
      Does (.salu0Mov f) s cx ((s.grp cx.g).setS f.d.toNat a))
  ∧ (∀ w : W32, w.extractLsb' 24 7 = 0x10#7 → w.extractLsb' 0 4 = 15#4 → decode w = none)

/-- R125, the members whose results are numbers of their operands: products, counts, |a| and 0 − a. -/
def scalarAlu1Rule : Prop :=
  (∀ r ∈ ([(.mul, fun a b => BitVec.ofNat 64 (a.toNat * b.toNat)),
      (.mulh, fun a b => (BitVec.ofInt 128 (a.toInt * b.toInt)).extractLsb' 64 64),
      (.mulhn, fun a b => (BitVec.ofNat 128 (a.toNat * b.toNat)).extractLsb' 64 64)] : List ((FS3 → Instr) × (W64 → W64 → W64))),
    ∀ (f : FS3) (s : State) (run : Run) (cx : Cx) (a b : W64), Issuing s run cx {} true → f.l = false → f.m = false →
      ScalarOk (s.grp cx.g) f.a.toNat a → ScalarOk (s.grp cx.g) f.b.toNat b → pendingReg (s.grp cx.g) (96 + f.d.toNat) = none →
      Does (r.1 f) s cx ((s.grp cx.g).setS f.d.toNat (r.2 a b)))
  ∧ (∀ r ∈ ([(.abs, fun a => if a.msb && a != 0x8000000000000000#64 then 0#64 - a else a), (.neg, fun a => 0#64 - a),
      (.brev, fun a => (BitVec.ofBoolListLE ((List.range 64).map (fun i => a.getLsbD (63 - i)))).setWidth 64)] : List ((FS2 → Instr) × (W64 → W64))),
    ∀ (f : FS2) (s : State) (run : Run) (cx : Cx) (a : W64), Issuing s run cx {} true → f.l = false →
      ScalarOk (s.grp cx.g) f.a.toNat a → pendingReg (s.grp cx.g) (96 + f.d.toNat) = none →
      Does (r.1 f) s cx ((s.grp cx.g).setS f.d.toNat (r.2 a)))
  ∧ (∀ r ∈ ([(.popc, fun a n => n = ((List.range 64).filter (fun i => a.getLsbD i)).length),
      (.clz, fun a n => n ≤ 64 ∧ (∀ i, i < 64 → 64 ≤ i + n → a.getLsbD i = false) ∧ (n < 64 → a.getLsbD (63 - n) = true)),
      (.ctz, fun a n => n ≤ 64 ∧ (∀ i, i < n → a.getLsbD i = false) ∧ (n < 64 → a.getLsbD n = true))] : List ((FS2 → Instr) × (W64 → Nat → Prop))),
    ∀ (f : FS2) (s : State) (run : Run) (cx : Cx) (a : W64), Issuing s run cx {} true → f.l = false →
      ScalarOk (s.grp cx.g) f.a.toNat a → pendingReg (s.grp cx.g) (96 + f.d.toNat) = none →
      ∃ n, r.2 a n ∧ Does (r.1 f) s cx ((s.grp cx.g).setS f.d.toNat (BitVec.ofNat 64 n)))

/-- R126: BFE and BFI, bit by bit. -/
def bitFieldsRule : Prop :=
  ∀ (f : FS3) (s : State) (run : Run) (cx : Cx) (a b : W64), Issuing s run cx {} true → f.l = false → f.m = false →
    ScalarOk (s.grp cx.g) f.a.toNat a → ScalarOk (s.grp cx.g) f.b.toNat b → pendingReg (s.grp cx.g) (96 + f.d.toNat) = none →
    let pos := (b.extractLsb' 0 6).toNat
    let k := min (min (b.extractLsb' 6 7).toNat 64) (64 - pos)
    (∃ v, (∀ i, i < 64 → v.getLsbD i = if i < k then a.getLsbD (pos + i) else decide (0 < k) && b.getLsbD 13 && a.getLsbD (pos + k - 1))
      ∧ Does (.bfe f) s cx ((s.grp cx.g).setS f.d.toNat v))
    ∧ (∀ d, look (s.grp cx.g).sval (96 + f.d.toNat) = some d →
      ∃ v, (∀ i, i < 64 → v.getLsbD i = if pos ≤ i ∧ i < pos + k then a.getLsbD (i - pos) else d.getLsbD i)
        ∧ Does (.bfi f) s cx ((s.grp cx.g).setS f.d.toNat v))

/-- The members of SALU0 and SALU1 with whole results, and the bit fields (R124 to R126). -/
def Obligations.ScalarArithmetic : Prop := scalarAlu0Rule ∧ scalarAlu1Rule ∧ bitFieldsRule

/-- R127 and R128 for the scalar divisions: quotient toward zero and remainder with the dividend's sign; the two cases of the table write
their results, set GSTATUS.IDIVZ and count one IDIVZ event in the task, and with TRAPMASK.IDIVZEN the trap follows the writes, with
TRAPPC the next unit and TRAPINFO 1. -/
def scalarDivisionRule : Prop :=
  ∀ (f : FS3) (s : State) (run : Run) (cx : Cx) (a b : W64), Issuing s run cx {} true → f.l = false → f.m = false →
    ScalarOk (s.grp cx.g) f.a.toNat a → ScalarOk (s.grp cx.g) f.b.toNat b → pendingReg (s.grp cx.g) (96 + f.d.toNat) = none →
    let x := s.grp cx.g
    (b ≠ 0#64 → ¬ (a = 0x8000000000000000#64 ∧ b = BitVec.allOnes 64) →
      Does (.div f) s cx (x.setS f.d.toNat (BitVec.ofInt 64 (a.toInt.tdiv b.toInt)))
      ∧ Does (.rem f) s cx (x.setS f.d.toNat (BitVec.ofInt 64 (a.toInt.tmod b.toInt))))
    ∧ (b ≠ 0#64 →
      Does (.divn f) s cx (x.setS f.d.toNat (a / b)) ∧ Does (.remn f) s cx (x.setS f.d.toNat (a % b)))
    ∧ (∀ r ∈ ([(.div, b = 0#64, 0#64), (.rem, b = 0#64, a), (.divn, b = 0#64, 0#64), (.remn, b = 0#64, a),
        (.div, a = 0x8000000000000000#64 ∧ b = BitVec.allOnes 64, a), (.rem, a = 0x8000000000000000#64 ∧ b = BitVec.allOnes 64, 0#64)] :
        List ((FS3 → Instr) × Prop × W64)), r.2.1 →
      let y := { x.setS f.d.toNat r.2.2 with gstatus := x.gstatus ||| 8#64 }
      let u := s.setGrp cx.g y
      let u := if x.mill.isNone then u.setTask x.task { s.task x.task with idivz := satAdd (s.task x.task).idivz 1 } else u
      (x.trapmask.getLsbD 1 = false → ∃ t, exec (r.1 f) s = .next t ∧ Leaves u t cx cx.next)
      ∧ (x.trapmask.getLsbD 1 = true → ∃ v, Leaves u v cx cx.next
        ∧ exec (r.1 f) s = .next (v.takeTrap cx.g
            { cause := 15, info := 1#64, pc := cx.pc + 4#64, set := cx.act, lane := 0, sitePc := cx.pc, siteSeq := x.cmdseq })))

/-- R129: SCMP writes its condition to the predicate of every executing thread, for each of the ten conditions. -/
def scalarCompareRule : Prop :=
  ∀ (f : FScmp) (s : State) (run : Run) (cx : Cx) (a b : W64), Issuing s run cx {} true → f.l = false → f.m = false →
    ScalarOk (s.grp cx.g) f.a.toNat a → ScalarOk (s.grp cx.g) f.b.toNat b →
    ∀ r ∈ ([(0, a == b), (1, a != b), (2, a.slt b), (3, a.sle b), (4, b.slt a), (5, b.sle a), (6, a.ult b), (7, a.ule b), (8, b.ult a), (9, b.ule a)] :
      List (Nat × Bool)), f.c.toNat = r.1 →
    Does (.scmp f) s cx ((s.grp cx.g).setP cx.exe f.p.toNat (if r.2 then BitVec.allOnes 64 else 0#64))

/-- Scalar division and remainder, with what a division by zero leaves and reports, and SCMP (R127 to R129). -/
def Obligations.ScalarDivisionAndCompare : Prop := scalarDivisionRule ∧ scalarCompareRule

/-- R31, R130, R132: the immediate forms, whose 11 bits zero, one or two HIMMs widen before the sign is extended. -/
def scalarImmediatesRule : Prop :=
  ∀ (s : State) (run : Run) (cx : Cx) (i : BitVec 11) (imm : W64), Issuing s run cx { imm := 2 } true →
    ((cx.h.imm = [] ∧ imm = i.signExtend 64) ∨ (∃ h, cx.h.imm = [h] ∧ imm = (h ++ i).signExtend 64)
      ∨ (∃ h k, cx.h.imm = [h, k] ∧ imm = (h ++ k ++ i).signExtend 64)) →
    (∀ r ∈ ([(.addi, fun a b => a + b), (.andi, fun a b => a &&& b), (.ori, fun a b => a ||| b), (.xori, fun a b => a ^^^ b)] :
        List ((FSI → Instr) × (W64 → W64 → W64))), ∀ (f : FSI) (a : W64), f.i = i → f.l = false → ScalarOk (s.grp cx.g) f.a.toNat a →
        pendingReg (s.grp cx.g) (96 + f.d.toNat) = none → Does (r.1 f) s cx ((s.grp cx.g).setS f.d.toNat (r.2 a imm)))
    ∧ (∀ f : FDI, f.i = i → pendingReg (s.grp cx.g) (96 + f.d.toNat) = none →
        Does (.movi f) s cx ((s.grp cx.g).setS f.d.toNat imm) ∧ Does (.lea f) s cx ((s.grp cx.g).setS f.d.toNat (cx.pc + 4#64 * imm)))

/-- R131: the shifts by an immediate amount of 0 to 63; a nonzero reserved field is no instruction, and a HIMM is illegal. -/
def scalarShiftImmediatesRule : Prop :=
  (∀ r ∈ ([(.shli, fun a n => a <<< n), (.shri, fun a n => a >>> n), (.sari, fun a n => a.sshiftRight n), (.rotli, fun a n => a.rotateLeft n)] :
      List ((FSN → Instr) × (W64 → Nat → W64))), ∀ (f : FSN) (s : State) (run : Run) (cx : Cx),
    (∀ a, Issuing s run cx {} true → f.l = false → ScalarOk (s.grp cx.g) f.a.toNat a → pendingReg (s.grp cx.g) (96 + f.d.toNat) = none →
      Does (r.1 f) s cx ((s.grp cx.g).setS f.d.toNat (r.2 a f.n.toNat)))
    ∧ (s.current = some (run, cx) → run.probe = false → cx.h.imm ≠ [] → Traps (r.1 f) s run cx 1 0#64))
  ∧ (∀ w : W32, w.extractLsb' 24 7 = 0x17#7 → w.extractLsb' 6 3 ≠ 0#3 → decode w = none)

/-- R27: a last-use mark on a scalar source unmaps it after the read where every thread of the group executes; where some do not, the mark is
ignored, GSTATUS.LUIGN is set and the ignored marks are counted. The destination is written after the marks. -/
def scalarLastUseRule : Prop :=
  ∀ r ∈ salu0Rows ++ [(.mul, fun a b => a * b)], ∀ (f : FS3) (s : State) (run : Run) (cx : Cx) (a b : W64), Issuing s run cx {} true → (s.grp cx.g).mill = none →
    (s.grp cx.g).pinned.all (fun e => decide (e.2 < 80)) = true →
    ScalarOk (s.grp cx.g) f.a.toNat a → ScalarOk (s.grp cx.g) f.b.toNat b → pendingReg (s.grp cx.g) (96 + f.d.toNat) = none →
    let regs := (if f.l then [96 + f.a.toNat] else []) ++ (if f.m then [96 + f.b.toNat] else [])
    Does (r.1 f) s cx (((s.grp cx.g).marked cx.exe regs.length regs).setS f.d.toNat (r.2 a b))

/-- The scalar immediate forms, with HIMM, and what last-use marks on scalar sources do (R27, R31, R130 to R132). Beside the rules it rests on the model's own readings: log entries 17 and 18. -/
def Obligations.ScalarImmediatesAndMarks : Prop := scalarImmediatesRule ∧ scalarShiftImmediatesRule ∧ scalarLastUseRule


/-! ## Vector integer arithmetic -/

/-- The rows of R133 whose result is a formula on exact integers, with whether the row honours SAT; `n` is the width. -/
noncomputable def exactRows : List ((FV3 → Instr) × Bool × (Nat → Int → Int → Int → Int)) :=
  [(.iadd, true, fun _ a b _ => a + b), (.isub, true, fun _ a b _ => a - b), (.imul, true, fun _ a b _ => a * b),
    (.imulh, false, fun n a b _ => a * b / 2 ^ n), (.imad, true, fun _ a b d => a * b + d), (.imin, false, fun _ a b _ => min a b), (.imax, false, fun _ a b _ => max a b)]

/-- The rows of R133 whose result is a formula on bit patterns of the type's width. -/
noncomputable def bitRows : List ((FV3 → Instr) × ((n : Nat) → BitVec n → BitVec n → BitVec n)) :=
  [(.and, fun _ a b => a &&& b), (.andn, fun _ a b => a &&& ~~~b), (.or, fun _ a b => a ||| b), (.orn, fun _ a b => a ||| ~~~b), (.xor, fun _ a b => a ^^^ b),
    (.xnor, fun _ a b => ~~~(a ^^^ b)), (.shl, fun n a b => if b.toNat < n then a <<< b.toNat else 0#n),
    (.shr, fun n a b => if b.toNat < n then a >>> b.toNat else 0#n),
    (.sar, fun n a b => if b.toNat < n then a.sshiftRight b.toNat else if a.msb then BitVec.allOnes n else 0#n)]

/-- R134 for the exact rows and IADDI: each executing thread gets the exact result wrapped to the type, or clamped where SAT is honoured, and
a clamp that changes a value sets GSTATUS.SATD; the last-use marks of R27 are done before the write. -/
def vectorExactRule : Prop :=
  ∀ (s : State) (run : Run) (cx : Cx) (ty : Nat), ty = eltType cx 2 → ty < 8 →
    let x := s.grp cx.g
    let clamp (i : Int) : Int := max (least ty) (min (greatest ty) i)
    let wide := tyBits ty == 64
    let after (srcs : List (Bool × Nat)) (d : Nat) (sat : Bool) (r : Nat → Int) : Group :=
      ((x.marks cx.exe wide srcs).result cx.exe d wide (gen x.w (fun t => heldAs ty (BitVec.ofInt _ (if sat && saturates cx then clamp (r t) else r t))))).sticky
        (sat && saturates cx && (cx.lanes x).any (fun t => clamp (r t) != r t)) 16#64
    (Issuing s run cx { mode := true, type := true } false → ∀ r ∈ exactRows, ∀ f : FV3,
      VecOk x cx.exe wide [(f.l, f.a.toNat), (f.m, f.b.toNat), (false, f.d.toNat)] f.d.toNat →
      Does (r.1 f) s cx (after [(f.l, f.a.toNat), (f.m, f.b.toNat)] f.d.toNat r.2.1
        (fun t => r.2.2 (tyBits ty) (numOf ty (x.el wide f.a.toNat t)) (numOf ty (x.el wide f.b.toNat t)) (numOf ty (x.el wide f.d.toNat t)))))
    ∧ (Issuing s run cx { imm := 2, mode := true, type := true } false → ∀ f : FVI, VecOk x cx.exe wide [(f.l, f.a.toNat)] f.d.toNat →
      ∀ imm : Int, ((cx.h.imm = [] ∧ imm = f.i.toInt) ∨ (∃ h, cx.h.imm = [h] ∧ imm = (h ++ f.i).toInt) ∨ (∃ h k, cx.h.imm = [h, k] ∧ imm = (h ++ k ++ f.i).toInt)) →
      Does (.iaddi f) s cx (after [(f.l, f.a.toNat)] f.d.toNat true (fun t => numOf ty (x.el wide f.a.toNat t) + imm)))

/-- R134 for the bitwise rows and the shifts: amounts are unsigned values of the type's width. -/
def vectorBitsRule : Prop :=
  ∀ r ∈ bitRows, ∀ (f : FV3) (s : State) (run : Run) (cx : Cx) (ty : Nat), ty = eltType cx 2 → ty < 8 →
    Issuing s run cx { mode := true, type := true } false →
    let x := s.grp cx.g
    let wide := tyBits ty == 64
    VecOk x cx.exe wide [(f.l, f.a.toNat), (f.m, f.b.toNat)] f.d.toNat →
    Does (r.1 f) s cx ((x.marks cx.exe wide [(f.l, f.a.toNat), (f.m, f.b.toNat)]).result cx.exe f.d.toNat wide
      (gen x.w (fun t => heldAs ty (r.2 (tyBits ty) ((x.el wide f.a.toNat t).setWidth _) ((x.el wide f.b.toNat t).setWidth _)))))

/-- Vector integer arithmetic and logic in every element type (R134). -/
def Obligations.VectorArithmetic : Prop := vectorExactRule ∧ vectorBitsRule

/-- R127 and R128 for IDIV and IREM: per thread the quotient toward zero or the remainder with the dividend's sign, and the two cases of
the table; where some executing thread meets a case, IDIVZ is sticky, the task counts one event for each such thread, and with
IDIVZEN the trap follows every write, TRAPINFO holding those threads and TRAPPC the next unit. -/
def vectorDivisionRule : Prop :=
  ∀ r ∈ ([(.idiv, fun a b => if b = 0 then 0 else a.tdiv b), (.irem, fun a b => if b = 0 then a else a.tmod b)] : List ((FV3 → Instr) × (Int → Int → Int))),
    ∀ (f : FV3) (s : State) (run : Run) (cx : Cx) (ty : Nat), ty = eltType cx 2 → ty < 8 → Issuing s run cx { mode := true, type := true } false →
    let x := s.grp cx.g
    let wide := tyBits ty == 64
    VecOk x cx.exe wide [(f.l, f.a.toNat), (f.m, f.b.toNat)] f.d.toNat →
    let a (t : Nat) := numOf ty (x.el wide f.a.toNat t)
    let b (t : Nat) := numOf ty (x.el wide f.b.toNat t)
    let bad (t : Nat) : Bool := b t == 0 || (a t == least ty && b t == -1 && decide (ty < 4))
    let hit := (cx.lanes x).filter bad
    let y := ((x.marks cx.exe wide [(f.l, f.a.toNat), (f.m, f.b.toNat)]).result cx.exe f.d.toNat wide
      (gen x.w (fun t => heldAs ty (BitVec.ofInt _ (r.2 (a t) (b t)))))).sticky (hit != []) 8#64
    let u := s.setGrp cx.g y
    let u := u.setTask x.task { s.task x.task with idivz := satAdd (s.task x.task).idivz hit.length }
    (hit = [] → Does (r.1 f) s cx y)
    ∧ (hit ≠ [] → x.trapmask.getLsbD 1 = false → Comes (r.1 f) s u cx)
    ∧ (∀ lowest more, hit = lowest :: more → x.trapmask.getLsbD 1 = true → ∃ v info, Leaves u v cx cx.next
        ∧ (∀ t, t < 64 → info.getLsbD t = hit.contains t)
        ∧ exec (r.1 f) s = .next (v.takeTrap cx.g
            { cause := 15, info := info, pc := cx.pc + 4#64, set := cx.act, lane := lowest, sitePc := cx.pc, siteSeq := x.cmdseq }))

/-- The rows of R135 that take every integer type (BSWAP those of 16 bits and more): the result of N bits. -/
noncomputable def iunRows : List ((FV2 → Instr) × ((n : Nat) → BitVec n → BitVec n → Prop)) :=
  [(.iunNot, fun _ a r => r = ~~~a),
    (.iunPopc, fun n a r => r.toNat = ((List.range n).filter (fun i => a.getLsbD i)).length),
    (.iunClz, fun n a r => r.toNat ≤ n ∧ (∀ i, i < n → n ≤ i + r.toNat → a.getLsbD i = false) ∧ (r.toNat < n → a.getLsbD (n - 1 - r.toNat) = true)),
    (.iunCtz, fun n a r => r.toNat ≤ n ∧ (∀ i, i < r.toNat → a.getLsbD i = false) ∧ (r.toNat < n → a.getLsbD r.toNat = true)),
    (.iunBrev, fun n a r => ∀ i, i < n → r.getLsbD i = a.getLsbD (n - 1 - i)),
    (.iunBswap, fun n a r => ∀ i, i < n → r.getLsbD i = a.getLsbD (8 * (n / 8 - 1 - i / 8) + i % 8))]

/-- R135: IUN's functions, each within the type's width; MOV moves the element of every type whole, NEG and ABS are clamped with SAT. -/
def vectorUnaryRule : Prop :=
  ∀ (f : FV2) (s : State) (run : Run) (cx : Cx) (ty : Nat), ty = eltType cx 2 → Issuing s run cx { mode := true, type := true } false →
    let x := s.grp cx.g
    let wide := tyBits ty == 64
    VecOk x cx.exe wide [(f.l, f.a.toNat)] f.d.toNat →
    let y := x.marks cx.exe wide [(f.l, f.a.toNat)]
    let a (t : Nat) := numOf ty (x.el wide f.a.toNat t)
    (ty < 15 → Does (.iunMov f) s cx (y.result cx.exe f.d.toNat wide (gen x.w (fun t => x.el wide f.a.toNat t))))
    ∧ (ty < 8 → (∀ r ∈ iunRows, ((r.1 f = .iunBswap f) → tyBits ty ≠ 8) →
        ∃ v : Nat → BitVec (tyBits ty), (∀ t, r.2 _ ((x.el wide f.a.toNat t).setWidth _) (v t))
          ∧ Does (r.1 f) s cx (y.result cx.exe f.d.toNat wide (gen x.w (fun t => heldAs ty (v t)))))
      ∧ ∀ r ∈ ([(.iunNeg, fun i => -i), (.iunAbs, fun i => |i|)] : List ((FV2 → Instr) × (Int → Int))),
        let tops (t : Nat) : Bool := saturates cx && decide (ty < 4) && a t == least ty
        Does (r.1 f) s cx ((y.result cx.exe f.d.toNat wide
            (gen x.w (fun t => heldAs ty (BitVec.ofInt _ (if tops t then greatest ty else r.2 (a t)))))).sticky ((cx.lanes x).any tops) 16#64))

/-- Vector division and remainder, and the unary members (R127, R128, R135). -/
def Obligations.VectorDivisionAndUnary : Prop := vectorDivisionRule ∧ vectorUnaryRule

/-- R135: the nibble and byte members XNIB, XNIBN, INSNIB, XBYTE and XBYTEN complete, for i32 alone: a field sign- or zero-extended, or
D's old value with one nibble replaced. -/
def vectorFieldsRule : Prop :=
  ∀ (s : State) (run : Run) (cx : Cx), eltType cx 2 = 2 → Issuing s run cx { mode := true, type := true } false →
    let x := s.grp cx.g
    (∀ f : FVK3, VecOk x cx.exe false [(f.l, f.a.toNat)] f.d.toNat →
      let nib (t : Nat) : BitVec 4 := (x.el32 f.a.toNat t).extractLsb' (4 * f.k.toNat) 4
      let put (v : Nat → W32) : Group :=
        (x.marks cx.exe false [(f.l, f.a.toNat)]).result cx.exe f.d.toNat false (gen x.w (fun t => (v t).setWidth 64))
      Does (.iunXnib f) s cx (put (fun t => (nib t).signExtend 32)) ∧ Does (.iunXnibn f) s cx (put (fun t => (nib t).setWidth 32))
      ∧ (SourceOk x f.d.toNat 1 → ∃ v : Nat → W32, Does (.iunInsnib f) s cx (put v)
          ∧ ∀ t i, i < 32 → (v t).getLsbD i = if i / 4 = f.k.toNat then (x.el32 f.a.toNat t).getLsbD (i % 4) else (x.el32 f.d.toNat t).getLsbD i))
    ∧ (∀ f : FVK2, VecOk x cx.exe false [(f.l, f.a.toNat)] f.d.toNat →
      let byte (t : Nat) : BitVec 8 := (x.el32 f.a.toNat t).extractLsb' (8 * f.k.toNat) 8
      let put (v : Nat → W32) : Group :=
        (x.marks cx.exe false [(f.l, f.a.toNat)]).result cx.exe f.d.toNat false (gen x.w (fun t => (v t).setWidth 64))
      Does (.iunXbyte f) s cx (put (fun t => (byte t).signExtend 32)) ∧ Does (.iunXbyten f) s cx (put (fun t => (byte t).setWidth 32)))

/-- A vector destination that is UNMAPPED takes an entry (R155, R160, R161): from the group's reservation, or from the partition's free
slices, and the result is in it; a marked source may be what frees it. Shown on IADD of 32-bit elements. -/
def vectorMapsDestinationRule : Prop :=
  ∀ (f : FV3) (s : State) (run : Run) (cx : Cx), cx.h.mode = none → eltType cx 2 = 2 → Issuing s run cx { mode := true, type := true } false →
    let x := s.grp cx.g
    let y := x.marks cx.exe false [(f.l, f.a.toNat), (f.m, f.b.toNat)]
    SourcesOk x false [(f.l, f.a.toNat), (f.m, f.b.toNat)] → f.d.toNat < 80 → look y.vval f.d.toNat = none → y.spilled.contains f.d.toNat = false → pendingReg y f.d.toNat = none →
    y.pinned.all (fun e => e.2 != f.d.toNat) = true → (entries y < y.floor ∨ slices x.w ≤ (s.setGrp cx.g y).freeSlices (siteOf x)) →
    Does (.iadd f) s cx (y.result cx.exe f.d.toNat false (gen x.w (fun t => (x.el32 f.a.toNat t + x.el32 f.b.toNat t).setWidth 64)))

/-- R24, R26 and R41 for the V3 integer rows: specifier 95 and a type outside the row raise ILLEGAL_INSTRUCTION; otherwise a destination above 88, a mark
on what is no v or s register, or an odd register of a pair raise ILLEGAL_OPERAND. Nothing else of the instruction happens. -/
def vectorIllegalRule : Prop :=
  ∀ i ∈ (exactRows.map (·.1) ++ bitRows.map (·.1) ++ [.idiv, .irem]), ∀ (f : FV3) (s : State) (run : Run) (cx : Cx),
    UnitOk s run cx { mode := true, type := true } false →
    let ty := eltType cx 2
    (f.a.toNat = 95 ∨ f.b.toNat = 95 ∨ f.d.toNat = 95 ∨ 8 ≤ ty → Traps (i f) s run cx 1 0#64)
    ∧ (f.a.toNat ≠ 95 → f.b.toNat ≠ 95 → f.d.toNat ≠ 95 → ty < 8 →
        (88 < f.d.toNat ∨ (f.l = true ∧ 80 ≤ f.a.toNat ∧ f.a.toNat < 96) ∨ (f.m = true ∧ 80 ≤ f.b.toNat ∧ f.b.toNat < 96)
          ∨ (tyBits ty = 64 ∧ ((f.d.toNat < 88 ∧ f.d.toNat % 2 = 1) ∨ (f.a.toNat < 88 ∧ f.a.toNat % 2 = 1) ∨ (f.b.toNat < 88 ∧ f.b.toNat % 2 = 1)))) →
        Traps (i f) s run cx 2 0#64)

/-- The field members, the mapping of a destination, and the words that trap (R41, R135, R155, R160, R161). -/
def Obligations.VectorFieldsAndRefusals : Prop := vectorFieldsRule ∧ vectorMapsDestinationRule ∧ vectorIllegalRule

/-! ## Compares, selection, predicates -/

/-- R136: ICMP, FCMP and DCMP write (or AND) their condition into pk in the executing threads, with no vector result; only a signalling NaN
counts, as an invalid operation of the source's format. -/
def vectorCompareRule : Prop :=
  ∀ (f : FVC) (s : State) (run : Run) (cx : Cx), let x := s.grp cx.g
    let old := (look x.p f.p.toNat).getD 0#64
    (∀ ty, ty = eltType cx 2 → ty < 8 → Issuing s run cx { mode := true, type := true } false →
      let wide := tyBits ty == 64
      SourcesOk x wide [(f.l, f.a.toNat), (f.m, f.b.toNat)] →
      let a (t : Nat) := numOf ty (x.el wide f.a.toNat t)
      let b (t : Nat) := numOf ty (x.el wide f.b.toNat t)
      ∀ r ∈ ([(0, fun t => a t == b t), (1, fun t => a t != b t), (2, fun t => decide (a t < b t)), (3, fun t => decide (a t ≤ b t)), (4, fun t => decide (b t < a t)),
          (5, fun t => decide (b t ≤ a t)), (6, fun t => bitsOf ty (x.el wide f.a.toNat t &&& x.el wide f.b.toNat t) == 0),
          (7, fun t => bitsOf ty (x.el wide f.a.toNat t &&& x.el wide f.b.toNat t) != 0)] : List (Nat × (Nat → Bool))), f.c.toNat = r.1 →
        ∀ m : W64, (∀ t, t < 64 → m.getLsbD t = (decide (t < x.w) && r.2 t)) →
        let y := x.marks cx.exe wide [(f.l, f.a.toNat), (f.m, f.b.toNat)]
        Does (.icmp f) s cx (y.setP cx.exe f.p.toNat m) ∧ Does (.icmpand f) s cx (y.setP cx.exe f.p.toNat (m &&& old)))
    ∧ ∀ q ∈ ([(.fcmp, .fcmpand, 10, [8, 9, 10]), (.dcmp, .dcmpand, 11, [11])] : List ((FVC → Instr) × (FVC → Instr) × Nat × List Nat)),
        ∀ ty, ty = eltType cx q.2.2.1 → ty ∈ q.2.2.2 → Issuing s run cx { mode := true, type := decide (1 < q.2.2.2.length) } false →
        let wide := tyBits ty == 64
        SourcesOk x wide [(f.l, f.a.toNat), (f.m, f.b.toNat)] →
        let a (t : Nat) := bitsOf ty (x.el wide f.a.toNat t)
        let b (t : Nat) := bitsOf ty (x.el wide f.b.toNat t)
        let o (t : Nat) := cmpN (decodeF (fmtOf ty) (fpMode cx.h).ftz (a t)) (decodeF (fmtOf ty) (fpMode cx.h).ftz (b t))
        ∀ r ∈ ([(0, [some .eq]), (1, [none, some .lt, some .gt]), (2, [some .lt]), (3, [some .lt, some .eq]), (4, [some .gt]), (5, [some .gt, some .eq]), (6, [none]),
            (7, [some .lt, some .eq, some .gt])] : List (Nat × List (Option Ordering))), f.c.toNat = r.1 →
          ∀ m : W64, (∀ t, t < 64 → m.getLsbD t = (decide (t < x.w) && r.2.contains (o t))) →
          let y := x.marks cx.exe wide [(f.l, f.a.toNat), (f.m, f.b.toNat)]
          let es := (cx.lanes x).map (fun t => ({ inv := isSnan (fmtOf ty) (a t) || isSnan (fmtOf ty) (b t) } : Ev))
          Comes (q.1 f) s ((s.setGrp cx.g (y.setP cx.exe f.p.toNat m)).counting cx ty es) cx
          ∧ Comes (q.2.1 f) s ((s.setGrp cx.g (y.setP cx.exe f.p.toNat (m &&& old))).counting cx ty es) cx

/-- R137: SEL takes A where p0 is true and B elsewhere, or the other way round, for every type. -/
def vectorSelectRule : Prop :=
  ∀ (f : FV3) (s : State) (run : Run) (cx : Cx) (ty : Nat), ty = eltType cx 2 → ty < 15 → Issuing s run cx { mode := true, type := true } false →
    let x := s.grp cx.g
    let wide := tyBits ty == 64
    VecOk x cx.exe wide [(f.l, f.a.toNat), (f.m, f.b.toNat)] f.d.toNat →
    let p (t : Nat) : Bool := ((look x.p 0).getD 0#64).getLsbD t
    let y := x.marks cx.exe wide [(f.l, f.a.toNat), (f.m, f.b.toNat)]
    Does (.sel f) s cx (y.result cx.exe f.d.toNat wide (gen x.w (fun t => x.el wide (if p t then f.a.toNat else f.b.toNat) t)))
    ∧ Does (.selNotP0 f) s cx (y.result cx.exe f.d.toNat wide (gen x.w (fun t => x.el wide (if p t then f.b.toNat else f.a.toNat) t)))

/-- R138: PMOV's seven operations; only FROMP has a vector result. -/
def predicateMovesRule : Prop :=
  ∀ (s : State) (run : Run) (cx : Cx), Issuing s run cx {} false →
    let x := s.grp cx.g
    let p (k : BitVec 3) : W64 := (look x.p k.toNat).getD 0#64
    (∀ (f : FPtop) (m : W64), SourcesOk x false [(f.l, f.a.toNat)] → (∀ t, t < 64 → m.getLsbD t = (decide (t < x.w) && x.el32 f.a.toNat t != 0#32)) →
      Does (.pmovTop f) s cx ((x.marks cx.exe false [(f.l, f.a.toNat)]).setP cx.exe f.k.toNat m))
    ∧ (∀ f : FPfrom, DestOk x f.d.toNat 1 →
      Does (.pmovFromp f) s cx (x.result cx.exe f.d.toNat false (gen x.w (fun t => if (p f.k).getLsbD t then 1#64 else 0#64))))
    ∧ (∀ r ∈ ([(.pmovAnd, fun a b => a &&& b), (.pmovOr, fun a b => a ||| b), (.pmovXor, fun a b => a ^^^ b), (.pmovNot, fun _ b => ~~~b)] :
        List ((FPP → Instr) × (W64 → W64 → W64))), ∀ f : FPP, Does (r.1 f) s cx (x.setP cx.exe f.k.toNat (r.2 (p f.k) (p f.j))))
    ∧ (∀ (f : FPfroms) (v : W64), ScalarOk x f.a.toNat v → x.pinned.all (fun e => e.2 != 96 + f.a.toNat) = true →
      Does (.pmovFroms f) s cx ((x.marked cx.exe 1 (if f.l then [96 + f.a.toNat] else [])).setP cx.exe f.k.toNat v))

/-- Vector compares, select and predicate moves (R136 to R138). -/
def Obligations.VectorPredicates : Prop := vectorCompareRule ∧ vectorSelectRule ∧ predicateMovesRule

/-! ## Floating point -/

/-- R57: whatever is rounded without overflow lies where its mode says: at a nearest representable number with ties to even, or the last one
toward zero, up or down. -/
def roundingModesRule : Prop :=
  ∀ f ∈ [f16, bf16, f32, f64], ∀ (rm : Nat) (neg : Bool) (m : Nat) (e : Int), rm < 4 → m ≠ 0 →
    let r := roundF f rm neg m e false
    let val (b : Nat) : Option ℚ := match decodeF f false b with | .fin s k x => some ((if s then -1 else 1) * k * (2 : ℚ) ^ x) | _ => none
    let x : ℚ := (if neg then -1 else 1) * m * (2 : ℚ) ^ e
    r.ovf = false → r.bits < 2 ^ f.width ∧ ∃ v, val r.bits = some v
      ∧ (r.bits / f.signBit = if neg then 1 else 0)
      ∧ (r.inexact = false ↔ v = x)
      ∧ ∀ b w, b < 2 ^ f.width → val b = some w →
        (rm = 0 → |v - x| ≤ |w - x| ∧ (|v - x| = |w - x| → w ≠ v → r.bits % 2 = 0))
        ∧ (rm = 1 → |v| ≤ |x| ∧ (|w| ≤ |x| → |w| ≤ |v|))
        ∧ (rm = 2 → x ≤ v ∧ (x ≤ w → v ≤ w))
        ∧ (rm = 3 → v ≤ x ∧ (w ≤ x → w ≤ v))

/-- R57 and R56: what overflow, SAT and FTZ make of a rounded result, and the events it counts (R151). -/
def roundingOverflowRule : Prop :=
  ∀ f ∈ [f16, bf16, f32, f64], ∀ (md : FpMode) (neg : Bool) (m : Nat) (e : Int), md.rm < 4 →
    let sign := if neg then f.signBit else 0
    let r := roundF f md.rm neg m e false
    (r.ovf = true →
      roundNum f md false (.fin neg m e) = (sign + (if md.sat = false ∧ (md.rm = 0 ∨ (md.rm = 2 ∧ neg = false) ∨ (md.rm = 3 ∧ neg = true)) then f.infBits else f.maxFinite),
        { ovf := true }))
    ∧ (r.ovf = false → md.ftz = true → r.bits % f.signBit < 2 ^ f.mb → r.bits % f.signBit ≠ 0 → roundNum f md false (.fin neg m e) = (sign, { unf := true }))
    ∧ (m ≠ 0 → (2 ^ (f.eb - 1) : Nat) < bitLen m + e → r.ovf = true)

/-- The five rounding modes, and what an overflow rounds to (R56, R57, R151). -/
def Obligations.Rounding : Prop := roundingModesRule ∧ roundingOverflowRule

/-- The two- and three-operand rows of R139 and R141: their default type and types, whether D's old value is read, and the exact result
as a number with whether it is an invalid operation. -/
noncomputable def floatRows : List ((FV3 → Instr) × Nat × List Nat × Bool × (Nat → Machine.Num → Machine.Num → Machine.Num → Machine.Num × Bool)) :=
  [(.fadd, 10, [8, 9, 10], false, fun rm a b _ => (addN rm a b, oppositeInf a b)),
    (.fsub, 10, [8, 9, 10], false, fun rm a b _ => (addN rm a b.neg, oppositeInf a b.neg)),
    (.fmul, 10, [8, 9, 10], false, fun _ a b _ => (mulN a b, zeroTimesInf a b)),
    (.ffma, 10, [8, 9, 10], true, fun rm a b d => (addN rm (mulN a b) d, zeroTimesInf a b || oppositeInf (mulN a b) d)),
    (.fnma, 10, [8, 9, 10], true, fun rm a b d => (addN rm (mulN a b).neg d, zeroTimesInf a b || oppositeInf (mulN a b).neg d)),
    (.dadd, 11, [11], false, fun rm a b _ => (addN rm a b, oppositeInf a b)),
    (.dsub, 11, [11], false, fun rm a b _ => (addN rm a b.neg, oppositeInf a b.neg)),
    (.dmul, 11, [11], false, fun _ a b _ => (mulN a b, zeroTimesInf a b)),
    (.dfma, 11, [11], true, fun rm a b d => (addN rm (mulN a b) d, zeroTimesInf a b || oppositeInf (mulN a b) d)),
    (.dnma, 11, [11], true, fun rm a b d => (addN rm (mulN a b).neg d, zeroTimesInf a b || oppositeInf (mulN a b).neg d))]

/-- R139 and R141: sums, differences, products and fused forms are computed exactly and rounded once; a signalling NaN, ∞ − ∞ and 0 × ∞ are
invalid, whatever the addend; each lane's events are counted in the task. -/
def floatArithmeticRule : Prop :=
  ∀ r ∈ floatRows, ∀ (f : FV3) (s : State) (run : Run) (cx : Cx) (ty : Nat), ty = eltType cx r.2.1 → ty ∈ r.2.2.1 →
    Issuing s run cx { mode := true, type := decide (1 < r.2.2.1.length) } false →
    let x := s.grp cx.g
    let wide := tyBits ty == 64
    VecOk x cx.exe wide [(f.l, f.a.toNat), (f.m, f.b.toNat)] f.d.toNat → (r.2.2.2.1 = true → SourceOk x f.d.toNat (regsOf wide)) →
    let md := fpMode cx.h
    let num (spec t : Nat) : Machine.Num := decodeF (fmtOf ty) md.ftz (bitsOf ty (x.el wide spec t))
    let sn (spec t : Nat) : Bool := isSnan (fmtOf ty) (bitsOf ty (x.el wide spec t))
    let out (t : Nat) : Nat × Ev :=
      let q := r.2.2.2.2 md.rm (num f.a.toNat t) (num f.b.toNat t) (num f.d.toNat t)
      roundNum (fmtOf ty) md (sn f.a.toNat t || sn f.b.toNat t || (r.2.2.2.1 && sn f.d.toNat t) || q.2) q.1
    Comes (r.1 f) s ((s.setGrp cx.g ((x.marks cx.exe wide [(f.l, f.a.toNat), (f.m, f.b.toNat)]).result cx.exe f.d.toNat wide
      (gen x.w (fun t => heldF ty (out t).1)))).counting cx ty ((cx.lanes x).map (fun t => (out t).2))) cx

/-- R139, R140 and R141 for quotients, minima and maxima: FDIV and DDIV round the quotient once, with 0/0 and ∞/∞ invalid and x/0 a division by
zero; FMIN and FMAX pick one of the operands as FTZ leaves them, −0 below +0, and a NaN as the form says. -/
def floatDivideMinMaxRule : Prop :=
  ∀ (f : FV3) (s : State) (run : Run) (cx : Cx), let x := s.grp cx.g
    let md := fpMode cx.h
    let does (i : Instr) (ty : Nat) (out : Nat → Nat × Ev) : Prop :=
      Comes i s ((s.setGrp cx.g ((x.marks cx.exe (tyBits ty == 64) [(f.l, f.a.toNat), (f.m, f.b.toNat)]).result cx.exe f.d.toNat (tyBits ty == 64)
        (gen x.w (fun t => heldF ty (out t).1)))).counting cx ty ((cx.lanes x).map (fun t => (out t).2))) cx
    let ready (ty : Nat) : Prop := VecOk x cx.exe (tyBits ty == 64) [(f.l, f.a.toNat), (f.m, f.b.toNat)] f.d.toNat
    let b (ty spec t : Nat) : Nat := bitsOf ty (x.el (tyBits ty == 64) spec t)
    let num (ty spec t : Nat) : Machine.Num := decodeF (fmtOf ty) md.ftz (b ty spec t)
    let inv (ty t : Nat) : Bool := isSnan (fmtOf ty) (b ty f.a.toNat t) || isSnan (fmtOf ty) (b ty f.b.toNat t)
    (∀ q ∈ ([(.fdiv, 10, [8, 9, 10]), (.ddiv, 11, [11])] : List ((FV3 → Instr) × Nat × List Nat)),
      ∀ ty, ty = eltType cx q.2.1 → ty ∈ q.2.2 → Issuing s run cx { mode := true, type := decide (1 < q.2.2.length) } false → ready ty →
      ∃ out : Nat → Nat × Ev, does (q.1 f) ty out ∧ ∀ t, match num ty f.a.toNat t, num ty f.b.toNat t with
        | .nan, _ | _, .nan => out t = ((fmtOf ty).nanBits, { inv := inv ty t })
        | .inf _, .inf _ => out t = ((fmtOf ty).nanBits, { inv := true })
        | .inf a, .fin c _ _ => out t = ((if a != c then (fmtOf ty).signBit else 0) + (fmtOf ty).infBits, { inv := false })
        | .fin a _ _, .inf c => out t = (if a != c then (fmtOf ty).signBit else 0, {})
        | .fin a m e, .fin c n k =>
          if n = 0 then out t = if m = 0 then ((fmtOf ty).nanBits, { inv := true })
            else ((if a != c then (fmtOf ty).signBit else 0) + (fmtOf ty).infBits, { dz := true })
          else out t = Machine.finish (fmtOf ty) md (divF (fmtOf ty) md.rm (.fin a m e) (.fin c n k)))
    ∧ ∀ q ∈ ([(.fmin, false, false), (.fminnan, false, true), (.fmax, true, false), (.fmaxnan, true, true)] : List ((FV3 → Instr) × Bool × Bool)),
        ∀ ty, ty = eltType cx 10 → ty ∈ [8, 9, 10] → Issuing s run cx { mode := true, type := true } false → ready ty →
        ∃ v : Nat → Nat, does (q.1 f) ty (fun t => (v t, { inv := inv ty t }))
          ∧ ∀ t, let a := flushed (fmtOf ty) md (b ty f.a.toNat t)
            let c := flushed (fmtOf ty) md (b ty f.b.toNat t)
            match num ty f.a.toNat t, num ty f.b.toNat t with
            | .nan, .nan => v t = (fmtOf ty).nanBits
            | .nan, _ => v t = if q.2.2 then (fmtOf ty).nanBits else c
            | _, .nan => v t = if q.2.2 then (fmtOf ty).nanBits else a
            | na, nc => (v t = a ∨ v t = c) ∧
                (cmpN na nc = some .lt → v t = if q.2.1 then c else a) ∧ (cmpN na nc = some .gt → v t = if q.2.1 then a else c)
                ∧ (cmpN na nc = some .eq → a ≠ c → v t = if q.2.1 then 0 else (fmtOf ty).signBit)

/-- Floating-point arithmetic, division, minimum and maximum (R139 to R141). -/
def Obligations.FloatOperations : Prop := floatArithmeticRule ∧ floatDivideMinMaxRule

/-- The functions of R142 and R144 that R143 does not bound: name, function of the format, the mode and the pattern. -/
noncomputable def exactFuns : List ((FV2 → Instr) × Option (FV2 → Instr) × (Fmt → FpMode → Nat → Nat × Ev)) :=
  let sign (r : Fmt → Nat → Nat) : Fmt → FpMode → Nat → Nat × Ev := fun f m a =>
    if (decodeF f false a).isNan then (f.nanBits, { inv := isSnan f a }) else (r f (flushed f m a), {})
  let whole (rm : FpMode → Nat) : Fmt → FpMode → Nat → Nat × Ev := fun f m a =>
    match decodeF f m.ftz a with
    | .nan => (f.nanBits, { inv := isSnan f a })
    | .inf _ => (a, {})
    | .fin s k e => ((roundF f 0 s (intOf (rm m) s k e).natAbs 0 false).bits, {})
  [(.funAbs, some .dunAbs, sign (fun f a => a % f.signBit)), (.funNeg, some .dunNeg, sign (fun f a => if f.signBit ≤ a then a - f.signBit else a + f.signBit)),
    (.funSqrt, some .dunSqrt, fun f m a =>
      match decodeF f m.ftz a with
      | .nan => (f.nanBits, { inv := isSnan f a })
      | .inf s => if s then (f.nanBits, { inv := true }) else (f.infBits, {})
      | .fin s k e => if k = 0 then (if s then f.signBit else 0, {}) else if s then (f.nanBits, { inv := true }) else Machine.finish f m (sqrtF f m.rm (.fin s k e))),
    (.funFloor, some .dunFloor, whole (fun _ => 3)), (.funCeil, some .dunCeil, whole (fun _ => 2)), (.funTrunc, some .dunTrunc, whole (fun _ => 1)),
    (.funRint, some .dunRint, whole (fun m => m.rm)),
    (.funFrac, none, fun f m a =>
      match decodeF f m.ftz a with
      | .nan => (f.nanBits, { inv := isSnan f a })
      | .inf _ => (f.nanBits, { inv := true })
      | .fin s k e =>
        if 0 ≤ e then (0, {})
        else roundNum f m false (.fin false ((if s then -(k : Int) else (k : Int)) % (2 ^ (-e).toNat : Nat)).toNat e))]

/-- R142, R143 and R144: every function of FUN and DUN completes for every operand; the functions that R143 bounds (rcp to tanh) give, for f16 and
bf16, the FP32 function rounded by RNE; their NaN, infinity and zero cases and the other functions are exact. Beside the rules it rests on the model's own readings: log entry 39. -/
def Obligations.FloatFunctions : Prop :=
  ∀ (f : FV2) (s : State) (run : Run) (cx : Cx), let x := s.grp cx.g
    let md := fpMode cx.h
    let does (i : Instr) (ty : Nat) (out : Nat → Nat × Ev) : Prop :=
      Comes i s ((s.setGrp cx.g ((x.marks cx.exe (tyBits ty == 64) [(f.l, f.a.toNat)]).result cx.exe f.d.toNat (tyBits ty == 64)
        (gen x.w (fun t => heldF ty (out t).1)))).counting cx ty ((cx.lanes x).map (fun t => (out t).2))) cx
    let ready (ty : Nat) : Prop := VecOk x cx.exe (tyBits ty == 64) [(f.l, f.a.toNat)] f.d.toNat
    let b (ty t : Nat) : Nat := bitsOf ty (x.el (tyBits ty == 64) f.a.toNat t)
    (∀ ty, ty = eltType cx 10 → ty ∈ [8, 9, 10] → Issuing s run cx { mode := true, type := true } false → ready ty →
      (∀ r ∈ exactFuns, does (r.1 f) ty (fun t => r.2.2 (fmtOf ty) md (b ty t)))
      ∧ ∀ r ∈ ([(.funRcp, 3), (.funRsq, 4), (.funExp2, 5), (.funLog2, 6), (.funSin, 7), (.funCos, 8), (.funTanh, 9)] : List ((FV2 → Instr) × Nat)),
          ∃ fn : Nat → Nat × Ev, does (r.1 f) ty (fun t =>
              if ty = 10 then fn (b ty t)
              else
                let c := roundNum f32 md (isSnan (fmtOf ty) (b ty t)) (decodeF (fmtOf ty) md.ftz (b ty t))
                let y := fn c.1
                let z := roundNum (fmtOf ty) { md with rm := 0 } (isSnan f32 y.1) (decodeF f32 md.ftz y.1)
                (z.1, (c.2.or y.2).or z.2))
            ∧ ∀ a, a < 2 ^ 32 → match decodeF f32 md.ftz a with
              | .nan => fn a = (f32.nanBits, { inv := isSnan f32 a })
              | .inf neg => ∀ z ∈ ([(3, fn a = (if neg then f32.signBit else 0, {})), (4, fn a = if neg then (f32.nanBits, { inv := true }) else (0, {})),
                  (5, fn a = (if neg then 0 else f32.infBits, {})), (6, fn a = if neg then (f32.nanBits, { inv := true }) else (f32.infBits, {})),
                  (7, fn a = (f32.nanBits, { inv := true })), (8, fn a = (f32.nanBits, { inv := true })),
                  (9, fn a = ((if neg then f32.signBit else 0) + 0x3F800000, {}))] : List (Nat × Prop)), r.2 = z.1 → z.2
              | .fin neg m _ =>
                (m = 0 → ∀ z ∈ ([(3, fn a = ((if neg then f32.signBit else 0) + f32.infBits, { dz := true })), (4, fn a = ((if neg then f32.signBit else 0) + f32.infBits, { dz := true })),
                    (5, fn a = (0x3F800000, {})), (6, fn a = (f32.signBit + f32.infBits, { dz := true })), (7, fn a = (if neg then f32.signBit else 0, {})), (8, fn a = (0x3F800000, {})),
                    (9, fn a = (if neg then f32.signBit else 0, {}))] : List (Nat × Prop)), r.2 = z.1 → z.2)
                ∧ (m ≠ 0 → neg = true → r.2 = 4 ∨ r.2 = 6 → fn a = (f32.nanBits, { inv := true })))
    ∧ (∀ r ∈ exactFuns, ∀ c, r.2.1 = some c → eltType cx 11 = 11 → Issuing s run cx { mode := true } false → ready 11 →
        does (c f) 11 (fun t => r.2.2 f64 md (b 11 t)))

/-! ## Conversions -/

/-- R67 and R68: every conversion of CVT completes for every value; a clamp of a float and a NaN are invalid operations of the source's format. -/
def conversionsRule : Prop :=
  ∀ (f : FCvt) (s : State) (run : Run) (cx : Cx), Issuing s run cx { mode := true } false →
    let x := s.grp cx.g
    let src := f.t.toNat
    let dst := if f.g.toNat < 4 then f.g.toNat + (if f.u then 4 else 0) else f.g.toNat + 4
    src < 12 → (4 ≤ f.g.toNat → f.u = false) →
    SourcesOk x (tyBits src == 64) [(f.l, f.a.toNat)] → (tyBits dst = 64 → f.d.toNat < 88 → f.d.toNat % 2 = 0) →
    let y := x.marks cx.exe (tyBits src == 64) [(f.l, f.a.toNat)]
    DestOk y f.d.toNat (regsOf (tyBits dst == 64)) →
    let md := fpMode cx.h
    let el (t : Nat) : W64 := x.el (tyBits src == 64) f.a.toNat t
    let num (t : Nat) : Machine.Num := decodeF (fmtOf src) md.ftz (bitsOf src (el t))
    let clamp (i : Int) : Int := max (least dst) (min (greatest dst) i)
    let int (i : Int) : W64 := heldAs dst (BitVec.ofInt _ i)
    let out (t : Nat) : W64 × Ev :=
      if src < 8 then
        if dst < 8 then (int (if saturates cx then clamp (numOf src (el t)) else numOf src (el t)), {})
        else let r := roundNum (fmtOf dst) md false (.fin (decide (numOf src (el t) < 0)) (numOf src (el t)).natAbs 0)
          (heldF dst r.1, r.2)
      else if dst < 8 then
        match num t with
        | .nan => (0#64, { inv := true })
        | .inf neg => (int (if neg then least dst else greatest dst), { inv := true })
        | .fin neg m e => (int (clamp (intOf md.rm neg m e)), { inv := clamp (intOf md.rm neg m e) != intOf md.rm neg m e })
      else let r := roundNum (fmtOf dst) md (isSnan (fmtOf src) (bitsOf src (el t))) (num t)
        (heldF dst r.1, r.2)
    Comes (.cvt f) s ((s.setGrp cx.g (y.result cx.exe f.d.toNat (tyBits dst == 64) (gen x.w (fun t => (out t).1)))).counting cx (if dst < 8 then src else dst)
      ((cx.lanes x).map (fun t => (out t).2))) cx

/-- R69: CVTN rounds A plus the residue of q, to nearest, into the type, clamped or at its largest finite number, and leaves what is left over in q,
in the executing threads; y0 takes the result. -/
def narrowWithResidueRule : Prop :=
  ∀ (f : FCvtn) (s : State) (run : Run) (cx : Cx) (ty : Nat), Issuing s run cx { mode := true, type := true } false → ty = eltType cx 9 → ty ∈ [0, 1, 4, 5, 8, 9] →
    let x := s.grp cx.g
    VecOk x cx.exe false [(f.l, f.a.toNat), (false, 80 + f.c.toNat)] f.d.toNat → f.d.toNat ≠ 80 + f.c.toNat →
    let md : FpMode := { ftz := (fpMode cx.h).ftz }
    let flush (v : Nat) : Machine.Num := decodeF f32 md.ftz v
    let xp (t : Nat) : Nat × Ev := roundNum f32 {} (isSnan f32 (x.el32 f.a.toNat t).toNat || isSnan f32 (x.el32 (80 + f.c.toNat) t).toNat
        || oppositeInf (flush (x.el32 f.a.toNat t).toNat) (flush (x.el32 (80 + f.c.toNat) t).toNat))
      (addN 0 (flush (x.el32 f.a.toNat t).toNat) (flush (x.el32 (80 + f.c.toNat) t).toNat))
    ∃ y r : Nat → Nat, ∃ ev : Nat → Ev,
      (∀ t, match decodeF f32 false (xp t).1 with
        | .nan => y t = (if ty < 8 then 0 else (fmtOf ty).nanBits) ∧ r t = 0 ∧ ev t = (xp t).2
        | .inf neg => r t = 0 ∧ ev t = (xp t).2
            ∧ y t = (if ty < 8 then (BitVec.ofInt (tyBits ty) (if neg then least ty else greatest ty)).toNat else (if neg then (fmtOf ty).signBit else 0) + (fmtOf ty).maxFinite)
        | .fin neg m e =>
          if ty < 8 then
            let i := max (least ty) (min (greatest ty) (intOf 0 neg m e))
            y t = (BitVec.ofInt (tyBits ty) i).toNat ∧ r t = (roundNum f32 md false (addN 0 (.fin neg m e) (.fin (decide (0 < i)) i.natAbs 0))).1
          else
            let b := roundNum (fmtOf ty) { md with sat := true } false (.fin neg m e)
            y t = b.1 ∧ r t = (roundNum f32 md false (addN 0 (.fin neg m e) (decodeF (fmtOf ty) false b.1).neg)).1)
      ∧ Comes (.cvtn f) s ((s.setGrp cx.g (((x.marks cx.exe false [(f.l, f.a.toNat)]).result cx.exe f.d.toNat false
            (gen x.w (fun t => if ty < 8 then heldAs ty (BitVec.ofNat _ (y t)) else heldF ty (y t)))).setV cx.exe (80 + f.c.toNat) (gen x.w (fun t => BitVec.ofNat 32 (r t))))).counting cx
          (if ty < 8 then 10 else ty) ((cx.lanes x).map ev)) cx

/-- CVT and CVTN (R67 to R69). Beside the rules it rests on the model's own readings: log entries 101, 102, 106 and 107. -/
def Obligations.NumberConversions : Prop := conversionsRule ∧ narrowWithResidueRule

/-- R70 and R71: CVTB's header form writes sixteen registers a lane, byte 0 the kind of m bits, byte 1 the least scale that fits the magnitude,
every other byte zero; the pack form writes the block of the chapter's formula and, with EF, the residues; neither has a vector result, and a
control word outside its limits is an ILLEGAL_OPERAND. CVTM (R72) converts to a mass. Beside the rules it rests on the model's own readings: log entry 102. -/
def Obligations.BlocksAndMasses : Prop :=
  ∀ (s : State) (run : Run) (cx : Cx), let x := s.grp cx.g
    let md := fpMode cx.h
    let sixteen (z : Group) (d : Nat) (blk : Nat → Nat) : Group :=
      (List.range 16).foldl (fun y k => y.setV cx.exe (d + k) (gen x.w (fun t => BitVec.ofNat 32 (blk t / 2 ^ (32 * k))))) z
    (∀ (f : FCvtb) (ctl : W64), Issuing s run cx { mode := true } false → x.pinned = [] → ScalarOk x f.c.toNat ctl →
      let m := bits ctl.toNat 3 0
      let legal : Prop := 2 ≤ m ∧ m ≤ 8 ∧ bits ctl.toNat 31 17 = 0
      let block (z : Group) (d : Nat) : Prop := d % 16 = 0 ∧ d ≤ 64 ∧ ∀ k < 16, isMapped z (d + k) = true ∧ pendingReg z (d + k) = none
      (block x f.d.toNat → ¬ legal → SourcesOk x false [(f.l, f.a.toNat)] → Traps (.cvtbHdr f) s run cx 2 0#64)
      ∧ (∀ y, y = x.marked cx.exe ([f.l, f.m].countP id) ((if f.l then specMark true f.a.toNat 1 else []) ++ (if f.m then [96 + f.c.toNat] else [])) →
        SourcesOk x false [(f.l, f.a.toNat)] → block y f.d.toNat → legal →
        ∃ e : Nat → Int, (∀ t, -128 ≤ e t ∧ e t ≤ 127 ∧ match decodeF f32 md.ftz (x.el32 f.a.toNat t).toNat with
            | .nan => e t = -128
            | .inf _ => e t = 127
            | .fin _ k p => -127 ≤ e t ∧ (∀ i : Int, -127 ≤ i → i < e t → 2 ^ (m - 1) ≤ intOf 0 false k (p - i)) ∧ (e t < 127 → intOf 0 false k (p - e t) < 2 ^ (m - 1)))
          ∧ Comes (.cvtbHdr f) s ((s.setGrp cx.g (sixteen y f.d.toNat (fun t => 0x20 + m + 256 * (e t % 256).toNat))).counting cx 10
              ((cx.lanes x).map (fun t => ({ inv := isSnan f32 (x.el32 f.a.toNat t).toNat } : Ev)))) cx)
      ∧ (let c := bits ctl.toNat 15 12 + 1
        let j := bits ctl.toNat 11 4
        let ef := bits ctl.toNat 16 16 == 1
        f.a.toNat < 80 → f.a.toNat + c ≤ 80 → (∀ k < c, SourceOk x (f.a.toNat + k) 1) → block x f.d.toNat → (∀ k < 16, SourceOk x (f.d.toNat + k) 1) →
        (∀ k < 8, pendingReg x (80 + k) = none) →
        ∀ y, y = x.marked cx.exe ([f.l, f.m].countP id) ((if f.l then gen c (fun i => f.a.toNat + i) else []) ++ (if f.m then [96 + f.c.toNat] else [])) → block y f.d.toNat →
        (legal → j + c ≤ 496 / m → (ef = true → c ≤ 8) →
          let k : BlockCtl := { m := m, j := j, c := c, ef := ef, ok := true }
          let out (t : Nat) := packBlock k md.ftz (((List.range 16).map (fun i => (x.el32 (f.d.toNat + i) t).toNat * 2 ^ (32 * i))).sum)
            (gen c (fun i => (x.el32 (f.a.toNat + i) t).toNat)) (if ef then gen c (fun i => (x.el32 (80 + i) t).toNat) else [])
          let qs (z : Group) : Group := if ef then (List.range c).foldl (fun z i =>
              z.setV (cx.exe &&& maskOf x.w (fun t => (out t).2.1.any (fun r => r.1 == i))) (80 + i)
                (gen x.w (fun t => BitVec.ofNat 32 ((((out t).2.1.find? (fun r => r.1 == i)).map (·.2)).getD 0)))) z else z
          Comes (.cvtb f) s ((s.setGrp cx.g (qs (sixteen y f.d.toNat (fun t => (out t).1)))).counting cx 10 ((cx.lanes x).map (fun t => (out t).2.2))) cx)
        ∧ (¬ legal ∨ 496 / m < j + c ∨ (ef = true ∧ 8 < c) → Traps (.cvtb f) s run cx 2 0#64)))
    ∧ (∀ (f : FVK8) (k : Int), Issuing s run cx { imm := 2, mode := true } false → VecOk x cx.exe false [(f.l, f.a.toNat)] f.d.toNat →
      ((cx.h.imm = [] ∧ k = f.k.toInt) ∨ (∃ h, cx.h.imm = [h] ∧ k = (h ++ f.k).toInt) ∨ (∃ h g, cx.h.imm = [h, g] ∧ k = (h ++ g ++ f.k).toInt)) →
      let mass (t : Nat) : Nat × Ev :=
        match decodeF f32 md.ftz (x.el32 f.a.toNat t).toNat with
        | .nan => (0, { inv := true })
        | .inf neg => if neg then (0, { inv := true }) else (2 ^ 20 - 1, {})
        | .fin neg m e => if neg && m != 0 then (0, { inv := true }) else (min (intOf 0 false m (e + k)).toNat (2 ^ 20 - 1), {})
      Comes (.cvtm f) s ((s.setGrp cx.g ((x.marks cx.exe false [(f.l, f.a.toNat)]).result cx.exe f.d.toNat false
        (gen x.w (fun t => BitVec.ofNat 64 (mass t).1)))).counting cx 10 ((cx.lanes x).map (fun t => (mass t).2))) cx)

/-! ## Cross-lane instructions -/

/-- R145 and R146: each executing thread takes the element its source thread's register held before the instruction, whether that thread
executes or not; an index outside SHFLI's limits is an ILLEGAL_OPERAND. -/
def shufflesRule : Prop :=
  ∀ (s : State) (run : Run) (cx : Cx) (ty : Nat), ty = eltType cx 2 → ty < 15 → Issuing s run cx { mode := true, type := true } false →
    let x := s.grp cx.g
    let wide := tyBits ty == 64
    x.w ∈ [16, 32, 64] →
    (∀ f : FV3, SourcesOk x wide [(f.l, f.a.toNat)] → SourcesOk x false [(f.m, f.b.toNat)] → (wide = true → f.d.toNat < 88 → f.d.toNat % 2 = 0) →
      let y := x.marked cx.exe ([f.l, f.m].countP id) (specMark f.l f.a.toNat (regsOf wide) ++ specMark f.m f.b.toNat 1)
      DestOk y f.d.toNat (regsOf wide) →
      let from_ (src : Nat → Nat) : Group := y.result cx.exe f.d.toNat wide (gen x.w (fun t => x.el wide f.a.toNat (src t)))
      Does (.shflAbs f) s cx (from_ (fun t => (x.el32 f.b.toNat t).toNat % x.w))
      ∧ Does (.shflRel f) s cx (from_ (fun t => (((t : Int) + (x.el32 f.b.toNat t).toInt) % (x.w : Int)).toNat)))
    ∧ ∀ f : FVK6, VecOk x cx.exe wide [(f.l, f.a.toNat)] f.d.toNat →
      let k := f.k.toNat
      let from_ (src : Nat → Nat) : Group := (x.marks cx.exe wide [(f.l, f.a.toNat)]).result cx.exe f.d.toNat wide (gen x.w (fun t => x.el wide f.a.toNat (src t)))
      ∀ r ∈ ([(.shfliBc, decide (k < x.w), fun _ => k), (.shfliRot, decide (k < x.w), fun t => (t + k) % x.w),
          (.shfliRev, decide (1 ≤ k ∧ 2 ^ k ≤ x.w), fun t => t / 2 ^ k * 2 ^ k + (2 ^ k - 1 - t % 2 ^ k)),
          (.shfliSwap, decide (2 ^ (k + 1) ≤ x.w), fun t => if t / 2 ^ k % 2 = 0 then t + 2 ^ k else t - 2 ^ k)] : List ((FVK6 → Instr) × Bool × (Nat → Nat))),
        (r.2.1 = true → Does (r.1 f) s cx (from_ r.2.2)) ∧ (r.2.1 = false → Traps (r.1 f) s run cx 2 0#64)

/-- R147: VOTE's seven censuses of a predicate over the executing threads, into a scalar. -/
def votesRule : Prop :=
  ∀ (f : FVote) (s : State) (run : Run) (cx : Cx), Issuing s run cx {} false → pendingReg (s.grp cx.g) (96 + f.d.toNat) = none → (s.grp cx.g).w ≤ 64 →
    cx.exe &&& ~~~fullMask (s.grp cx.g).w = 0#64 →
    let x := s.grp cx.g
    let yes := (cx.lanes x).filter (fun t => ((look x.p f.p.toNat).getD 0#64).getLsbD t)
    (∃ m : W64, (∀ t, t < 64 → m.getLsbD t = yes.contains t) ∧ Does (.voteMask f) s cx (x.setS f.d.toNat m))
    ∧ ∀ r ∈ ([(.voteCount, yes.length), (.voteFirst, yes.head?.getD 64), (.voteLast, yes.getLast?.getD 64), (.voteParity, yes.length % 2),
        (.voteFull, if yes = cx.lanes x then 1 else 0), (.voteEmpty, if yes = [] then 1 else 0)] : List ((FVote → Instr) × Nat)),
      Does (r.1 f) s cx (x.setS f.d.toNat (BitVec.ofNat 64 r.2))

/-- The operators of R148 on numbers of a type, and their identities. -/
noncomputable def reduceRows : List ((FRedux → Instr) × (FScan → Instr) × (Nat → Int → Int → Int) × (Nat → Int)) :=
  let bitwise (r : (n : Nat) → BitVec n → BitVec n → BitVec n) (ty : Nat) (a b : Int) : Int := numOf ty (heldAs ty (r _ (BitVec.ofInt _ a) (BitVec.ofInt _ b)))
  [(.reduxAdd, .scanAdd, fun _ a b => a + b, fun _ => 0), (.reduxMin, .scanMin, fun _ a b => min a b, greatest), (.reduxMax, .scanMax, fun _ a b => max a b, least),
    (.reduxAnd, .scanAnd, bitwise (fun _ a b => a &&& b), fun ty => numOf ty (heldAs ty (BitVec.allOnes _))), (.reduxOr, .scanOr, bitwise (fun _ a b => a ||| b), fun _ => 0),
    (.reduxXor, .scanXor, bitwise (fun _ a b => a ^^^ b), fun _ => 0)]

/-- R148 and R149 for the integer types: the tree's and the prefix's exact values over the executing threads of each segment, wrapped, or clamped once
under SAT for ADD, which sets SATD where a written result changes; EMPTY gives the identity; a scalar takes the value extended by its type. -/
def integerReductionsRule : Prop :=
  ∀ r ∈ reduceRows, ∀ (s : State) (run : Run) (cx : Cx) (ty : Nat), ty = eltType cx 2 → ty < 8 → Issuing s run cx { mode := true, type := true } false →
    let x := s.grp cx.g
    let wide := tyBits ty == 64
    x.w ∈ [16, 32, 64] → cx.exe &&& ~~~fullMask x.w = 0#64 →
    let k (seg : BitVec 3) : Nat := if seg = 0#3 then Nat.log2 x.w else seg.toNat
    let src (a t : Nat) : Option Int := if t < x.w ∧ cx.exe.getLsbD t then some (numOf ty (x.el wide a t)) else none
    let clamp (i : Int) : Int := if saturates cx then max (least ty) (min (greatest ty) i) else i
    let put (y : Group) (d : Nat) (v : Nat → Int) : Group :=
      (y.result cx.exe d wide (gen x.w (fun t => heldAs ty (BitVec.ofInt _ (clamp (v t)))))).sticky ((cx.lanes x).any (fun t => clamp (v t) != v t)) 16#64
    (∀ f : FRedux, f.s ≠ 7#3 → (f.s ≠ 0#3 → 2 ^ f.s.toNat ≤ x.w) →
      (f.d.toNat ≤ 88 → VecOk x cx.exe wide [(f.l, f.a.toNat)] f.d.toNat →
        Does (r.1 f) s cx (put (x.marks cx.exe wide [(f.l, f.a.toNat)]) f.d.toNat (fun t => (nodeOf (r.2.2.1 ty) (src f.a.toNat) (k f.s) (t / 2 ^ k f.s)).getD (r.2.2.2 ty))))
      ∧ (96 ≤ f.d.toNat → f.s = 0#3 → SourcesOk x wide [(f.l, f.a.toNat)] → pendingReg x f.d.toNat = none →
        ∀ v, nodeOf (r.2.2.1 ty) (src f.a.toNat) (k f.s) 0 = some v →
        Does (r.1 f) s cx (((x.marks cx.exe wide [(f.l, f.a.toNat)]).setS (f.d.toNat - 96)
          (BitVec.ofInt 64 (numOf ty (heldAs ty (BitVec.ofInt _ (clamp v)))))).sticky (clamp v != v) 16#64)))
    ∧ ∀ f : FScan, f.s ≠ 7#3 → (f.s ≠ 0#3 → 2 ^ f.s.toNat ≤ x.w) → VecOk x cx.exe wide [(f.l, f.a.toNat)] f.d.toNat →
      let n := 2 ^ k f.s
      let z (t : Nat) : Option Int := prefixOf (r.2.2.1 ty) (src f.a.toNat) n (k f.s) t
      Does (r.2.1 f) s cx (put (x.marks cx.exe wide [(f.l, f.a.toNat)]) f.d.toNat
        (fun t => ((if f.e then (if t % n = 0 then none else z (t - 1)) else z t)).getD (r.2.2.2 ty)))

/-- R148 and R149 for the floating-point types: ADD, MIN and MAX by the same tree and prefix, rounded at every combination, each event counted at
most once for the whole instruction. -/
def floatReductionsRule : Prop :=
  ∀ r ∈ ([(.reduxAdd, .scanAdd, fpAdd, fun _ => 0), (.reduxMin, .scanMin, fun f m => fpMinMax f m false false, fun f => f.infBits),
      (.reduxMax, .scanMax, fun f m => fpMinMax f m true false, fun f => f.signBit + f.infBits)] :
      List ((FRedux → Instr) × (FScan → Instr) × (Fmt → FpMode → Nat → Nat → Nat × Ev) × (Fmt → Nat))),
    ∀ (s : State) (run : Run) (cx : Cx) (ty : Nat), ty = eltType cx 2 → ty ∈ [8, 9, 10, 11] → Issuing s run cx { mode := true, type := true } false →
    let x := s.grp cx.g
    let wide := tyBits ty == 64
    let fm := fmtOf ty
    let md := fpMode cx.h
    x.w ∈ [16, 32, 64] → cx.exe &&& ~~~fullMask x.w = 0#64 →
    let k (seg : BitVec 3) : Nat := if seg = 0#3 then Nat.log2 x.w else seg.toNat
    let src (a t : Nat) : Option (Nat × Ev) :=
      let b := bitsOf ty (x.el wide a t)
      if t < x.w ∧ cx.exe.getLsbD t then some (flushed fm md b, { inv := isSnan fm b }) else none
    let op (p q : Nat × Ev) : Nat × Ev := let v := r.2.2.1 fm md p.1 q.1; (v.1, (p.2.or q.2).or v.2)
    let out (n : Option (Nat × Ev)) : Nat := match n with
      | none => r.2.2.2 fm
      | some v => if (decodeF fm false v.1).isNan then fm.nanBits else v.1
    let all (l : List (Option (Nat × Ev))) : Ev := l.foldl (fun e n => match n with | some v => e.or v.2 | none => e) {}
    (∀ f : FRedux, f.s ≠ 7#3 → (f.s ≠ 0#3 → 2 ^ f.s.toNat ≤ x.w) →
      let node (j : Nat) := nodeOf op (src f.a.toNat) (k f.s) j
      let ev := all ((List.range (x.w / 2 ^ k f.s)).map node)
      (f.d.toNat ≤ 88 → VecOk x cx.exe wide [(f.l, f.a.toNat)] f.d.toNat →
        Comes (r.1 f) s ((s.setGrp cx.g ((x.marks cx.exe wide [(f.l, f.a.toNat)]).result cx.exe f.d.toNat wide
          (gen x.w (fun t => heldF ty (out (node (t / 2 ^ k f.s))))))).counting cx ty [ev]) cx)
      ∧ (96 ≤ f.d.toNat → f.s = 0#3 → SourcesOk x wide [(f.l, f.a.toNat)] → pendingReg x f.d.toNat = none →
        Comes (r.1 f) s ((s.setGrp cx.g ((x.marks cx.exe wide [(f.l, f.a.toNat)]).setS (f.d.toNat - 96) (heldF ty (out (node 0))))).counting cx ty [ev]) cx))
    ∧ ∀ f : FScan, f.s ≠ 7#3 → (f.s ≠ 0#3 → 2 ^ f.s.toNat ≤ x.w) → VecOk x cx.exe wide [(f.l, f.a.toNat)] f.d.toNat →
      let n := 2 ^ k f.s
      let z (t : Nat) := prefixOf op (src f.a.toNat) n (k f.s) t
      Comes (r.2.1 f) s ((s.setGrp cx.g ((x.marks cx.exe wide [(f.l, f.a.toNat)]).result cx.exe f.d.toNat wide
        (gen x.w (fun t => heldF ty (out (if f.e then (if t % n = 0 then none else z (t - 1)) else z t)))))).counting cx ty [all ((List.range x.w).map z)]) cx

/-- Integer and floating-point REDUX and SCAN (R148, R149). -/
def Obligations.Reductions : Prop := integerReductionsRule ∧ floatReductionsRule

/-- R150: MATCH tells each executing thread the rank, size, lowest and highest thread of its class of keys. -/
def matchClassesRule : Prop :=
  ∀ (f : FV3) (s : State) (run : Run) (cx : Cx), Issuing s run cx {} false →
    let x := s.grp cx.g
    x.w ≤ 64 → VecOk x cx.exe false [(f.l, f.a.toNat), (f.m, f.b.toNat)] f.d.toNat →
    ∀ r ∈ ([(.matchPair, fun a b => a ++ b), (.matchMask, fun a b => (a &&& b).setWidth 64)] : List ((FV3 → Instr) × (W32 → W32 → W64))),
      let key (t : Nat) : W64 := r.2 (x.el32 f.a.toNat t) (x.el32 f.b.toNat t)
      let same (t : Nat) : List Nat := (cx.lanes x).filter (fun u => key u == key t)
      ∃ v : Nat → W32, (∀ t ∈ cx.lanes x, (v t).extractLsb' 0 8 = BitVec.ofNat 8 ((same t).countP (fun u => decide (u < t))) ∧ (v t).extractLsb' 8 8 = BitVec.ofNat 8 (same t).length
          ∧ (∃ lo ∈ same t, (∀ u ∈ same t, lo ≤ u) ∧ (v t).extractLsb' 16 8 = BitVec.ofNat 8 lo)
          ∧ (∃ hi ∈ same t, (∀ u ∈ same t, u ≤ hi) ∧ (v t).extractLsb' 24 8 = BitVec.ofNat 8 hi))
        ∧ Does (r.1 f) s cx ((x.marks cx.exe false [(f.l, f.a.toNat), (f.m, f.b.toNat)]).result cx.exe f.d.toNat false (gen x.w (fun t => (v t).setWidth 64)))

/-- Shuffles, votes and MATCH (R145 to R147, R150). -/
def Obligations.CrossLane : Prop := shufflesRule ∧ votesRule ∧ matchClassesRule

/-! ## Hints and control -/

/-- R21, R30 and R31: a hint word is gathered for its unit's target, a third HIMM or a second hint of another kind spoils the unit, and where
the run's 24th word would fall inside the unit the run ends before the unit's first hint, which is where a step of the group stops (R395). -/
def hintWordsRule : Prop :=
  ∀ (s : State) (run : Run) (cx : Cx), s.current = some (run, cx) →
    let gathers (i : Instr) (h : Hints) : Prop :=
      (run.words + cx.h.n + 1 < 24 ∨ run.words = 0 →
        exec i s = .next { s with runs := ins s.runs (siteOf (s.grp cx.g)) { run with hints := { h with n := cx.h.n + 1 }, pc := cx.pc + 4#64 } })
      ∧ (24 ≤ run.words + cx.h.n + 1 → run.words ≠ 0 → (s.grp cx.g).stepping = false ∨ (s.grp cx.g).halted = true → exec i s = .next (s.runOver cx.g cx.act))
      ∧ (24 ≤ run.words + cx.h.n + 1 → run.words ≠ 0 → (s.grp cx.g).stepping = true → (s.grp cx.g).halted = false →
        ∃ lead, exec i s = .next ((s.runOver cx.g cx.act).debugStop cx.g evStepdone 0 run.last 0#64 lead))
    (∀ f, gathers (.himm f) { cx.h with imm := cx.h.imm ++ [f.h], bad := cx.h.bad || decide (2 ≤ cx.h.imm.length) })
    ∧ (∀ f, gathers (.hpred f) { cx.h with pred := some f, bad := cx.h.bad || cx.h.pred.isSome })
    ∧ (∀ f, gathers (.hmode f) { cx.h with mode := some f, bad := cx.h.bad || cx.h.mode.isSome })
    ∧ (∀ f, gathers (.hord f) { cx.h with ord := some f, bad := cx.h.bad || cx.h.ord.isSome })
    ∧ (∀ f, gathers (.hcache f) { cx.h with cache := some f, bad := cx.h.bad || cx.h.cache.isSome })
    ∧ (∀ f, gathers (.htype f) { cx.h with type := some f, bad := cx.h.bad || cx.h.type.isSome })

/-- R30, R32 and R424: a unit with a hint its target does not accept, one too many, or an HPRED under an open shadow raises ILLEGAL_INSTRUCTION
and has no effect, shown on NOP, which accepts none but HPRED. -/
def hintMisuseRule : Prop :=
  ∀ (f : FZ) (s : State) (run : Run) (cx : Cx), s.current = some (run, cx) → run.probe = false →
    (cx.h.bad = true ∨ cx.h.imm ≠ [] ∨ cx.h.mode ≠ none ∨ cx.h.ord ≠ none ∨ cx.h.cache ≠ none ∨ cx.h.type ≠ none
      ∨ (cx.h.pred ≠ none ∧ (s.grp cx.g).shadow ≠ none)) → Traps (.nop f) s run cx 1 0#64

/-- R27 and R32: where a shadow or the unit's own HPRED skips every thread, a unit issues without its effect; its last-use marks are ignored, which
sets LUIGN and counts them. Shown on ADD, LDW, STW and EXIT. -/
def skippedUnitsRule : Prop :=
  ∀ (s : State) (run : Run) (cx : Cx), Calm s cx.g → atLoopEnd (s.grp cx.g) cx.pc = false → cx.exe = 0#64 →
    let x := s.grp cx.g
    x.mill = none →
    let skips (i : Instr) (marks : List Bool) : Prop :=
      Does i s cx (if marks.countP id = 0 then x else { x with gstatus := x.gstatus ||| 2#64, luign := satAdd x.luign (marks.countP id) })
    (∀ f : FS3, UnitOk s run cx {} true → skips (.salu0Add f) [f.l, f.m])
    ∧ (∀ f : FML, UnitOk s run cx { imm := 2, ord := true, cache := true, type := true } true → cx.h.ord = none → cx.h.type = none →
        f.a.toNat ≠ 95 → (f.l = true → f.a.toNat < 80) → f.d.toNat < 88 → skips (.ldw f) [f.l, f.k])
    ∧ (∀ f : FMS, UnitOk s run cx { imm := 2, ord := true, cache := true } true → cx.h.ord = none → f.a.toNat ≠ 95 → f.d.toNat ≠ 95 →
        (f.l = true → f.a.toNat < 80) → (f.n = true → f.d.toNat < 80) → skips (.stw f) [f.l, f.k, f.n])
    ∧ (∀ f : FZ, UnitOk s run cx {} true → skips (.exit f) [])

/-- R104, R108, R110 and R119: NOP only goes on; YIELD ends the run too; DRAIN, once every pending result is there, closes every window and puts the
results in place; IFENCE, once the group's ICINVs have completed, forgets the words fetched ahead. -/
def quietWordsRule : Prop :=
  ∀ (f : FZ) (s : State) (run : Run) (cx : Cx), Issuing s run cx {} true → let x := s.grp cx.g
    Does (.nop f) s cx x
    ∧ (∃ t, exec (.yield f) s = .next t ∧ Leaves s t cx cx.next ∧ look t.runs (siteOf x) = none)
    ∧ (x.ops.all (fun o => o.ready || o.dests.isEmpty) = true →
        Does (.drain f) s cx (settle { x with ops := x.ops.map (fun o => { o with win := [] }), wspill := [] }))
    ∧ (x.ops.any (fun o => !o.ready && !o.dests.isEmpty) = true → exec (.drain f) s = .next (s.stopped cx run .stall))
    ∧ (x.icinvs.all (fun i => x.ops.all (fun o => o.id != i || o.ready)) = true → Does (.ifence f) s cx { x with icinvs := [] })

/-- Hint words, their misuse, units that no thread executes, and the words that change nothing (R21, R30 to R32, R104, R108, R110, R119, R424). Beside the rules it rests on the model's own readings: log entry 100. -/
def Obligations.HintsAndSkips : Prop := hintWordsRule ∧ hintMisuseRule ∧ skippedUnitsRule ∧ quietWordsRule

/-- R114, R116, R117 and R119: a branch takes the executing threads whose predicate has the word's sense to pc + 4 × offset; CALL also leaves the
next word's address in v78:v79 of those threads, s63 on a milliner; RET and JMPI take every executing thread to its link or to S[A], and a
target that is no multiple of 4 raises ALIGNMENT. Outside every loop body. -/
def Obligations.Branches : Prop :=
  ∀ (s : State) (run : Run) (cx : Cx), let x := s.grp cx.g
    x.loops = [] →
    let next := cx.pc + 4#64
    (∀ f : FC, Issuing s run cx { imm := 2 } true →
      let target := cx.pc + 4#64 * BitVec.ofInt 64 (widened cx.h f.o)
      let takes (t : Nat) : Bool := hasLane cx.exe t && (!f.u || ((look x.p f.p.toNat).getD 0#64).getLsbD t == f.s)
      let goes (t : Nat) : W64 := if takes t then target else next
      Goes (.bra f) s s cx goes
      ∧ (x.mill = none → x.w ≤ 64 → DestOk x 78 2 → ∀ m : W64, (∀ t, t < 64 → m.getLsbD t = (decide (t < x.w) && takes t)) →
          Goes (.call f) s (s.setGrp cx.g (if m = 0#64 then x else
            (x.setV m 78 (List.replicate x.w (next.setWidth 32))).setV m 79 (List.replicate x.w (next.extractLsb' 32 32)))) cx goes)
      ∧ (x.mill ≠ none → x.w = 1 → pendingReg x 159 = none → Goes (.call f) s (s.setGrp cx.g (if takes 0 then x.setS 63 next else x)) cx goes))
    ∧ (Issuing s run cx {} true →
      (∀ f : FZ, x.mill = none → SourceOk x 78 2 →
        ((∀ t ∈ cx.lanes x, x.el64 78 t &&& 3#64 = 0#64) → Goes (.ret f) s s cx (fun t => if hasLane cx.exe t then x.el64 78 t else next))
        ∧ (∀ bad : W64, (∀ t, t < 64 → bad.getLsbD t = (decide (t ∈ cx.lanes x) && x.el64 78 t &&& 3#64 != 0#64)) → bad ≠ 0#64 →
          ∃ lowest, let a : TrapArgs := { cause := 6, info := bad, pc := cx.upc, set := cx.act, lane := lowest, sitePc := cx.pc, siteSeq := x.cmdseq }
            exec (.ret f) s = .next ((((s.sampleTrap cx run).runOver cx.g cx.act).takeTrap cx.g a).stepTrap cx.g cx.pc) ∧ bad.getLsbD lowest = true ∧ ∀ t, t < lowest → bad.getLsbD t = false))
      ∧ (∀ (f : FZ) (v : W64), x.mill ≠ none → x.w = 1 → ScalarOk x 63 v → v &&& 3#64 = 0#64 → hasLane cx.exe 0 = true → cx.exe &&& ~~~1#64 = 0#64 →
          Goes (.ret f) s s cx (fun _ => v))
      ∧ (∀ (f : FA) (v : W64), ScalarOk x f.a.toNat v → x.pinned.all (fun e => decide (e.2 < 80)) = true → x.mill = none →
        (v &&& 3#64 = 0#64 → Goes (.jmpi f) s (s.setGrp cx.g (x.marked cx.exe 1 (if f.l then [96 + f.a.toNat] else []))) cx (fun t => if hasLane cx.exe t then v else next))
        ∧ (v &&& 3#64 ≠ 0#64 → Traps (.jmpi f) s run cx 6 v)))

/-- R114: a transfer that takes every live thread out of the innermost body pops its level; one that takes only some out raises
LOOP_NEST with TRAPINFO 2. Shown on the unconditional branch. -/
def loopExitsRule : Prop :=
  ∀ (f : FC) (s : State) (run : Run) (cx : Cx) (l : Loop) (more : List Loop), Issuing s run cx { imm := 2 } true → f.u = false →
    let x := s.grp cx.g
    x.loops = more ++ [l] → (∀ k ∈ more, ¬ (k.start.toNat ≤ cx.pc.toNat ∧ cx.pc.toNat ≤ k.stop.toNat)) → l.start.toNat ≤ cx.pc.toNat → cx.pc.toNat ≤ l.stop.toNat →
    cx.exe = cx.act → x.w ≤ 64 → more.length ≤ 2 → cx.act &&& ~~~fullMask x.w = 0#64 →
    let target := cx.pc + 4#64 * BitVec.ofInt 64 (widened cx.h f.o)
    let inside : Prop := l.start.toNat ≤ target.toNat ∧ target.toNat ≤ l.stop.toNat
    (inside → Goes (.bra f) s s cx (fun t => if hasLane cx.exe t then target else cx.pc + 4#64))
    ∧ (¬ inside → cx.act = fullMask x.w &&& ~~~x.exited → (∀ k ∈ more, k.stop ≠ cx.pc) →
        Goes (.bra f) s (s.setGrp cx.g { x with loops := more }) cx (fun t => if hasLane cx.exe t then target else cx.pc + 4#64))
    ∧ (¬ inside → cx.act ≠ fullMask x.w &&& ~~~x.exited → Traps (.bra f) s run cx 11 2#64)

/-- R112 and R113: LOOP with a count pushes a level, or skips the body where the count is 0; a length outside 1 to 256, a fourth level and a body that
ends in a control word are refused as the rule says; a unit at the last word of the innermost body goes back to its start while the count
allows, and otherwise leaves the level, whose count becomes 0. -/
def loopsRule : Prop :=
  (∀ (f : FAI) (s : State) (run : Run) (cx : Cx) (n : W64), Issuing s run cx {} true →
    let x := s.grp cx.g
    let len := f.i.toNat
    ScalarOk x f.a.toNat n → x.mill = none → x.pinned.all (fun e => decide (e.2 < 80)) = true →
    let y := x.marked cx.exe 1 (if f.l then [96 + f.a.toNat] else [])
    (len = 0 ∨ 256 < len → Traps (.loop f) s run cx 2 0#64)
    ∧ (1 ≤ len → len ≤ 256 →
      (n = 0#64 → Goes (.loop f) s (s.setGrp cx.g y) cx (fun t => if hasLane cx.exe t then cx.pc + 4#64 + BitVec.ofNat 64 (4 * len) else cx.pc + 4#64))
      ∧ (n ≠ 0#64 → x.loops.length = 3 → Traps (.loop f) s run cx 11 1#64)
      ∧ (n ≠ 0#64 → x.loops.length < 3 → x.lc.length = 3 → ∀ w u v, (applyMarks cx 1 (if f.l then [96 + f.a.toNat] else [])).run s = .ok ((), v) →
          (fetchWord cx.g (cx.pc + BitVec.ofNat 64 (4 * len))).run v = .ok (w, u) →
          (u.grp cx.g).arch = y.arch → Calm u cx.g → u.runs = s.runs →
          ((w.extractLsb' 24 7).toNat = 0 ∨ 5 < (w.extractLsb' 24 7).toNat →
            let level : Loop := { start := cx.pc + 4#64, stop := cx.pc + BitVec.ofNat 64 (4 * len) }
            Goes (.loop f) s (u.setGrp cx.g { u.grp cx.g with loops := x.loops ++ [level], lc := x.lc.set x.loops.length n }) cx cx.next)
          ∧ (1 ≤ (w.extractLsb' 24 7).toNat → (w.extractLsb' 24 7).toNat ≤ 5 → Traps (.loop f) s run cx 11 3#64))))
  ∧ (∀ (f : FZ) (s : State) (run : Run) (cx : Cx) (more : List Loop) (l : Loop), UnitOk s run cx {} true → Calm s cx.g →
    let x := s.grp cx.g
    let n := x.lc.getD more.length 0#64
    x.loops = more ++ [l] → l.stop = cx.pc → x.lc.length = 3 → more.length < 3 → cx.act ≠ 0#64 →
    ∃ t, exec (.nop f) s = .next t
      ∧ (1 < n.toNat → (t.grp cx.g).loops = x.loops ∧ (t.grp cx.g).lc = x.lc.set more.length (n - 1#64)
          ∧ ∀ u, u < x.w → hasLane cx.act u = true → hasLane x.exited u = false → (t.grp cx.g).pcs.getD u 0#64 = l.start)
      ∧ (n.toNat ≤ 1 → (∀ k ∈ more, k.stop ≠ cx.pc) → (t.grp cx.g).loops = more ∧ (t.grp cx.g).lc = x.lc.set more.length 0#64
          ∧ ∀ u, u < x.w → hasLane cx.act u = true → hasLane x.exited u = false → (t.grp cx.g).pcs.getD u 0#64 = cx.pc + 4#64))

/-- Loop ends and LOOP (R112 to R114). Beside the rules it rests on the model's own readings: log entries 26 and 110. -/
def Obligations.LoopControl : Prop := loopExitsRule ∧ loopsRule

/-- R108, R119, R345, R360 and R394: SLEEP blocks its group for S[A] ticks, 0 being a YIELD; BKPT and TRAP have their trap taken after the unit; TRAPRET returns
from a handler and is illegal outside; an EXIT that leaves threads behind only marks the executing ones, and the last one ends the group, which
gives back every register, its floor and trees, and keeps S[0] as its exit value. Beside the rules it rests on the model's own readings: log entry 27. -/
def Obligations.EndsAndTraps : Prop :=
  ∀ (s : State) (run : Run) (cx : Cx), Issuing s run cx {} true → let x := s.grp cx.g
    x.mill = none → x.pinned.all (fun e => decide (e.2 < 80)) = true →
    (∀ (f : FA) (v : W64), ScalarOk x f.a.toNat v →
      let y := x.marked cx.exe 1 (if f.l then [96 + f.a.toNat] else [])
      Does (.sleep f) s cx (if v = 0#64 then y else { y with wait := .sleep v.toNat }) ∧ TrapsAfter (.trap f) s (s.setGrp cx.g y) cx 13 v 0)
    ∧ (∀ f : FZ,
      ((s.task x.task).attached = false ∨ (s.task x.task).bkptstop = false → TrapsAfter (.bkpt f) s s cx 12 0#64 0)
      ∧ (x.handler = none → Traps (.trapret f) s run cx 1 0#64)
      ∧ (∀ h, x.handler = some h → ∃ v, Leaves s v cx cx.next ∧ (v.grp cx.g).handler = some h ∧ exec (.trapret f) s = .next (v.trapReturn cx.g h cx.pc))
      ∧ (x.exited ||| cx.exe ≠ fullMask x.w → Does (.exit f) s cx { x with exited := x.exited ||| cx.exe })
      ∧ (∀ v, x.exited ||| cx.exe = fullMask x.w → ScalarOk x 0 v → (s.task x.task).tcb.exitarea = 0#64 → (s.task x.task).attached = false → x.events = [] →
          (s.ldev x.ld).trace = none →
          ∃ t, exec (.exit f) s = .next t ∧ (t.grp cx.g).place = .exited ∧ (t.grp cx.g).exited = fullMask x.w ∧ (t.grp cx.g).exitval = v
            ∧ (t.grp cx.g).vval = [] ∧ (t.grp cx.g).sval = [] ∧ (t.grp cx.g).floor = 0 ∧ (t.grp cx.g).trees = [] ∧ look t.runs (siteOf x) = none
            ∧ t.dmem = s.dmem ∧ t.hmem = s.hmem ∧ (t.grp cx.g).sb = x.sb))

/-- R339, R342, R345 and R346: a trap saves TRAPPC, TRAPCAUSE and TRAPINFO, the PCs, the shadow, the loop stack and the loop counts, and sends every thread that has
not exited to the handler, outside every shadow and loop; the return puts them back, the trapping set at TRAPPC; a group without a handler or
inside one halts; nothing else of the group changes. Beside the rules it rests on the model's own readings: log entries 22 and 24. -/
def Obligations.TrapEntryAndReturn : Prop :=
  ∀ (s : State) (g : Nat), let x := s.grp g
    s.sampleRecs = [] →
    let live (t : Nat) : Bool := decide (t < x.w) && !hasLane x.exited t
    (∀ a : TrapArgs, x.w ≤ 64 → (s.ldev x.ld).trace = none → (s.task x.task).attached = false →
      let h := if a.cause = 16 then x.sighandler else x.traphandler
      let t := s.takeTrap g a
      (x.handler = none → h ≠ 0#64 → ∃ e : W64, (∀ k, k < 64 → e.getLsbD k = live k) ∧
        let cause := BitVec.ofNat 64 (a.cause + (if 32 ≤ a.cause then 2 ^ 8 else 0) + a.code * 2 ^ 16 + (if a.cause = 4 ∨ a.cause = 5 then a.level else 0) * 2 ^ 24 + a.lane * 2 ^ 26)
        let kept : Handler := { trapset := a.set, entered := e, resume := x.pcs, shadow := x.shadow, loops := x.loops, lc := x.lc }
        let y : Group := { x with trappc := a.pc, trapinfo := a.info, trapcause := cause, handler := some kept, shadow := none, loops := [], lc := [0#64, 0#64, 0#64] }
        t.grp g = { y with pcs := (List.range x.w).map (fun k => if live k then h else x.pcs.getD k 0#64) }
        ∧ (∀ k, k ≠ g → t.grp k = s.grp k) ∧ look t.runs (siteOf x) = none ∧ t.dmem = s.dmem ∧ t.hmem = s.hmem)
      ∧ (x.handler ≠ none ∨ h = 0#64 → (t.grp g).halted = true ∧ (t.grp g).wait = .none ∧ (t.grp g).pcs = x.pcs ∧ (t.grp g).trappc = x.trappc ∧ look t.runs (siteOf x) = none))
    ∧ ∀ (h : Handler) (pc : W64), let t := s.trapReturn g h pc
      (x.trappc &&& 3#64 = 0#64 →
        let back := (List.range x.w).map (fun k => if hasLane h.entered k && !hasLane x.exited k then (if hasLane h.trapset k then x.trappc else h.resume.getD k 0#64) else x.pcs.getD k 0#64)
        t.grp g = { x with handler := none, shadow := h.shadow, loops := h.loops, lc := h.lc, pcs := back }
        ∧ (∀ k, k ≠ g → t.grp k = s.grp k) ∧ look t.runs (siteOf x) = none)
      ∧ (x.trappc &&& 3#64 ≠ 0#64 → (t.grp g).halted = true ∧ (t.grp g).handler = x.handler)

/-- R43, R44, R45, R120, R186 and R340: what CSRR reads from each register and what CSRW changes in it; a number that names none, one a milliner has not, and a write of a
read-only one raise ILLEGAL_INSTRUCTION. DIECLK has moved on by an amount nothing fixes. -/
def Obligations.ControlRegisters : Prop :=
  ∀ (s : State) (run : Run) (cx : Cx), let x := s.grp cx.g
    let t := s.team x.team
    let tcb := (s.task x.task).tcb
    let out (k : Nat) : Nat := x.sb.countP (fun e => !e.acked.getLsbD k)
    let all : List (Nat × W64) := [(0x00, x.name), (0x08, x.gstatus &&& 31#64),
      (0x0B, BitVec.ofNat 64 (out 1 + out 2 * 2 ^ 12 + out 3 * 2 ^ 24 + out 4 * 2 ^ 36 + out 5 * 2 ^ 48)),
      (0x10, x.lc.getD 0 0#64), (0x11, x.lc.getD 1 0#64), (0x12, x.lc.getD 2 0#64), (0x20, x.trappc), (0x21, x.trapcause), (0x22, x.trapinfo),
      (0x23, x.trapmask), (0x24, x.traphandler), (0x28, x.cmdseq)]
    let own : List (Nat × W64) := [(0x01, tcb.namebase + BitVec.ofNat 64 (t.gridpos * tcb.groups)), (0x02, BitVec.ofNat 64 t.gridpos), (0x03, BitVec.ofNat 64 x.w), (0x04, BitVec.ofNat 64 x.role),
      (0x09, BitVec.ofNat 64 x.floor), (0x0A, BitVec.ofNat 64 (x.vval.length - x.spilled.length)), (0x18, x.sigword.setWidth 64), (0x19, x.sighandler)]
    (∀ f : FDI,
      (Issuing s run cx {} true → pendingReg x (96 + f.d.toNat) = none → ∀ r ∈ (if x.mill = none then all ++ own else all), f.i.toNat = r.1 → Does (.csrr f) s cx (x.setS f.d.toNat r.2))
      ∧ (Issuing s run cx {} true → pendingReg x (96 + f.d.toNat) = none → f.i.toNat = 0x30 →
          ∃ c u, s.clock (dieOf x) = (c, u) ∧ Comes (.csrr f) s (u.setGrp cx.g (x.setS f.d.toNat c)) cx)
      ∧ (UnitOk s run cx {} true → f.i.toNat ∉ ((if x.mill = none then all ++ own else all).map (·.1) ++ [0x30]) → Traps (.csrr f) s run cx 1 0#64))
    ∧ ∀ (f : FAI) (v : W64), x.pinned.all (fun e => decide (e.2 < 80)) = true →
      let y := if x.mill = none then x.marked cx.exe 1 (if f.l then [96 + f.a.toNat] else []) else x
      let writes : List (Nat × Group) := [(0x08, { y with gstatus := v &&& 31#64 }), (0x10, { y with lc := y.lc.set 0 v }), (0x11, { y with lc := y.lc.set 1 v }),
        (0x12, { y with lc := y.lc.set 2 v }), (0x20, { y with trappc := v }), (0x23, { y with trapmask := v &&& 7#64 }), (0x24, { y with traphandler := v &&& ~~~3#64 })]
      let ownWrites : List (Nat × Group) := [(0x18, { y with sigword := v.setWidth 32 }), (0x19, { y with sighandler := v &&& ~~~3#64 })]
      (Issuing s run cx {} true → ScalarOk x f.a.toNat v → x.lc.length = 3 → ∀ r ∈ (if x.mill = none then writes ++ ownWrites else writes), f.i.toNat = r.1 → Does (.csrw f) s cx r.2)
      ∧ (UnitOk s run cx {} true → f.i.toNat ∉ (if x.mill = none then writes ++ ownWrites else writes).map (·.1) → Traps (.csrw f) s run cx 1 0#64)

/-! ## Memory access -/

/-- The loads: size by type, HTYPE's types, the signed ones, the default type, the orders. -/
noncomputable def loadRows : List ((FML → Instr) × (Nat → Nat) × List Nat × List Nat × Nat × List Nat) :=
  [(.ldb, fun _ => 1, [0, 4], [0], 0, [0, 1, 4]), (.ldh, fun _ => 2, [1, 5, 8, 9], [1], 1, [0, 1, 4]), (.ldw, fun _ => 4, [2, 6, 10], [2], 2, [0, 1, 4]),
    (.ldd, fun _ => 8, [], [], 3, [0, 1, 4]), (.ldq, fun _ => 16, [], [], 3, [0, 1, 4]),
    (.ldv, fun ty => if ty = 3 ∨ ty = 7 ∨ ty = 11 then 8 else 4, [2, 6, 10, 3, 7, 11], [2, 3], 2, [])]

/-- R178, R179, R180, R183 and R188: a load whose accesses all pass R182 reads the group's own view of each accessing thread's bytes and
makes its destination run pending, extended, truncated or split as its type and registers say, with its window open; the marks of its
address are done first, nothing else changes. Nothing there is tile data whose bit is still to be seen (R236), no buffered store covers a unit of the read only in
part, and LDV's promise holds. Beside the rules it rests on the model's own readings: log entries 8, 14 and 92. -/
def Obligations.Loads : Prop :=
  ∀ r ∈ loadRows, ∀ (f : FML) (s s1 : State) (run : Run) (cx : Cx) (base : W64) (ts : List (Nat × Target × Used)) (bs : Nat → List W8),
    let x := s.grp cx.g
    let d := f.d.toNat
    let a := f.a.toNat
    let ty := eltType cx r.2.2.2.2.1
    let n := r.2.1 ty
    let regs := lastAddr f.l f.k a f.s.toNat
    Issuing s run cx { imm := 2, ord := r.2.2.2.2.2 != [], cache := true, type := r.2.2.1 != [] } true →
    (cx.h.type ≠ none → ty ∈ r.2.2.1) → OrderOk x cx r.2.2.2.2.2 [4] → AddrOk s cx d a f.s.toNat f.l regs base → RunOk d a n →
    let users := cx.users x d a
    let q : Req := { size := n, align := n, need := { r := true }, uniform := uniformForm d a, sc := orderOf cx.h == 4 }
    (checkAccess cx (cx.spots x d a base (displacement cx.h)) q).run s = .ok (ts, s1) →
    let spots := ts.map (fun t => (t.2.1, n))
    ((∃ t ∈ ts, ∃ p m, t.2.1 = .keep p m) → ∀ e ∈ x.sb, e.landed = true) → (∀ p ∈ unitsOf spots, tornStores x p = []) →
    let y := (keepLoads cx.exe spots x).lastUse cx.exe regs.length regs
    LongOk y f.h.toNat (runOf d n) →
    let u := s1.useKeeps n (ts.map (·.2.1))
    (∀ t ∈ ts, u.sawT t.2.1 n = u ∧ bs t.1 = u.ownRead x t.2.1 n) →
    (r.2.2.2.2.2 = [] → x.mill = none → ∀ t ∈ ts, u.readT t.2.1 n = bs t.1 ∧ ∀ p ∈ u.past.drop (u.task x.task).readyAt, p.read t.2.1 n = bs t.1) →
    let acquires := orderOf cx.h == 1 || orderOf cx.h == 4
    let sees := acquires && decide (1 ≤ scopeOf cx.h)
    let o := longOp y cx s.nextId (if ts.any (fun t => isCxl t.2.1) then .cxlLoad else .load) d f.h.toNat 0#64 (runOf d n)
      (fun k => resultOf x users k (fun t => pieceOf d n (r.2.2.2.1.contains ty) (bs t) (k - d))) .done
      (.load n (r.2.2.2.1.contains ty) false (ts.map (fun t => (t.1, t.2.1)))) acquires (ts.map (·.2.2))
    let v := u.sent cx.g (y.sends cx.exe { o with sees := sees })
    Comes (r.1 f) s (if sees then v.observe cx.g spots else v) cx

/-- R181, R184 and R317: a store whose accesses all pass R182 puts one entry in the store buffer, holding each accessing thread's bytes in thread
order; it reaches no memory yet. A full buffer, 64 entries or 16 on a milliner, stalls it. -/
def storesRule : Prop :=
  ∀ r ∈ ([(.stb, 1), (.sth, 2), (.stw, 4), (.std, 8), (.stq, 16)] : List ((FMS → Instr) × Nat)),
    ∀ (f : FMS) (s s1 : State) (run : Run) (cx : Cx) (base : W64) (ts : List (Nat × Target × Used)),
    let x := s.grp cx.g
    let d := f.d.toNat
    let a := f.a.toNat
    let n := r.2
    let width := if 96 ≤ d then (if n = 16 then 2 else 1) else max 1 (n / 4)
    let addr := lastAddr f.l f.k a f.s.toNat
    let regs := addr ++ (if f.n then (List.range width).map (d + ·) else [])
    Issuing s run cx { imm := 2, ord := true, cache := true } true → OrderOk x cx [0, 2, 4] [2, 4] → AddrOk s cx d a f.s.toNat f.l regs base →
    PlacesOk x d width → (d < 88 → d % width = 0) → (n = 16 → d < 88 ∨ d = 90 ∨ (96 ≤ d ∧ d % 2 = 0)) → (f.n = true → d < 80 ∨ 96 ≤ d) →
    let q : Req := { size := n, align := n, need := { w := true }, uniform := uniformForm d a, sc := orderOf cx.h == 4, store := true }
    (checkAccess cx (cx.spots x d a base (displacement cx.h)) q).run s = .ok (ts, s1) →
    let y := (keepLoads cx.exe (ts.map (fun t => (t.2.1, n))) x).lastUse cx.exe (addr.length + if f.n then 1 else 0) regs
    let room := if x.mill = none then 64 else 16
    let writes := ts.flatMap (fun t => splitWrite t.2.1 (x.bytesOf d n t.1))
    let e : SbEntry := { id := s.nextId, writes := writes, tokens := [], acked := 1#6, landed := false, used := ts.map (·.2.2), site := cx.pc, seq := x.cmdseq }
    (x.sb.length < room → Comes (r.1 f) s (s1.sent cx.g { y with sb := y.sb ++ [e] }) cx)
    ∧ (room ≤ x.sb.length → Stalls (r.1 f) s run cx)

/-- R184 and R186: a byte a group has stored and that has not reached its home reads, to the group, as the newest of its stores left it; every
other byte reads as memory holds it. -/
def ownStoresRule : Prop :=
  ∀ (s : State) (x : Group) (t : Target),
    (∀ b, (∀ e ∈ x.sb, ∀ w ∈ e.late, overlaps (t, 1) (w.2.1, w.2.2.length) = false) → ownByte x t b = b)
    ∧ (∀ (b : W8) (old new : List SbEntry) (e : SbEntry) (before after : List (Nat × Target × List W8)) (w : Nat × Target × List W8) (i : Nat), x.sb = old ++ e :: new →
        e.late = before ++ w :: after → overlaps (t, 1) (w.2.1, w.2.2.length) = true → t.spot.2.2 = w.2.1.spot.2.2 + i →
        (∀ v ∈ after, overlaps (t, 1) (v.2.1, v.2.2.length) = false) →
        (∀ k ∈ new, ∀ v ∈ k.late, overlaps (t, 1) (v.2.1, v.2.2.length) = false) → w.2.2[i]? = some (ownByte x t b))
    ∧ (∀ n, s.sawT t n = s → s.ownRead x t n = (List.range n).map (fun i => ownByte x (t.plus i) ((s.readT t n).getD i 0#8)))

/-- Stores into the store buffer and loads of their bytes (R181, R184, R186, R317). Beside the rules it rests on the model's own readings: log entries 8 and 92. -/
def Obligations.StoresAndForwarding : Prop := storesRule ∧ ownStoresRule

/-- R182: the checks in their order, on loads and stores of every size. A misaligned accessing thread gives ALIGNMENT; else an address that is not
canonical, or names no team of the felt, PROTECTION with code 0; else one past the allocation, SCRATCH_BOUNDS; TRAPINFO is the mask of such threads
(1 in the uniform form), the record's address the lowest one's. Within the scratchpads of resident teams every access passes. -/
def accessChecksRule : Prop :=
  ∀ (s : State) (run : Run) (cx : Cx) (d a : Nat) (base : W64) (n : Nat) (i : Instr),
    ((∃ r ∈ loadRows, ∃ f : FML, i = r.1 f ∧ f.d.toNat = d ∧ f.a.toNat = a ∧ r.2.1 (eltType cx r.2.2.2.2.1) = n ∧ (cx.h.type ≠ none → eltType cx r.2.2.2.2.1 ∈ r.2.2.1)
        ∧ Issuing s run cx { imm := 2, ord := r.2.2.2.2.2 != [], cache := true, type := r.2.2.1 != [] } true ∧ OrderOk (s.grp cx.g) cx r.2.2.2.2.2 []
        ∧ AddrOk s cx d a f.s.toNat f.l (lastAddr f.l f.k a f.s.toNat) base ∧ RunOk d a n)
      ∨ (∃ r ∈ ([(.stb, 1), (.sth, 2), (.stw, 4)] : List ((FMS → Instr) × Nat)), ∃ f : FMS, i = r.1 f ∧ f.d.toNat = d ∧ f.a.toNat = a ∧ r.2 = n ∧ (f.n = true → d < 80 ∨ 96 ≤ d)
        ∧ Issuing s run cx { imm := 2, ord := true, cache := true } true ∧ OrderOk (s.grp cx.g) cx [0, 2, 4] [] ∧ AddrOk s cx d a f.s.toNat f.l [] base ∧ SourceOk (s.grp cx.g) d 1)) →
    let x := s.grp cx.g
    let uni := uniformForm d a
    let ls := cx.spots x d a base (displacement cx.h)
    let off (v : W64) : Nat := v.toNat % 2 ^ 24
    let peer (v : W64) : Nat := v.toNat / 2 ^ 24 % 16
    let upper (v : W64) : Bool := decide (0xFFFFFF0000000000 ≤ v.toNat)
    let inWin (v : W64) : Bool := upper v && decide (v.toNat < 0xFFFFFF0010000000)
    let home (v : W64) : Option Nat := if x.mill ≠ none then none else if peer v = 15 then some x.team else
      ((s.felt (s.team x.team).felt).teams[peer v]?).filter (fun t => !(s.team t).retired)
    let mis (v : W64) : Bool := v.toNat % n != 0
    let foreign (v : W64) : Bool := v.extractLsb' 57 7 != (if v.getLsbD 56 then 127#7 else 0#7) || (upper v && (!inWin v || (home v).isNone))
    let long (v : W64) : Bool := inWin v && (match home v with | some t => decide (s.scratchSize t < off v + n) | none => false)
    let trapsAs (bad : W64 → Bool) (cause : Nat) : Prop := ∀ m : W64, (∀ t, t < 64 → m.getLsbD t = ls.any (fun l => l.1 == t && bad l.2)) →
      ∀ l more, ls.filter (fun l => bad l.2) = l :: more → x.w ≤ 64 →
        TrapsAt i s run cx cause (if uni then 1#64 else m) (if uni then 0 else l.1) 0 0 l.2
    (ls.any (fun l => mis l.2) = true → trapsAs mis 6)
    ∧ (ls.any (fun l => mis l.2) = false → ls.any (fun l => foreign l.2) = true → trapsAs foreign 5)
    ∧ (ls.any (fun l => mis l.2 || foreign l.2) = false → ls.any (fun l => long l.2) = true → trapsAs long 7)
    ∧ (ls.any (fun l => mis l.2 || foreign l.2 || long l.2) = false → (∀ l ∈ ls, inWin l.2 = true ∧ ∀ t, home l.2 = some t → (s.team t).resident = true) →
        ∀ need sc st, (checkAccess cx ls { size := n, align := n, need := need, uniform := uni, sc := sc, store := st }).run s =
          .ok (ls.map (fun l => (l.1, .scr ((home l.2).getD 0) (off l.2), { ld := x.ld, dom := x.dom, va := l.2.toNat, pasid := none, page := 0 })), s))

/-- R201, R203 and R205: an atomic whose accesses all pass R182 is issued as one operation holding every accessing thread's operands in thread order;
with L its result registers become pending, and without (LD) none. Beside the rules it rests on the model's own readings: log entries 8 and 9. -/
def Obligations.Atomics : Prop :=
  ∀ r ∈ ([(.aadd, 0), (.amin, 1), (.amax, 2), (.aand, 3), (.aor, 4), (.axor, 5), (.axchg, 6), (.acas, 7), (.afadd, 8)] : List ((FMA → Instr) × Nat)),
    ∀ (f : FMA) (s s1 : State) (run : Run) (cx : Cx) (base : W64) (ts : List (Nat × Target × Used)),
    let x := s.grp cx.g
    let d := f.d.toNat
    let a := f.a.toNat
    let ty := eltType cx (if r.2 = 8 then 10 else 2)
    let wide := ty == 3 || ty == 7
    let per := if wide && decide (d < 96) then 2 else 1
    let width := if r.2 = 7 then 2 * per else per
    let addr := lastAddr f.l f.k a f.s.toNat
    let regs := addr ++ (if f.n then (List.range width).map (d + ·) else [])
    Issuing s run cx { imm := 2, ord := true, type := true } true → ty ∈ (if r.2 = 8 then [10] else [2, 6, 3, 7]) → OrderOk x cx [0, 1, 2, 3, 4] [2, 3, 4] →
    AddrOk s cx d a f.s.toNat f.l regs base → (if 96 ≤ d then (a = 90 ∨ 96 ≤ a) ∧ d + width ≤ 128 else d + width ≤ 80 ∧ d % per = 0) →
    (∀ i < width, SourceOk x (d + i) 1) → (f.n = true → f.h.toNat = 0) →
    let q : Req := { size := if wide then 8 else 4, align := if wide then 8 else 4, need := { r := true, w := true }, uniform := uniformForm d a, atomic := some r.2 }
    (checkAccess cx (cx.spots x d a base (displacement cx.h)) q).run s = .ok (ts, s1) →
    let y := (keepLoads cx.exe (ts.map (fun t => (t.2.1, if wide then 8 else 4))) x).lastUse cx.exe (addr.length + if f.n then 1 else 0) regs
    let out := if f.n then [] else (List.range per).map (d + ·)
    LongOk y f.h.toNat out →
    let o := longOp y cx s.nextId .atomic d f.h.toNat 0#64 out (fun _ => [])
      (.atomic r.2 wide (ty == 2 || ty == 3) (ts.map (fun t =>
        if r.2 = 7 then (t.1, t.2.1, x.el wide (d + per) t.1, x.el wide d t.1) else (t.1, t.2.1, x.el wide d t.1, 0#64)))) .done
      (!f.n && (orderOf cx.h == 1 || decide (3 ≤ orderOf cx.h))) (ts.map (·.2.2))
    Comes (r.1 f) s (s1.sent cx.g (y.sends cx.exe { o with sees := o.acq && decide (1 ≤ scopeOf cx.h) })) cx

/-- R326 to R331: KLD makes value, token and count word of each cell, or of a plain word, pending; KST issues its writes, or with LD = 1 buffers them with
their tokens; KREC issues its reconciliations. Beside the rules it rests on the model's own readings: log entries 9 and 38. -/
def Obligations.KeepWords : Prop :=
  ∀ (s s1 : State) (run : Run) (cx : Cx) (base : W64) (ts : List (Nat × Target × Used)), let x := s.grp cx.g
    (∀ f : FML, let d := f.d.toNat
      let a := f.a.toNat
      let regs := lastAddr f.l f.k a f.s.toNat
      let sib := match cx.h.imm with | h :: _ => h.toNat | [] => 0
      let out := (List.range (if 96 ≤ d then 3 else 5)).map (d + ·)
      let spots := ts.map (fun t => (t.2.1, 8))
      let y := (keepLoads cx.exe spots x).lastUse cx.exe regs.length regs
      Issuing s run cx { imm := 1, ord := true } true → OrderOk x cx [0, 1] [] → AddrOk s cx d a f.s.toNat f.l regs base → sib < 4 →
      (if 96 ≤ d then d ≤ 125 ∧ (a = 90 ∨ 96 ≤ a) else d ≤ 74 ∧ d % 2 = 0) → LongOk y f.h.toNat out → (∀ e ∈ x.sb, e.landed = true) →
      (checkAccess cx (cx.spots x d a base 0#64) { size := 8, align := 8, need := { r := true }, uniform := uniformForm d a }).run s = .ok (ts, s1) →
      let u := s1.useKeeps 8 (ts.map (·.2.1))
      let cell (t : Target) : W64 × W64 × W64 := match t with
        | .keep p m => let k := u.keep p
          (((k.sibs.map (·.1))[sib]?).getD 0#64, keepToken k, BitVec.ofNat 64 (k.sibs.length + (if k.sibs.length ≤ sib then 8 else 0) + 32 * m.toNat))
        | t => (le64 (u.readT t 8), 0#64, 17#64)
      ∀ v : Nat → W64 × W64 × W64, (∀ t ∈ ts, u.sawT t.2.1 8 = u ∧ v t.1 = cell t.2.1) →
      let part (t i : Nat) : W64 := let c := v t
        if 96 ≤ d then [c.1, c.2.1, c.2.2].getD i 0#64 else [c.1 &&& 0xFFFFFFFF#64, c.1 >>> 32, c.2.1 &&& 0xFFFFFFFF#64, c.2.1 >>> 32, c.2.2].getD i 0#64
      let o := longOp y cx s.nextId .kld d f.h.toNat 0#64 out (fun k => resultOf x (cx.users x d a) k (fun t => part t (k - d))) .done (.kld sib (ts.map (fun t => (t.1, t.2.1)))) (orderOf cx.h == 1)
        (ts.map (·.2.2))
      let sees := orderOf cx.h == 1 && decide (1 ≤ scopeOf cx.h)
      let z := u.sent cx.g (y.sends cx.exe { o with sees := sees })
      Comes (.kld f) s (if sees then z.observe cx.g spots else z) cx)
    ∧ (∀ f : FMA, let d := f.d.toNat
      let a := f.a.toNat
      let k := if 96 ≤ d then 1 else 2
      let addr := lastAddr f.l f.k a f.s.toNat
      (let regs := addr ++ (if f.n then (List.range (2 * k)).map (d + ·) else [])
        let y := (keepLoads cx.exe (ts.map (fun t => (t.2.1, 8))) x).lastUse cx.exe (addr.length + if f.n then 1 else 0) regs
        let out := if f.n then [] else [d + 2 * k]
        Issuing s run cx { ord := true } true → OrderOk x cx [0, 2] [2] → AddrOk s cx d a f.s.toNat f.l regs base → (f.n = true → f.h.toNat = 0) →
        (if 96 ≤ d then d ≤ 125 ∧ (a = 90 ∨ 96 ≤ a) else d ≤ 74 ∧ d % 2 = 0) → (∀ i < 2 * k, SourceOk x (d + i) 1) → LongOk y f.h.toNat out →
        (checkAccess cx (cx.spots x d a base 0#64) { size := 8, align := 8, need := { w := true }, uniform := uniformForm d a, store := f.n }).run s = .ok (ts, s1) →
        (f.n = false → Comes (.kst f) s (s1.sent cx.g (y.sends cx.exe (longOp y cx s.nextId .kst (d + 2 * k) f.h.toNat 0#64 out (fun _ => [])
          (.kst (ts.map (fun t => (t.1, t.2.1, x.el64 d t.1, x.el64 (d + k) t.1)))) .done false (ts.map (·.2.2))))) cx)
        ∧ (f.n = true → x.sb.length < (if x.mill = none then 64 else 16) →
          let writes := ts.map (fun t => (t.2.1, bytes8 (x.el64 d t.1)))
          let e : SbEntry := { id := s.nextId, writes := writes, tokens := ts.map (fun t => x.el64 (d + k) t.1), acked := 1#6, landed := false, used := ts.map (·.2.2), site := cx.pc, seq := x.cmdseq }
          Comes (.kst f) s (s1.sent cx.g { y with sb := y.sb ++ [e] }) cx))
      ∧ (let regs := addr ++ (if f.n then (List.range k).map (d + ·) else [])
        let y := (keepLoads cx.exe (ts.map (fun t => (t.2.1, 8))) x).lastUse cx.exe (addr.length + if f.n then 1 else 0) regs
        let out := if f.n then [] else (List.range (2 * k)).map (d + ·)
        Issuing s run cx { ord := true, mode := true, merge := true } true → OrderOk x cx [0, 1, 2, 3] [2, 3] → AddrOk s cx d a f.s.toNat f.l regs base → (f.n = true → f.h.toNat = 0) →
        (if 96 ≤ d then d ≤ 126 ∧ (a = 90 ∨ 96 ≤ a) else d ≤ 76 ∧ d % 2 = 0) → (∀ i < k, SourceOk x (d + i) 1) → LongOk y f.h.toNat out →
        (checkAccess cx (cx.spots x d a base 0#64) { size := 8, align := 8, need := { r := true, w := true }, uniform := uniformForm d a, krec := true }).run s = .ok (ts, s1) →
        Comes (.krec f) s (s1.sent cx.g (y.sends cx.exe (longOp y cx s.nextId .krec (if f.n then 0 else d) f.h.toNat 0#64 out (fun _ => [])
          (.krec ((cx.h.mode.map (·.m)).getD 0#3) (ts.map (fun t => (t.1, t.2.1, x.el64 d t.1)))) .done (orderOf cx.h == 1 || orderOf cx.h == 3) (ts.map (·.2.2))))) cx))

/-- R189 and R190: PREF reads its operands, does their marks and touches no memory; FENCE waits for what its order and scope name (acq_rel at device
scope unless HORD says otherwise; relaxed is illegal) and changes nothing itself where the group has nothing on its way, but that after an acquire the group's
loads keep what they have read. -/
def prefetchAndFenceRule : Prop :=
  ∀ (s : State) (run : Run) (cx : Cx), let x := s.grp cx.g
    (∀ (f : FMP) (base : W64), Issuing s run cx { imm := 2, cache := true } true → let regs := lastAddr f.l f.k f.a.toNat f.s.toNat
      AddrOk s cx 96 f.a.toNat f.s.toNat f.l regs base → Does (.pref f) s cx (x.lastUse cx.exe regs.length regs))
    ∧ (∀ f : FZ, Issuing s run cx { ord := true } true →
      let o := match cx.h.ord with | some o => o.o.toNat | none => 3
      let scope := match cx.h.ord with | some o => o.c.toNat | none => 4
      (o = 0 → Traps (.fence f) s run cx 1 0#64)
      ∧ (1 ≤ o → (∀ p ∈ x.ops, workSpots p.work = []) → (2 ≤ o → released x scope = true) → Does (.fence f) s cx (if o ≠ 2 ∧ inPlace x = true then x.keeps else x))
      ∧ (2 ≤ o → released x scope = false → Stalls (.fence f) s run cx))

/-- The checks of an access in their order, PREF and FENCE (R182, R189, R190). Beside the rules it rests on the model's own readings: log entries 8, 11, 40, 44 and 92. -/
def Obligations.ChecksAndFences : Prop := accessChecksRule ∧ prefetchAndFenceRule

/-! ## The register pool -/

/-- Last-use marks on two scalar operands. -/
def scalarLast (l : Bool) (p : Nat) (k : Bool) (q : Nat) : List Nat := (if l then [96 + p] else []) ++ (if k then [96 + q] else [])

/-- R165 to R173: VGIVE lowers the floor and unmaps what lies above it, refusing to go below 4; VCLAIM raises it where budget and free slices allow, answers
status 2 above 80 and status 0 for nothing, and otherwise leaves the group waiting; VFREE unmaps a range within v0–v79; VSTAT reads the seven
counters; VMOVS moves one thread's element to a scalar. A result word holds the floor above its status byte. Beside the rules it rests on the model's own readings: log entries 19, 20, 21 and 103. -/
def Obligations.RegisterPool : Prop :=
  ∀ (s : State) (run : Run) (cx : Cx), Issuing s run cx {} false → let x := s.grp cx.g
    x.pinned = [] → x.pinheld = [] →
    let word (floor status : Nat) : W64 := BitVec.ofNat 64 (floor * 256 + status)
    let mapped := x.vval.length - x.spilled.length
    (∀ f : FDN, pendingReg x (96 + f.d.toNat) = none → let n := f.n.toNat
      (x.floor < n + 4 → Does (.vgive f) s cx (x.setS f.d.toNat (word x.floor 2)))
      ∧ (n + 4 ≤ x.floor → let left := x.floor - n
        Does (.vgive f) s cx ((((List.range (80 - left)).map (left + ·)).foldl Group.unmap { x with floor := left }).setS f.d.toNat (word left 0)))
      ∧ (80 < x.floor + n → Does (.vclaim f) s cx (x.setS f.d.toNat (word x.floor 2)))
      ∧ (n = 0 → x.floor ≤ 80 → Does (.vclaim f) s cx (x.setS f.d.toNat (word x.floor 0)))
      ∧ (0 < n → x.floor + n ≤ 80 → x.ops = [] → x.wait = .none →
        let k := x.w / 16
        let net := (n - min n (max mapped x.floor - x.floor)) * k
        let fits := n * k ≤ s.unreserved x.team (siteOf x) ∧ net ≤ s.freeSlices (siteOf x)
        (fits → resident x = true → look s.groups cx.g = some x → Comes (.vclaim f) s (s.sent cx.g { x.setS f.d.toNat (word (x.floor + n) 0) with floor := x.floor + n }) cx)
        ∧ (¬ fits → Comes (.vclaim f) s (s.sent cx.g { x.holdS f.d.toNat with wait := .vclaim f.d.toNat n s.nextId cx.act cx.pc }) cx)))
    ∧ (∀ f : FVfree,
      (f.f.toNat + f.c.toNat + 1 ≤ 80 → Does (.vfree f) s cx (((List.range (f.c.toNat + 1)).map (f.f.toNat + ·)).foldl Group.unmap x))
      ∧ (80 < f.f.toNat + f.c.toNat + 1 → Traps (.vfree f) s run cx 2 0#64))
    ∧ (∀ f : FDK, pendingReg x (96 + f.d.toNat) = none →
      ∀ r ∈ ([(0, x.floor), (1, mapped), (2, s.unreserved x.team (siteOf x)), (3, s.freeSlices (siteOf x)), (4, x.spills), (5, x.refills), (6, x.luign)] : List (Nat × Nat)),
        f.k.toNat = r.1 → Does (.vstat f) s cx (x.setS f.d.toNat (BitVec.ofNat 64 r.2)))
    ∧ (∀ (wide : Bool) (d a k : Nat) (l : Bool) (i : Instr),
      ((∃ f : FVmk, i = (if wide then .vmovsD f else .vmovs f) ∧ f.d.toNat = d ∧ f.a.toNat = a ∧ f.l = l ∧ f.k.toNat = k)
        ∨ (∃ f : FVm, i = (if wide then .vmovsFirstD f else .vmovsFirst f) ∧ f.d.toNat = d ∧ f.a.toNat = a ∧ f.l = l ∧ (cx.lanes x).head? = some k)) →
      SourceOk x a (regsOf wide) → (l = true → a < 80 ∨ 96 ≤ a) → (wide = true → a < 88 → a % 2 = 0) → pendingReg x (96 + d) = none →
      (k < x.w → Does i s cx ((x.marks cx.exe wide [(l, a)]).setS d (x.el wide a k)))
      ∧ (x.w ≤ k → Traps i s run cx 2 0#64))

/-! ## Commands to the queues and the caches -/

/-- R91, R92, R94, R103 and R241: TLAUNCH, TSUCC, CPYQ and ICINV are issued as operations whose status becomes pending in S[T], with the addresses and bytes of
their operands; misaligned operands give ALIGNMENT with the address in TRAPINFO, and a malformed ICINV word ILLEGAL_OPERAND. CPYQ takes the next command
sequence number and copies its packet at issue. Beside the rules it rests on the model's own readings: log entry 37. -/
def Obligations.QueueWords : Prop :=
  ∀ (f : FE) (s s1 : State) (run : Run) (cx : Cx) (p q : W64), let x := s.grp cx.g
    x.pinned = [] → ScalarOk x f.p.toNat p → ScalarOk x f.q.toNat q →
    let regs := scalarLast f.l f.p.toNat f.k f.q.toNat
    let y := x.lastUse cx.exe regs.length regs
    let out := [96 + f.t.toNat]
    LongOk y f.h.toNat out →
    let sends (i : Instr) (u : State) (z : Group) (kind : OpKind) (seq : W64) (vals : List W64) (work : Work) (us : List Used) : Prop :=
      Comes i s (u.sent cx.g (z.sends cx.exe (longOp z cx s.nextId kind (96 + f.t.toNat) f.h.toNat seq out (fun _ => vals) work .done false us))) cx
    (Issuing s run cx {} true →
      (p.toNat % 256 = 0 → q.toNat % 64 = 0 → ∀ us, (precheck cx [(p, { r := true }), (q, rwNeed)]).run s = .ok (us, s1) →
        sends (.tlaunch f) s1 y .tlaunch 0#64 [] (.append false q (List.replicate 7 0#8 ++ bytes8 p ++ List.replicate 48 0#8) cx.pc 0#64) us)
      ∧ (p.toNat % 256 ≠ 0 → Traps (.tlaunch f) s run cx 6 p)
      ∧ (p.toNat % 256 = 0 → q.toNat % 64 ≠ 0 → Traps (.tlaunch f) s run cx 6 q)
      ∧ (p.toNat % 256 = 0 → q.toNat % 256 = 0 → ∀ us, (precheck cx [(p, rwNeed), (q, rwNeed)]).run s = .ok (us, s1) → sends (.tsucc f) s1 y .tsucc 0#64 [] (.succ p q) us)
      ∧ (x.mill = none → x.role ≠ 0 → Traps (.cpyq f) s run cx 3 0#64)
      ∧ (∀ (s2 : State) (t : Nat × Target × Used), (x.mill = none → x.role = 0) → p.toNat % 64 = 0 → q.toNat % 64 = 0 → (∀ o ∈ x.ops, workSpots o.work = []) → (∀ e ∈ x.sb, e.landed = true) →
        (s.die (dieOf x)).watches = [] → (checkAccess cx [(lowLane x.w cx.exe, p)] { size := 64, align := 1, need := { r := true }, uniform := true }).run s = .ok ([t], s1) →
        ∀ us, (precheck cx [(q, rwNeed)]).run s1 = .ok (us, s2) → s2.sawT t.2.1 64 = s2 →
        let z := (keepLoads cx.exe [(t.2.1, 64)] x).lastUse cx.exe regs.length regs
        sends (.cpyq f) s2 { z with cmdseq := x.cmdseq + 1#64 } .cpyq x.cmdseq [] (.append true q ((s2.readT t.2.1 64).drop 1) cx.pc x.cmdseq) us))
    ∧ (Issuing s run cx {} false →
      (q.extractLsb' 43 21 = 0#21 → (q.extractLsb' 40 3).toNat ≤ 5 →
        let o := longOp y cx s.nextId .icinv (96 + f.t.toNat) f.h.toNat 0#64 out (fun _ => [0#64]) (.icinv p.toNat (q.extractLsb' 0 40).toNat (q.extractLsb' 40 3).toNat) .done false []
        Comes (.icinv f) s (s.sent cx.g { y.sends cx.exe o with icinvs := y.icinvs ++ [s.nextId] }) cx)
      ∧ (q.extractLsb' 43 21 ≠ 0#21 ∨ 5 < (q.extractLsb' 40 3).toNat → Traps (.icinv f) s run cx 2 q))

/-! ## Weight trees -/

/-- The sum of a tree's leaves 0 to `i` (R271). -/
def sumTo (t : Tree) (i : Nat) : Nat := ((t.leaves.filter (fun e => decide (e.1 ≤ i))).map (·.2)).sum
/-- A leaf (R271); one that is not listed is 0. -/
def leafOf (t : Tree) (i : Nat) : Nat := (look t.leaves i).getD 0
/-- Leaves in ascending order, none of them listed as 0, none past the last. -/
def TreeOk (t : Tree) : Prop := risingFrom t.leaves 0 = true ∧ ∀ e ∈ t.leaves, e.1 < 4096 ∧ 0 < e.2 ∧ e.2 < 2 ^ 20

/-- R271 to R283: WLOAD builds a tree from registers or from the scratchpad; WUPD adds the deltas of each leaf and clamps once, with its status bits; WQRY reads
inclusive or exclusive sums; WFIND finds the first leaf whose running sum exceeds a target; WCUT truncates the tree; the WOP family reads the root, clears,
gets and sets leaves, saves and restores the image, reads and clears the status, and reads the cut pointer. A tree number beyond the group's trees is illegal. Beside the rules it rests on the model's own readings: log entry 44. -/
def Obligations.WeightTrees : Prop :=
  ∀ (s : State) (run : Run) (cx : Cx) (w : Nat) (t : Tree), Issuing s run cx {} false → let x := s.grp cx.g
    x.pinned = [] → x.w ≤ 64 → look x.trees w = some t → TreeOk t → (∀ o ∈ x.ops, workSpots o.work = []) →
    let plant (y : Group) (u : Tree) : Group := { y with trees := ins x.trees w u }
    let all (y : Group) (d v : Nat) : Group := y.result cx.exe d false (List.replicate x.w (BitVec.ofNat 64 (v % 2 ^ 32)))
    let each (y : Group) (d : Nat) (v : Nat → Nat) : Group := y.result cx.exe d false ((List.range x.w).map (fun k => BitVec.ofNat 64 (v k % 2 ^ 32)))
    let one (l : Bool) (a : Nat) : Group := x.marks cx.exe false [(l, a)]
    let own (l : Bool) (a off n : Nat) : Group := (keepLoads cx.exe [(.scr x.team off, n)] x).marks cx.exe false [(l, a)]
    let clear (off n : Nat) : Prop := s.sawT (.scr x.team off) n = s ∧ ∀ p ∈ unitsOf [(.scr x.team off, n)], tornStores x p = []
    let low (k a : Nat) : Nat := (x.el32 a k).toNat
    (∀ f : FWload, f.w.toNat = w →
      (f.a.toNat + f.c.toNat + 1 ≤ 80 → SourceOk x f.a.toNat (f.c.toNat + 1) → let regs := (List.range (f.c.toNat + 1)).map (f.a.toNat + ·)
        ∃ u : Tree, TreeOk u ∧ u.cut = 4096 ∧ u.status = 0#32 ∧ (∀ i, leafOf u i = if i / x.w ≤ f.c.toNat ∧ hasLane cx.exe (i % x.w) then low (i % x.w) (f.a.toNat + i / x.w) % 2 ^ 20 else 0)
          ∧ (0 < x.w → Does (.wload f) s cx (plant (x.marked cx.exe 1 (if f.l then regs else [])) u)))
      ∧ (80 < f.a.toNat + f.c.toNat + 1 → f.a.toNat ≠ 95 → Traps (.wload f) s run cx 2 0#64)
      ∧ (∀ v, 96 ≤ f.a.toNat → ScalarOk x (f.a.toNat - 96) v → let n := 64 * (f.c.toNat + 1)
        let off := v.toNat % 2 ^ 32
        (off % 4 ≠ 0 → Traps (.wloadScratch f) s run cx 6 1#64)
        ∧ (off % 4 = 0 → s.scratchSize x.team < off + 4 * n → Traps (.wloadScratch f) s run cx 7 1#64)
        ∧ (off % 4 = 0 → off + 4 * n ≤ s.scratchSize x.team → clear off (4 * n) → let bs := s.ownRead x (.scr x.team off) (4 * n)
          ∃ u : Tree, TreeOk u ∧ u.cut = 4096 ∧ u.status = 0#32 ∧ (∀ i, leafOf u i = if i < n then leNat ((bs.drop (4 * i)).take 4) % 2 ^ 20 else 0) ∧ Does (.wloadScratch f) s cx (plant (own f.l f.a.toNat off (4 * n)) u))))
    ∧ (∀ f : FWupd, f.w.toNat = w → SourceOk x f.a.toNat 1 → SourceOk x f.d.toNat 1 → MarksOk x false [(f.l, f.a.toNat), (f.x, f.d.toNat)] →
      let idx (k : Nat) : Nat := low k f.a.toNat
      let past : Bool := (cx.lanes x).any (fun k => decide (4096 ≤ idx k))
      let cutOff : Bool := (cx.lanes x).any (fun k => decide (t.cut ≤ idx k ∧ idx k < 4096))
      let y := x.marks cx.exe false [(f.l, f.a.toNat), (f.x, f.d.toNat)]
      (t.cut ≤ 4096 → let total (i : Nat) : Int := leafOf t i + (((cx.lanes x).filter (fun k => idx k == i)).map (fun k => (x.el32 f.d.toNat k).toInt)).sum
        let hit (i : Nat) : Bool := decide (i < t.cut) && (cx.lanes x).any (fun k => idx k == i)
        let clamped : Bool := (List.range 4096).any (fun i => hit i && decide (total i < 0 ∨ 2 ^ 20 ≤ total i))
        ∃ u : Tree, TreeOk u ∧ u.cut = t.cut ∧ u.status = t.status ||| (if clamped then 1#32 else 0#32) ||| (if past then 2#32 else 0#32) ||| (if cutOff then 4#32 else 0#32)
          ∧ (∀ i, leafOf u i = if hit i then (max 0 (min (2 ^ 20 - 1) (total i))).toNat else leafOf t i) ∧ Does (.wupd f) s cx (plant y u))
      ∧ (∃ u : Tree, TreeOk u ∧ u.cut = t.cut ∧ u.status = t.status ||| (if past then 2#32 else 0#32) ||| (if cutOff then 4#32 else 0#32)
          ∧ (∀ i v, (∃ before k after, cx.lanes x = before ++ k :: after ∧ idx k = i ∧ v = low k f.d.toNat % 2 ^ 20 ∧ ∀ j ∈ after, idx j ≠ i) → i < t.cut → i < 4096 → leafOf u i = v)
          ∧ (∀ i, (t.cut ≤ i ∨ ∀ k ∈ cx.lanes x, idx k ≠ i) → leafOf u i = leafOf t i) ∧ Does (.wopSet f) s cx (plant y u)))
    ∧ (∀ f : FWq, f.w.toNat = w → VecOk x cx.exe false [(f.l, f.a.toNat)] f.d.toNat → let y := one f.l f.a.toNat
      let i (k : Nat) : Nat := low k f.a.toNat
      Does (.wqry f) s cx (each y f.d.toNat (fun k => sumTo t (i k)))
      ∧ Does (.wqryExcl f) s cx (each y f.d.toNat (fun k => if i k = 0 then 0 else sumTo t (i k - 1)))
      ∧ Does (.wopGet f) s cx (each y f.d.toNat (fun k => leafOf t (i k)))
      ∧ (∀ lane more, cx.lanes x = lane :: more → f.a.toNat = 90 ∨ 96 ≤ f.a.toNat → let c := i lane
        (sumTo t 4095 < c → Does (.wcut f) s cx (all y f.d.toNat 4096))
        ∧ (∀ k, c ≤ sumTo t 4095 → (c = 0 → k = 0) → (0 < c → c ≤ sumTo t k ∧ ∀ j, j < k → sumTo t j < c) →
          Does (.wcut f) s cx (all (plant y { t with cut := k + 1, leaves := t.leaves.filter (fun e => decide (e.1 ≤ k)) }) f.d.toNat k)))
      ∧ (¬ (f.a.toNat = 90 ∨ 96 ≤ f.a.toNat) → Traps (.wcut f) s run cx 2 0#64))
    ∧ (∀ f : FWfind, f.w.toNat = w → VecOk x cx.exe false [(f.l, f.a.toNat)] f.d.toNat → ∀ r : Nat → Nat, (∀ k, let a := low k f.a.toNat
        (r k < 4096 ∧ a < sumTo t (r k) ∧ ∀ j, j < r k → sumTo t j ≤ a) ∨ (r k = 4096 ∧ sumTo t 4095 ≤ a)) →
      ∀ m : W64, (∀ k, k < 64 → m.getLsbD k = (decide (k < x.w) && decide (r k < 4096))) → Does (.wfind f) s cx ((each (one f.l f.a.toNat) f.d.toNat r).setP cx.exe f.p.toNat m))
    ∧ (∀ f : FWD, f.w.toNat = w → DestOk x f.d.toNat 1 →
      Does (.wopRoot f) s cx (all x f.d.toNat (sumTo t 4095)) ∧ Does (.wopCutptr f) s cx (all x f.d.toNat t.cut)
      ∧ Does (.wopStat f) s cx (all (plant x { t with status := 0#32 }) f.d.toNat t.status.toNat))
    ∧ (∀ f : FW, f.w.toNat = w → Does (.wopClear f) s cx (plant x { leaves := [], cut := 4096, status := 0#32 }))
    ∧ (∀ (f : FWA) (v : W64), f.w.toNat = w → ScalarOk x f.a.toNat v → let off := v.toNat % 2 ^ 32
      let y := own f.l (96 + f.a.toNat) off 16448
      (off % 64 ≠ 0 → Traps (.wopSave f) s run cx 6 1#64 ∧ Traps (.wopRestore f) s run cx 6 1#64)
      ∧ (off % 64 = 0 → off + 16448 ≤ s.scratchSize x.team →
        (x.sb.length < 64 → ∃ image : List W8, image.length = 16448 ∧ (∀ i < 4096, leNat ((image.drop (4 * i)).take 4) = leafOf t i) ∧ leNat ((image.drop 16384).take 4) = t.cut % 2 ^ 32
          ∧ leNat ((image.drop 16388).take 4) = t.status.toNat ∧ (∀ b ∈ image.drop 16392, b = 0#8) ∧
          let e : SbEntry := { id := s.nextId, writes := [(.scr x.team off, image)], tokens := [], acked := 1#6, landed := false, used := [], site := cx.pc, seq := x.cmdseq }
          Comes (.wopSave f) s (s.sent cx.g { y with sb := y.sb ++ [e] }) cx)
        ∧ (clear off 16448 → let bs := s.ownRead x (.scr x.team off) 16448
          let cut := leNat ((bs.drop 16384).take 4)
          (cut = 0 ∨ 4096 < cut → Traps (.wopRestore f) s run cx 2 (BitVec.ofNat 64 cut))
          ∧ (0 < cut → cut ≤ 4096 → ∃ u : Tree, TreeOk u ∧ u.cut = cut ∧ u.status = BitVec.ofNat 32 (leNat ((bs.drop 16388).take 4) % 8)
            ∧ (∀ i, leafOf u i = if i < cut then leNat ((bs.drop (4 * i)).take 4) % 2 ^ 20 else 0) ∧ Does (.wopRestore f) s cx (plant y u)))))
    ∧ (∀ f : FWD, look x.trees f.w.toNat = none → f.d.toNat ≤ 88 → Traps (.wopRoot f) s run cx 2 0#64)

/-! ## Barriers and bands -/

/-- The bits of a word beyond a mask. -/
def strays (c : W64) (mask : Nat) : Prop := c &&& ~~~(BitVec.ofNat 64 mask) ≠ 0#64

/-- R285 to R290, R297: BAR.INIT sets EXPECT of an idle barrier; an arrival counts, after its release, and the one that completes the phase turns it, clears the count and the
waiter masks and frees every waiter; a wait for a phase that is over goes on at once, one for the phase that runs blocks the group and sets its bit; BAR.TEST reads
all. F = 1, FARV, FWAIT and FSYNC name the felt's barriers, whose index stays below 4. A malformed control word is ILLEGAL_OPERAND with TRAPINFO 1, an
initialisation of a barrier in use with 2. -/
def barriersRule : Prop :=
  ∀ (s : State) (run : Run) (cx : Cx) (a : Nat) (c : W64) (l : Bool), Issuing s run cx {} false → let x := s.grp cx.g
    x.pinned = [] → ScalarOk x a c → resident x = true → x.wait = .none → (∀ e ∈ s.groups, ∀ o ∈ e.2.ops, workSpots o.work = []) → (∀ o ∈ x.ops, workSpots o.work = []) →
    let t := x.team
    let y := x.lastUse cx.exe 1 (if l then [96 + a] else [])
    let i := (c.extractLsb' 0 4).toNat
    let ph := c.getLsbD 8
    let word (i : Nat) (ph : Bool) : W64 := BitVec.ofNat 64 (i + if ph then 256 else 0)
    let onBar (felt : Bool) (e : Nat × Group) : Bool := match e.2.wait with
      | .bar j _ => !felt && e.2.team == t && i == j && alive e.2
      | .fbar j _ => felt && (s.team e.2.team).felt == (s.team t).felt && i == j && alive e.2
      | _ => false
    let waiting (felt : Bool) : List Nat := (s.groups.filter (onBar felt)).map (·.1)
    let key (felt : Bool) : Nat := if felt then t else 0
    let bit : W32 := BitVec.ofNat 32 (2 ^ x.gidx)
    let mask (felt : Bool) : W32 := (look (s.bar t felt i).wmask (key felt)).getD 0#32
    let blocked (z : Group) (felt ph : Bool) : Group := { z with wait := if felt then .fbar i ph else .bar i ph }
    (∀ f : FA, f.a.toNat = a → f.l = l → let felt := c.getLsbD 12
      let n := (c.extractLsb' 16 6).toNat
      let b := s.bar t felt i
      let bad := strays c 0x3F100F ∨ (felt = true ∧ 3 < i) ∨ n = 0 ∨ (if felt then 12 else 32) < n
      let busy := b.arrived ≠ 0 ∨ ∃ e ∈ b.wmask, e.2 ≠ 0#32
      (bad → Traps (.barInit f) s run cx 2 1#64) ∧ (¬ bad → busy → Traps (.barInit f) s run cx 2 2#64)
      ∧ (¬ bad → ¬ busy → Comes (.barInit f) s ((s.setBar t felt i { b with expect := n }).setGrp cx.g y) cx))
    ∧ (∀ felt : Bool, let b := s.bar t felt i
      let bad (m : Nat) : Prop := strays c m ∨ (felt = true ∧ 3 < i)
      let done : State := (s.setBar t felt i { b with arrived := 0, phase := !b.phase, wmask := [] }).freed (waiting felt)
      let more : State := s.setBar t felt i { b with arrived := b.arrived + 1 }
      let scope := if felt then 2 else 1
      (∀ f : FS2, f.a.toNat = a → f.l = l → pendingReg x (96 + f.d.toNat) = none → let ins := if felt then Instr.barFarv f else .barArv f
        let z := y.setS f.d.toNat (word i b.phase)
        (bad 0xF → Traps ins s run cx 2 1#64)
        ∧ (¬ bad 0xF → released x scope = false → Stalls ins s run cx)
        ∧ (¬ bad 0xF → released x scope = true → b.arrived + 1 = b.expect → Comes ins s (done.setGrp cx.g z) cx)
        ∧ (¬ bad 0xF → released x scope = true → b.arrived + 1 ≠ b.expect → Comes ins s (more.setGrp cx.g z) cx))
      ∧ (∀ f : FA, f.a.toNat = a → f.l = l → let wait := if felt then Instr.barFwait f else .barWait f
        let sync := if felt then Instr.barFsync f else .barSync f
        (bad 0x10F → Traps wait s run cx 2 1#64)
        ∧ (¬ bad 0x10F → b.phase ≠ ph → Does wait s cx y.keeps)
        ∧ (¬ bad 0x10F → b.phase = ph → Comes wait s ((s.setBar t felt i { b with wmask := ins b.wmask (key felt) (mask felt ||| bit) }).setGrp cx.g (blocked y felt ph)) cx)
        ∧ (bad 0xF → Traps sync s run cx 2 1#64)
        ∧ (¬ bad 0xF → released x scope = true → b.arrived + 1 = b.expect → Comes sync s (done.setGrp cx.g y.keeps) cx)
        ∧ (¬ bad 0xF → released x scope = true → b.arrived + 1 ≠ b.expect →
            Comes sync s ((s.setBar t felt i { b with arrived := b.arrived + 1, wmask := ins b.wmask (key felt) (mask felt ||| bit) }).setGrp cx.g (blocked y felt b.phase)) cx)))
    ∧ (∀ f : FS2, f.a.toNat = a → f.l = l → pendingReg x (96 + f.d.toNat) = none → let felt := c.getLsbD 12
      let b := s.bar t felt i
      (strays c 0x100F ∨ (felt = true ∧ 3 < i) → Traps (.barTest f) s run cx 2 1#64)
      ∧ (¬ (strays c 0x100F ∨ (felt = true ∧ 3 < i)) →
        Does (.barTest f) s cx (y.setS f.d.toNat (BitVec.ofNat 64 (b.arrived + b.expect * 2 ^ 8 + (if b.phase then 2 ^ 16 else 0) + (mask felt).toNat * 2 ^ 32)))))

/-- R291 to R294, R297: BAND.INIT gives an idle band its stages, all empty in phase 0; BAND.PUT fills an empty stage and BAND.DONE empties a full one and turns its phase, each after
its release, and every waiter whose test then passes is freed; BAND.TAKE goes on where the stage is as its word asks, else blocks the group; BAND.TEST reads all. -/
def bandsRule : Prop :=
  ∀ (s : State) (run : Run) (cx : Cx) (a : Nat) (c : W64) (l : Bool), Issuing s run cx {} false → let x := s.grp cx.g
    x.pinned = [] → ScalarOk x a c → resident x = true → x.wait = .none → (∀ e ∈ s.groups, ∀ o ∈ e.2.ops, workSpots o.work = []) → (∀ o ∈ x.ops, workSpots o.work = []) →
    let t := x.team
    let y := x.lastUse cx.exe 1 (if l then [96 + a] else [])
    let i := (c.extractLsb' 0 3).toNat
    let st := (c.extractLsb' 4 4).toNat
    let b := s.band t i
    let stray := b.count ≤ st
    (∀ f : FA, f.a.toNat = a → f.l = l → let n := (c.extractLsb' 16 5).toNat
      (let bad := strays c 0x1F0007 ∨ n < 2 ∨ 16 < n
        let busy := b.full ≠ 0#16 ∨ b.wmask ≠ 0#32
        (bad → Traps (.bandInit f) s run cx 2 1#64) ∧ (¬ bad → busy → Traps (.bandInit f) s run cx 2 2#64)
        ∧ (¬ bad → ¬ busy → Comes (.bandInit f) s ((s.setBand t i { b with count := n, full := 0#16, phase := 0#16 }).setGrp cx.g y) cx))
      ∧ (∀ put : Bool, let ins := if put then Instr.bandPut f else .bandDone f
        let turned : BitVec 16 := b.full ^^^ (1#16 <<< st)
        let next : Band := if put then { b with full := turned } else { b with full := turned, phase := b.phase ^^^ (1#16 <<< st) }
        let passes (e : Nat × Group) : Bool := match e.2.wait with
          | .band j k ph em => e.2.team == t && i == j && alive e.2 && (next.full.getLsbD k == !em) && (next.phase.getLsbD k == ph)
          | _ => false
        let gs := s.groups.filter passes
        let bad := strays c 0xF7 ∨ stray
        (bad → Traps ins s run cx 2 1#64) ∧ (¬ bad → released x 1 = false → Stalls ins s run cx)
        ∧ (¬ bad → released x 1 = true → b.full.getLsbD st = put → Traps ins s run cx 2 2#64)
        ∧ (¬ bad → released x 1 = true → b.full.getLsbD st ≠ put →
            Comes ins s (((s.setBand t i { next with wmask := gs.foldl (fun (m : W32) (e : Nat × Group) => m &&& ~~~(BitVec.ofNat 32 (2 ^ e.2.gidx))) b.wmask }).freed (gs.map (·.1))).setGrp cx.g y) cx))
      ∧ (let bad := strays c 0x3F7 ∨ stray
        let ph := c.getLsbD 8
        let em := c.getLsbD 9
        let met := b.full.getLsbD st = !em ∧ b.phase.getLsbD st = ph
        (bad → Traps (.bandTake f) s run cx 2 1#64) ∧ (¬ bad → met → Does (.bandTake f) s cx y.keeps)
        ∧ (¬ bad → ¬ met → Comes (.bandTake f) s ((s.setBand t i { b with wmask := b.wmask ||| BitVec.ofNat 32 (2 ^ x.gidx) }).setGrp cx.g { y with wait := .band i st ph em }) cx)))
    ∧ (∀ f : FS2, f.a.toNat = a → f.l = l → pendingReg x (96 + f.d.toNat) = none →
      (strays c 0x7 → Traps (.bandTest f) s run cx 2 1#64)
      ∧ (¬ strays c 0x7 → Does (.bandTest f) s cx (y.setS f.d.toNat (BitVec.ofNat 64 (b.full.toNat + b.phase.toNat * 2 ^ 16 + b.count * 2 ^ 32)))))

/-- Barriers and work bands (R285 to R297). -/
def Obligations.BarriersAndBands : Prop := barriersRule ∧ bandsRule

/-! ## Name words -/

/-- R308 to R313: NWAKE, NSIG and NDEP wait for the system-scope release and are issued as operations to the name and generation their operands give; NJOIN answers at
once for a name it cannot reach, its own name, a dead one or a full device, and otherwise waits; NWAIT takes the latch and the signal word, or waits. -/
def Obligations.NameWords : Prop :=
  ∀ (s : State) (run : Run) (cx : Cx), let x := s.grp cx.g
    x.pinned = [] → (∀ o ∈ x.ops, workSpots o.work = []) →
    let hint := match cx.h.imm with | i :: _ => i.toNat | [] => 0
    let gen : W16 := BitVec.ofNat 16 (hint % 65536)
    (Issuing s run cx { imm := 1 } true →
      (∀ (kind t p h : Nat) (regs : List Nat) (n : W64) (m : Nat × W64) (i : Instr),
        ((∃ f : FEP, i = .nwake f ∧ kind = 1 ∧ f.t.toNat = t ∧ f.p.toNat = p ∧ f.h.toNat = h ∧ regs = scalarLast f.l p false 0 ∧ m = (0, 0#64) ∧ hint < 65536)
          ∨ (∃ (f : FE) (v : W64), ScalarOk x f.q.toNat v ∧ f.t.toNat = t ∧ f.p.toNat = p ∧ f.h.toNat = h ∧ regs = scalarLast f.l p f.k f.q.toNat
            ∧ ((i = .nsig f ∧ kind = 2 ∧ m = (0, v &&& 0xFFFFFFFF#64) ∧ hint < 65536)
              ∨ (i = .ndep f ∧ kind = 3 ∧ m = if cx.h.imm = [] then (v.toNat / 2 ^ 60, (v.extractLsb' 0 60).signExtend 64) else (hint / 65536, v))))) →
        ScalarOk x p n → let y := x.lastUse cx.exe regs.length regs
        LongOk y h [96 + t] →
        (released x 5 = true → Comes i s (s.sent cx.g (y.sends cx.exe (longOp y cx s.nextId .name (96 + t) h 0#64 [96 + t] (fun _ => []) (.name kind n gen m.1 m.2) .done false []))) cx)
        ∧ (released x 5 = false → Stalls i s run cx))
      ∧ (∀ f : FEP, 65536 ≤ hint → Traps (.nwake f) s run cx 2 0#64) ∧ (∀ f : FE, 65536 ≤ hint → Traps (.nsig f) s run cx 2 0#64)
      ∧ (∀ (f : FNjoin) (n lim : W64), ScalarOk x f.p.toNat n → ScalarOk x f.q.toNat lim → let d := 2 * f.t.toNat
        pendingReg x (96 + d) = none → pendingReg x (97 + d) = none → hint < 65536 →
        let regs := scalarLast f.l f.p.toNat f.k f.q.toNat
        let y := x.lastUse cx.exe regs.length regs
        let gives (z : Group) (st : Nat) (v : W64) : Prop := Does (.njoin f) s cx ((z.setS d (BitVec.ofNat 64 st)).setS (d + 1) v)
        let seen := if inPlace x then y.keeps else y
        (∀ st, s.resolve x.dom n (hint % 65536) 3 = .error st → gives y st 0#64)
        ∧ (∀ e, s.resolve x.dom n (hint % 65536) 3 = .ok e →
          (n = x.name → gives y 6 0#64) ∧ (n ≠ x.name → e.st = 6 → gives seen (if e.killed then 2 else 0) e.loc)
          ∧ (n ≠ x.name → e.st ≠ 6 → 4096 ≤ s.joins.countP (fun j => j.ld == x.ld) → gives y 5 0#64)
          ∧ (n ≠ x.name → e.st ≠ 6 → s.joins.countP (fun j => j.ld == x.ld) < 4096 →
            let j : Join := { ld := x.ld, target := n, gid := some cx.g, dom := x.dom, port := 0, ticket := 0#32, caddr := 0#64, limit := 0 }
            let z := (y.holdS d).holdS (d + 1)
            Comes (.njoin f) s ({ s with joins := s.joins ++ [j] }.setGrp cx.g { z with wait := .njoin d n (if lim = 0#64 then none else some lim.toNat) cx.act }) cx))))
    ∧ (∀ (f : FE1) (lim : W64), Issuing s run cx {} true → ScalarOk x f.p.toNat lim → pendingReg x (96 + f.t.toNat) = none →
      let regs := scalarLast f.l f.p.toNat false 0
      let y := x.lastUse cx.exe regs.length regs
      let d := f.t.toNat
      (x.latch = true ∨ x.sigword ≠ 0#32 →
        Does (.nwait f) s cx { (if inPlace x then y.keeps else y).setS d (BitVec.ofNat 64 (x.sigword.toNat + if x.latch then 2 ^ 32 else 0)) with sigword := 0#32, latch := false })
      ∧ (x.latch = false → x.sigword = 0#32 → Does (.nwait f) s cx { y.holdS d with wait := .nwait d (if lim = 0#64 then none else some lim.toNat) cx.act }))

/-! ## Copy and matrix words -/

/-- R109, R228, R238, R239, R245 and R246: CPY reads and checks its packet, clears the bitmaps of every receiver and queues the command; CCANCEL answers NOTFOUND for
no such command and ends one it finds; CWAIT answers the bitmap word once it holds the mask, else waits; CTEST delivers the word under the mask. Beside the rules it rests on the model's own readings: log entries 37, 41, 43, 44 and 45. -/
def Obligations.CopyWords : Prop :=
  ∀ (s : State) (run : Run) (cx : Cx) (p : W64), Issuing s run cx {} false → let x := s.grp cx.g
    x.pinned = [] → (∀ o ∈ x.ops, workSpots o.work = []) → (∀ e ∈ x.sb, e.landed = true) → (s.die (dieOf x)).watches = [] →
    let seq := x.cmdseq
    (∀ f : FEP, ScalarOk x f.p.toNat p → let regs := scalarLast f.l f.p.toNat false 0
      let y := x.lastUse cx.exe regs.length regs
      let out := [96 + f.t.toNat]
      (x.role ≠ 0 → Traps (.cpy f) s run cx 3 0#64 ∧ Traps (.ccancel f) s run cx 3 0#64)
      ∧ (x.role = 0 →
        let own := s.copies.filter (fun c => c.queue.isNone && c.gid == cx.g)
        (p.toNat % 64 ≠ 0 → Traps (.cpy f) s run cx 6 p)
        ∧ (p.toNat % 64 = 0 → 8 ≤ own.length → Stalls (.cpy f) s run cx)
        ∧ (∀ (s1 : State) (t : Nat × Target × Used), p.toNat % 64 = 0 → own.length < 8 →
          (checkAccess cx [(lowLane x.w cx.exe, p)] { size := 64, align := 1, need := { r := true }, uniform := true }).run s = .ok ([t], s1) → s1.sawT t.2.1 64 = s1 →
          let pk := s1.readT t.2.1 64
          let tcb := (s.task x.task).tcb
          let recv := if pkKind pk = 4 then (pkPeers pk tcb.cols).map (fun i => ((s.felt (s.team x.team).felt).teams).getD i x.team) else [x.team]
          (∀ o, o ∈ pkFaults pk false tcb.rows tcb.cols → (∀ k ∈ pkFaults pk false tcb.rows tcb.cols, o ≤ k) → Traps (.cpy f) s run cx 2 (BitVec.ofNat 64 o))
          ∧ (pkFaults pk false tcb.rows tcb.cols = [] →
            (pkOutside pk (s.scratchSize x.team) = true → Traps (.cpy f) s run cx 7 1#64)
            ∧ (pkOutside pk (s.scratchSize x.team) = false → (∀ t ∈ recv, (s.team t).retired = false ∧ (s.team t).resident = true) → (s.team x.team).resident = true → LongOk y f.h.toNat out →
              let zeros := List.replicate (pkBmBytes pk) 0#8
              let u2 := ((x.team :: recv).dedup).foldl (fun s t => s.writeT (.scr t (pkBm pk)) zeros) s1
              let z : Group := { (keepLoads cx.exe [(t.2.1, 64)] x).lastUse cx.exe regs.length regs with cmdseq := seq + 1#64 }
              let c : Copy := { id := s.nextId, queue := none, slot := 0, gid := cx.g, name := x.name, ld := x.ld, dom := x.dom, core := x.core, die := dieOf x, site := cx.pc, seq := seq, pk := pk, pkva := p, team := x.team, receivers := recv, started := false, cleared := true, index := [], left := recv.map (fun t => (t, List.range (pkChunks pk))), heldData := [], sparse := none, cancel := false, fault := none, susp := 0, prio := 0, turn := 0, fabric := false, awaiting := [], spoilt := [] }
              Comes (.cpy f) s ({ u2 with copies := u2.copies ++ [c] }.sent cx.g (z.sends cx.exe (longOp z cx s.nextId .cpy (96 + f.t.toNat) f.h.toNat seq out (fun _ => []) .command .done false []))) cx)))
        ∧ (LongOk y f.h.toNat out → (∀ c ∈ own, c.seq ≠ p) →
          Comes (.ccancel f) s (s.sent cx.g (y.sends cx.exe (longOp y cx s.nextId .cancel (96 + f.t.toNat) f.h.toNat 0#64 out (fun _ => [1#64]) .done .done false []))) cx)
        ∧ (∀ c more, own.filter (fun c => c.seq == p) = c :: more → let u := (s.setGrp cx.g y).endCopy { c with cancel := !(c.started && copyDone s c) }
          let z := u.grp cx.g
          LongOk z f.h.toNat out → Calm u cx.g → u.runs = s.runs → atLoopEnd z cx.pc = false →
          Comes (.ccancel f) s (u.sent cx.g (z.sends cx.exe (longOp z cx u.nextId .cancel (96 + f.t.toNat) f.h.toNat 0#64 out (fun _ => [0#64]) .done .done false []))) cx)))
    ∧ (∀ (off pn qn t : Nat) (m : W64) (regs : List Nat), ScalarOk x pn p → ScalarOk x qn m → s.sawT (.scr x.team off) 8 = s →
      let y := sawBits s off 8 ((keepLoads cx.exe [(.scr x.team off, 8)] x).lastUse cx.exe regs.length regs)
      let v := le64 ((s.readT (.scr x.team off) 8))
      (∀ f : FEW, f.p.toNat = pn → f.q.toNat = qn → f.t.toNat = t → regs = scalarLast f.l pn f.k qn →
        ((∀ h k, s.window cx.g p = .team h k → h ≠ x.team) → Traps (.cwait f) s run cx 2 0#64)
        ∧ (s.window cx.g p = .team x.team off → off % 8 ≠ 0 → Traps (.cwait f) s run cx 6 1#64)
        ∧ (s.window cx.g p = .team x.team off → off % 8 = 0 → s.scratchSize x.team < off + 8 → Traps (.cwait f) s run cx 7 1#64)
        ∧ (s.window cx.g p = .team x.team off → off % 8 = 0 → off + 8 ≤ s.scratchSize x.team → pendingReg x (96 + t) = none →
          (v &&& m = m → Does (.cwait f) s cx (y.setS t v)) ∧ (v &&& m ≠ m → Does (.cwait f) s cx { y.holdS t with wait := .cwait t off m cx.act })))
      ∧ (∀ f : FE, f.p.toNat = pn → f.q.toNat = qn → f.t.toNat = t → regs = scalarLast f.l pn f.k qn → s.window cx.g p = .team x.team off → off % 8 = 0 → off + 8 ≤ s.scratchSize x.team →
        LongOk y f.h.toNat [96 + t] →
        Comes (.ctest f) s (s.sent cx.g (y.sends cx.exe (longOp y cx s.nextId .load (96 + t) f.h.toNat 0#64 [96 + t] (fun _ => [v &&& m]) .done .done false []))) cx))

/-- R247, R251, R257, R258 and R264 to R270: MMA reads and checks its block, captures its A rows unless a chain holds them, and joins the team's queue; MRDY captures its
rows for a slot; MACC joins with its control words; each stalls while eight commands are open. MWAIT answers the gathered status of what it covers once all of it has
written its tokens, else waits; MSTAT reads the status word and may clear it. Beside the rules it rests on the model's own readings: log entries 43, 46 and 47. -/
def Obligations.MatrixWords : Prop :=
  ∀ (s : State) (run : Run) (cx : Cx) (p q : W64), Issuing s run cx {} false → let x := s.grp cx.g
    let t := s.team x.team
    (∀ e ∈ x.pinned, e.2 < 80) → (∀ o ∈ x.ops, workSpots o.work = []) → (∀ e ∈ x.sb, e.landed = true) → (s.die (dieOf x)).watches = [] → x.w ≤ 64 →
    let open8 := 8 ≤ (t.mq.filter (fun c => !c.token)).length
    let seq := x.cmdseq
    let kept (ranges : List (Nat × Nat)) (z : Group) : Group := keepLoads cx.exe (ranges.map (fun r => (.scr x.team r.1, r.2))) z
    let rowsOf (regs : List Nat) : List (List W32) := regs.map (fun r => (List.range x.w).map (fun k => x.el32 r k))
    let queued (y : Group) (tn h : Nat) (out regs : List Nat) (chain : Option Nat) (c : MCmd) : State :=
      let z : Group := { y with cmdseq := seq + 1#64 }
      let o := longOp z cx s.nextId .matrix ((out ++ [96 + tn]).headD 0) h seq (out ++ [96 + tn]) (fun _ => []) .command .done false []
      let v := z.sends cx.exe o
      (s.setTeam x.team { t with chain := chain, mq := t.mq ++ [{ c with id := s.nextId, gid := cx.g, site := cx.pc, seq := seq, act := cx.exe }] }).sent cx.g { v with pinned := v.pinned ++ regs.map (fun r => (s.nextId, r)) }
    (∀ f : FEP, ScalarOk x f.p.toNat p → let regs1 := scalarLast f.l f.p.toNat false 0
      let y := x.lastUse cx.exe regs1.length regs1
      (x.role ≠ 1 → Traps (.mma f) s run cx 3 0#64)
      ∧ (x.role = 1 →
        ((∀ off, s.window cx.g p = .team x.team off → off % 64 ≠ 0) → Traps (.mma f) s run cx 2 0x100#64)
        ∧ (∀ off, s.window cx.g p = .team x.team off → off % 64 = 0 → off + 64 ≤ s.scratchSize x.team → s.hidden x.team off 64 = false →
          let pb := rdN t.scr off 64
          let chain := s.openChain x.team
          (∀ o, o ∈ pbFaults pb x.w → (∀ k ∈ pbFaults pb x.w, o ≤ k) → Traps (.mma f) s run cx 2 (BitVec.ofNat 64 o))
          ∧ (pbFaults pb x.w = [] →
            let fits (c : MCmd) : Prop := c.gid = cx.g ∧ pbFmt c.pb = pbFmt pb ∧ pbAreg c.pb = pbAreg pb ∧ pbNs c.pb = pbNs pb ∧ pbJ c.pb = pbJ pb
            let regions := [(pbBoff pb, 64 * pbAll pb)] ++ (if pbFlag pb 4 then [(pbVmoff pb, (pbAll pb + 7) / 8)] else [])
            let inside := (∀ r ∈ regions, r.1 + r.2 ≤ s.scratchSize x.team)
              ∧ pbDoff pb + pbTile pb x.w ≤ s.accSize x.team ∧ (pbFlag pb 0 = false → pbCoff pb + pbTile pb x.w ≤ s.accSize x.team)
            let regs := if chain.isSome then [] else (List.range (16 * pbNs pb)).map (pbAreg pb + ·)
            ((∃ c, chain = some c ∧ ¬ fits c) → Traps (.mma f) s run cx 2 0x200#64)
            ∧ ((∀ c, chain = some c → fits c) → inside → open8 → Stalls (.mma f) s run cx)
            ∧ ((∀ c, chain = some c → fits c) → inside → ¬ open8 → (∀ r ∈ regs, SourceOk x r 1) → (∀ r ∈ regions, s.hidden x.team r.1 r.2 = false) → LongOk y f.h.toNat [96 + f.t.toNat] →
              let z := (kept regions (kept [(off, 64)] x)).lastUse cx.exe regs1.length regs1
              let reuse := pbFlag pb 2
              let a : Option ARows := if chain.isSome then none else some { gid := cx.g, base := pbAreg pb, ns := pbNs pb, rows := rowsOf regs, dirty := 0#64 }
              let member : Option Nat := match chain with | some c => some c.id | none => if reuse then some s.nextId else none
              let after : Option Nat := if chain.isSome then (if reuse then t.chain else none) else if reuse then some s.nextId else none
              Comes (.mma f) s (queued z f.t.toNat f.h.toNat [] regs after
                { MCmd.blank with opid := pbOpid pb, pb := pb, a := a, chain := member, closing := chain.isSome && !reuse, regions := regions, img := t.scr }) cx))))
      ∧ ((p.extractLsb' 1 63 ≠ 0#63 → Traps (.mstat f) s run cx 2 0#64)
        ∧ (p.extractLsb' 1 63 = 0#63 → LongOk y f.h.toNat [96 + f.t.toNat] →
          let u := if p.getLsbD 0 then s.setTeam x.team { t with mstat := 0#64 } else s
          Comes (.mstat f) s (u.sent cx.g (y.sends cx.exe (longOp y cx s.nextId .cancel (96 + f.t.toNat) f.h.toNat 0#64 [96 + f.t.toNat] (fun _ => [t.mstat]) .done .done false []))) cx)))
    ∧ (∀ f : FE, ScalarOk x f.p.toNat p → ScalarOk x f.q.toNat q → let regs2 := scalarLast f.l f.p.toNat f.k f.q.toNat
      let y := x.lastUse cx.exe regs2.length regs2
      (x.role ≠ 1 → Traps (.mrdy f) s run cx 3 0#64 ∧ Traps (.macc f) s run cx 3 0#64)
      ∧ (x.role = 1 →
        let opid := (p.extractLsb' 0 8).toNat
        let slot := (p.extractLsb' 8 2).toNat
        let base := (q.extractLsb' 0 7).toNat
        let ns := (q.extractLsb' 8 2).toNat + 1
        let bad := p.extractLsb' 10 54 ≠ 0#54 ∨ q.extractLsb' 10 54 ≠ 0#54 ∨ q.getLsbD 7 = true ∨ slot = 0 ∨ base % 16 ≠ 0 ∨ 80 < base + 16 * ns
        let twin := ∃ c ∈ t.mq, c.kind = 1 ∧ c.taken = none ∧ c.opid = opid ∧ c.slot = slot
        let regs := (List.range (16 * ns)).map (base + ·)
        (bad → Traps (.mrdy f) s run cx 2 0x100#64) ∧ (¬ bad → twin → Traps (.mrdy f) s run cx 2 0x201#64) ∧ (¬ bad → ¬ twin → open8 → Stalls (.mrdy f) s run cx)
        ∧ (¬ bad → ¬ twin → ¬ open8 → (∀ r ∈ regs, SourceOk x r 1) → LongOk y f.h.toNat [96 + f.t.toNat] →
          Comes (.mrdy f) s (queued y f.t.toNat f.h.toNat [] regs t.chain
            { MCmd.blank with kind := 1, opid := opid, slot := slot, a := some { gid := cx.g, base := base, ns := ns, rows := rowsOf regs, dirty := 0#64 } }) cx)
        ∧ (let opk := mcOpk p
          let vregs := (List.range (mcCnt p)).map (mcVreg p + ·)
          let scratch := opk < 2 ∨ mcRst q + mcLen q ≤ s.scratchSize x.team
          let room := if opk < 2 then ∀ k ∈ cx.lanes x, mcAoff p + k * mcRst q + 4 * mcCnt p ≤ s.accSize x.team else mcAoff p + mcLen q ≤ s.accSize x.team
          (maccBad p q f.h.toNat = true → Traps (.macc f) s run cx 2 0#64)
          ∧ (maccBad p q f.h.toNat = false → ¬ scratch → Traps (.macc f) s run cx 7 1#64)
          ∧ (maccBad p q f.h.toNat = false → scratch → ¬ room → Traps (.macc f) s run cx 7 2#64)
          ∧ (maccBad p q f.h.toNat = false → scratch → room → ¬ open8 → (opk = 1 → ∀ r ∈ vregs, SourceOk x r 1) →
            let out := if opk = 0 then vregs else []
            LongOk y f.h.toNat (out ++ [96 + f.t.toNat]) →
            let regions := if opk = 3 then [(mcRst q, mcLen q)] else []
            (∀ r ∈ regions, s.hidden x.team r.1 r.2 = false) →
            let z := (if opk < 2 then x else kept [(mcRst q, mcLen q)] x).lastUse cx.exe regs2.length regs2
            Comes (.macc f) s (queued z f.t.toNat f.h.toNat out (if opk = 1 then vregs else []) t.chain
              { MCmd.blank with kind := 2, ctl := p, opw := q, srcs := if opk = 1 then rowsOf vregs else [], regions := regions, img := t.scr }) cx))))
    ∧ (∀ f : FE1, ScalarOk x f.p.toNat p → pendingReg x (96 + f.t.toNat) = none → let regs1 := scalarLast f.l f.p.toNat false 0
      let y := x.lastUse cx.exe regs1.length regs1
      let whole := p.getLsbD 8
      let op := (p.extractLsb' 0 8).toNat
      let bad := p.extractLsb' 9 55 ≠ 0#55 ∨ (whole = true ∧ op ≠ 0)
      let covers (c : MCmd) : Bool := !c.token && (whole || (c.kind != 2 && c.opid == op))
      let done := t.mdone.filter (fun e => whole || e.1 == op)
      let acc := done.foldl (fun a e => gather a e.2.1 e.2.2) 0
      (bad → Traps (.mwait f) s run cx 2 0#64)
      ∧ (¬ bad → t.mq.all (fun c => !covers c) = true → Does (.mwait f) s cx (y.setS f.t.toNat (BitVec.ofNat 64 acc)))
      ∧ (¬ bad → t.mq.all (fun c => !covers c) = false →
        Does (.mwait f) s cx { y.holdS f.t.toNat with wait := .mwait f.t.toNat ((t.mq.filter covers).map (·.id)) acc cx.act }))

/-! ## Runs and the results of operations -/

/-- R77, R107 and R108: RUN_SELECT turns to the run a site has in progress; where it has none, the ready group of the highest task priority, then of the longest wait,
then of the lowest slot, begins one: of its live threads of the greatest age, those at the lowest PC. Beside the rules it rests on the model's own readings: log entry 7. -/
def Obligations.RunSelection : Prop :=
  ∀ (site : Site) (s : State), let n := Site.num site
    (∀ r, look s.runs n = some r → exec (.runSelect site) s = .next { s with focus := some n })
    ∧ (∀ (g : Nat) (pc act : W64), let x := s.grp g
      look s.runs n = none → (∀ e ∈ s.groups, claimOf e.2 = none) → (g, x) ∈ s.groups → resident x = true → siteOf x = n → ready s x = true → x.w ≤ 64 →
      (∀ e ∈ s.groups, e.1 ≠ g → resident e.2 = true → siteOf e.2 = n → ready s e.2 = true →
        prioOf s e.2 < prioOf s x ∨ (prioOf s e.2 = prioOf s x ∧ (e.2.waited < x.waited ∨ (e.2.waited = x.waited ∧ x.slot < e.2.slot)))) →
      (∀ e ∈ s.groups, e.1 = g → e.2 = x) →
      x.stopNext = false → (x.handler.isSome = true ∨ (x.events = [] ∧ (x.sighandler = 0#64 ∨ x.sigword = 0#32))) →
      let live (t : Nat) : Bool := decide (t < x.w) && !hasLane x.exited t
      let age (t : Nat) : Nat := x.ages.getD t 0
      let at' (t : Nat) : W64 := x.pcs.getD t 0#64
      let oldest (t : Nat) : Prop := live t = true ∧ ∀ u, live u = true → age u ≤ age t
      (∃ t, oldest t ∧ at' t = pc) → (∀ t, oldest t → pc.toNat ≤ (at' t).toNat) → (∀ t, t < 64 → act.getLsbD t = (live t && at' t == pc)) →
      let r : Run := { gid := g, act := act, words := 0, pc := pc, upc := pc, hints := {}, held := false, rur := none }
      exec (.runSelect site) s = .next { s.setGrp g { x with wait := .none, retry := false } with runs := ins s.runs n r, focus := some n })
    ∧ (look s.runs n = none → (∀ e ∈ s.groups, claimOf e.2 = none ∧ ready s e.2 = false) → exec (.runSelect site) s = .next s)

/-- R110, R186, R203, R321 and R331: a result that arrives is stored, or kept while its window is open; an atomic reads its word, writes what its operation gives and hands
back the old value; KST and KREC do so at the cell's home; an acknowledged store has reached memory, and one in device memory is acknowledged
at every scope. One access each, with none of the group's other accesses in
its way. Beside the rules it rests on the model's own readings: log entries 6, 9, 10, 11 and 109. -/
def Obligations.OperationsAtHome : Prop :=
  ∀ (s : State) (g id : Nat) (o : LOp), let x := s.grp g
    s.ownerOf id = some (g, o) → x.ops = [o] → inPlace x = true → o.ready = false →
    let put (v : State) (work : Work) (vals : Nat → List W64) : State :=
      v.setGrp g (settle { x with ops := [{ o with work := work, dests := o.dests.map (fun d => { d with vals := vals d.reg }), ready := o.dests.isEmpty && o.disc.isEmpty }] })
    (o.work = .done → Becomes (.longLatencyResult id) s (s.setGrp g (settle { x with ops := [{ o with ready := true, again := .done }] })))
    ∧ (x.sb = [] →
      (∀ (code : Nat) (wide signed : Bool) (t a : Nat) (v c : W64), o.kind = .atomic → o.work = .atomic code wide signed [(t, .dev a, v, c)] →
        let n := if wide then 8 else 4
        let old : W64 := BitVec.ofNat 64 (leNat (rdN s.dmem a n))
        let less : Bool := if signed then (if wide then old.slt v else (old.setWidth 32).slt (v.setWidth 32)) else decide (old.toNat < v.toNat)
        let news : List (Nat × Option W64) := [(0, some (old + v)), (1, some (if less then old else v)), (2, some (if less then v else old)), (3, some (old &&& v)), (4, some (old ||| v)), (5, some (old ^^^ v)),
          (6, some v), (7, if old = c then some v else none), (8, some ((add32 (old.setWidth 32) (v.setWidth 32)).setWidth 64))]
        let low : W64 := old &&& 0xFFFFFFFF#64
        let back (r : Nat) : List W64 :=
          if 96 ≤ o.base then (if r = o.base then [if wide then old else if signed then (old.setWidth 32).signExtend 64 else low] else [0#64])
          else if r = o.base then (List.range x.w).map (fun k => if k = t then low else 0#64)
          else if r = o.base + 1 then (List.range x.w).map (fun k => if k = t then old >>> 32 else 0#64)
          else (List.range x.w).map (fun _ => 0#64)
        (∀ d ∈ o.dests, o.base ≤ d.reg ∧ (o.base < 96 → d.reg < 96)) → s.touchedNames a n = [] →
        ∀ r ∈ news, code = r.1 → Becomes (.atomicPerform id) s (put (match r.2 with | some w => { s with dmem := wrN s.dmem a (toLe n w.toNat) } | none => s) .done back))
      ∧ (∀ (t a : Nat) (m : BitVec 3) (v tok : W64), o.kind = .kst → o.work = .kst [(t, .keep a m, v, tok)] → (∀ e ∈ s.groups, ∀ b ∈ e.2.sb, b.id ≠ id) → o.base < 88 → (∀ d ∈ o.dests, d.reg = o.base) →
        let k := s.keepWrite a m.toNat (writerId x) v tok
        Becomes (.keepWriteApply id) s (put k.1 .done (fun _ => (List.range x.w).map (fun l => if l = t then BitVec.ofNat 64 (k.2.1 + 256 * k.2.2) else 0#64))))
      ∧ (∀ (t a : Nat) (m op : BitVec 3) (v : W64), o.kind = .krec → o.work = .krec op [(t, .keep a m, v)] → 96 ≤ o.base → (∀ d ∈ o.dests, d.reg = o.base ∨ d.reg = o.base + 1) →
        let k := s.keepReconcile a m.toNat op.toNat (writerId x) v
        Becomes (.keepReconcileApply id) s (put k.1 .done (fun r => if r = o.base then [k.2.1] else [k.2.2]))))
    ∧ (∀ (e : SbEntry) (a : Nat) (bs : List W8) (k : Fin 6), x.sb = [e] → e.landed = false → e.done = [] → workSpots o.work = [] → (∀ c ∈ s.copies, c.started = true ∨ c.gid ≠ g) →
      (e.writes = [(.dev a, bs)] → s.touchedNames a bs.length = [] →
        Becomes (.storeAcknowledge g e.id k) s ({ s with dmem := wrN s.dmem a bs }.setGrp g { x with sb := [] }))
      ∧ (∀ ld, e.writes = [(.host ld a, bs)] → s.noDma ld = false →
        let acked := e.acked ||| BitVec.ofNat 6 (2 ^ (k.val + 1) - 1)
        Becomes (.storeAcknowledge g e.id k) s
          ({ s with hmem := wrN s.hmem (hostKey ld a) bs }.setGrp g { x with sb := if acked = 63#6 then [] else [{ e with landed := true, acked := acked }] })))

/-- R119, R166, R170, R301, R304 to R307, R312, R313 and R360: what ends a wait, and what a name operation does. A sleeper wakes when its ticks are over; NWAIT and NJOIN time out with their
results; the last claim of a deadlocked partition is answered DEADLOCK, with a trap where enabled; an operation on a name answers the status of its resolution, or wakes,
signals or deposits at the holder; the name of an exited group turns DEAD once its stores are acknowledged. -/
def waitsAndNamesRule : Prop :=
  ∀ (s : State) (g : Nat), let x := s.grp g
    let ticks (n : Nat) : State := s.setDie (dieOf x) { s.die (dieOf x) with clk := (s.die (dieOf x)).clk + BitVec.ofNat 64 n }
    ((∀ o ∈ x.ops, workSpots o.work = []) → resident x = true →
      (∀ n, x.wait = .sleep n → Becomes (.sleepExpiry g) s ((ticks n).setGrp g { x with wait := .none }))
      ∧ (∀ d n set, x.wait = .nwait d (some n) set → let y := x.keeps.setS d (BitVec.ofNat 64 (x.sigword.toNat + 2 ^ 33))
        Becomes (.nwaitTimeout g) s ((ticks n).setGrp g { y with wait := .none, sigword := 0#32, latch := false }))
      ∧ (∀ d n set (t : W64) (j : Join), x.wait = .njoin d t (some n) set → s.joins.find? (fun j => j.gid == some g && j.target == t) = some j →
        let y := (x.keeps.setS d 6#64).setS (d + 1) 0#64
        Becomes (.njoinTimeout g) s ({ ticks n with joins := s.joins.filter (· != j) }.setGrp g { y with wait := .none })))
    ∧ (x.wait = .none → Idle (.sleepExpiry g) s ∧ Idle (.nwaitTimeout g) s ∧ Idle (.njoinTimeout g) s)
    ∧ (∀ (core : Fin 192) (part : Fin 8) (d n o : Nat) (set pc : W64), let site := core.val * 8 + part.val
      s.groups.filter (fun e => resident e.2 && siteOf e.2 == site) = [(g, x)] → x.wait = .vclaim d n o set pc → look s.runs site = none → x.events = [] → x.latch = false → x.sigword = 0#32 →
      x.ops = [] → (∀ c ∈ s.copies, c.queue.isSome = true ∨ c.gid ≠ g) → (∀ c ∈ (s.team x.team).mq, c.gid ≠ g) →
      ¬ (n * (x.w / 16) ≤ s.unreserved x.team site ∧ (n - min n (entries x - x.floor)) * (x.w / 16) ≤ s.freeSlices site) →
      let y : Group := { x.setS d (BitVec.ofNat 64 (x.floor * 256 + 1)) with wait := .none }
      let info : W64 := BitVec.ofNat 64 (n * (x.w / 16) + s.unreserved x.team site * 2 ^ 16 + s.freeSlices site * 2 ^ 32)
      (x.trapmask.getLsbD 2 = false → Becomes (.claimDeadlockDetect core part) s (s.setGrp g y))
      ∧ (∀ next : W64, x.trapmask.getLsbD 2 = true → (∃ t, t < x.w ∧ set.getLsbD t = true) → (∀ t, t < x.w → set.getLsbD t = true → x.pcs.getD t 0#64 = next) →
          Becomes (.claimDeadlockDetect core part) s ((s.setGrp g y).takeTrap g { cause := 10, info := info, pc := next, set := set, sitePc := pc, siteSeq := x.cmdseq })))
    ∧ (∀ (id kind reg : Nat) (o : LOp) (t v : W64) (gen : W16), s.ownerOf id = some (g, o) → x.ops = [o] → inPlace x = true → o.work = .name kind t gen reg v → kind = 1 ∨ kind = 2 ∨ kind = 3 →
      let told (u : State) (st : Nat) : State :=
        let y := u.grp g
        u.setGrp g { y with ops := y.ops.map (fun p => if p.id == id then { p with work := .done, dests := p.dests.map (fun d => { d with vals := [BitVec.ofNat 64 st] }) } else p) }
      (∀ st, s.resolve x.dom t gen.toNat (kind - 1) = .error st → Becomes (.nameOperationApply id) s (told s st))
      ∧ (∀ e h, s.resolve x.dom t gen.toNat (kind - 1) = .ok e → e.st = 1 → s.holder t = some h → resident (s.grp h) = true → inNwait (s.grp h) = false →
        let z := s.grp h
        (kind = 1 → Becomes (.nameOperationApply id) s (told (s.setGrp h { z with latch := true, woken := false }) 0))
        ∧ (kind = 2 → Becomes (.nameOperationApply id) s (told (s.setGrp h { z with sigword := z.sigword ||| v.setWidth 32 }) 0))
        ∧ (kind = 3 → Becomes (.nameOperationApply id) s (told (s.setGrp h { z with ops := z.ops.map (dropDest (144 + reg) (BitVec.allOnes 64)), sval := ins z.sval (144 + reg) v }) 0))))
    ∧ (x.place = .exited → (∀ e ∈ x.sb, e.acked.getLsbD 5 = true) → (∀ j ∈ s.joins, j.target ≠ x.name) → let e := s.nameEnt x.name
      let u := s.setGrp g { x with place := .ended, sb := [] }
      Becomes (.groupNameDead g) s (if e.st = 0 then u else u.setName x.name { e with st := 6, killed := false, aux := 0, loc := x.exitval }))

/-- R299 to R302: a name resolves only for its own domain or for one that its domain grants the right; an entry that is FREE, of another generation or without the right
refuses. -/
def nameResolutionRule : Prop :=
  ∀ (s : State) (caller : W16) (n : W64) (gen right : Nat), let e := s.nameEnt n
    let granted := n.extractLsb' 48 16 = caller ∨ s.granted (n.extractLsb' 48 16) caller right = true
    (¬ granted → s.resolve caller n gen right = .error 3)
    ∧ (granted → (e.st = 0 ∨ (gen ≠ 0 ∧ gen ≠ e.gen)) → s.resolve caller n gen right = .error 4)
    ∧ (granted → e.st ≠ 0 → (gen = 0 ∨ gen = e.gen) → e.rights.testBit right = false → s.resolve caller n gen right = .error 3)
    ∧ (granted → e.st ≠ 0 → (gen = 0 ∨ gen = e.gen) → e.rights.testBit right = true → s.resolve caller n gen right = .ok e)
    ∧ (∀ a st killed aux loc, s.nameSlot n = some a → s.nameTampered a = false →
      (s.takeName n st killed aux loc).dmem = wrN s.dmem a (toLe 16 (({ st := st, killed := killed, aux := aux, rights := 15, gen := if 65535 ≤ e.gen then 1 else e.gen + 1, loc := loc } : NameEnt).code)))

/-- What ends a wait, what a name operation does, and how a name resolves (R119, R299 to R307, R312, R313). Beside the rules it rests on the model's own readings: log entries 6, 32, 33 and 34. -/
def Obligations.NamesAndWaits : Prop := waitsAndNamesRule ∧ nameResolutionRule

/-- R218 to R221: a translation answer that grants the permissions is cached and the accesses that asked go on; one that does not sends a page request group, or is told with code 9 while page requests are
off; a refusal is told to the access with code 6. A page request answered with success lets the access go on, an invalid request is told with code 6, a failure with 7, after which
page requests are off, silence with 8. Beside the rules it rests on the model's own readings: log entries 92, 93 and 111. -/
def Obligations.HostAnswers : Prop :=
  ∀ (s : State) (ld : Fin 16) (g : Nat) (m : Miss), let l := s.ldev ld.val
    let x := s.grp g
    s.pend = [] → m.ld = ld.val → x.wait = .xlat [m] 0 → resident x = true →
    (l.trs = [(some g, m)] → l.ungranted = [] → l.prgs = [] →
      let u := s.setLd ld.val { l with trs := [] }
      let freed (v : State) : State := v.setGrp g { v.grp g with wait := .none }
      (Becomes (.translationAnswer ld m.pasid m.page .refused) s (freed (u.setGrp g { x with xfault := x.xfault ++ [(m, 6)] })))
      ∧ (∀ (ta : W64) (log2 : Nat) (r w e : Bool), let n := max 12 log2
        let lo := m.page.toNat / 2 ^ n * 2 ^ n
        let ent : AtcEnt := { ld := ld.val, pasid := m.pasid, page := lo, log2 := n, ta := ta.toNat / 2 ^ n * 2 ^ n, r := r, w := w, x := e }
        let enough := (m.read = true → r = true) ∧ (m.write = true → w = true) ∧ (m.exec = true → e = true)
        (enough → s.atc.length < 16384 → Becomes (.translationAnswer ld m.pasid m.page (.page ta log2 r w e)) s
            (freed { u with atc := s.atc.filter (fun o => !(o.ld == ld.val && o.pasid == m.pasid && decide (o.page < lo + 2 ^ n) && decide (lo < o.page + 2 ^ o.log2))) ++ [ent] }))
        ∧ (¬ enough → l.pageReqs = true → Becomes (.translationAnswer ld m.pasid m.page (.page ta log2 r w e)) s
            ((s.setLd ld.val { l with trs := [], ungranted := [], nextPrg := l.nextPrg + 1, prgs := [{ prg := l.nextPrg, owner := some g, miss := [m], sent := true }] }).emit (.pageReq ld.val l.nextPrg m true)))
        ∧ (¬ enough → l.pageReqs = false → Becomes (.translationAnswer ld m.pasid m.page (.page ta log2 r w e)) s (freed (u.setGrp g { x with xfault := x.xfault ++ [(m, 9)] })))))
    ∧ (∀ prg, l.trs = [] → l.ungranted = [] → l.prgs = [{ prg := prg, owner := some g, miss := [m], sent := true }] →
      let u := s.setLd ld.val { l with prgs := [] }
      let told (u : State) (code : Nat) : State := u.setGrp g { x with wait := .none, xfault := x.xfault ++ [(m, code)] }
      Becomes (.pageRequestResponse ld prg .success) s (u.setGrp g { x with wait := .none })
      ∧ Becomes (.pageRequestResponse ld prg .invalidRequest) s (told u 6)
      ∧ Becomes (.pageRequestResponse ld prg .responseFailure) s (told (s.setLd ld.val { l with prgs := [], pageReqs := false }) 7)
      ∧ Becomes (.pageRequestTimeout ld prg) s (told u 8))

/-- R314 and R315: a request on a bound name port acts as the port's own name in its domain and answers with a record; malformed fields answer BADREQ, a misaligned record address or an unbound
port is only counted; a JOIN of a live name waits, without a record, until the name dies or its limit passes; CLEAR reads and clears SIG and DEPMASK of the port's own block. Beside the rules it rests on the model's own readings: log entry 61. -/
def Obligations.NamePorts : Prop :=
  ∀ (s : State) (ld : Fin 16) (r : PortReq) (own : W64), (s.stage = 1 ∨ s.stage = 2) → (s.ldev ld.val).tdisp ≠ .error → s.pend = [] →
    let l := s.ldev ld.val
    let dom := own.extractLsb' 48 16
    let answer (u : State) (st : Nat) (v : W64) (t : State) : Prop :=
      if r.caddr = 0#64 then t = u else Recorded u dom [(r.caddr + 8#64, bytes8 v), (r.caddr, bytes4 r.ticket ++ [BitVec.ofNat 8 st] ++ List.replicate 3 0#8)] t
    let all : List (Nat × (Fin 16 → PortReq → Instr)) := [(1, .wake), (2, .sig), (3, .dep), (4, .join), (5, .clear)]
    (∀ i ∈ all, (look l.ports r.port.val = none ∨ r.caddr.toNat % 16 ≠ 0) → Becomes (i.2 ld r) s (s.setLd ld.val { l with portErr := l.portErr + 1 }))
    ∧ (look l.ports r.port.val = some own → r.caddr.toNat % 16 = 0 →
      (∀ i ∈ all, ∀ t, (r.rsv ≠ 0#64 ∨ (i.1 ≠ 3 ∧ r.reg ≠ 0#8) ∨ (i.1 = 3 ∧ 16 ≤ r.reg.toNat) ∨ (i.1 ≠ 2 ∧ i.1 ≠ 3 ∧ r.value ≠ 0#64) ∨ (i.1 ≠ 4 ∧ r.time ≠ 0#64) ∨ (i.1 = 5 ∧ r.name ≠ 0#64)) →
        answer s 7 0#64 t → Becomes (i.2 ld r) s t)
      ∧ (r.rsv = 0#64 →
        (∀ h t, s.holder r.name = some h → resident (s.grp h) = true → inNwait (s.grp h) = false → let z := s.grp h
          (r.reg = 0#8 → r.value = 0#64 → r.time = 0#64 → (∃ e, s.resolve dom r.name r.gen.toNat 0 = .ok e ∧ e.st = 1) → answer (s.setGrp h { z with latch := true, woken := false }) 0 0#64 t → Becomes (.wake ld r) s t)
          ∧ (r.reg = 0#8 → r.time = 0#64 → (∃ e, s.resolve dom r.name r.gen.toNat 1 = .ok e ∧ e.st = 1) → answer (s.setGrp h { z with sigword := z.sigword ||| r.value.setWidth 32 }) 0 0#64 t → Becomes (.sig ld r) s t)
          ∧ (r.reg.toNat < 16 → r.time = 0#64 → (∃ e, s.resolve dom r.name r.gen.toNat 2 = .ok e ∧ e.st = 1) →
              answer (s.setGrp h { z with ops := z.ops.map (dropDest (144 + r.reg.toNat) (BitVec.allOnes 64)), sval := ins z.sval (144 + r.reg.toNat) r.value }) 0 0#64 t → Becomes (.dep ld r) s t))
        ∧ (∀ i ∈ [(0, (Instr.wake ld r)), (1, Instr.sig ld r), (2, Instr.dep ld r), (3, Instr.join ld r)], ∀ st t, r.reg = 0#8 → (i.1 = 1 ∨ i.1 = 2 ∨ r.value = 0#64) → (i.1 = 3 ∨ r.time = 0#64) →
            s.resolve dom r.name r.gen.toNat i.1 = .error st → answer s st 0#64 t → Becomes i.2 s t)
        ∧ (r.reg = 0#8 → r.value = 0#64 → ∀ e, s.resolve dom r.name r.gen.toNat 3 = .ok e →
          (∀ t, r.name = own → answer s 6 0#64 t → Becomes (.join ld r) s t)
          ∧ (∀ t, r.name ≠ own → e.st = 6 → answer s (if e.killed then 2 else 0) e.loc t → Becomes (.join ld r) s t)
          ∧ (∀ t, r.name ≠ own → e.st ≠ 6 → 4096 ≤ s.joins.countP (fun j => j.ld == ld.val) → answer s 5 0#64 t → Becomes (.join ld r) s t)
          ∧ (r.name ≠ own → e.st ≠ 6 → s.joins.countP (fun j => j.ld == ld.val) < 4096 →
            let j : Join := { ld := ld.val, target := r.name, gid := none, dom := dom, port := r.port.val, ticket := r.ticket, caddr := r.caddr, limit := r.time.toNat }
            Becomes (.join ld r) s { s with joins := s.joins ++ [j] }))
        ∧ (∀ b s1 s2 t, r.reg = 0#8 → r.value = 0#64 → r.time = 0#64 → r.name = 0#64 → let e := s.nameEnt own
          (agentRead dom kernelRW 2 (e.loc + 16#64) 16).run s = .ok (b, s1) → Recorded s1 dom [(e.loc + 16#64, List.replicate 16 0#8)] s2 → s.hostFresh = [] →
          answer s2 0 (BitVec.ofNat 64 (leNat (b.take 4) + leNat ((b.drop 8).take 4) * 2 ^ 32)) t → Becomes (.clear ld r) s t)))
    ∧ (∀ (port : Fin 4096) (ticket : W32) (j : Join) (t : State), s.joins.find? (fun j => j.gid == none && j.ld == ld.val && j.port == port.val && j.ticket == ticket && j.limit != 0) = some j → j.caddr ≠ 0#64 →
      let u : State := { s.setDie 8 { s.die 8 with clk := (s.die 8).clk + BitVec.ofNat 64 (1000 * j.limit) } with joins := s.joins.filter (· != j) }
      Recorded u j.dom [(j.caddr + 8#64, bytes8 0#64), (j.caddr, bytes4 j.ticket ++ [6#8] ++ List.replicate 3 0#8)] t → Becomes (.portJoinTimeout ld port ticket) s t)

/-- R214 to R217 and R222: an invalidation command is queued with whether it is malformed, or only counted where its DONE address is misaligned; the oldest completes with its record once nothing
is outstanding under what it covers, and the cached translations it covers are gone; an ATS invalidation drops the cached pages at once and completes in order. Beside the rules it rests on the model's own readings: log entry 62. -/
def Obligations.Invalidations : Prop :=
  ∀ (s : State) (ld : Fin 16), let l := s.ldev ld.val
    (∀ (c : InvCmd), (s.stage = 1 ∨ s.stage = 2) → l.tdisp ≠ .error →
      ∀ i ∈ ([(0, .invalidateRange ld c), (1, .invalidateDomain ld c), (2, .invalidateAll ld c)] : List (Nat × Instr)),
        (c.done.toNat % 16 ≠ 0 → Becomes i.2 s (s.setLd ld.val { l with invErr := l.invErr + 1 }))
        ∧ (c.done.toNat % 16 = 0 → let v : Inval := { kind := i.1, dom := c.domain, start := c.start, len := c.len, done := c.done, bad := c.rsv != 0#64 || (decide (i.1 ≤ 1) && c.domain.toNat / 256 != ld.val) }
          Becomes i.2 s (s.setLd ld.val { l with invals := l.invals ++ [v] })))
    ∧ (∀ (v : Inval) (rest : List Inval) (t : State), l.invals = v :: rest → s.pend = [] → let dom := BitVec.ofNat 16 (ld.val * 256)
      let rec' (st : Nat) : List (W64 × List W8) := [(v.done, (if v.kind = 0 then bytes8 v.start else List.replicate 8 0#8) ++ toLe 8 st)]
      (v.bad = true → Recorded (s.setLd ld.val { l with invals := rest }) dom (rec' 1) t → Becomes (.invalidationComplete ld) s t)
      ∧ (v.bad = false → s.keepLeaves = [] → (∀ e ∈ s.groups, inPlace e.2 = true ∧ (∀ o ∈ e.2.ops, o.ready = true) ∧ (∀ b ∈ e.2.sb, b.acked = 63#6)) → (∀ c ∈ s.copies, c.heldRanges = []) →
        let kept (e : TlbEnt) : Bool := !(e.dom.toNat / 256 == ld.val && (v.kind == 2 || (v.dom == e.dom && (v.kind == 1 || (v.len != 0#64 && decide (e.va < v.start.toNat + v.len.toNat) && decide (v.start.toNat < e.va + 2 ^ entBits e.level))))))
        Recorded ({ s with tlb := s.tlb.filter kept, walks := s.walks.filter kept }.setLd ld.val { l with invals := rest }) dom (rec' 0) t → Becomes (.invalidationComplete ld) s t))
    ∧ (∀ (pasid : BitVec 20) (page : W64) (log2 : Nat), let n := max 12 log2
      let lo := page.toNat / 2 ^ n * 2 ^ n
      let gone (e : AtcEnt) : Bool := e.ld == ld.val && e.pasid == pasid && decide (lo < e.page + 2 ^ e.log2) && decide (e.page < lo + 2 ^ n)
      let v : AtsInval := { pasid := pasid, page := page, log2 := n }
      l.atsInvals.length < 32 →
      Becomes (.atsInvalidateRequest ld pasid page log2) s ({ s with atc := s.atc.filter (fun e => !gone e) }.setLd ld.val { l with atsInvals := l.atsInvals ++ [v] }))
    ∧ (∀ v rest, l.atsInvals = v :: rest → (∀ e ∈ s.groups, inPlace e.2 = true ∧ (∀ o ∈ e.2.ops, o.ready = true) ∧ (∀ b ∈ e.2.sb, b.landed = true)) →
      Becomes (.atsInvalidateCompletion ld) s ((s.setLd ld.val { l with atsInvals := rest }).emit (.atsDone ld.val)))

/-! ## Tasks and placement -/

/-- R81 to R90 and R361: an empty launch slot changes nothing; a malformed packet is counted in ERRS and LASTERR and consumed; a sound one makes its task WAITING, or READY where PREDS is 0. A team
retires once all of it has ended, giving back its stores; a task does once all its teams have, writing STATE 4 and its completion word. Beside the rules it rests on the model's own readings: log entries 52, 53, 54, 55 and 108. -/
def Obligations.TasksAndTeams : Prop :=
  (∀ (k : Nat) (q : Queue) (s s1 s2 : State) (d b : List W8), look s.queues k = some q → queueServed s q = true → q.kind = 0 →
    (agentRead q.dom kernelRW 2 q.desc 64).run s = .ok (d, s1) → let i := leNat ((d.drop 24).take 8)
    let slot : W64 := BitVec.ofNat 64 (leNat (d.take 8)) + BitVec.ofNat 64 (i % 2 ^ (leNat ((d.drop 8).take 4) % 32) * 64)
    (agentRead q.dom kernelRW 3 slot 64).run s1 = .ok (b, s2) →
    let consumed : List (W64 × List W8) := [(slot, [0#8]), (q.desc + 24#64, toLe 8 (i + 1))]
    let left (u : State) : State := { u with queues := adjust u.queues k (fun q => { q with sites := erase q.sites i }) }
    let bad := leNat (b.take 1) ≠ 1 ∨ (∃ x ∈ (b.drop 1).take 7, x ≠ 0#8) ∨ (∃ x ∈ (b.drop 16).take 48, x ≠ 0#8)
    (b.length = 64 → leNat (b.take 1) = 0 → Becomes (.launchPacketConsume k) s s2)
    ∧ (∀ t, b.length = 64 → leNat (b.take 1) ≠ 0 → bad →
      Recorded s2 q.dom ([(q.desc + 32#64, toLe 4 (leNat ((d.drop 32).take 4) + 1)), (q.desc + 40#64, toLe 8 (1 + i * 256))] ++ consumed) t → Becomes (.launchPacketConsume k) s (left t))
    ∧ (∀ (tb old : List W8) (s3 s4 s5 t : State), b.length = 64 → ¬ bad → let va : W64 := BitVec.ofNat 64 (leNat ((b.drop 8).take 8))
      (agentRead q.dom kernelR 2 va 256).run s2 = .ok (tb, s3) → tb.length = 256 → leNat ((tb.drop 204).take 1) = 0 → tcbFaults tb q.dom = [] →
      let tcb := Tcb.ofBytes tb
      let h := s3.nextId
      let site := (look q.sites i).getD (0#64, BitVec.ofNat 64 i, 0)
      let preds := leNat ((tb.drop 200).take 4)
      let maxpri := leNat ((d.drop 8).take 4) / 256 % 16
      let tk : Task := { Task.blank with ld := q.ld, dom := q.dom, tcbva := va, tcb := tcb, state := 1, prio := min (tcb.sched.toNat % 16) maxpri, ended := false, site := site.1, seq := site.2.1 }
      let n := if preds = 0 then 2 else 1
      let u := { s3 with nextId := h + n }.setTask h (if preds = 0 then { tk with state := 2, arrival := h + 1, readyAt := s3.past.length } else tk)
      (agentRead q.dom kernelRW 2 (va + 204#64) 4).run u = .ok (old, s4) →
      Recorded s4 q.dom [(va + 204#64, toLe 4 (leNat old / 256 % 2 * 256 + n % 2 + (if preds = 0 then 2 else 0)))] s5 → old.length = 4 →
      Recorded s5 q.dom consumed t → Becomes (.launchPacketConsume k) s (left t)))
  ∧ (∀ (t : Nat) (m : Team) (s : State), look s.teams t = some m → m.retired = false → t ∉ (s.task m.task).again → m.mq = [] → m.chain = none →
    (∀ g ∈ m.gids, (s.grp g).team = t ∧ alive (s.grp g) = false ∧ ∀ e ∈ (s.grp g).sb, e.acked.getLsbD 4 = true) → (∀ c ∈ s.copies, c.team ≠ t) →
    let u := (m.gids.foldl (fun (s : State) g => s.setGrp g { s.grp g with pinned := [], pinheld := [] }) s).setTeam t { m with resident := false, retired := true, scr := [], acc := [], bars := [], bands := [], mdone := [], mstat := 0#64 }
    let v := u.setTask m.task { s.task m.task with retired := (s.task m.task).retired + 1 }
    let f := s.felt m.felt
    ((∀ h ∈ f.teams, h = t ∨ (s.team h).retired = true) → Becomes (.teamRetire t) s (v.setFelt m.felt { f with released := true, bars := [] }))
    ∧ ((∃ h ∈ f.teams, h ≠ t ∧ (s.team h).retired = false) → Becomes (.teamRetire t) s v))
  ∧ (∀ (k : Nat) (tk : Task) (s s1 s2 s3 s4 : State) (old succ : List W8), look s.tasks k = some tk → (tk.state = 2 ∨ tk.state = 3) → tk.ended = false → tk.retired = tk.tcb.felts.toNat * tk.tcb.teams →
    tk.tcb.dname = 0#64 → tk.attached = false → (∀ u ∈ [s, s4], (u.ldev tk.ld).trace = none) →
    (agentRead tk.dom kernelRW 2 (tk.tcbva + 204#64) 4).run (s.setTask k { tk with state := 4, ended := true }) = .ok (old, s1) → old.length = 4 →
    Recorded s1 tk.dom [(tk.tcbva + 204#64, toLe 4 (leNat old / 256 % 2 * 256 + 4))] s2 →
    Recorded s2 tk.dom (if tk.tcb.done = 0#64 then [] else [(tk.tcb.done, bytes8 (BitVec.ofNat 64 tk.completion))]) s3 →
    (agentRead tk.dom kernelR 2 (tk.tcbva + 128#64) 72).run s3 = .ok (succ, s4) → succ = List.replicate 72 0#8 → Becomes (.taskRetire k) s s4)

/-- R78, R96 to R98, R225, R353 and R357: FELT_PLACEMENT gives the one waiting task its next felt; a group of a team that opens starts as R97 says; a task past its drain limit becomes a drainer; a
stopping group is saved, keeping its registers and PCs, and a saved one comes back to a core; a group suspended too long is pre-empted where its record has room. Beside the rules it rests on the model's own readings: log entries 56, 57, 58 and 59. -/
def Obligations.Placement : Prop :=
  (∀ (ld : Fin 16) (k : Nat) (s u : State), s.placing ld.val = true → (∀ e ∈ s.tasks, e.2.ld = ld.val → e.2.state ≠ 1 ∨ e.2.ended = true) → s.drainers = [] → (∀ e ∈ s.groups, eligible s e.2 = false) →
    s.waitingTasks ld.val = [k] → (s.task k).again = [] → feltLeft (s.task k) = true → s.nextFeltPlaced k = some u → u.drainers = [] → u.reclaims = [] → let tk := u.task k
    let v := { u with nextId := u.nextId + 1 }.setTask k { tk with arrival := u.nextId }
    (tk.state = 3 → Becomes (.feltPlacement ld) s v)
    ∧ (∀ (old : List W8) (s1 t : State), tk.state = 2 → tk.placed = true → old.length = 4 →
      (agentRead tk.dom kernelRW 2 (tk.tcbva + 204#64) 4).run (v.setTask k { tk with arrival := u.nextId, state := 3 }) = .ok (old, s1) →
      Recorded s1 tk.dom [(tk.tcbva + 204#64, toLe 4 (leNat old / 256 % 2 * 256 + 3))] t → Becomes (.feltPlacement ld) s t))
  ∧ (∀ (s u : State) (k t core : Nat), s.openTeam k t core = some u → let c := (s.task k).tcb
    (∀ g, g < c.groups → let x := u.grp (s.nextId + g)
      x.place = .resident ∧ x.core = core ∧ x.w = c.w ∧ x.role = c.roleOf g ∧ x.floor = c.floorOf g ∧ x.vval = [] ∧ x.sval = [(96, c.args), (97, (s.task k).tcbva)] ∧ x.exited = 0#64
      ∧ x.pcs = List.replicate c.w (c.code + c.entry.setWidth 64) ∧ x.name = c.namebase + BitVec.ofNat 64 ((s.team t).gridpos * c.groups + g)
      ∧ x.trees.length = c.treesOf g ∧ x.handler = none ∧ x.loops = [] ∧ x.traphandler = 0#64 ∧ x.sighandler = 0#64 ∧ x.cmdseq = 0#64 ∧ x.gstatus = 0#64))
  ∧ (∀ (s : State) (k : Nat), let tk := s.task k
    feltLeft tk = true → (tk.tcb.sched.extractLsb' 4 16) ≠ 0xFFFF#16 → s.drainers = [] → let u := { s with drainers := [(k, 0, 0, 0)] }
    (u.pickTarget k = none → Becomes (.drainLimit k) s u) ∧ (∀ d tl, u.pickTarget k = some (d, tl) → Becomes (.drainLimit k) s { s with drainers := [(k, d, tl, 1)] }))
  ∧ (∀ (s t : State) (g : Nat), let x := s.grp g
    (x.stopping = true → resident x = true → matrixHolds s g = false → (saveNow g).run s = .ok ((), t) → let y := t.grp g
      Becomes (.saveGroup g) s t ∧ (y.place = .saved ∨ y.place = .moving) ∧ y.stopping = false ∧ y.vval = x.vval ∧ y.sval = x.sval ∧ y.q = x.q ∧ y.p = x.p ∧ y.y0 = x.y0 ∧ y.y1 = x.y1 ∧ y.pcs = x.pcs ∧ y.lc = x.lc
        ∧ y.loops = x.loops ∧ y.shadow = x.shadow ∧ y.handler = x.handler ∧ y.trees = x.trees ∧ y.gstatus = x.gstatus ∧ y.sb = x.sb)
    ∧ (∀ (u : State) (gs : List Nat), eligible s x = true → s.placing x.ld = true → (s.task x.task).ended = false → s.returnGroup g = some (u, gs) → (∀ h ∈ gs, (s.team (s.grp h).team).resident = true ∨ u.awayOf (s.grp h).team = []) → (gs.forM comeBack).run u = .ok ((), t) → Becomes (.placeSavedGroup g) s t)
    ∧ (∀ m more code, x.wait = .xlat (m :: more) code → x.stalled = false → resident x = true → x.stopping = false → x.mill = none →
      (s.preemptGroups [g] = none → Idle (.parkTimeout g) s) ∧ (∀ u, s.preemptGroups [g] = some u → Becomes (.parkTimeout g) s u ∧ (u.grp g).stopping = true ∧ (u.grp g).wait = x.wait)))

/-! ## Management, debug and configuration commands -/

/-- A command of the management port has left `u` and answers with a status and a value: its record goes to DONE, VALUE first, where DONE is not 0 (R368). -/
def answers (c : MgmtCmd) (u : State) (st : Nat) (v : W64) (t : State) : Prop :=
  if c.done = 0#64 then t = u else Recorded u (BitVec.ofNat 16 (c.ld.val * 256)) [(c.done, bytes8 v ++ toLe 8 st)] t
/-- Where such a command leads, where nothing waits for the host once it is carried out. -/
def Replies (i : Instr) (s : State) (c : MgmtCmd) (u : State) (st : Nat) (v : W64) : Prop := ∀ t, u.pend = [] → answers c u st v t → Becomes i s t
/-- A command the port reads (R368): the device serves its ports and nothing waits for the host; reserved bytes 0 and a DONE address a record can lie at. -/
def PortOk (s : State) (c : MgmtCmd) : Prop :=
  (s.stage = 1 ∨ s.stage = 2) ∧ (s.ldev c.ld.val).tdisp ≠ .error ∧ s.pend = [] ∧ c.rsv = 0#64 ∧ c.done.toNat % 16 = 0
/-- A name of a device's own domains. -/
def ofDevice (n : W64) (ld : Nat) : Prop := n.toNat / 2 ^ 56 = ld
noncomputable def mgmtRows : List (Nat × (MgmtCmd → Instr)) :=
  [(1, .regq), (2, .resetq), (3, .faultring), (4, .ctxpool), (5, .preempt), (6, .release), (7, .swapout), (8, .swapin), (9, .endtask), (10, .namehost), (11, .namedrop), (12, .namerights), (13, .namefree), (14, .pagereq)]

/-- R349, R368 and R369: what REGQ, RESETQ, FAULTRING, CTXPOOL and PAGEREQ do and how they answer; any command with reserved bytes set answers BADCMD, one whose DONE is no multiple of 16 is only
counted. Beside the rules it rests on the model's own readings: log entries 63, 64 and 65. -/
def Obligations.ManagementQueues : Prop :=
  ∀ (c : MgmtCmd) (s : State), let ld := c.ld.val
    let l := s.ldev ld
    let base := BitVec.ofNat 16 (ld * 256)
    ((s.stage = 1 ∨ s.stage = 2) → l.tdisp ≠ .error → s.pend = [] → ∀ i ∈ mgmtRows,
      (c.done.toNat % 16 ≠ 0 → Becomes (i.2 c) s (s.setLd ld { l with mgmtErr := l.mgmtErr + 1 }))
      ∧ (c.done.toNat % 16 = 0 → c.rsv ≠ 0#64 → Replies (i.2 c) s c s 1 0#64))
    ∧ (PortOk s c →
      (∀ (d : List W8) (s1 : State), let dom := c.a2.setWidth 16
        let f1 (hi lo : Nat) : Nat := c.a1.toNat / 2 ^ lo % 2 ^ (hi - lo + 1)
        let log2 := leNat ((d.drop 8).take 4)
        c.a2.toNat < 2 ^ 16 → dom.toNat / 256 = ld → c.a0.toNat % 64 = 0 → f1 15 4 = 0 → f1 47 38 = 0 → (agentRead dom kernelRW 2 c.a0 64).run s = .ok (d, s1) → d.length = 64 →
        let good := leNat (d.drop 48) = 0 ∧ leNat ((d.drop 36).take 4) = 0 ∧ leNat ((d.drop 12).take 4) = dom.toNat ∧ log2 / 2 ^ 12 = 0 ∧ log2 / 32 % 8 < 2 ∧ 1 ≤ log2 % 32 ∧ log2 % 32 ≤ 20 ∧ leNat (d.take 8) % 64 = 0
        (¬ good → Replies (.regq c) s c s1 1 0#64)
        ∧ (good → s1.pend = [] → s1.queueAt dom c.a0 ≠ none → Replies (.regq c) s c s1 2 0#64)
        ∧ (good → s1.pend = [] → s1.queueAt dom c.a0 = none → s1.queues.countP (fun e => e.2.ld == ld) < 64 →
          let q : Queue := { ld := ld, desc := c.a0, dom := dom, kind := log2 / 32 % 8, die := f1 2 0, peerAppend := c.a1.getLsbD 3, peer := if f1 31 16 = 0 then none else some (f1 31 16 - 1), window := f1 37 32, ftime := if f1 63 48 = 0 then 10 else f1 63 48, stalled := false, sites := [] }
          Replies (.regq c) s c { s1 with nextId := s1.nextId + 1, queues := ins s1.queues s1.nextId q } 0 0#64))
      ∧ ((∀ e ∈ s.queues, ¬ (e.2.ld = ld ∧ e.2.desc = c.a0)) → Replies (.resetq c) s c s 2 0#64)
      ∧ (∀ (k : Nat) (q : Queue) (d : List W8) (s1 u : State), s.queues.find? (fun e => e.2.ld == ld && e.2.desc == c.a0) = some (k, q) → (∀ x ∈ s.copies, x.queue ≠ some k) →
          (agentRead q.dom kernelRW 2 q.desc 64).run s = .ok (d, s1) → let n := 2 ^ (leNat ((d.drop 8).take 4) % 32)
          let w := leNat ((d.drop 16).take 8)
          let r := leNat ((d.drop 24).take 8)
          let slots := (List.range (min n ((w + 2 ^ 64 - r) % 2 ^ 64))).map (fun i => ((BitVec.ofNat 64 (leNat (d.take 8)) + BitVec.ofNat 64 ((r + i) % n * 64) : W64), [0#8]))
          Recorded s1 q.dom (slots ++ [(q.desc + 24#64, toLe 8 w)]) u → Replies (.resetq c) s c { u with queues := adjust u.queues k (fun q => { q with stalled := false, sites := [] }) } 0 0#64)
      ∧ (c.a0.toNat % 64 ≠ 0 → Replies (.faultring c) s c s 1 0#64 ∧ Replies (.ctxpool c) s c s 1 0#64)
      ∧ (∀ (d : List W8) (s1 : State), c.a0.toNat % 64 = 0 → (agentRead base kernelRW 2 c.a0 64).run s = .ok (d, s1) → let m := leNat ((d.drop 32).take 4)
          let good := leNat (d.drop 40) = 0 ∧ 4 ≤ m % 32 ∧ m % 32 ≤ 16 ∧ m / 32 % 2 ^ 11 = 0 ∧ m / 2 ^ 28 = 0 ∧ m / 2 ^ 16 % 2 ^ 12 ≤ 2048 ∧ leNat (d.take 8) % 64 = 0
          d.length = 64 → (¬ good → Replies (.faultring c) s c s1 1 0#64)
          ∧ (good → (s1.ldev ld).heldRecs = [] → (s1.ldev ld).heldDrops = 0 →
            Replies (.faultring c) s c (s1.setLd ld { s1.ldev ld with fault := some { desc := c.a0, mask := 0#64, dom0 := 0, domn := 0 }, heldRecs := [], heldDrops := 0 }) 0 0#64))
      ∧ (c.a0.toNat % 64 = 0 → c.a1 = 0#64 →
          ((∃ e ∈ s.groups, e.2.ld = ld ∧ (e.2.place = .saved ∨ e.2.place = .moving ∨ e.2.stopping = true)) → Replies (.ctxpool c) s c s 2 0#64)
          ∧ ((∀ e ∈ s.groups, e.2.ld = ld → e.2.place ≠ .saved ∧ e.2.place ≠ .moving ∧ e.2.stopping = false) → Replies (.ctxpool c) s c (s.setLd ld { l with ctxBase := c.a0, ctxLen := 0, ctxUsed := [] }) 0 0#64))
      ∧ (∀ ts s1, c.a0.toNat % 64 = 0 → c.a1 ≠ 0#64 → (agentTargets base kernelRW (c.a1.toNat / 4096 + 2) c.a0 (List.replicate (min c.a1.toNat 64) 0#8)).run s = .ok (ts, s1) →
          (∀ e ∈ s1.groups, e.2.ld = ld → e.2.place ≠ .saved ∧ e.2.place ≠ .moving ∧ e.2.stopping = false) → Replies (.ctxpool c) s c (s1.setLd ld { s1.ldev ld with ctxBase := c.a0, ctxLen := c.a1.toNat, ctxUsed := [] }) 0 0#64)
      ∧ (1 < c.a1.toNat → Replies (.pagereq c) s c s 1 0#64) ∧ (c.a1.toNat ≤ 1 → Replies (.pagereq c) s c (s.setLd ld { l with pageReqs := c.a1 == 1#64 }) 0 0#64))

/-- R301, R306, R351, R363 and R369: what PREEMPT, RELEASE, SWAPOUT, SWAPIN, ENDTASK, NAMEHOST, NAMEDROP, NAMERIGHTS and NAMEFREE do, each refused where the name or the task is not in the state it
needs; a name of another device's domains answers BADCMD. Beside the rules it rests on the model's own readings: log entries 32, 33, 60, 63, 64 and 66. -/
def Obligations.ManagementNames : Prop :=
  ∀ (c : MgmtCmd) (s : State), PortOk s c → let ld := c.ld.val
    let l := s.ldev ld
    let e := s.nameEnt c.a1
    (¬ ofDevice c.a1 ld → c.a0 = 0#64 → ∀ i ∈ ([.preempt c, .release c, .swapout c, .swapin c, .namehost c, .namedrop c, .namerights c, .namefree c] : List Instr), Replies i s c s 1 0#64)
    ∧ (ofDevice c.a1 ld →
      (∀ (g : Nat) (hold : Bool), let x := s.grp g
        c.a0 = (if hold then 256#64 else 0#64) → s.holder c.a1 = some g → alive x = true → x.mill = none →
        (e.st ≠ 1 → Replies (.preempt c) s c s 2 0#64)
        ∧ (e.st = 1 → s.preemptGroups [g] = none → Replies (.preempt c) s c s 2 0#64)
        ∧ (∀ u, e.st = 1 → s.preemptGroups [g] = some u → alive (u.grp g) = true → Replies (.preempt c) s c (if hold then u.setGrp g { u.grp g with hold := true } else u) 0 0#64))
      ∧ (∀ g, s.holder c.a1 = some g → Replies (.release c) s c (s.setGrp g { s.grp g with hold := false }) 0 0#64)
      ∧ (s.holder c.a1 = none → Replies (.release c) s c s 0 0#64 ∧ (c.a0.toNat < 3 → Replies (.preempt c) s c s 2 0#64))
      ∧ (c.a2.toNat % 1024 = 0 → e.st ≠ 2 → Replies (.swapout c) s c s 2 0#64)
      ∧ (∀ g ts s1, c.a2.toNat % 1024 = 0 → e.st = 2 → s.holder c.a1 = some g → (agentTargets (c.a1.extractLsb' 48 16) kernelRW 2 c.a2 (List.replicate 1024 0#8)).run s = .ok (ts, s1) →
          let u := s1.setName c.a1 { e with st := 4, aux := 0, loc := c.a2 }
          Replies (.swapout c) s c (u.setGrp g { u.grp g with place := .swapped }) 0 (s.grp g).ctxrec)
      ∧ (c.a2.toNat % 64 = 0 → e.st ≠ 4 → Replies (.swapin c) s c s 2 0#64)
      ∧ (∀ g bs b s1 s2 u, let x := s.grp g
          c.a2.toNat % 64 = 0 → e.st = 4 → s.holder c.a1 = some g →
          (agentRead (BitVec.ofNat 16 (ld * 256)) kernelRW (x.ctximg.length / 4096 + 2) c.a2 x.ctximg.length).run s = .ok (bs, s1) → (kread (c.a1.extractLsb' 48 16) e.loc (16 * e.aux)).run s1 = .ok (b, s2) →
          let v := (s2.unreserve ld x.ctxrec).adopt ld c.a2 x.ctximg.length
          let w := ((v.setGrp g { v.grp g with place := .saved, ctxrec := c.a2 }).inbox g b e.aux).setName c.a1 { e with st := 2, aux := 0, loc := c.a2 }
          (if bs = x.ctximg then (writeRecord g).run w = .ok ((), u) else u = w) → u.pend = [] → Replies (.swapin c) s c u 0 0#64)
      ∧ (∀ (d : List W8) (s1 : State), c.a2.toNat % 256 = 0 → c.a3.toNat ≤ 2048 → c.a4.toNat < 4096 → (agentRead (c.a1.extractLsb' 48 16) kernelRW 2 c.a2 256).run s = .ok (d, s1) →
          (s1.nameEnt c.a1).st = 0 → s1.nameSlot c.a1 ≠ none → look (s1.ldev ld).ports c.a4.toNat = none →
          let u := s1.takeName c.a1 5 false c.a3.toNat c.a2
          Replies (.namehost c) s c { u.setLd ld { u.ldev ld with ports := ins (u.ldev ld).ports c.a4.toNat c.a1 } with hostFresh := u.hostFresh ++ [c.a1] } 0 0#64)
      ∧ ((2048 < c.a3.toNat ∨ 4096 ≤ c.a4.toNat ∨ c.a2.toNat % 256 ≠ 0) → Replies (.namehost c) s c s 1 0#64)
      ∧ (e.st ≠ 5 → Replies (.namedrop c) s c s 2 0#64)
      ∧ (e.st = 5 → (∀ j ∈ s.joins, j.target ≠ c.a1) → let u := s.setLd ld { l with ports := l.ports.filter (fun p => p.2 != c.a1) }
          Replies (.namedrop c) s c ({ u with hostFresh := u.hostFresh.filter (· != c.a1) }.setName c.a1 { e with st := 6, killed := false, aux := 0, loc := c.a2 }) 0 0#64)
      ∧ (16 ≤ c.a2.toNat → Replies (.namerights c) s c s 1 0#64) ∧ (c.a2.toNat < 16 → e.st = 0 → Replies (.namerights c) s c s 2 0#64)
      ∧ (c.a2.toNat < 16 → e.st ≠ 0 → Replies (.namerights c) s c (s.setName c.a1 { e with rights := c.a2.toNat }) 0 0#64)
      ∧ (e.st ≠ 6 → Replies (.namefree c) s c s 2 0#64) ∧ (e.st = 6 → Replies (.namefree c) s c (s.setName c.a1 { e with st := 0, killed := false, aux := 0, loc := 0#64 }) 0 0#64))
    ∧ ((∀ t ∈ s.tasks, ¬ (t.2.ld = ld ∧ t.2.tcbva = c.a1)) → Replies (.endtask c) s c s 2 0#64)
    ∧ (∀ k, s.taskAt ld c.a1 = some k → (s.task k).ended = true → Replies (.endtask c) s c s 2 0#64)
    ∧ (∀ k u, s.taskAt ld c.a1 = some k → (s.task k).ended = false → (endTask k).run s = .ok ((), u) →
        (u.task k).state = 5 ∧ (u.task k).ended = true ∧ (s.joins = [] → ∀ t m, look s.teams t = some m → m.task = k → ∀ g ∈ m.gids, (u.grp g).place = .exited ∨ (u.grp g).place = .ended)
        ∧ Replies (.endtask c) s c (u.endedRecord k 37 0#64) 0 0#64)

/-- The debug mailbox's commands with the least level of each (R391, R392, R425). -/
noncomputable def dbgRows : List (Nat × (DbgCmd → Instr)) :=
  [(1, .attach), (1, .halt), (1, .resume), (1, .step), (1, .brk), (1, .watch), (1, .readreg), (1, .writereg), (0, .sample), (0, .trace), (0, .readctr), (0, .timesnap), (2, .lifetime), (2, .mhalt),
   (2, .fwset), (2, .budgetset), (2, .preset), (2, .avoidset), (2, .portmode), (2, .sliceset), (2, .cfgread)]
/-- A command the mailbox reads, at level `least` or above: user 0, guest 1, hypervisor 2, maker 3; a command at maker level outside a maker session acts as the hypervisor's (R390, R391). -/
def BoxOk (s : State) (c : DbgCmd) (least : Nat) : Prop :=
  s.shut = false ∧ s.pend = [] ∧ c.c.rsv = 0#64 ∧ c.c.done.toNat % 16 = 0
    ∧ least ≤ (match c.level with | .user => 0 | .guest => 1 | .hypervisor => 2 | .maker => if (s.ldev c.c.ld.val).maker then 3 else 2)
/-- A group stopped for its debugger: live, of a task that a debugger is attached to. -/
def Debugged (s : State) (n : W64) (g : Nat) : Prop :=
  s.holder n = some g ∧ (s.grp g).mill = none ∧ alive (s.grp g) = true ∧ (s.task (s.grp g).task).attached = true

/-- R390 to R395 and R397: a command below its least level is REFUSED; ATTACH, HALT, RESUME, STEP, BRK and WATCH. Beside the rules it rests on the model's own readings: log entries 71, 72, 73, 74, 75, 76 and 78. -/
def Obligations.DebugStops : Prop :=
  ∀ (c : DbgCmd) (s : State), let m := c.c
    let ld := m.ld.val
    (s.shut = false → s.pend = [] → ∀ i ∈ dbgRows,
      (m.done.toNat % 16 ≠ 0 → Becomes (i.2 c) s (s.setLd ld { s.ldev ld with mgmtErr := (s.ldev ld).mgmtErr + 1 }))
      ∧ (m.done.toNat % 16 = 0 → m.rsv ≠ 0#64 → Replies (i.2 c) s m s 1 0#64)
      ∧ (m.done.toNat % 16 = 0 → m.rsv = 0#64 → ¬ BoxOk s c i.1 → Replies (i.2 c) s m s 2 0#64))
    ∧ (BoxOk s c 1 →
      (4 ≤ m.a2.toNat → Replies (.attach c) s m s 1 0#64)
      ∧ (m.a2.toNat < 4 → (∀ t ∈ s.tasks, ¬ (t.2.ld = ld ∧ t.2.tcbva = m.a1)) → Replies (.attach c) s m s 2 0#64)
      ∧ (∀ k, m.a2.toNat < 4 → s.taskAt ld m.a1 = some k → (s.task k).ended = false → let on := m.a2.getLsbD 0
          let u := s.setTask k { s.task k with attached := on, bkptstop := on && m.a2.getLsbD 1 }
          (on = true → Replies (.attach c) s m u 0 0#64)
          ∧ (on = false → Replies (.attach c) s m { u with groups := u.groups.map (fun e => if e.2.task == k && e.2.mill.isNone then (e.1, { e.2 with brks := [] }) else e) } 0 0#64))
      ∧ (∀ g, ofDevice m.a1 ld → Debugged s m.a1 g → let x := s.grp g
          (m.a0 = 0#64 → (x.halted = true ∨ x.dstop = true) → Replies (.halt c) s m s 0 0#64)
          ∧ (m.a0 = 0#64 → x.halted = false → x.dstop = false → look s.runs (siteOf x) = none → x.ld = ld → (s.ldev ld).trace = none →
            let u := s.setGrp g { x with dstop := true, stepping := false, stopNext := false }
            Replies (.halt c) s m (u.setLd ld { u.ldev ld with traceDrops := (u.ldev ld).traceDrops + 1 }) 0 0#64)
          ∧ (m.a0 = 0#64 → Replies (.resume c) s m (s.setGrp g { x with dstop := false, stepping := false }) 0 0#64)
          ∧ (x.dstop = true → Replies (.step c) s m (s.setGrp g { x with dstop := false, stepping := true }) 0 0#64)
          ∧ (x.dstop = false → Replies (.step c) s m s 2 0#64)
          ∧ (m.a2.toNat < 4 → m.a3.toNat % 4 = 0 → m.a4.toNat < 2 → Replies (.brk c) s m (s.setGrp g { x with brks := ins x.brks m.a2.toNat { addr := m.a3, on := m.a4.getLsbD 0 } }) 0 0#64)
          ∧ ((4 ≤ m.a2.toNat ∨ m.a3.toNat % 4 ≠ 0 ∨ 2 ≤ m.a4.toNat) → Replies (.brk c) s m s 1 0#64))
      ∧ (∀ i ∈ ([.halt c, .resume c, .step c, .brk c] : List Instr), (m.a0 = 0#64 → ¬ ofDevice m.a1 ld → Replies i s m s 1 0#64)
          ∧ (m.a0 = 0#64 → ofDevice m.a1 ld → m.a2 = 0#64 → m.a3 = 0#64 → m.a4 = 0#64 → (∀ g, ¬ Debugged s m.a1 g) → Replies i s m s 2 0#64))
      ∧ (let d := m.a0.toNat
        let dom := m.a4.setWidth 16
        m.a0.toNat < 8 → m.a1.toNat < 8 → m.a3 ≠ 0#64 → m.a3.toNat ≤ 2 ^ 48 → m.a4.toNat < 2 ^ 20 → dom.toNat / 256 = ld → (s.stackLd d 0 = ld ∨ s.stackLd d 1 = ld) →
          (∀ w, look (s.die d).watches m.a1.toNat = some w → w.on = false ∨ w.ld = ld) →
          let w : Watch := { start := m.a2, len := m.a3.toNat, ld := ld, dom := dom, rd := m.a4.getLsbD 16, wr := m.a4.getLsbD 17, stop := m.a4.getLsbD 18, on := m.a4.getLsbD 19 }
          Replies (.watch c) s m (s.setDie d { s.die d with watches := ins (s.die d).watches m.a1.toNat w }) 0 0#64)
      ∧ ((8 ≤ m.a0.toNat ∨ 8 ≤ m.a1.toNat ∨ m.a3 = 0#64 ∨ 2 ^ 48 < m.a3.toNat ∨ 2 ^ 20 ≤ m.a4.toNat) → Replies (.watch c) s m s 1 0#64))

/-- The selector of a register (R399): its class, number and thread. -/
def selOf (cls num thread : Nat) : W64 := BitVec.ofNat 64 (cls + num * 2 ^ 8 + thread * 2 ^ 26)

/-- R383, R396 and R399 to R404: READREG and WRITEREG of a group stopped for its debugger, class by class; SAMPLE, TRACE, READCTR, TIMESNAP, LIFETIME and MHALT. Beside the rules it rests on the model's own readings: log entries 71, 76 and 77. -/
def Obligations.DebugReads : Prop :=
  ∀ (c : DbgCmd) (s : State), let m := c.c
    let ld := m.ld.val
    let base := BitVec.ofNat 16 (ld * 256)
    (BoxOk s c 1 →
      (∀ g (n t : Nat), ofDevice m.a1 ld → Debugged s m.a1 g → (s.grp g).dstop = true → let x := s.grp g
        let put (y : Group) : Prop := Replies (.writereg c) s m (s.setGrp g y) 0 0#64
        let bit : W64 := if m.a3.getLsbD 0 then 1#64 <<< t else 0#64
        let get (v : W64) : Prop := Replies (.readreg c) s m s 0 v
        (m.a2 = selOf 0 n t → n < 80 → t < x.w → x.w ≤ 64 → SourceOk x n 1 → get ((x.el32 n t).setWidth 64))
        ∧ (∀ v, m.a2 = selOf 1 n 0 → n < 64 → ScalarOk x n v → get v ∧ put (x.setS n m.a3))
        ∧ (m.a2 = selOf 2 n t → n < 8 → t < x.w → x.w ≤ 64 → pendingReg x (80 + n) = none → x.spilled.contains (80 + n) = false → x.wspill.contains (80 + n) = false → get ((x.el32 (80 + n) t).setWidth 64))
        ∧ (m.a2 = selOf 3 0 t → t < x.w → x.w ≤ 64 → get (x.y0.getD t 0#64) ∧ put { x with y0 := x.y0.set t m.a3 })
        ∧ (m.a2 = selOf 3 1 t → t < x.w → x.w ≤ 64 → get (x.y1.getD t 0#64) ∧ put { x with y1 := x.y1.set t m.a3 })
        ∧ (∀ p, m.a2 = selOf 4 n t → n < 8 → t < x.w → x.w ≤ 64 → look x.p n = some p → get (if p.getLsbD t then 1#64 else 0#64) ∧ put { x with p := ins x.p n ((p &&& ~~~(1#64 <<< t)) ||| bit) })
        ∧ (m.a2 = selOf 5 n 0 → n < 3 → get (x.lc.getD n 0#64) ∧ put { x with lc := x.lc.set n m.a3 })
        ∧ (m.a2 = selOf 7 0 t → t < x.w → x.w ≤ 64 → get (x.pcs.getD t 0#64) ∧ (m.a3.toNat % 4 = 0 → put { x with pcs := x.pcs.set t m.a3 }) ∧ (m.a3.toNat % 4 ≠ 0 → Replies (.writereg c) s m s 1 0#64))
        ∧ (m.a2 = selOf 9 n 0 → n < 80 → (∀ o d, pendingReg x n = some (o, d) → o.ready = true) → get (if x.spilled.contains n then 2#64 else if (look x.vval n).isSome then 1#64 else 0#64) ∧ Replies (.writereg c) s m s 1 0#64)
        ∧ (∀ o d, m.a2 = selOf 9 n 0 → n < 80 → pendingReg x n = some (o, d) → o.ready = false → get 3#64))
      ∧ (∀ i ∈ ([.readreg c, .writereg c] : List Instr), ofDevice m.a1 ld → m.a2.toNat < 2 ^ 32 → (∀ g, Debugged s m.a1 g → (s.grp g).dstop = false) → Replies i s m s 2 0#64))
    ∧ (BoxOk s c 0 →
      (let d := m.a0.toNat / 256
        let mine (p : Nat) : Prop := p / 192 = d ∧ m.a0.getLsbD (p % 8) = true
        m.a0.toNat < 2 ^ 11 → m.a1.toNat % 64 = 0 → m.a3.toNat < 2 ^ 32 → m.a4.toNat < 2 ^ 32 →
        (m.a2 = 0#64 → ∃ u, (∀ e, e ∈ u.samples ↔ e ∈ s.samples ∧ ¬ (mine e.1 ∧ e.2.ld = ld)) ∧ { u with samples := s.samples } = s ∧ Replies (.sample c) s m u 0 0#64)
        ∧ (∀ r b s1, 4 ≤ m.a2.toNat → m.a2.toNat ≤ 24 → (dbgRing ld m.a1 0#64 m.a4).run s = .ok (some (r, b), s1) → s1.pend = [] →
          ∃ u, { u with samples := s1.samples, fresh := s1.fresh } = s1 ∧ (∀ p, ¬ mine p → look u.samples p = look s1.samples p)
            ∧ (∀ p, mine p → ∃ q, look u.samples p = some q ∧ q.k = m.a2.toNat ∧ q.lfsr = m.a3.setWidth 32 ^^^ BitVec.ofNat 32 (p % 8) ∧ 1 ≤ q.left ∧ q.left ≤ 2 ^ (m.a2.toNat + 1) - 1 ∧ q.tag = false ∧ q.ring = r ∧ q.ld = ld)
            ∧ Replies (.sample c) s m u 0 0#64)
        ∧ (0 < m.a2.toNat → (m.a2.toNat < 4 ∨ 24 < m.a2.toNat) → Replies (.sample c) s m s 1 0#64))
      ∧ (m.a1.toNat % 64 = 0 → m.a2.getLsbD 0 = false → m.a2.toNat < 2 ^ 14 → m.a4.toNat < 2 ^ 32 →
        (m.a1 = 0#64 → Replies (.trace c) s m (s.setLd ld { s.ldev ld with trace := none }) 0 0#64)
        ∧ (∀ r d s1, m.a1 ≠ 0#64 → (dbgRing ld m.a1 m.a2 m.a4).run s = .ok (some (r, d), s1) → s1.pend = [] → (s1.ldev ld).traceDrops = 0 →
          r = { desc := m.a1, mask := m.a2, dom0 := m.a4.toNat % 2 ^ 16, domn := m.a4.toNat / 2 ^ 16 } ∧ Replies (.trace c) s m (s1.setLd ld { s1.ldev ld with trace := some r, traceDrops := 0 }) 0 0#64)))
    ∧ (BoxOk s c 0 →
      (∀ k, m.a0.toNat < 18 → s.taskAt ld m.a1 = some k → let t := s.task k
        Replies (.readctr c) s m s 0 (BitVec.ofNat 64 (if m.a0.toNat < 16 then (look t.fp m.a0.toNat).getD 0 else if m.a0 = 16#64 then t.idivz else t.keepRefusals)))
      ∧ (m.a0.toNat < 18 → (∀ t ∈ s.tasks, ¬ (t.2.ld = ld ∧ t.2.tcbva = m.a1)) → Replies (.readctr c) s m s 2 0#64)
      ∧ (∀ g, s.counted ld m.a1 = some g → let x := s.grp g
        ∀ r ∈ [(0x20, x.floor), (0x24, x.spills), (0x25, x.refills), (0x26, x.luign), (0x30, x.runs), (0x31, x.words.getD 0 0), (0x32, x.words.getD 1 0), (0x33, x.words.getD 2 0), (0x34, x.words.getD 3 0), (0x38, x.saves)],
          m.a0.toNat = r.1 → Replies (.readctr c) s m s 0 (BitVec.ofNat 64 r.2))
      ∧ ((m.a0.toNat = 0x12 ∨ m.a0.toNat = 0x1FF ∨ 0x3E0 ≤ m.a0.toNat) → Replies (.readctr c) s m s 1 0#64)
      ∧ (∀ d, d < 8 → m.a0.toNat = 0x107 + 8 * d → m.a1 = 0#64 → (BoxOk s c 2 → Replies (.readctr c) s m s 0 (BitVec.ofNat 64 (s.die d).coreClk)) ∧ (¬ BoxOk s c 2 → Replies (.readctr c) s m s 2 0#64))
      ∧ (BoxOk s c 2 → m.a1 = 0#64 → ∀ d, d < 8 →
        let at' (id v : Nat) : Prop := m.a0.toNat = id → Replies (.readctr c) s m { s with fresh := s.fresh + 2 } 0 (BitVec.ofNat 64 v)
        at' (0x104 + 8 * d) ((look (s.die d).counters 4).getD 0) ∧ at' (0x105 + 8 * d) (s.sibsUsed d)
        ∧ ∀ p, p < 12 → at' (0x300 + 12 * d + p) (s.ing (12 * d + p)).frames ∧ at' (0x380 + 12 * d + p) (s.ing (12 * d + p)).dropped)
      ∧ (∀ id, 0x100 ≤ id → id < 0x104 → m.a0.toNat = id → m.a1 = 0#64 → BoxOk s c 2 → (look (s.die 0).counters (id % 8)).getD 0 < 2 ^ 64 →
        ∃ (u : State) (v : W64), { u with dies := s.dies, fresh := s.fresh } = s ∧ (look (s.die 0).counters (id % 8)).getD 0 ≤ v.toNat ∧ look (u.die 0).counters (id % 8) = some v.toNat ∧ Replies (.readctr c) s m u 0 v)
      ∧ (m.a1.toNat % 8 ≠ 0 → Replies (.timesnap c) s m s 1 0#64)
      ∧ (m.a1.toNat % 8 = 0 → ∃ bs s1, bs.length = 72 ∧ (∀ d, d < 9 → d = 8 ∨ s.ldPart ld = ((s.die d).fwctl.extractLsb' 8 4).toNat → (bs.drop (8 * d)).take 8 = bytes8 (s1.die d).clk ∧ ∃ n, (s1.die d).clk = (s.die d).clk + BitVec.ofNat 64 n)
          ∧ (∀ d, d < 8 → s.ldPart ld ≠ ((s.die d).fwctl.extractLsb' 8 4).toNat → (bs.drop (8 * d)).take 8 = List.replicate 8 0#8)
          ∧ { s1 with dies := s.dies, fresh := s.fresh } = s ∧ (∀ d, { s1.die d with clk := (s.die d).clk } = s.die d) ∧ ∀ u, Recorded s1 base [(m.a1, bs)] u → Replies (.timesnap c) s m u 0 0#64))
    ∧ (BoxOk s c 2 →
      (m.a1.toNat % 64 ≠ 0 → Replies (.lifetime c) s m s 1 0#64)
      ∧ (∀ u, m.a1.toNat % 64 = 0 → Recorded s base [(m.a1, s.lifeImage)] u →
        (m.a2 = 0#64 → Replies (.lifetime c) s m u 0 0#64)
        ∧ (m.a2 = 1#64 → BoxOk s c 3 → Replies (.lifetime c) s m { u with life := u.life.filter (fun e => decide (e.1 < 128)) } 0 0#64))
      ∧ (m.a1.toNat % 64 = 0 → m.a2 = 1#64 → ¬ BoxOk s c 3 → Replies (.lifetime c) s m s 2 0#64)
      ∧ (1 < m.a1.toNat → Replies (.mhalt c) s m s 1 0#64) ∧ (m.a1.toNat ≤ 1 → Replies (.mhalt c) s m { s with mhalt := m.a1 == 1#64 } 0 0#64))

/-- The six arguments of a command beside which a configuration command takes none. -/
def restZero (m : MgmtCmd) (k : Nat) : Prop := (k ≤ 1 → m.a1 = 0#64) ∧ (k ≤ 2 → m.a2 = 0#64) ∧ (k ≤ 3 → m.a3 = 0#64) ∧ m.a4 = 0#64 ∧ m.a5 = 0#64
/-- A firewall register with no reserved field set (R373). -/
def FwOk (v : W64) : Prop :=
  v.extractLsb' 32 31 = 0#31 ∧ v.extractLsb' 20 4 = 0#4 ∧ v.extractLsb' 12 4 = 0#4 ∧ v.extractLsb' 3 5 = 0#5 ∧ (v.extractLsb' 16 4).toNat ≤ 8 ∧ (v.extractLsb' 8 4).toNat < 8

/-- R373 to R376, R384 and R408: the Preut commands. A locked firewall register refuses a write; the link bits and LOCK of a write hold at once, its other fields from the next partition
reset, which ends the tasks of the partition's devices and clears their stacks. Beside the rules it rests on the model's own readings: log entries 64, 79 and 80. -/
def Obligations.Configuration : Prop :=
  ∀ (c : DbgCmd) (s : State), BoxOk s c 2 → let m := c.c
    let ld := m.ld.val
    let inPart (p d : Nat) : Prop := d < 8 ∧ ((s.die d).fwctl.extractLsb' 8 4).toNat = p
    (m.a0.toNat < 8 → restZero m 2 → let d := s.die m.a0.toNat
      (¬ FwOk m.a1 → Replies (.fwset c) s m s 1 0#64)
      ∧ (FwOk m.a1 → d.fwctl.getLsbD 63 = true → Replies (.fwset c) s m s 2 0#64)
      ∧ (FwOk m.a1 → d.fwctl.getLsbD 63 = false → (∀ l, l = s.stackLd m.a0.toNat 0 ∨ l = s.stackLd m.a0.toNat 1 → (s.ldev l).tdisp ≠ .locked ∧ (s.ldev l).tdisp ≠ .run) →
        ∃ v : W64, (∀ i, i < 64 → v.getLsbD i = if i < 3 ∨ i = 63 then m.a1.getLsbD i else d.fwctl.getLsbD i) ∧ Replies (.fwset c) s m (s.setDie m.a0.toNat { d with fwctl := v, fwnext := m.a1 }) 0 0#64))
    ∧ (restZero m 2 → m.a0.toNat < 128 → m.a1.toNat / 2 ^ 48 = 0 → m.a1.toNat / 2 ^ 16 % 2 ^ 16 = 0 → let d := m.a0.toNat / 16
        Replies (.budgetset c) s m (s.setDie d { s.die d with budgetNext := ins (s.die d).budgetNext (m.a0.toNat % 16) m.a1 }) 0 0#64)
    ∧ (restZero m 1 → m.a0.toNat < 8 → let p := m.a0.toNat
        ∃ u, (∀ d, inPart p d → let x := u.die d
            x.clk = 0#64 ∧ x.fwctl = (s.die d).fwnext &&& 0x7FFFFFFFFFFFFFFF#64 ∧ x.portMode = (s.die d).portNext ∧ x.budget = [] ∧ x.budgetNext = [] ∧ x.ceu = [] ∧ x.watches = []
            ∧ ∀ a, a / 2 ^ 37 = d → a % 2 ^ 37 < 2 * stackBytes → rd u.dmem a = 0#8)
          ∧ (∀ k t, look u.tasks k = some t → (∃ d, inPart p d ∧ (s.stackLd d 0 = t.ld ∨ s.stackLd d 1 = t.ld)) → t.ld < 16 → t.ended = true)
          ∧ (m.done = 0#64 → Becomes (.preset c) s u) ∧ Replies (.preset c) s m u 0 0#64)
    ∧ (restZero m 2 → m.a0 = 0#64 → m.a1.toNat % 8 = 0 → s.frameOk ld m.a1.toNat 256 = true →
        Replies (.avoidset c) s m { s with avoid := (List.range 32).map (fun i => BitVec.ofNat 64 (leNat (rdN s.dmem (m.a1.toNat + 8 * i) 8))) } 0 0#64)
    ∧ (restZero m 2 → m.a0 = 0#64 → s.frameOk ld m.a1.toNat 256 = false → Replies (.avoidset c) s m s 1 0#64)
    ∧ (restZero m 2 → m.a0.toNat < 8 → m.a1.toNat < 4 → Replies (.portmode c) s m (s.setDie m.a0.toNat { s.die m.a0.toNat with portNext := m.a1.setWidth 2 }) 0 0#64)
    ∧ (m.a4 = 0#64 → m.a5 = 0#64 → m.a0.toNat < 32 → let l := m.a0.toNat % 16
      let has (i : Nat) : Bool := (if i < 64 then m.a1 else if i < 128 then m.a2 else m.a3).getLsbD (i % 64)
      ((∃ i, i < 192 ∧ has i = true ∧ ¬ inPart (s.ldPart l) (i / 24)) → Replies (.sliceset c) s m s 1 0#64)
      ∧ ((∀ i, i < 192 → has i = true → inPart (s.ldPart l) (i / 24)) → (∀ e ∈ s.teams, e.2.resident = false) →
        ∃ cores : List Nat, (∀ i, i ∈ cores ↔ i < 192 ∧ has i = true) ∧ Replies (.sliceset c) s m (s.setLd l { s.ldev l with slice := cores, lendable := m.a0.getLsbD 4 }) 0 0#64))
    ∧ (∀ d l, d < 8 → l < 16 → restZero m 1 → let x := s.die d
      (m.a0.toNat = 16 * d → Replies (.cfgread c) s m s 0 x.fwnext)
      ∧ (m.a0.toNat = 1 + 16 * d + 256 * l → Replies (.cfgread c) s m s 0 ((look x.budgetNext l).getD ((look x.budget l).getD 0xFFFF0000FFFF#64)))
      ∧ (m.a0.toNat = 2 + 16 * d → Replies (.cfgread c) s m s 0 (x.portNext.setWidth 64)))
    ∧ (restZero m 2 → m.a0 = 3#64 → m.a1.toNat % 8 = 0 → s.frameOk ld m.a1.toNat 256 = true → s.touchedNames m.a1.toNat 256 = [] →
        Replies (.cfgread c) s m { s with dmem := wrN s.dmem m.a1.toNat ((List.range 32).flatMap (fun i => bytes8 (s.avoid.getD i 0#64))) } 0 0#64)

/-- R364, R370 to R372, R405 and R410: a module that is shut down, or in stage 0 or 15, answers no request of the interface. In any other, LOCK answers OK only in UNLOCKED, with no live group and every queue empty; START only in LOCKED; STOP and a Function Level Reset end the device's tasks, clear its stacks
and leave UNLOCKED; an integrity failure of a locked or running device halts its groups and scrubs its keep cells; the report names its number, stacks and state, the ranges and the constants. Beside the rules it rests on the model's own readings: log entries 6, 81 and 85. -/
def Obligations.TrustedInterface : Prop :=
  ∀ (ld : Fin 16) (s : State), (s.dark = true → ∀ i ∈ ([.lockInterfaceRequest ld, .startInterfaceRequest ld, .stopInterfaceRequest ld, .interfaceReport ld] : List Instr), Idle i s) ∧ (s.dark = false → let l := s.ldev ld.val
    let busy : Prop := ∃ e ∈ s.groups, e.2.ld = ld.val ∧ e.2.mill = none ∧ alive e.2 = true
    ((l.tdisp ≠ .unlocked ∨ busy) → Becomes (.lockInterfaceRequest ld) s (s.emit (.tdispError ld.val)))
    ∧ (∀ b s1, l.tdisp = .unlocked → ¬ busy → (queuesEmpty ld.val).run s = .ok (b, s1) →
        (b = true → Becomes (.lockInterfaceRequest ld) s ((s.setLd ld.val { l with tdisp := .locked }).emit (.tdispOk ld.val))) ∧ (b = false → Becomes (.lockInterfaceRequest ld) s (s.emit (.tdispError ld.val))))
    ∧ ((∀ e ∈ s.queues, e.2.ld ≠ ld.val) → (queuesEmpty ld.val).run s = .ok (true, s))
    ∧ (l.tdisp ≠ .locked → Becomes (.startInterfaceRequest ld) s (s.emit (.tdispError ld.val)))
    ∧ (l.tdisp = .locked → s.pend = [] → Becomes (.startInterfaceRequest ld) s ((s.setLd ld.val { l with tdisp := .run }).emit (.tdispOk ld.val)))
    ∧ (l.tdisp = .unlocked → Becomes (.stopInterfaceRequest ld) s (s.emit (.tdispOk ld.val)))
    ∧ (∃ u, (u.ldev ld.val).tdisp = .unlocked ∧ (u.ldev ld.val).ports = [] ∧ (∀ k t, look u.tasks k = some t → t.ld = ld.val → t.ended = true)
        ∧ (∀ a, a / 2 ^ 37 < 8 → a % 2 ^ 37 < 2 * stackBytes → s.stackLd (a / 2 ^ 37) (a % 2 ^ 37 / stackBytes) = ld.val → rd u.dmem a = 0#8)
        ∧ Becomes (.functionLevelReset ld) s u ∧ (l.tdisp ≠ .unlocked → Becomes (.stopInterfaceRequest ld) s (u.emit (.tdispOk ld.val))))
    ∧ ((l.tdisp = .unlocked ∨ l.tdisp = .error) → Idle (.ideIntegrityFailure ld) s)
    ∧ ((l.tdisp = .locked ∨ l.tdisp = .run) → s.sampleRecs = [] → ∃ u, Becomes (.ideIntegrityFailure ld) s u ∧ (u.ldev ld.val).tdisp = .error
        ∧ (∀ g x, look s.groups g = some x → x.ld = ld.val → x.mill = none → alive x = true → (u.grp g).halted = true ∧ (u.grp g).vval = x.vval ∧ (u.grp g).sval = x.sval)
        ∧ (∀ a, (look s.keeps a).isSome = true → s.frameOk ld.val a 1 = true → look u.keeps a = none ∧ rdN u.dmem a 8 = List.replicate 8 0#8)
        ∧ (∀ a, rd u.dmem a ≠ rd s.dmem a → ∃ b, b ≤ a ∧ a < b + 8 ∧ (look s.keeps b).isSome = true ∧ s.frameOk ld.val b 1 = true))
    ∧ (∃ info own, Becomes (.interfaceReport ld) s (s.emit (.report ld.val info own reportRanges [2048, 16, ld.val, 4, 8])) ∧ info.extractLsb' 0 8 = BitVec.ofNat 8 ld.val ∧ (info.extractLsb' 8 8).toNat = s.ldPart ld.val % 256
        ∧ (info.extractLsb' 24 8).toNat = (match l.tdisp with | .unlocked => 0 | .locked => 1 | .run => 2 | .error => 3) ∧ info.extractLsb' 32 16 = own ∧ (info.extractLsb' 48 16).toNat = ld.val * 256
        ∧ ∀ i, i < 16 → own.getLsbD i = decide (s.stackLd (i / 2) (i % 2) = ld.val)))

/-- What a host's access to memory needs (R364): the module answers, the device's ports serve, and the range lies in its own stacks of a die that has joined. -/
def BarOk (s : State) (ld a n : Nat) : Prop := s.dark = false ∧ (s.stage = 1 ∨ s.stage = 2) ∧ (s.ldev ld).tdisp ≠ .error ∧ 1 ≤ n ∧ s.frameOk ld a n = true ∧ (s.die (a / 2 ^ 37)).up = true
/-- The command a 64-byte block stands for (R368). -/
def blockCmd (ld : Fin 16) (b : List W8) : MgmtCmd :=
  let w (i : Nat) : W64 := BitVec.ofNat 64 (leNat ((b.drop i).take 8))
  { ld := ld, a0 := w 8, a1 := w 16, a2 := w 24, a3 := w 32, a4 := w 40, a5 := w 48, done := w 56, rsv := BitVec.ofNat 64 (leNat ((b.drop 1).take 7)) }

/-- R335, R364, R366 and R371: a host reads and writes its device's memory, a write leaving out the bytes of cells that hold home state unless it writes one such cell whole; its atomics answer the
old value; another address is an Unsupported Request. A write into a frozen register range of a locked device leads to ERROR; a 64-byte block in the management port is the command it holds. Registers are read
from 2^63 on: the offset that stands for BAR0 is the model's (log 84), the values are R366's and R407's. -/
def hostAccessesRule : Prop :=
  ∀ (ld : Fin 16) (s : State), let l := s.ldev ld.val
    (∀ (addr : W64) (n : Nat) (bs : List W8), let a := addr.toNat
      let held (b : Nat) : Prop := (look s.keeps (b / 8 * 8)).isSome = true
      (¬ BarOk s ld.val a n → s.dark = false → a < 2 ^ 63 → Becomes (.hostMemoryRead ld addr n) s (s.emit (.unsupported ld.val)) ∧ (bs.length = n → Becomes (.hostMemoryWrite ld addr bs) s (s.emit (.unsupported ld.val))))
      ∧ (BarOk s ld.val a n → (∀ i, i < n → ¬ held (a + i)) → Becomes (.hostMemoryRead ld addr n) s (s.emit (.readData ld.val (rdN s.dmem a n))))
      ∧ (∀ k, BarOk s ld.val a 8 → a % 8 = 0 → look s.keeps a = some k → k.sibs.length = 1 → Becomes (.hostMemoryRead ld addr 8) s (s.emit (.readData ld.val (rdN s.dmem a 8))))
      ∧ (BarOk s ld.val a bs.length → s.touchedNames a bs.length = [] → ¬ (bs.length = 8 ∧ a % 8 = 0 ∧ held a) →
        ∃ m, (∀ b, rd m b = if a ≤ b ∧ b < a + bs.length ∧ look s.keeps (b / 8 * 8) = none then bs.getD (b - a) 0#8 else rd s.dmem b)
          ∧ Becomes (.hostMemoryWrite ld addr bs) s ({ s with dmem := m }.setLd ld.val { l with keepErr := l.keepErr + (cellsOf a bs.length).countP s.heldCell }))
      ∧ (BarOk s ld.val a bs.length → bs.length = 8 → a % 8 = 0 → held a → let k := s.keepWrite a (s.cellOp a) (192 + ld.val) (BitVec.ofNat 64 (leNat bs)) 0#64
        Becomes (.hostMemoryWrite ld addr bs) s (if k.2.1 = 2 then k.1.setLd ld.val { k.1.ldev ld.val with keepErr := (k.1.ldev ld.val).keepErr + 1 } else k.1))
      ∧ (∀ (op : AtomOp) (x y : W64), let old : W64 := BitVec.ofNat 64 (leNat (rdN s.dmem a n))
        let cut (v : W64) : W64 := if n = 4 then v &&& 0xFFFFFFFF#64 else v
        ((op = .cas128 ∨ (n ≠ 4 ∧ n ≠ 8) ∨ a % n ≠ 0 ∨ ¬ BarOk s ld.val a n ∨ held a) → s.dark = false → Becomes (.hostAtomicop ld op addr n x y) s (s.emit (.unsupported ld.val)))
        ∧ ((n = 4 ∨ n = 8) → a % n = 0 → BarOk s ld.val a n → ¬ held a → s.touchedNames a n = [] → let put (v : W64) : State := { s with dmem := wrN s.dmem a (toLe n v.toNat) }.emit (.atomicData ld.val old)
          (op = .fetchAdd → Becomes (.hostAtomicop ld op addr n x y) s (put (cut (old + x))))
          ∧ (op = .swap → Becomes (.hostAtomicop ld op addr n x y) s (put (cut x)))
          ∧ (op = .cas → Becomes (.hostAtomicop ld op addr n x y) s (if old = cut x then put (cut y) else s.emit (.atomicData ld.val old))))))
    ∧ (∀ (o : Nat) (bs : List W8), s.shut = false → (s.stage = 1 ∨ s.stage = 2) → bs ≠ [] → o + bs.length ≤ 2 ^ 24 → let frozen : Prop := ∃ i, i < bs.length ∧ 0x8000 ≤ o + i ∧ o + i < 0x12000
      (frozen → (l.tdisp = .locked ∨ l.tdisp = .run) → Becomes (.registerWrite ld o bs) s (s.toError ld.val) ∧ ((s.toError ld.val).ldev ld.val).tdisp = .error)
      ∧ (frozen → l.tdisp = .error → Idle (.registerWrite ld o bs) s)
      ∧ (l.tdisp = .unlocked → (0x3000 ≤ o ∧ o + bs.length ≤ 0x20000) → (∀ b, 0x3000 ≤ b → b < 0x3100 → rd l.bar0 b = 0#8) → let in' (b : Nat) : Prop := o ≤ b ∧ b < o + bs.length ∧ 0x8000 ≤ b ∧ b < 0x12000
        ∃ m, (∀ b, let v := (s.setLd ld.val { l with bar0 := m }).bar0Reg ld.val b
            (in' b → v = bs.getD (b - o) 0#8) ∧ (¬ in' b → v = s.bar0Reg ld.val b)) ∧ Becomes (.registerWrite ld o bs) s (s.setLd ld.val { l with bar0 := m }))
      ∧ (0x20000 ≤ o → o + bs.length ≤ 0x20800 → Becomes (.registerWrite ld o bs) s (s.setLd ld.val { l with bar0 := wrN l.bar0 o bs }))
      ∧ (∀ i ∈ mgmtRows, bs.length = 64 → o % 64 = 0 → 0x2000 ≤ o → o < 0x3000 → leNat (bs.take 1) = i.1 → exec (.registerWrite ld o bs) s = exec (i.2 (blockCmd ld bs)) s))
    ∧ (∀ (o n : Nat), let read (b : List W8) : Prop := Becomes (.hostMemoryRead ld (BitVec.ofNat 64 (2 ^ 63 + o)) n) s (({ s with fresh := s.fresh + n } : State).emit (.readData ld.val b))
      (s.shut = false → o = 0x10 → n = 8 → read (bytes8 s.startst))
      ∧ (s.shut = false → s.dark = true → o + n ≤ 0x10 → Idle (.hostMemoryRead ld (BitVec.ofNat 64 (2 ^ 63 + o)) n) s)
      ∧ (s.dark = false → o = 0 → n = 8 → read (bytes8 (s.ldInfo ld.val))) ∧ (s.dark = false → o = 8 → n = 8 → read (bytes8 (s.peerno.setWidth 64)))
      ∧ (∀ k, k < 96 → s.dark = false → o = 0x400 + 8 * k → n = 8 → read (bytes8 (BitVec.ofNat 64 ((s.port k).peer.toNat * 2 ^ 32 + (s.port k).state))))
      ∧ (s.dark = false → o + n ≤ 2 ^ 24 → ∃ b, b.length = n ∧ read b ∧ ∀ i, i < n → let c := o + i
          ((0x18 ≤ c ∧ c < 0x400) ∨ (0x700 ≤ c ∧ c < 0x1000) ∨ (0x3100 ≤ c ∧ c < 0x8000) ∨ (0x12000 ≤ c ∧ c < 0x20000) ∨ (0x20800 ≤ c ∧ c < 0x30000) ∨ 0x38000 ≤ c → b.getD i 0#8 = 0#8)
          ∧ ((0x3000 ≤ c ∧ c < 0x3100) ∨ (0x8000 ≤ c ∧ c < 0x12000) ∨ (0x20000 ≤ c ∧ c < 0x20800) → b.getD i 0#8 = s.bar0Reg ld.val c)))

/-- R379, R380 and R382: a peer's access through a fabric window that lets it in reads or writes the window's virtual range in the window's domain, or appends one row to the queue the window names;
any other is refused. A port that is down carries none. -/
def fabricWindowsRule : Prop :=
  ∀ (ld : Fin 16) (port : Fin 96) (a : PeerAccess) (s : State), let st := (s.port port.val).state
    let e := rdN (s.ldev ld.val).bar0 (0x20000 + 32 * a.window.val) 32
    let f (o n : Nat) : Nat := leNat ((e.drop o).take n)
    let dom := BitVec.ofNat 16 (f 28 2)
    let base : W64 := BitVec.ofNat 64 (f 0 8)
    let flags := f 24 1
    let good : Prop := f 8 8 = 0 ∧ f 25 3 = 0 ∧ flags / 16 = 0 ∧ flags % 2 = 1 ∧ f 28 2 / 256 = ld.val ∧ f 0 8 % 64 = 0 ∧ f 16 8 % 64 = 0 ∧ (f 30 2 = 0xFFFF ∨ f 30 2 = a.peer.toNat)
      ∧ (if a.append then flags / 8 % 2 = 1 else if a.write then flags / 4 % 2 = 1 else flags / 2 % 2 = 1) ∧ a.offset + a.size ≤ f 16 8 ∧ (flags / 8 % 2 = 1 → f 16 8 = 64)
    ((st = 0 ∨ st = 1 ∨ st = 5) → Idle (.fileskWindowAccess ld port a) s)
    ∧ ((st = 2 ∨ st = 3 ∨ st = 4) → (s.stage = 1 ∨ s.stage = 2) → (s.ldev ld.val).tdisp ≠ .error → s.pend = [] → (s.die (port.val / 12)).watches = [] →
      (¬ good → Becomes (.fileskWindowAccess ld port a) s (s.emit (.peerRefused a.peer 3)))
      ∧ (∀ ts s1, good → a.append = false → let bs := if a.write then (List.range a.size).map (fun i => a.data.getD i 0#8) else List.replicate a.size 0#8
        (agentTargets dom { r := !a.write, w := a.write } (a.size / 4096 + 2) (base + BitVec.ofNat 64 a.offset) bs).run s = .ok (ts, s1) → (∀ t ∈ ts, ∃ p, t.1 = .dev p) → s1.dies = s.dies →
        (a.write = false → Becomes (.fileskWindowAccess ld port a) s (s1.emit (.peerData a.peer (ts.flatMap (fun t => s1.readT t.1 t.2.length)))))
        ∧ (a.write = true → Becomes (.fileskWindowAccess ld port a) s ((s1.writeAll ts).emit (.peerDone a.peer))))
      ∧ (good → a.append = true → (a.size ≠ 64 ∨ s.queueAt dom base = none) → Becomes (.fileskWindowAccess ld port a) s (s.emit (.peerRefused a.peer 3)))
      ∧ (∀ k q (d : List W8) ws cs s1 s2 s3, good → a.append = true → a.size = 64 → s.queueAt dom base = some k → look s.queues k = some q → q.peerAppend = true →
        (agentRead dom { r := true, w := true } 2 base 64).run s = .ok (d, s1) → let log2 := leNat ((d.drop 8).take 4) % 32
        let w := leNat ((d.drop 16).take 8)
        let used := (w + 2 ^ 64 - leNat ((d.drop 24).take 8)) % 2 ^ 64
        (2 ^ log2 ≤ used → let t : State := { s1 with pend := s1.pend ++ [.peer ld.val port.val a] }
          Becomes (.fileskWindowAccess ld port a) s (t.emit (.peerWait a.peer)))
        ∧ (used < 2 ^ log2 → (agentTargets dom { w := true } 3 (BitVec.ofNat 64 (leNat (d.take 8)) + BitVec.ofNat 64 (w % 2 ^ log2 * 64)) ((List.range 64).map (fun i => a.data.getD i 0#8))).run s1 = .ok (ws, s2) → s3.dies = s.dies →
          (agentTargets dom { w := true } 2 (base + 16#64) (toLe 8 (w + 1))).run s2 = .ok (cs, s3) → Becomes (.fileskWindowAccess ld port a) s (((s3.writeAll cs).writeAll ws).emit (.peerDone a.peer)))))

/-- A host's and a peer's accesses to memory and registers (R335, R364, R366, R371, R379, R380, R382). Beside the rules it rests on the model's own readings: log entries 6, 69, 73, 83, 84, 86, 87, 112 and 113. -/
def Obligations.HostAndPeerAccesses : Prop := hostAccessesRule ∧ fabricWindowsRule

/-! ## Copy engines, the matrix engine, ingest -/

/-- R237, R240, R242, R243, R376, R381 and R383: a CPY starts once its group's earlier stores are acknowledged; a copy unit lands one chunk of its next command with the chunk's bitmap bit, and ends a
command that has none left; a copy queue's slot is taken into service, or answered at once; a shared engine spends a unit of the tenant's budget on a chunk; an unanswered fabric request is a fault
with code 8. Beside the rules it rests on the model's own readings: log entries 6, 41, 42, 68 and 69. -/
def Obligations.CopyEngines : Prop :=
  ∀ (s : State),
    (∀ (n : Nat) (c : Copy), s.copy n = some c → let x := s.grp c.gid
      c.queue = none → c.started = false → (s.team c.team).resident = true → inPlace x = true → (s.ldev c.ld).tdisp ≠ .error → x.sb = [] → (num c.pk 1 1 % 8 = 1 → s.hidden c.team (num c.pk 49 3) (4 * num c.pk 36 2) = false) →
      let index := if num c.pk 1 1 % 8 = 1 then (List.range (num c.pk 36 2)).map (fun r => BitVec.ofNat 32 (leNat (rdN (s.team c.team).scr (num c.pk 49 3 + 4 * r) 4))) else []
      Becomes (.copyCommandStart n) s (s.setCopy { c with started := true, index := index }))
    ∧ (∀ n, s.copy n = none → Idle (.copyCommandStart n) s ∧ Idle (.fabricRequestTimeout n) s)
    ∧ (∀ (core : Fin 192) (pick : Nat), (unitCommands s core.val = [] → Idle (.copyUnitChunk core pick) s)
      ∧ (∀ c, nextCommand (fun c => (s.task (s.grp c.gid).task).prio) (unitCommands s core.val) = some c →
        (c.left = [] → Becomes (.copyUnitChunk core pick) s (s.endCopy c))
        ∧ (∀ (t k : Nat) (ks : List Nat) (bs : List W8) (rs : List (W64 × Nat)) (s1 : State), c.left = [(t, ks)] → sortN ks = ks → ks ≠ [] → k = ks.getD (pick % ks.length) 0 → pkKind c.pk ≠ 3 → pkVm c.pk = false → c.heldData = [] → c.heldRanges = [] → c.spoilt = [] → (s.grp c.gid).sb = [] →
          (s.team t).resident = true → (s.team t).retired = false → (s.die (core.val / 24)).watches = [] → (∀ d ∈ s.copies, d.id = c.id → d = c) → c ∈ s.copies →
          let c1 := { c with turn := s.nextId }
          (readPieces (core.val / 24) c1 (copyPieces c.pk k)).run { s with nextId := s.nextId + 1 } = .ok ((bs, rs, false), s1) →
          let wa := pkBm c.pk + k / 8
          let s2 := s1.scrPut t (pkSpad c.pk + 512 * k) bs
          let c2 := { c1 with left := [(t, ks.filter (· != k))] }
          let s3 := (s2.scrPut t wa [rd (s2.team t).scr wa ||| BitVec.ofNat 8 (2 ^ (k % 8))]).setCopy c2
          Becomes (.copyUnitChunk core pick) s (if ks.filter (· != k) = [] then s3.endCopy c2 else s3))))
    ∧ (∀ (k : Nat) (q : Queue), look s.queues k = some q →
      (s.mhalt = true → Idle (.copyQueueConsume k) s)
      ∧ (queueServed s q = true → q.kind = 1 → s.mhalt = false → s.copies.countP (fun c => c.queue.isSome && c.die == q.die) < 64 → (s.die q.die).up = true →
        ∀ (i : Nat) (d b : List W8) (slot : W64) (s1 : State),
          ((headSlot k q).run s = .ok (none, s1) → Becomes (.copyQueueConsume k) s s1)
          ∧ ((headSlot k q).run s = .ok (some (i, d, slot, b), s1) →
            let consumed : List (W64 × List W8) := [(slot, [0#8]), (q.desc + 24#64, toLe 8 (i + 1))]
            let left (u : State) : State := { u with queues := adjust u.queues k (fun q => { q with sites := erase q.sites i }) }
            (∀ t, (num b 0 1 ≠ 1 ∨ num b 54 2 ≠ 0) → Recorded s1 q.dom ([(q.desc + 32#64, toLe 4 (num d 32 4 + 1)), (q.desc + 40#64, toLe 8 (1 + i * 256))] ++ consumed) t → Becomes (.copyQueueConsume k) s (left t))
            ∧ (∀ e g t, num b 0 1 = 1 → num b 54 2 = 0 → let name : W64 := word b 56
              s1.resolve q.dom name 0 2 = .ok e → e.st ≠ 6 → e.st ≠ 5 → s1.holder name = some g → (s1.grp g).mill = none → let team := (s1.grp g).team
              let tcb := (s1.task (s1.grp g).task).tcb
              pkKind b ≠ 4 → pkFaults b true tcb.rows tcb.cols = [] → fabricBad q b = false → pkOutside b (s1.scratchSize team) = false →
              let ps := (look q.sites i).getD (0#64, BitVec.ofNat 64 i, 0)
              let c : Copy := { id := s1.nextId, queue := some k, slot := i, gid := ps.2.2, name := name, ld := q.ld, dom := q.dom, core := 0, die := q.die, site := ps.1, seq := ps.2.1, pk := b, pkva := slot, team := team, receivers := [team], started := false, cleared := false, index := [], left := [(team, List.range ((pkRows b * pkRb b + 511) / 512))], heldData := [], sparse := none, cancel := false, fault := none, susp := 0, prio := min (pkPrio b) (num d 8 4 / 2 ^ 8 % 16), turn := 0, fabric := q.peer.isSome, awaiting := [], spoilt := [] }
              Recorded { s1 with nextId := s1.nextId + 1, copies := s1.copies ++ [c] } q.dom consumed t → Becomes (.copyQueueConsume k) s (left t)))))
    ∧ (∀ (die : Fin 8) (pick : Nat) (c : Copy), s.copies = [c] → c.queue.isSome = true → c.die = die.val → goesOn s c = true → c.susp = 0 →
      (∀ t, c.left = [] → (finishQueued c).run s = .ok ((), t) → Becomes (.sharedEngineChunk die pick) s t)
      ∧ (∀ (t k : Nat) (ks : List Nat) (bs : List W8) (rs : List (W64 × Nat)) (s1 : State), c.left = [(t, ks)] → sortN ks = ks → k = ks.getD (pick % ks.length) 0 → ks.filter (· != k) ≠ [] → s.mhalt = false → c.cleared = true → c.fabric = false →
        pkKind c.pk ≠ 3 → pkVm c.pk = false → c.heldData = [] → c.heldRanges = [] → c.paid = [] → c.spoilt = [] → (s.team t).resident = true → (s.team t).retired = false → (s.die die.val).watches = [] →
        let d := s.die die.val
        let c1 := { c with turn := s.nextId, paid := [k] }
        let s0 := { s with nextId := s.nextId + 1 }.setDie die.val { d with ceu := ins d.ceu c.ld ((look d.ceu c.ld).getD 0 + 1), counters := ins d.counters 4 (satAdd ((look d.counters 4).getD 0) 1) }
        (readPieces die.val c1 (copyPieces c.pk k)).run s0 = .ok ((bs, rs, false), s1) →
        let wa := pkBm c.pk + k / 8
        let s2 := s1.scrPut t (pkSpad c.pk + 512 * k) bs
        Becomes (.sharedEngineChunk die pick) s ((s2.scrPut t wa [rd (s2.team t).scr wa ||| BitVec.ofNat 8 (2 ^ (k % 8))]).setCopy { c1 with left := [(t, ks.filter (· != k))] })))
    ∧ (∀ (n : Nat) (c : Copy), s.copy n = some c → (c.susp = 0 → Idle (.fabricRequestTimeout n) s)
      ∧ (∀ q t, 0 < c.susp → look s.queues (c.queue.getD 0) = some q → (∀ e ∈ s.ports, ¬ (e.2.partnerHalted = true ∧ some e.2.peer.toNat = q.peer)) → q.peer.isSome = true → (∀ d ∈ s.copies, d.id = n → d = c) →
        let d := s.die 8
        let u := s.setDie 8 { d with clk := d.clk + BitVec.ofNat 64 (1000000 * q.ftime) }
        let c2 := { c with left := [], susp := 0, fault := some (c.fault.getD (c.susp - 1, 2, 8#64)), lost := false }
        (finishQueued c2).run (u.setCopy c2) = .ok ((), t) → Becomes (.fabricRequestTimeout n) s t))

/-- R58, R66 and R251 to R254: the sum of one element of an integer operation. Slab by slab, the exact sum of the slab's products and the accumulator is clamped to 32 bits, SATD telling of a clamp
that changed it; complex operations clamp the two parts apart. A slab's bytes are 64 INT8 or 128 INT4 values, low nibble first. -/
def Obligations.MatrixSums : Prop :=
  ∀ (pb : List W8), let clamp (i : Int) : Int := max (-(2 ^ 31)) (min (2 ^ 31 - 1) i)
    let int8 (l : List W8) (k : Nat) : Int := (l.getD k 0#8).toInt
    let int4 (l : List W8) (k : Nat) : Int := ((l.getD (k / 2) 0#8).extractLsb' (4 * (k % 2)) 4).toInt
    let sum (n : Nat) (f : Nat → Int) : Int := ((List.range n).map f).sum
    (pbFmt pb < 8 → ∀ (as bs : List (List W8)) (a b c : List W8), as.length = bs.length → (∀ l ∈ a :: b :: as ++ bs, l.length = 64) → c.length = (if pbFmt pb = 6 ∨ pbFmt pb = 7 then 8 else 4) →
      let r1 := element pb as bs c
      let r2 := element pb [a] [b] r1.1
      element pb (as ++ [a]) (bs ++ [b]) c = (r2.1, r1.2.1 || r2.2.1, r1.2.2.1 || r2.2.2.1, r1.2.2.2 || r2.2.2.2))
    ∧ (∀ (a b : List W8) (c : W32), a.length = 64 → b.length = 64 → let done (v : Int) : List W8 × Bool × Bool × Bool := (bytes4 (BitVec.ofInt 32 (clamp v)), clamp v != v, false, false)
      (pbFmt pb = 4 → element pb [a] [b] (bytes4 c) = done (c.toInt + sum 64 (fun k => int8 a k * int8 b k)))
      ∧ (pbFmt pb = 5 → element pb [a] [b] (bytes4 c) = done (c.toInt + sum 128 (fun k => int4 a k * int4 b k))))
    ∧ (∀ (a b : List W8) (c d : W32), a.length = 64 → b.length = 64 → ∀ v ∈ ([(6, 32, int8), (7, 64, int4)] : List (Nat × Nat × (List W8 → Nat → Int))), pbFmt pb = v.1 →
      let x := v.2.2
      let conj := pbFlag pb 1
      let re := c.toInt + sum v.2.1 (fun k => if conj then x a (2 * k) * x b (2 * k) + x a (2 * k + 1) * x b (2 * k + 1) else x a (2 * k) * x b (2 * k) - x a (2 * k + 1) * x b (2 * k + 1))
      let im := d.toInt + sum v.2.1 (fun k => if conj then x a (2 * k + 1) * x b (2 * k) - x a (2 * k) * x b (2 * k + 1) else x a (2 * k) * x b (2 * k + 1) + x a (2 * k + 1) * x b (2 * k))
      element pb [a] [b] (bytes4 c ++ bytes4 d) = (bytes4 (BitVec.ofInt 32 (clamp re)) ++ bytes4 (BitVec.ofInt 32 (clamp im)), (clamp re != re) || (clamp im != im), false, false))

/-- The elements a MACC between registers and the accumulator store moves: thread by thread, register by register (R269). -/
def maccCells (c : MCmd) (x : Group) : List (Nat × Nat) :=
  (((List.range x.w).filter (fun l => hasLane c.act l)).flatMap (fun l => (List.range (mcCnt c.ctl)).map (fun k => (l, k))))

/-- R251, R257, R259, R260, R261, R269 and R270: a matrix operation starts with the MRDYs its OPID needs, writes its tile into the accumulator store when it completes, from the scratchpad as it was at
issue, with its token and the team's status word; contributors of another depth are a BADJOIN; a MACC moves data between the stores, or between registers and the accumulator store. Beside the rules it rests on the model's own readings: log entries 46, 47, 48 and 49. -/
def Obligations.MatrixSteps : Prop :=
  ∀ (s : State) (t : Nat) (c : MCmd) (rest : List MCmd) (differs : Bool), let m := s.team t
    let x := s.grp c.gid
    let stay : Prop := ∀ e ∈ s.groups, e.2.team = t → e.2.place ≠ .saved ∧ e.2.place ≠ .moving
    m.mq = c :: rest → c.token = false → c.chain = none → (∀ d ∈ rest, d.id ≠ c.id ∧ d.taken ≠ some c.id ∧ ¬ (d.token = true ∧ d.closing = true)) → m.resident = true → resident x = true →
    (c.kind = 0 → c.started = false → pbJ c.pb = 1 → Becomes (.matrixOperationStart t) s (s.setTeam t { m with mq := { c with started := true } :: rest }))
    ∧ (c.kind = 0 → c.started = false → pbJ c.pb = 2 → (∀ d ∈ rest, ¬ (d.kind = 1 ∧ d.taken = none ∧ d.opid = c.opid ∧ d.slot = 1)) → Idle (.matrixOperationStart t) s)
    ∧ (∀ d, c.kind = 0 → c.started = false → pbJ c.pb = 2 → rest = [d] → d.kind = 1 → d.taken = none → d.opid = c.opid → d.slot = 1 → resident (s.grp d.gid) = true →
        Becomes (.matrixOperationStart t) s (s.setTeam t { m with mq := [{ c with started := true }, { d with taken := some c.id }] }))
    ∧ (c.kind ≠ 1 → c.started = false → Idle (.matrixOperationComplete t differs) s)
    ∧ (∀ (a : ARows), c.kind = 0 → c.started = true → c.a = some a → a.gid = c.gid → a.dirty = 0#64 → c.spoilt = [] → pbFmt c.pb < 8 →
        (∀ e ∈ s.groups, e.2.team = t → ∀ dd cmds acc set, e.2.wait ≠ .mwait dd cmds acc set) → (∀ d ∈ m.mdone, d.1 ≠ c.opid) → x.w ≤ 64 → a.ns = pbNs c.pb → look s.teams t = some m → look s.groups c.gid = some x →
        let es := pbEs c.pb
        let el (r n : Nat) := element c.pb (rowSlabs a r) (colUnits c.img c.pb n) (if pbFlag c.pb 0 then List.replicate es 0#8 else rdN m.acc (pbCoff c.pb + (r * pbN c.pb + n) * es) es)
        let all := (List.range x.w).flatMap (fun r => (List.range (pbN c.pb)).map (el r))
        all.countP (·.2.2.1) = 0 → all.countP (·.2.2.2) = 0 →
        let mis := pbFlag c.pb 3 && differs
        let sat := all.any (·.2.1)
        let fl := (if sat then 1 else 0) + (if mis then 4 else 0)
        let tok := BitVec.ofNat 64 (c.seq.toNat % 2 ^ 32 * 2 ^ 32 + fl * 256 + (if mis then 1 else 0))
        let y := settle { x with ops := x.ops.map (fun o => if o.id == c.id then { o with ready := true, dests := o.dests.map (fun d => { d with vals := if 96 ≤ d.reg then [tok] else [] }) } else o) }
        let y2 : Group := unpin c.id { y with gstatus := y.gstatus ||| (if sat then 16#64 else 0#64) }
        mis = false → ∃ u, Becomes (.matrixOperationComplete t differs) s u
          ∧ (u.team t).acc = wrN m.acc (pbDoff c.pb) (all.flatMap (·.1)) ∧ (u.team t).scr = m.scr ∧ (u.team t).mq = rest ∧ (u.team t).mstat = m.mstat ||| (if sat then 1#64 else 0#64)
          ∧ (u.team t).mdone = m.mdone ++ [(c.opid, 0, fl)] ∧ u.grp c.gid = y2 ∧ (∀ t', t' ≠ t → u.team t' = s.team t') ∧ u.dmem = s.dmem)
    ∧ (∀ (a : ARows), c.kind = 0 → c.started = true → c.a = some a → a.ns ≠ pbNs c.pb → stay → look s.teams t = some m →
        ∃ u, Becomes (.matrixOperationComplete t differs) s u ∧ (u.team t).acc = m.acc ∧ (u.team t).mq = rest ∧ (u.team t).mstat = m.mstat ||| 8#64)
    ∧ (c.kind = 0 → Idle (.maccPerform t) s)
    ∧ (c.kind = 2 → stay → look s.teams t = some m → let p := c.ctl
      let q := c.opw
      (mcOpk p = 2 → ∃ u, Becomes (.maccPerform t) s u ∧ (u.team t).scr = wrN m.scr (mcRst q) (rdN m.acc (mcAoff p) (mcLen q)) ∧ (u.team t).mq.map (·.id) = rest.map (·.id)
        ∧ (∀ a, rd (u.team t).acc a = if mcClr p = true ∧ mcAoff p ≤ a ∧ a < mcAoff p + mcLen q then 0#8 else rd m.acc a))
      ∧ (mcOpk p = 3 → c.spoilt = [] → ∃ u, Becomes (.maccPerform t) s u ∧ (u.team t).acc = wrN m.acc (mcAoff p) (rdN c.img (mcRst q) (mcLen q)) ∧ (u.team t).scr = m.scr ∧ (u.team t).mq = rest)
      ∧ (mcOpk p = 1 → c.dirtyS = [] → ∃ u, Becomes (.maccPerform t) s u ∧ (u.team t).scr = m.scr ∧ (u.team t).mq = rest
        ∧ (u.team t).acc = (maccCells c x).foldl (fun b e => wrN b (mcAoff p + e.1 * mcRst q + 4 * e.2) (bytes4 ((c.srcs.getD e.2 []).getD e.1 0#32))) m.acc)
      ∧ (mcOpk p = 0 → mcClr p = false → ∃ u, Becomes (.maccPerform t) s u ∧ (u.team t).scr = m.scr ∧ (u.team t).acc = m.acc ∧ (u.team t).mq = rest
        ∧ ∀ o, x.ops = [o] → o.id = c.id → o.win = [] → (∀ d ∈ o.dests, d.reg < 80 → d.reg < mcVreg p + mcCnt p ∧ mcVreg p ≤ d.reg) →
          ∀ d ∈ o.dests, d.reg < 80 → ∀ l, l < x.w → hasLane d.mask l = true → hasLane c.act l = true → x.w ≤ 64 → ((look (u.grp c.gid).vval d.reg).getD []).getD l 0#32 = BitVec.ofNat 32 (leNat (rdN m.acc (mcAoff p + l * mcRst q + 4 * (d.reg - mcVreg p)) 4))))

/-- R384 to R389: a frame that fails its checks, or that no flow entry takes, is dropped and counted; one that fits its window is written at WRITE with its record, FRAMES and WRITE moving on; one that
does not fit is dropped and counted, or held with its priority paused; held frames are written once they fit, and the sender is told. Beside the rules it rests on the model's own readings: log entries 6, 15 and 88. -/
def Obligations.Ingest : Prop :=
  ∀ (die : Fin 8) (port : Fin 2) (f : EthFrame) (s : State), let k := 12 * die.val + 10 + port.val
    let b := 2 * die.val + port.val
    let ld := s.stackLd die.val 0
    let bar := (s.ldev ld).bar0
    let time := (s.die die.val).clk + BitVec.ofNat 64 (Config.clockStep s.fresh)
    let g := s.ing k
    let v0 := { s with fresh := s.fresh + 1 }.setDie die.val { s.die die.val with clk := time }
    let v := { v0 with ingest := ins s.ingest k { g with frames := satAdd g.frames 1 } }
    let dropped : State := { v0 with ingest := ins v.ingest k { g with frames := satAdd g.frames 1, dropped := satAdd g.dropped 1 } }
    let entry (i : Nat) : W64 := BitVec.ofNat 64 (leNat (rdN bar (0x30000 + b * 0x800 + 8 * i) 8))
    let takes (i : Nat) : Prop := (entry i).getLsbD 63 = true ∧ (entry i).extractLsb' 20 43 = 0#43 ∧ (entry i).extractLsb' 0 16 = f.dport
    (s.ownsEth ld die.val port.val = false → Idle (.ethernetFrameReceive die port f) s)
    ∧ (g.held = [] → Idle (.ingestRoffPoll die port) s)
    ∧ (s.ownsEth ld die.val port.val = true → (s.stage = 1 ∨ s.stage = 2) → (s.ldev ld).tdisp ≠ .error → s.pend = [] →
      ((f.fcsOk = false ∨ f.ipOk = false ∨ f.fragment = true ∨ f.udp = false ∨ 9216 < f.size) → Becomes (.ethernetFrameReceive die port f) s dropped)
      ∧ (f.fcsOk = true → f.ipOk = true → f.fragment = false → f.udp = true → f.size ≤ 9216 →
        ((∀ i, i < 64 → ¬ takes i) → Becomes (.ethernetFrameReceive die port f) s dropped)
        ∧ (∀ i, i < 64 → takes i → (∀ j, j < i → ¬ takes j) → let win := ((entry i).extractLsb' 16 4).toNat
          let d := rdN bar (0x30000 + b * 0x800 + 0x200 + 64 * win) 64
          let dom := BitVec.ofNat 16 (num d 8 2)
          let size := 2 ^ (num d 32 2 / 32 % 32)
          let st : W64 := BitVec.ofNat 64 (num d 16 8)
          let len := (16 + f.payload.length + 63) / 64 * 64
          (ethWinOk ld d = false → g.held = [] → Becomes (.ethernetFrameReceive die port f) s dropped)
          ∧ (∀ (sb : List W8) (s1 : State), ethWinOk ld d = true → look g.stopped win = none → g.held = [] → len ≤ size → (kread dom st 40).run v = .ok (sb, s1) → let w := num sb 0 8
            let used := w - num sb 8 8
            let bytes := frameRecord f time
            (∀ t, num sb 8 8 ≤ w → used + len ≤ size → num d 34 2 = 0 → s1.ing k = v.ing k →
              Recorded s1 dom [(BitVec.ofNat 64 (num d 0 8) + BitVec.ofNat 64 (w % size), bytes.take (size - w % size)), (BitVec.ofNat 64 (num d 0 8), bytes.drop (size - w % size)), (st + 40#64, List.replicate 24 0#8), (st + 16#64, toLe 8 (num sb 16 8 + 1)), (st, toLe 8 (w + len))] t →
              Becomes (.ethernetFrameReceive die port f) s { t with ingest := ins t.ingest k { t.ing k with counts := ins (t.ing k).counts win 0 } })
            ∧ (∀ sb2 s2 t, num sb 8 8 ≤ w → used ≤ size → size < used + len → num d 32 2 / 2 % 2 = 0 → (kread dom (st + 24#64) 8).run s1 = .ok (sb2, s2) → Recorded s2 dom [(st + 40#64, List.replicate 24 0#8), (st + 24#64, toLe 8 (num sb2 0 8 + 1))] t →
              Becomes (.ethernetFrameReceive die port f) s t)
            ∧ (num sb 8 8 ≤ w → used ≤ size → size < used + len → num d 32 2 / 2 % 2 = 1 → s1.ing k = v.ing k → let c := BitVec.ofNat 3 (num d 32 2 / 4 % 8)
              let u : State := { s1 with ingest := ins s1.ingest k { v.ing k with held := [{ win := win, pcp := c, frame := f, time := time }], xoff := g.xoff ||| (1#8 <<< c.toNat) } }
              Becomes (.ethernetFrameReceive die port f) s (u.emit (.pfc die.val (10 + port.val) c true))))))
      ∧ (∀ (h : HeldFrame) (sb : List W8) (s1 t : State), g.held = [h] → g.xoff = 1#8 <<< h.pcp.toNat → let d := rdN bar (0x30000 + b * 0x800 + 0x200 + 64 * h.win) 64
          let dom := BitVec.ofNat 16 (num d 8 2)
          let size := 2 ^ (num d 32 2 / 32 % 32)
          let st : W64 := BitVec.ofNat 64 (num d 16 8)
          let len := (16 + h.frame.payload.length + 63) / 64 * 64
          ethWinOk ld d = true → look g.stopped h.win = none → len ≤ size → (kread dom st 40).run s = .ok (sb, s1) → let w := num sb 0 8
          let bytes := frameRecord h.frame h.time
          num sb 8 8 ≤ w → w - num sb 8 8 + len ≤ size → num d 34 2 = 0 →
          Recorded s1 dom [(BitVec.ofNat 64 (num d 0 8) + BitVec.ofNat 64 (w % size), bytes.take (size - w % size)), (BitVec.ofNat 64 (num d 0 8), bytes.drop (size - w % size)), (st + 40#64, List.replicate 24 0#8), (st + 16#64, toLe 8 (num sb 16 8 + 1)), (st, toLe 8 (w + len))] t →
          ∃ u, Becomes (.ingestRoffPoll die port) s u ∧ (u.ing k).held = [] ∧ (u.ing k).xoff = 0#8 ∧ u.out = t.out ++ [.pfc die.val (10 + port.val) h.pcp false] ∧ u.dmem = t.dmem))
    ∧ (let r := frameRecord f time
      r.length = (16 + f.payload.length + 63) / 64 * 64 ∧ (f.payload.length < 2 ^ 16 → leNat (r.take 2) = f.payload.length) ∧ leNat ((r.drop 2).take 2) = f.sport.toNat ∧ (r.drop 8).take 8 = bytes8 time ∧ (r.drop 16).take f.payload.length = f.payload)

/-! ## Faults, periods, start, links, power and service -/

/-- R153, R262, R350, R376 and R400: the floating-point threshold posts its event once; a budget period starts with unused units lapsed and the pending registers in force; a sample is due when its
interval is over; a storage error in a keep cell resets the cell, one in a team's stores ends the team and places it again, the fourth time it ends the task. Beside the rules it rests on the model's own readings: log entries 6 and 70. -/
def Obligations.FaultsAndPeriods : Prop :=
  ∀ (s : State),
    (∀ k, let t := s.task k
      ((t.fpcross = none ∨ t.fpfired = true) → Idle (.fpThreshold k) s)
      ∧ (∀ g pc seq st, t.fpcross = some (g, pc, seq, st) → t.fpfired = false → let x := s.grp g
        let u := s.setTask k { t with fpfired := true, fpcross := none }
        alive x = true → x.halted = false → x.events.length < 4 → Becomes (.fpThreshold k) s (u.setGrp g { x with events := x.events ++ [{ cause := 35, info := st, detail := 0#64, site := pc, seq := seq }] })))
    ∧ (∀ die : Fin 8, let d := s.die die.val
        risingFrom d.budgetNext 0 = true → ∃ b, (∀ l, look b l = (match look d.budgetNext l with | some v => some v | none => look d.budget l))
          ∧ Becomes (.budgetPeriod die) s (s.setDie die.val { d with clk := d.clk + 100000#64, ceu := [], budget := b, budgetNext := [] }))
    ∧ (∀ (core : Fin 192) (part : Fin 8), let site := core.val * 8 + part.val
        (look s.samples site = none → Idle (.sampleTag core part) s)
        ∧ (∀ m, look s.samples site = some m → (m.left ≠ 0 ∨ m.tag = true) → Idle (.sampleTag core part) s)
        ∧ (∀ m, look s.samples site = some m → m.left = 0 → m.tag = false → ∃ n, 1 ≤ n ∧ n < 2 ^ (m.k + 1) ∧ Becomes (.sampleTag core part) s { s with fresh := s.fresh + 1, samples := ins s.samples site { m with tag := true, lfsr := lfsrStep m.lfsr, left := n } }))
    ∧ (∀ x : W32, let y := lfsrStep x
        (∀ i, i < 31 → y.getLsbD (i + 1) = x.getLsbD i) ∧ y.getLsbD 0 = (x.getLsbD 31 ^^ x.getLsbD 21 ^^ x.getLsbD 1 ^^ x.getLsbD 0))
    ∧ (∀ c, let a := c / 8 * 8
        (look s.keeps a = none → Idle (.storageError (.keepState c)) s)
        ∧ (∀ k, look s.keeps a = some k → let ld := s.stackLd (a / 2 ^ 37) (if a % 2 ^ 37 < stackBytes then 0 else 1)
          (s.ldev ld).tdisp ≠ .error → (s.ldev ld).fault = none → (s.ldev ld).heldRecs.length < 64 → ∃ u, Becomes (.storageError (.keepState c)) s u
            ∧ (∃ k2, look u.keeps a = some k2 ∧ k2.sibs = [(0#64, none)] ∧ k2.g = (if k.g = 0xFFFF#16 then 1#16 else k.g + 1#16)) ∧ (u.ldev ld).heldRecs.length = (s.ldev ld).heldRecs.length + 1 ∧ u.groups = s.groups))
    ∧ (∀ (t : Nat) (m : Team), look s.teams t = some m → m.retired = false → let k := m.task
        let tk := s.task k
        t ∉ tk.again → tk.ended = false → (∀ i ∈ ([.teamStore t, .syncState t, .readData t] : List StorageSite),
          (tk.relaunches < 3 → s.joins = [] → ∃ u, Becomes (.storageError i) s u ∧ (u.task k).relaunches = tk.relaunches + 1 ∧ t ∈ (u.task k).again ∧ (u.team t).gids = [] ∧ (u.team t).scr = [] ∧ (u.team t).acc = []
            ∧ (∀ g ∈ m.gids, (u.grp g).place = .exited ∨ (u.grp g).place = .ended))
          ∧ (∀ u, 3 ≤ tk.relaunches → (endTask k).run s = .ok ((), u) → (u.task k).ended = true ∧ Becomes (.storageError i) s (u.endedRecord k 32 (match i with | .teamStore _ => 2#64 | .syncState _ => 4#64 | _ => 5#64)))))
    ∧ (∀ g t m, (s.grp g).team = t → look s.teams t = some m → m.retired = true → Idle (.storageError (.registers g)) s ∧ Idle (.storageError (.treeStore g)) s)

/-- Whether harmonic 1 to 31 of a frequency, in kHz, falls into a band of the avoidance list (R408). -/
def Clear (avoid : List W64) (khz : Nat) : Prop :=
  ∀ e ∈ avoid, let lo := (e.extractLsb' 0 32).toNat
    let hi := (e.extractLsb' 32 32).toNat
    hi ≠ 0 → lo ≤ hi → ∀ h, 1 ≤ h → h ≤ 31 → ¬ (lo ≤ h * khz ∧ h * khz ≤ hi)

/-- R346, R379, R383 and R405 to R409: what a module reset leaves, the images and the clock plan it chooses; how dies join and links train until stage 2; a milliner starts, or starts again, under its name; what STARTST shows; the status of a
port and its peer's halt. Beside the rules it rests on the model's own readings: log entries 29, 89, 90 and 112. -/
def Obligations.StartAndLinks : Prop :=
  ∀ (s : State),
    (∀ (img : ImageCheck), let ok := (img.preutA = true ∨ img.preutB = true) ∧ (img.millinerA = true ∨ img.millinerB = true)
      ∃ u, Becomes (.moduleReset img) s u ∧ u.dmem = [] ∧ u.tasks = [] ∧ u.teams = [] ∧ u.queues = [] ∧ u.keeps = [] ∧ u.lds = State.reset.lds ∧ u.hmem = s.hmem ∧ u.avoid = s.avoid ∧ u.ports = State.reset.ports
        ∧ (∀ d, d < 8 → (u.die d).up = false ∧ (u.die d).fwctl = 0#64 ∧ (u.die d).retired = (s.die d).retired ∧ (u.die d).spareCores = (s.die d).spareCores)
        ∧ u.images.preutB = (!img.preutA && img.preutB) ∧ u.images.millB = (!img.millinerA && img.millinerB) ∧ u.images.noMicro = (!img.microA && !img.microB) ∧ u.avoidNow = s.avoid
        ∧ (¬ ok → u.stage = 15 ∧ u.groups = [])
        ∧ (ok → u.stage = 1 ∧ (∀ m, m < 16 → (u.grp (m + 1)).mill = some m ∧ (u.grp (m + 1)).started = false ∧ (u.grp (m + 1)).w = 1)
          ∧ (∀ d, d < 8 → (u.die d).coreClk = u.plan.1) ∧ 1000 ≤ u.plan.1 ∧ u.plan.1 ≤ 1700 ∧ (Clear s.avoid (u.plan.1 * 1000) ∨ u.plan.1 = 1000) ∧ (∀ f, u.plan.1 < f → f ≤ 1700 → ¬ Clear s.avoid (f * 1000))))
    ∧ (∀ die : Fin 8, let d := s.die die.val
      let next (u : State) : State := if u.stage == 1 && planFits u.avoidNow u.plan && (List.range 8).all (fun i => (u.die i).up) && (List.range 96).all (fun p => (u.port p).alone || (decide (2 ≤ (u.port p).state) && decide ((u.port p).state ≤ 5))) then { u with stage := 2 } else u
      ((s.stage = 1 ∨ s.stage = 2) → d.up = false → d.failed = false → s.images.noMicro = false → Becomes (.dieJoin die) s (next (s.setDie die.val { d with up := true })))
      ∧ ((d.up = true ∨ d.failed = true ∨ s.images.noMicro = true) → Idle (.dieJoin die) s)
      ∧ ((s.stage = 1 ∨ s.stage = 2) → d.up = false → Becomes (.dieJoinTimeout die) s (s.setDie die.val { d with failed := true })) ∧ (d.up = true → Idle (.dieJoinTimeout die) s)
      ∧ (∀ (port : Fin 96) (peer : W16), let p := s.port port.val
        (p.state = 0 → (s.stage = 1 ∨ s.stage = 2) → Becomes (.fileskLinkTrain port peer) s (s.setPort port.val { p with state := 1 }))
        ∧ (p.state = 1 → (s.stage = 1 ∨ s.stage = 2) → Becomes (.fileskLinkTrain port peer) s (next (s.setPort port.val { p with state := if p.laneLost then 3 else 2, peer := peer, alone := false })))
        ∧ (p.state ≠ 0 → (p.state ≠ 1 → Idle (.fileskLinkTrain port peer) s) ∧ Idle (.fileskPartnerTimeout port) s)
        ∧ (p.state = 0 → Becomes (.fileskPartnerTimeout port) s (next (s.setPort port.val { p with alone := true })))
        ∧ ((p.state = 2 ∨ p.state = 3) → Becomes (.fileskPartnerHalt port true) s (s.setPort port.val { p with before := p.state, state := 4, partnerHalted := true }) ∧ Idle (.fileskPartnerHalt port false) s)
        ∧ (p.state = 4 → Becomes (.fileskPartnerHalt port false) s (s.setPort port.val { p with state := p.before, partnerHalted := false }) ∧ Idle (.fileskPartnerHalt port true) s)))
    ∧ (∀ (m : Fin 16) (pc : W64),
      ((∀ e ∈ s.groups, e.2.mill ≠ some m.val) → Idle (.millinerRestart m pc) s)
      ∧ (∀ g x, s.groups.find? (fun e => e.2.mill == some m.val) = some (g, x) → s.grp g = x →
        ((x.started = true ∧ x.halted = false) → Idle (.millinerRestart m pc) s)
        ∧ ((x.started = false ∨ x.halted = true) → let given := Config.millinerName m.val x.ld
          let n : W64 := if x.name ≠ 0#64 then x.name else if given.toNat / 2 ^ 56 = x.ld then given else 0#64
          let u := s.setGrp g { x with name := n, dom := n.extractLsb' 48 16 }
          let v : State := if n = 0#64 then s else if (s.nameEnt n).st = 0 ∨ (s.nameEnt n).st = 6 then u.takeName n 1 false 0 (BitVec.ofNat 64 (0xF0 + m.val)) else u
          Becomes (.millinerRestart m pc) s (v.setGrp g
            { v.grp g with started := true, halted := false, pcs := [pc &&& ~~~3#64], exited := 0#64, handler := none, shadow := none, loops := [], wait := .none, stalled := false, events := [], fetched := [] }))))
    ∧ (∀ n : W16, (n ≠ 0xFFFF#16 → ∀ l ∈ [Level.hypervisor, Level.maker], Becomes (.peerNumberAssign l n) s { s with peerno := n }) ∧ (n = 0xFFFF#16 → ∀ l, Idle (.peerNumberAssign l n) s) ∧ (∀ l ∈ [Level.user, Level.guest], Idle (.peerNumberAssign l n) s))
    ∧ (∀ (ld : Fin 16) (a b : Bool), Becomes (.makerSessionOpen ld a b) s (if a && b then s.setLd ld.val { s.ldev ld.val with maker := true } else s))
    ∧ (s.stage < 16 → s.plan.1 < 2 ^ 16 → let v := s.startst
      (v.extractLsb' 0 8).toNat = s.stage ∧ v.getLsbD 8 = s.images.millB ∧ v.getLsbD 9 = s.images.preutB ∧ (v.extractLsb' 16 16).toNat = s.plan.1
        ∧ ∀ d, d < 8 → v.getLsbD (32 + d) = ((s.die d).up && !(s.die d).updating) ∧ v.getLsbD (40 + d) = (s.die d).failed)

/-- R404 and R410 to R412: a limit that is exceeded steps the core clock down to the next value the avoidance list allows, and up again once no limit holds; a shutdown leaves nothing but what is
non-volatile; a retired core is replaced by a spare or kept out of placement; the events of sparing, calibration, retraining and correction are counted in the lifetime counters. Beside the rules it rests on the model's own readings: log entries 89, 90, 91 and 99. -/
def Obligations.PowerAndService : Prop :=
  ∀ (s : State), let bumped (u : State) (off n : Nat) : State :=
      { u with life := ins u.life off (min ((look u.life off).getD 0 + n) (2 ^ (8 * (if off < 64 then 8 else if off < 128 then 1 else if off < 256 then 4 else 8)) - 1)) }
    let down (f g : Nat) : Prop := ((1000 ≤ g ∧ g < f ∧ g ≤ 1700 ∧ Clear s.avoidNow (g * 1000)) ∨ (g = f ∧ ∀ h, 1000 ≤ h → h < f → h ≤ 1700 → ¬ Clear s.avoidNow (h * 1000))) ∧ ∀ h, g < h → h < f → h ≤ 1700 → ¬ Clear s.avoidNow (h * 1000)
    let up (f g : Nat) : Prop := f ≤ g ∧ (g = f ∨ g ≤ s.plan.1) ∧ (f < s.plan.1 → f < g) ∧ ∀ h, 1000 ≤ h → f < h → h < g → h ≤ 1700 → ¬ Clear s.avoidNow (h * 1000)
    let clocks (u : State) (r : Nat → Nat → Nat → Prop) : Prop := ∀ d, d < 8 → r d (s.die d).coreClk (u.die d).coreClk
    (∃ u, Becomes (.powerLimit true) s u ∧ u.overPower = true ∧ clocks u (fun _ => down))
    ∧ (∃ u, Becomes (.powerLimit false) s u ∧ u.overPower = false ∧ clocks u (fun d f g => if s.coolant = true ∨ (s.die d).hot = true then g = f else up f g))
    ∧ (∃ u, Becomes (.coolantExcursion true) s u ∧ u.coolant = true ∧ clocks u (fun _ => down))
    ∧ (∃ u, Becomes (.coolantExcursion false) s u ∧ u.coolant = false ∧ clocks u (fun d f g => if s.overPower = true ∨ (s.die d).hot = true then g = f else up f g))
    ∧ (∀ die : Fin 8, (∃ u, Becomes (.thermalThrottle die true) s u ∧ (u.die die.val).hot = true ∧ clocks u (fun d f g => if d = die.val then down f g else g = f))
      ∧ (∃ u, Becomes (.thermalThrottle die false) s u ∧ (u.die die.val).hot = false ∧ clocks u (fun d f g => if d = die.val ∧ s.overPower = false ∧ s.coolant = false then up f g else g = f))
      ∧ (∃ u, Becomes (.thermalShutdown die) s u ∧ u.shut = true ∧ u.stage = 0 ∧ u.groups = [] ∧ u.dmem = [] ∧ u.life = s.life ∧ u.avoid = s.avoid ∧ u.out = s.out ++ [.shutdown])
      ∧ (∀ ch, Becomes (.hbmChannelSpare die ch) s (bumped (s.setDie die.val { s.die die.val with spareHbm := ins (s.die die.val).spareHbm ch ((look (s.die die.val).spareHbm ch).getD 0 + 1) }) (64 + 8 * die.val + 1) 1)
        ∧ Becomes (.hbmCalibration die ch) s (bumped s (128 + 4 * die.val) 1))
      ∧ (∀ e ∈ ([(.l2, 256 + 32 * die.val), (.scratchpad, 264 + 32 * die.val), (.accumulator, 272 + 32 * die.val), (.registers, 280 + 32 * die.val), (.stack 0, 192 + 8 * die.val), (.stack 1, 196 + 8 * die.val)] : List (ErrUnit × Nat)),
          Becomes (.correctedError die e.1) s (bumped s e.2 1))
      ∧ ((∀ e ∈ s.groups, e.2.mill = none → resident e.2 = true → e.2.core / 24 ≠ die.val) → let d := s.die die.val
        let b := s.images.microB
        let u : State := { s with
          images := if (Config.freeWord s.fresh).getLsbD 0 = true then { s.images with microB := if die.val ∈ b then b.filter (· != die.val) else b ++ [die.val] } else s.images
          fresh := s.fresh + 1 }
        (d.up = true → Becomes (.microcodeUpdate die false) s (s.setDie die.val { d with updating := true })) ∧ (d.up = false → Idle (.microcodeUpdate die false) s)
        ∧ (d.updating = true → Becomes (.microcodeUpdate die true) s (u.setDie die.val { d with updating := false })) ∧ (d.updating = false → Idle (.microcodeUpdate die true) s))
      ∧ ((∃ e ∈ s.groups, e.2.mill = none ∧ resident e.2 = true ∧ e.2.core / 24 = die.val) → Idle (.microcodeUpdate die true) s))
    ∧ (∀ core : Fin 192, (∀ e ∈ s.groups, e.2.mill = none → resident e.2 = true → e.2.core ≠ core.val) → let n := core.val / 24
      let d := s.die n
      (0 < d.spareCores → Becomes (.coreRetire core) s (bumped (s.setDie n { d with spareCores := d.spareCores - 1 }) (64 + 8 * n) 1))
      ∧ (d.spareCores = 0 → core.val ∉ d.retired → Becomes (.coreRetire core) s (s.setDie n { d with retired := d.retired ++ [core.val] })))
    ∧ (∀ port : Fin 96, let p := s.port port.val
      ((p.state = 2 ∨ p.state = 3) → p.laneLost = false → Becomes (.fileskLaneLoss port) s (bumped (s.setPort port.val { p with laneLost := true, state := 3 }) (64 + 8 * (port.val / 12) + 2) 1))
      ∧ (p.state = 4 → p.laneLost = false → Becomes (.fileskLaneLoss port) s (bumped (s.setPort port.val { p with laneLost := true, before := 3 }) (64 + 8 * (port.val / 12) + 2) 1))
      ∧ (p.laneLost = true → Idle (.fileskLaneLoss port) s)
      ∧ (p.state = 4 → Becomes (.fileskRetraining port false) s (s.setPort port.val { p with before := 3 })
        ∧ Becomes (.fileskRetraining port true) s (bumped (s.setPort port.val { p with before := if p.laneLost then 3 else 2 }) (160 + 4 * (port.val / 12)) 1))
      ∧ ((p.state = 2 ∨ p.state = 3) → Becomes (.fileskRetraining port false) s (s.setPort port.val { p with state := 3 })
        ∧ Becomes (.fileskRetraining port true) s (bumped (s.setPort port.val { p with state := if p.laneLost then 3 else 2 }) (160 + 4 * (port.val / 12)) 1))
      ∧ (∀ b, (p.state = 0 ∨ p.state = 1 ∨ p.state = 5) → Idle (.fileskRetraining port b) s))
    ∧ (∀ img : ImageCheck, let good := if s.images.millB then img.millinerA else img.millinerB
      Becomes (.millinerFirmwareUpdate img) s (if good = true ∧ (s.stage = 1 ∨ s.stage = 2) then { s with images := { s.images with millB := !s.images.millB } } else s))
    ∧ Becomes (.lifetimeHistogramUpdate []) s (bumped s 8 60)
    ∧ (∀ off n, 512 ≤ off → off < 2240 → off % 8 = 0 → Becomes (.lifetimeHistogramUpdate [(off, n)]) s (bumped (bumped s 8 60) off n))

/-! ## The whole machine -/

/-- R40 and R41: a word that stands for no instruction raises ILLEGAL_INSTRUCTION at its unit, or ILLEGAL_OPERAND where only an operand field that its entry limits is wrong. No word of a reserved OP
decodes, the all-zero word among them. Beside the rules it rests on the model's own readings: log entry 94. -/
def Obligations.ReservedWords : Prop :=
  (∀ (w : W32) (s : State) (run : Run) (cx : Cx), UnitOk s run cx { imm := 2, mode := true, ord := true, cache := true, type := true } true →
    (operandFault w = false → Traps (.reservedWord w) s run cx 1 0#64)
    ∧ (operandFault w = true → cx.h = {} → (s.grp cx.g).mill = none → Traps (.reservedWord w) s run cx 2 0#64))
  ∧ (∀ w : W32, w.extractLsb' 24 7 ∈ ([0x00, 0x0D, 0x0E, 0x0F, 0x1F, 0x4B, 0x4C, 0x4D, 0x4E, 0x4F, 0x7F] : List (BitVec 7)) → decode w = none ∧ operandFault w = false)
  ∧ (∀ w : W32, w.extractLsb' 24 7 = 0x01#7 → (w.extractLsb' 20 4).toNat ∉ [0, 1, 2, 3, 4, 5] → decode w = none)

/-- R22 and R31 to R276: words written out field by field from the encodings decode to their instructions. -/
def Obligations.DecodeWords : Prop :=
  decode (0b0#1 ++ 0x01#7 ++ 0#4 ++ 0xABCDE#20) = some (.himm { h := 0xABCDE#20 })
  ∧ decode (0b1#1 ++ 0x10#7 ++ 5#6 ++ 0b1#1 ++ 6#6 ++ 0b0#1 ++ 7#6 ++ 1#4) = some (.salu0Sub { z := true, d := 5#6, l := true, a := 6#6, m := false, b := 7#6 })
  ∧ decode (0b0#1 ++ 0x20#7 ++ 3#7 ++ 0b0#1 ++ 90#7 ++ 0b1#1 ++ 97#7 ++ 0b0#1) = some (.iadd { z := false, d := 3#7, l := false, a := 90#7, m := true, b := 97#7 })
  ∧ decode (0b0#1 ++ 0x02#7 ++ 0b1#1 ++ 3#3 ++ 0b1#1 ++ 0x7FFFF#19) = some (.bra { z := false, u := true, p := 3#3, s := true, o := 0x7FFFF#19 })
  ∧ decode (0b0#1 ++ 0x13#7 ++ 1#6 ++ 0b0#1 ++ 2#6 ++ 0x7FF#11) = some (.addi { z := false, d := 1#6, l := false, a := 2#6, i := 0x7FF#11 })
  ∧ decode (0b0#1 ++ 0x78#7 ++ 9#6 ++ 8#6 ++ 0b1#1 ++ 0#7 ++ 3#4) = some (.nwake { z := false, t := 9#6, p := 8#6, l := true, h := 3#4 })
  ∧ decode (0b0#1 ++ 0x77#7 ++ 4#7 ++ 0#7 ++ 0#1 ++ 0#6 ++ 2#2 ++ 0#1) = some (.wopRoot { z := false, d := 4#7, w := 2#2 })
  ∧ decode 0#32 = none

/-- R22 and R40: decoding and encoding agree. The word of a well-formed instruction decodes to it, with every operand at every value; a word that decodes is the word of its instruction, which is
well-formed; no word decodes to a reserved word. -/
def Obligations.DecodeEncode : Prop :=
  (∀ (i : Instr) (w : W32), i.wf = true → encodeWord i = some w → (∀ v, i ≠ .reservedWord v) → decode w = some i)
  ∧ (∀ (w : W32) (i : Instr), decode w = some i → i.wf = true ∧ encodeWord i = some w)
  ∧ (∀ w v : W32, decode w ≠ some (.reservedWord v))

/-- R77, R99, R101 and R107: with no input on the agenda, a step fetches the word at the PC of the run in focus and is the execution of the instruction it decodes to, of a reserved word where it
decodes to none; a word whose fetch stops leaves that stop; an input on the agenda is executed first. The fetch changes nothing but the translations and words kept from it; a step keeps, beside, what the memories
held before it while a task lives, which the reads of LDV look at (R188). Beside the rules it rests on the model's own readings: log entries 4, 12, 13, 14 and 25. -/
def Obligations.StepRunsDecoded : Prop :=
  ∀ (s : State),
    (∀ (r : Run) (cx : Cx), s.agenda = [] → s.fetching = some (r, cx) → let x := s.grp cx.g
      (∀ w u, (fetchWord cx.g cx.pc).run s = .ok (w, u) →
        step s = keepPast s (exec (match decode w with | some i => i | none => .reservedWord w) u)
        ∧ { u with tlb := s.tlb, walks := s.walks, keepLeaves := s.keepLeaves, fresh := s.fresh, icache := s.icache, groups := s.groups } = s ∧ (∀ g, (u.grp g).arch = (s.grp g).arch) ∧ (∀ g, (u.grp g).pcs = (s.grp g).pcs)
        ∧ (∀ a us v, (trans x.dom cx.pc { x := true, user := x.mill.isNone }).run s = .ok (.ok (.dev a) us, v) → s.icache = [] → look x.fetched cx.pc.toNat = none → w = BitVec.ofNat 32 (leNat (rdN s.dmem a 4))))
      ∧ (∀ e, (fetchWord cx.g cx.pc).run s = .error e → step s = keepPast s (.next (if r.probe then s.unblock r else s.stopped cx r e))))
    ∧ (∀ i rest, s.agenda = i :: rest → (i.isEvent = true → step s = keepPast s (exec i { s with agenda := rest })) ∧ (i.isEvent = false → step s = .fault .wordInAgenda))
    ∧ (∀ t, ∃ u, keepPast s (.next t) = .next u ∧ { u with past := t.past } = t ∧ ((∀ k ∈ t.tasks, k.2.ended = true) → u.past = []))
    ∧ (∀ f, keepPast s (.fault f) = .fault f) ∧ ∀ f, keepPast s (.refused f) = .refused f

/-- R328, R354, R366, R370, R373, R376, R379 and R405: the state right after reset: nothing runs and no die has joined; every firewall register is 0, so every stack is device 0's; every device is
UNLOCKED with page requests on; no peer number; no memory byte is listed. Beside the rules it rests on the model's own readings: log entries 1, 2 and 112. -/
def Obligations.ResetState : Prop :=
  let s := State.reset
  s.memOk ∧ s.stage = 0 ∧ s.groups = [] ∧ s.tasks = [] ∧ s.queues = [] ∧ s.keeps = [] ∧ s.pend = [] ∧ s.peerno = 0xFFFF#16 ∧ s.mhalt = false ∧ s.fetching = none
  ∧ (∀ d, (s.die d).fwctl = 0#64 ∧ (s.die d).up = false ∧ (s.die d).clk = 0#64 ∧ s.stackLd d 0 = 0 ∧ s.stackLd d 1 = 0)
  ∧ (∀ l, (s.ldev l).tdisp = .unlocked ∧ (s.ldev l).pageReqs = true ∧ (s.ldev l).fault = none ∧ (s.ldev l).trace = none ∧ (s.ldev l).maker = false ∧ (s.ldev l).bar0 = [])
  ∧ (∀ k, (s.port k).state = 0 ∧ (s.port k).peer = 0xFFFF#16) ∧ (∀ a, rd s.dmem a = 0#8 ∧ rd s.hmem a = 0#8) ∧ (∀ i, s.hostByte i = 0#8)

/-- The model's own invariant: whatever a step does, device memory and host memory stay in canonical form, addresses strictly rising and no byte listed that reads as an unlisted one does (the model's
choice of what such a byte reads as: log entry 1). -/
def Obligations.MemoryKept : Prop :=
  ∀ s t : State, s.memOk → step s = .next t → t.memOk
end

