-- ==== Sys2Proof/Laws/Map.lean ====
section
/-! SUPPORT. Laws of the sparse maps and of the byte stores: read after write, and the canonical form. -/

namespace Sys2Proof.Machine

variable {β : Type}

/-! ## Entries -/

@[simp] theorem look_nil (n : Nat) : look ([] : FMap β) n = none := rfl

@[simp] theorem look_ins_self (m : FMap β) (n : Nat) (x : β) : look (ins m n x) n = some x := by
  induction m with
  | nil => simp [ins, look]
  | cons e t ih =>
    obtain ⟨k, v⟩ := e
    simp only [ins]
    split
    · simp [look]
    · split
      · simp [look]
      · rename_i h _
        simp only [look]
        rw [if_neg (by omega)]
        exact ih

theorem look_ins_ne (m : FMap β) {n k : Nat} (x : β) (h : n ≠ k) : look (ins m n x) k = look m k := by
  induction m with
  | nil => simp [ins, look, h]
  | cons e t ih =>
    obtain ⟨j, v⟩ := e
    simp only [ins]
    split
    · simp [look, h]
    · split
      · subst_vars; simp [look, h]
      · simp [look, ih]

@[simp] theorem look_erase_self (m : FMap β) (n : Nat) : look (erase m n) n = none := by
  induction m with
  | nil => rfl
  | cons e t ih =>
    obtain ⟨k, v⟩ := e
    simp only [erase]
    split
    · exact ih
    · simp [look, *]

theorem look_erase_ne (m : FMap β) {n k : Nat} (h : n ≠ k) : look (erase m n) k = look m k := by
  induction m with
  | nil => rfl
  | cons e t ih =>
    obtain ⟨j, v⟩ := e
    simp only [erase]
    split
    · subst_vars; simp [look, h, ih]
    · simp [look, ih]

/-- The later of two writes of one entry stands. -/
@[simp] theorem ins_ins (m : FMap β) (n : Nat) (x y : β) : ins (ins m n x) n y = ins m n y := by
  induction m with
  | nil => simp [ins]
  | cons e t ih =>
    obtain ⟨k, v⟩ := e
    by_cases h1 : n < k
    · simp [ins, h1]
    · by_cases h2 : n = k
      · subst h2; simp [ins]
      · simp [ins, h1, h2, ih]

theorem look_filter (m : FMap β) (p : Nat → Bool) (n : Nat) :
    look (m.filter (fun e => p e.1)) n = if p n then look m n else none := by
  induction m with
  | nil => simp
  | cons e t ih =>
    obtain ⟨k, v⟩ := e
    by_cases hk : p k <;> by_cases h : k = n <;> simp_all [List.filter, look]

/-! ## Rising keys -/

theorem risingFrom_mono {m : FMap β} {a b : Nat} (h : risingFrom m b = true) (hab : a ≤ b) : risingFrom m a = true := by
  cases m with
  | nil => rfl
  | cons e t =>
    simp only [risingFrom, Bool.and_eq_true, decide_eq_true_eq] at *
    exact ⟨by omega, h.2⟩

theorem risingFrom_ins {m : FMap β} {lo n : Nat} (x : β) (h : risingFrom m lo = true) (hn : lo ≤ n) :
    risingFrom (ins m n x) lo = true := by
  induction m generalizing lo with
  | nil => simp [ins, risingFrom, hn]
  | cons e t ih =>
    obtain ⟨k, v⟩ := e
    simp only [risingFrom, Bool.and_eq_true, decide_eq_true_eq] at h
    simp only [ins]
    split
    · simp only [risingFrom, Bool.and_eq_true, decide_eq_true_eq]
      exact ⟨hn, by omega, h.2⟩
    · split
      · subst_vars; simp [risingFrom, h]
      · simp only [risingFrom, Bool.and_eq_true, decide_eq_true_eq]
        exact ⟨h.1, ih h.2 (by omega)⟩

theorem risingFrom_erase {m : FMap β} {lo : Nat} (n : Nat) (h : risingFrom m lo = true) : risingFrom (erase m n) lo = true := by
  induction m generalizing lo with
  | nil => rfl
  | cons e t ih =>
    obtain ⟨k, v⟩ := e
    simp only [risingFrom, Bool.and_eq_true, decide_eq_true_eq] at h
    simp only [erase]
    split
    · exact risingFrom_mono (ih h.2) (by omega)
    · simp [risingFrom, h.1, ih h.2]

theorem risingFrom_filter {m : FMap β} {lo : Nat} (p : Nat × β → Bool) (h : risingFrom m lo = true) :
    risingFrom (m.filter p) lo = true := by
  induction m generalizing lo with
  | nil => rfl
  | cons e t ih =>
    simp only [risingFrom, Bool.and_eq_true, decide_eq_true_eq] at h
    simp only [List.filter]
    split
    · simp [risingFrom, h.1, ih h.2]
    · exact risingFrom_mono (ih h.2) (by omega)

/-! ## Values kept by an update -/

theorem all_ins {m : FMap β} {n : Nat} {x : β} {p : Nat × β → Bool} (h : m.all p = true) (hx : p (n, x) = true) :
    (ins m n x).all p = true := by
  induction m with
  | nil => simp [ins, hx]
  | cons e t ih =>
    obtain ⟨k, v⟩ := e
    simp only [List.all_cons, Bool.and_eq_true] at h
    simp only [ins]
    split
    · simp_all
    · split
      · simp_all
      · simp [h.1, ih h.2]

theorem all_erase {m : FMap β} {n : Nat} {p : Nat × β → Bool} (h : m.all p = true) : (erase m n).all p = true := by
  induction m with
  | nil => rfl
  | cons e t ih =>
    obtain ⟨k, v⟩ := e
    simp only [List.all_cons, Bool.and_eq_true] at h
    simp only [erase]
    split
    · exact ih h.2
    · simp [h.1, ih h.2]

/-! ## Byte stores -/

theorem Mem.wf_iff (m : Mem) : m.wf = true ↔ risingFrom m 0 = true ∧ m.all (fun c => c.2 != 0#8) = true := by
  simp [Mem.wf]

@[simp] theorem Mem.wf_nil : Mem.wf [] = true := rfl

/-- One byte written keeps the canonical form. -/
theorem wr_wf {m : Mem} (h : m.wf = true) (a : Nat) (b : W8) : (wr m a b).wf = true := by
  rw [Mem.wf_iff] at *
  unfold wr
  split
  · exact ⟨risingFrom_erase a h.1, all_erase h.2⟩
  · exact ⟨risingFrom_ins b h.1 (Nat.zero_le a), all_ins h.2 (by simpa using ‹_›)⟩

/-- Bytes written keep the canonical form. -/
theorem wrN_wf {m : Mem} (h : m.wf = true) (a : Nat) (bs : List W8) : (wrN m a bs).wf = true := by
  induction bs generalizing m a with
  | nil => exact h
  | cons b t ih => exact ih (wr_wf h a b) (a + 1)

/-- A range made 0 keeps the canonical form. -/
theorem zeroRange_wf {m : Mem} (h : m.wf = true) (lo n : Nat) : (zeroRange m lo n).wf = true := by
  rw [Mem.wf_iff] at *
  refine ⟨risingFrom_filter _ h.1, ?_⟩
  simp only [List.all_eq_true, zeroRange, List.mem_filter] at *
  exact fun x hx => h.2 x hx.1

/-- Read after write. -/
theorem rd_wr (m : Mem) (a c : Nat) (b : W8) : rd (wr m a b) c = if c = a then b else rd m c := by
  unfold rd wr
  by_cases hb : b = 0#8 <;> by_cases h : c = a
  · subst h; simp [hb]
  · simp [hb, look_erase_ne m (Ne.symm h), h]
  · subst h; simp [hb]
  · simp [hb, look_ins_ne m b (Ne.symm h), h]

/-- A write of several bytes leaves every byte outside alone. -/
theorem rd_wrN_outside (bs : List W8) (m : Mem) (a c : Nat) (h : c < a ∨ a + bs.length ≤ c) : rd (wrN m a bs) c = rd m c := by
  induction bs generalizing m a with
  | nil => rfl
  | cons b t ih =>
    simp only [List.length_cons] at h
    rw [wrN, ih _ _ (by omega), rd_wr, if_neg (by omega)]

/-- A byte of a write of several. -/
theorem rd_wrN_inside (bs : List W8) (m : Mem) (a i : Nat) (h : i < bs.length) : rd (wrN m a bs) (a + i) = bs.getD i 0#8 := by
  induction bs generalizing m a i with
  | nil => simp at h
  | cons b t ih =>
    cases i with
    | zero => simp only [Nat.add_zero, wrN]; rw [rd_wrN_outside _ _ _ _ (by omega), rd_wr]; simp
    | succ i =>
      have h' : i < t.length := by simpa using h
      have := ih (wr m a b) (a + 1) i h'
      rw [wrN, show a + (i + 1) = a + 1 + i by omega, this]
      simp

/-- The bytes written are the bytes read. -/
theorem rdN_wrN (bs : List W8) (m : Mem) (a : Nat) : rdN (wrN m a bs) a bs.length = bs := by
  induction bs generalizing m a with
  | nil => rfl
  | cons b t ih =>
    simp only [List.length_cons, rdN, wrN]
    rw [ih, rd_wrN_outside _ _ _ _ (by omega), rd_wr]
    simp

theorem rd_zeroRange (m : Mem) (lo n c : Nat) : rd (zeroRange m lo n) c = if lo ≤ c ∧ c < lo + n then 0#8 else rd m c := by
  unfold rd zeroRange
  rw [look_filter m (fun k => !(decide (lo ≤ k) && decide (k < lo + n))) c]
  by_cases h : lo ≤ c ∧ c < lo + n
  · simp [h.1, h.2]
  · have : (!(decide (lo ≤ c) && decide (c < lo + n))) = true := by
      simp only [Bool.not_eq_true', Bool.and_eq_false_iff, decide_eq_false_iff_not]; omega
    simp [this, h]

/-- An address below the first key is not listed. -/
theorem look_below {m : FMap β} {lo a : Nat} (h : risingFrom m lo = true) (ha : a < lo) : look m a = none := by
  induction m generalizing lo with
  | nil => rfl
  | cons e t ih =>
    simp only [risingFrom, Bool.and_eq_true, decide_eq_true_eq] at h
    simp only [look]
    rw [if_neg (by omega)]
    exact ih h.2 (by omega)

theorem rd_below {m : Mem} {lo a : Nat} (h : risingFrom m lo = true) (ha : a < lo) : rd m a = 0#8 := by
  simp [rd, look_below h ha]

theorem rd_cons (k : Nat) (v : W8) (t : Mem) (a : Nat) : rd ((k, v) :: t) a = if k = a then v else rd t a := by
  by_cases h : k = a <;> simp [rd, look, h]

theorem eq_of_rd_from {m n : Mem} {lo : Nat} (hm : risingFrom m lo = true) (hn : risingFrom n lo = true)
    (vm : m.all (fun c => c.2 != 0#8) = true) (vn : n.all (fun c => c.2 != 0#8) = true)
    (h : ∀ a, rd m a = rd n a) : m = n := by
  induction m generalizing n lo with
  | nil =>
    cases n with
    | nil => rfl
    | cons e t =>
      obtain ⟨j, w⟩ := e
      have hj := h j
      simp only [List.all_cons, Bool.and_eq_true, bne_iff_ne] at vn
      rw [rd_cons, if_pos rfl] at hj
      exact absurd hj.symm vn.1
  | cons e t ih =>
    obtain ⟨k, v⟩ := e
    cases n with
    | nil =>
      have hk := h k
      simp only [List.all_cons, Bool.and_eq_true, bne_iff_ne] at vm
      rw [rd_cons, if_pos rfl] at hk
      exact absurd hk vm.1
    | cons f u =>
      obtain ⟨j, w⟩ := f
      simp only [risingFrom, Bool.and_eq_true, decide_eq_true_eq] at hm hn
      simp only [List.all_cons, Bool.and_eq_true, bne_iff_ne] at vm vn
      have hk := h k
      have hj := h j
      simp only [rd_cons, if_true] at hk hj
      rcases Nat.lt_trichotomy k j with hlt | rfl | hgt
      · rw [if_neg (by omega), rd_below hn.2 (by omega)] at hk
        exact absurd hk vm.1
      · simp only [if_true] at hk
        subst hk
        rw [ih hm.2 hn.2 vm.2 vn.2]
        intro a
        have ha := h a
        simp only [rd_cons] at ha
        by_cases hka : k = a
        · rw [rd_below hm.2 (by omega), rd_below hn.2 (by omega)]
        · simpa [hka] using ha
      · rw [if_neg (by omega), rd_below hm.2 (by omega)] at hj
        exact absurd hj.symm vn.1

/-- Canonical stores that read alike are the same data. -/
theorem Mem.eq_of_rd {m n : Mem} (hm : m.wf = true) (hn : n.wf = true) (h : ∀ a, rd m a = rd n a) : m = n := by
  rw [Mem.wf_iff] at hm hn
  exact eq_of_rd_from hm.1 hn.1 hm.2 hn.2 h

/-! ## Byte order and lanes -/

@[simp] theorem length_toLe (n x : Nat) : (toLe n x).length = n := by
  induction n generalizing x with
  | zero => rfl
  | succ n ih => simp [toLe, ih]

/-- Little-endian bytes spell the number they were taken from (R2). -/
theorem leNat_toLe (n x : Nat) : leNat (toLe n x) = x % 256 ^ n := by
  induction n generalizing x with
  | zero => simp [toLe, leNat, Nat.mod_one]
  | succ n ih =>
    simp only [toLe, leNat, ih, BitVec.toNat_ofNat, show (2 : Nat) ^ 8 = 256 from rfl]
    have := Nat.mod_mul (a := 256) (b := 256 ^ n) (x := x)
    rw [Nat.pow_succ, Nat.mul_comm _ 256, this]

@[simp] theorem length_gen {α : Type} (n : Nat) (f : Nat → α) : (gen n f).length = n := by simp [gen]

/-- A lane of a generated list. -/
theorem lane_gen {α : Type} (d : α) {n t : Nat} (f : Nat → α) (h : t < n) : lane d (gen n f) t = f t := by
  simp [lane, gen, h]

/-- A lane of a blend: the new value in the mask, the old one outside. -/
theorem lane_blend {α : Type} (d : α) {w t : Nat} (m : W64) (new old : List α) (h : t < w) :
    lane d (blend d w m new old) t = if hasLane m t then lane d new t else lane d old t := by
  simp [blend, lane_gen d _ h]

end Sys2Proof.Machine
end

