-- ==== Sys2Proof/Laws/State.lean ====
section
/-! SUPPORT. The state's fields under its updates, one lemma a field and update, true by rfl. -/

namespace Sys2Proof.Machine

variable (s : State)

/-! ## setGrp -/

@[simp] theorem State.setGrp_agenda (g : Nat) (x : Group) : (s.setGrp g x).agenda = s.agenda := rfl
@[simp] theorem State.setGrp_focus (g : Nat) (x : Group) : (s.setGrp g x).focus = s.focus := rfl
@[simp] theorem State.setGrp_runs (g : Nat) (x : Group) : (s.setGrp g x).runs = s.runs := rfl
@[simp] theorem State.setGrp_groups (g : Nat) (x : Group) : (s.setGrp g x).groups = ins s.groups g x := rfl
@[simp] theorem State.setGrp_teams (g : Nat) (x : Group) : (s.setGrp g x).teams = s.teams := rfl
@[simp] theorem State.setGrp_felts (g : Nat) (x : Group) : (s.setGrp g x).felts = s.felts := rfl
@[simp] theorem State.setGrp_tasks (g : Nat) (x : Group) : (s.setGrp g x).tasks = s.tasks := rfl
@[simp] theorem State.setGrp_queues (g : Nat) (x : Group) : (s.setGrp g x).queues = s.queues := rfl
@[simp] theorem State.setGrp_copies (g : Nat) (x : Group) : (s.setGrp g x).copies = s.copies := rfl
@[simp] theorem State.setGrp_joins (g : Nat) (x : Group) : (s.setGrp g x).joins = s.joins := rfl
@[simp] theorem State.setGrp_dmem (g : Nat) (x : Group) : (s.setGrp g x).dmem = s.dmem := rfl
@[simp] theorem State.setGrp_hmem (g : Nat) (x : Group) : (s.setGrp g x).hmem = s.hmem := rfl
@[simp] theorem State.setGrp_keeps (g : Nat) (x : Group) : (s.setGrp g x).keeps = s.keeps := rfl
@[simp] theorem State.setGrp_nameMirror (g : Nat) (x : Group) : (s.setGrp g x).nameMirror = s.nameMirror := rfl
@[simp] theorem State.setGrp_hostFresh (g : Nat) (x : Group) : (s.setGrp g x).hostFresh = s.hostFresh := rfl
@[simp] theorem State.setGrp_parked (g : Nat) (x : Group) : (s.setGrp g x).parked = s.parked := rfl
@[simp] theorem State.setGrp_tlb (g : Nat) (x : Group) : (s.setGrp g x).tlb = s.tlb := rfl
@[simp] theorem State.setGrp_keepLeaves (g : Nat) (x : Group) : (s.setGrp g x).keepLeaves = s.keepLeaves := rfl
@[simp] theorem State.setGrp_atc (g : Nat) (x : Group) : (s.setGrp g x).atc = s.atc := rfl
@[simp] theorem State.setGrp_icache (g : Nat) (x : Group) : (s.setGrp g x).icache = s.icache := rfl
@[simp] theorem State.setGrp_lds (g : Nat) (x : Group) : (s.setGrp g x).lds = s.lds := rfl
@[simp] theorem State.setGrp_dies (g : Nat) (x : Group) : (s.setGrp g x).dies = s.dies := rfl
@[simp] theorem State.setGrp_ports (g : Nat) (x : Group) : (s.setGrp g x).ports = s.ports := rfl
@[simp] theorem State.setGrp_ingest (g : Nat) (x : Group) : (s.setGrp g x).ingest = s.ingest := rfl
@[simp] theorem State.setGrp_samples (g : Nat) (x : Group) : (s.setGrp g x).samples = s.samples := rfl
@[simp] theorem State.setGrp_sampleRecs (g : Nat) (x : Group) : (s.setGrp g x).sampleRecs = s.sampleRecs := rfl
@[simp] theorem State.setGrp_stage (g : Nat) (x : Group) : (s.setGrp g x).stage = s.stage := rfl
@[simp] theorem State.setGrp_images (g : Nat) (x : Group) : (s.setGrp g x).images = s.images := rfl
@[simp] theorem State.setGrp_plan (g : Nat) (x : Group) : (s.setGrp g x).plan = s.plan := rfl
@[simp] theorem State.setGrp_avoidNow (g : Nat) (x : Group) : (s.setGrp g x).avoidNow = s.avoidNow := rfl
@[simp] theorem State.setGrp_keepGens (g : Nat) (x : Group) : (s.setGrp g x).keepGens = s.keepGens := rfl
@[simp] theorem State.setGrp_reclaims (g : Nat) (x : Group) : (s.setGrp g x).reclaims = s.reclaims := rfl
@[simp] theorem State.setGrp_past (g : Nat) (x : Group) : (s.setGrp g x).past = s.past := rfl
@[simp] theorem State.setGrp_walks (g : Nat) (x : Group) : (s.setGrp g x).walks = s.walks := rfl
@[simp] theorem State.setGrp_avoid (g : Nat) (x : Group) : (s.setGrp g x).avoid = s.avoid := rfl
@[simp] theorem State.setGrp_peerno (g : Nat) (x : Group) : (s.setGrp g x).peerno = s.peerno := rfl
@[simp] theorem State.setGrp_overPower (g : Nat) (x : Group) : (s.setGrp g x).overPower = s.overPower := rfl
@[simp] theorem State.setGrp_coolant (g : Nat) (x : Group) : (s.setGrp g x).coolant = s.coolant := rfl
@[simp] theorem State.setGrp_shut (g : Nat) (x : Group) : (s.setGrp g x).shut = s.shut := rfl
@[simp] theorem State.setGrp_mhalt (g : Nat) (x : Group) : (s.setGrp g x).mhalt = s.mhalt := rfl
@[simp] theorem State.setGrp_life (g : Nat) (x : Group) : (s.setGrp g x).life = s.life := rfl
@[simp] theorem State.setGrp_drainers (g : Nat) (x : Group) : (s.setGrp g x).drainers = s.drainers := rfl
@[simp] theorem State.setGrp_pend (g : Nat) (x : Group) : (s.setGrp g x).pend = s.pend := rfl
@[simp] theorem State.setGrp_fresh (g : Nat) (x : Group) : (s.setGrp g x).fresh = s.fresh := rfl
@[simp] theorem State.setGrp_nextId (g : Nat) (x : Group) : (s.setGrp g x).nextId = s.nextId := rfl
@[simp] theorem State.setGrp_out (g : Nat) (x : Group) : (s.setGrp g x).out = s.out := rfl

/-! ## setTeam -/

@[simp] theorem State.setTeam_agenda (t : Nat) (x : Team) : (s.setTeam t x).agenda = s.agenda := rfl
@[simp] theorem State.setTeam_focus (t : Nat) (x : Team) : (s.setTeam t x).focus = s.focus := rfl
@[simp] theorem State.setTeam_runs (t : Nat) (x : Team) : (s.setTeam t x).runs = s.runs := rfl
@[simp] theorem State.setTeam_groups (t : Nat) (x : Team) : (s.setTeam t x).groups = s.groups := rfl
@[simp] theorem State.setTeam_teams (t : Nat) (x : Team) : (s.setTeam t x).teams = ins s.teams t x := rfl
@[simp] theorem State.setTeam_felts (t : Nat) (x : Team) : (s.setTeam t x).felts = s.felts := rfl
@[simp] theorem State.setTeam_tasks (t : Nat) (x : Team) : (s.setTeam t x).tasks = s.tasks := rfl
@[simp] theorem State.setTeam_queues (t : Nat) (x : Team) : (s.setTeam t x).queues = s.queues := rfl
@[simp] theorem State.setTeam_copies (t : Nat) (x : Team) : (s.setTeam t x).copies = s.copies := rfl
@[simp] theorem State.setTeam_joins (t : Nat) (x : Team) : (s.setTeam t x).joins = s.joins := rfl
@[simp] theorem State.setTeam_dmem (t : Nat) (x : Team) : (s.setTeam t x).dmem = s.dmem := rfl
@[simp] theorem State.setTeam_hmem (t : Nat) (x : Team) : (s.setTeam t x).hmem = s.hmem := rfl
@[simp] theorem State.setTeam_keeps (t : Nat) (x : Team) : (s.setTeam t x).keeps = s.keeps := rfl
@[simp] theorem State.setTeam_nameMirror (t : Nat) (x : Team) : (s.setTeam t x).nameMirror = s.nameMirror := rfl
@[simp] theorem State.setTeam_hostFresh (t : Nat) (x : Team) : (s.setTeam t x).hostFresh = s.hostFresh := rfl
@[simp] theorem State.setTeam_parked (t : Nat) (x : Team) : (s.setTeam t x).parked = s.parked := rfl
@[simp] theorem State.setTeam_tlb (t : Nat) (x : Team) : (s.setTeam t x).tlb = s.tlb := rfl
@[simp] theorem State.setTeam_keepLeaves (t : Nat) (x : Team) : (s.setTeam t x).keepLeaves = s.keepLeaves := rfl
@[simp] theorem State.setTeam_atc (t : Nat) (x : Team) : (s.setTeam t x).atc = s.atc := rfl
@[simp] theorem State.setTeam_icache (t : Nat) (x : Team) : (s.setTeam t x).icache = s.icache := rfl
@[simp] theorem State.setTeam_lds (t : Nat) (x : Team) : (s.setTeam t x).lds = s.lds := rfl
@[simp] theorem State.setTeam_dies (t : Nat) (x : Team) : (s.setTeam t x).dies = s.dies := rfl
@[simp] theorem State.setTeam_ports (t : Nat) (x : Team) : (s.setTeam t x).ports = s.ports := rfl
@[simp] theorem State.setTeam_ingest (t : Nat) (x : Team) : (s.setTeam t x).ingest = s.ingest := rfl
@[simp] theorem State.setTeam_samples (t : Nat) (x : Team) : (s.setTeam t x).samples = s.samples := rfl
@[simp] theorem State.setTeam_sampleRecs (t : Nat) (x : Team) : (s.setTeam t x).sampleRecs = s.sampleRecs := rfl
@[simp] theorem State.setTeam_stage (t : Nat) (x : Team) : (s.setTeam t x).stage = s.stage := rfl
@[simp] theorem State.setTeam_images (t : Nat) (x : Team) : (s.setTeam t x).images = s.images := rfl
@[simp] theorem State.setTeam_plan (t : Nat) (x : Team) : (s.setTeam t x).plan = s.plan := rfl
@[simp] theorem State.setTeam_avoidNow (t : Nat) (x : Team) : (s.setTeam t x).avoidNow = s.avoidNow := rfl
@[simp] theorem State.setTeam_keepGens (t : Nat) (x : Team) : (s.setTeam t x).keepGens = s.keepGens := rfl
@[simp] theorem State.setTeam_reclaims (t : Nat) (x : Team) : (s.setTeam t x).reclaims = s.reclaims := rfl
@[simp] theorem State.setTeam_past (t : Nat) (x : Team) : (s.setTeam t x).past = s.past := rfl
@[simp] theorem State.setTeam_walks (t : Nat) (x : Team) : (s.setTeam t x).walks = s.walks := rfl
@[simp] theorem State.setTeam_avoid (t : Nat) (x : Team) : (s.setTeam t x).avoid = s.avoid := rfl
@[simp] theorem State.setTeam_peerno (t : Nat) (x : Team) : (s.setTeam t x).peerno = s.peerno := rfl
@[simp] theorem State.setTeam_overPower (t : Nat) (x : Team) : (s.setTeam t x).overPower = s.overPower := rfl
@[simp] theorem State.setTeam_coolant (t : Nat) (x : Team) : (s.setTeam t x).coolant = s.coolant := rfl
@[simp] theorem State.setTeam_shut (t : Nat) (x : Team) : (s.setTeam t x).shut = s.shut := rfl
@[simp] theorem State.setTeam_mhalt (t : Nat) (x : Team) : (s.setTeam t x).mhalt = s.mhalt := rfl
@[simp] theorem State.setTeam_life (t : Nat) (x : Team) : (s.setTeam t x).life = s.life := rfl
@[simp] theorem State.setTeam_drainers (t : Nat) (x : Team) : (s.setTeam t x).drainers = s.drainers := rfl
@[simp] theorem State.setTeam_pend (t : Nat) (x : Team) : (s.setTeam t x).pend = s.pend := rfl
@[simp] theorem State.setTeam_fresh (t : Nat) (x : Team) : (s.setTeam t x).fresh = s.fresh := rfl
@[simp] theorem State.setTeam_nextId (t : Nat) (x : Team) : (s.setTeam t x).nextId = s.nextId := rfl
@[simp] theorem State.setTeam_out (t : Nat) (x : Team) : (s.setTeam t x).out = s.out := rfl

/-! ## setFelt -/

@[simp] theorem State.setFelt_agenda (t : Nat) (x : Felt) : (s.setFelt t x).agenda = s.agenda := rfl
@[simp] theorem State.setFelt_focus (t : Nat) (x : Felt) : (s.setFelt t x).focus = s.focus := rfl
@[simp] theorem State.setFelt_runs (t : Nat) (x : Felt) : (s.setFelt t x).runs = s.runs := rfl
@[simp] theorem State.setFelt_groups (t : Nat) (x : Felt) : (s.setFelt t x).groups = s.groups := rfl
@[simp] theorem State.setFelt_teams (t : Nat) (x : Felt) : (s.setFelt t x).teams = s.teams := rfl
@[simp] theorem State.setFelt_felts (t : Nat) (x : Felt) : (s.setFelt t x).felts = ins s.felts t x := rfl
@[simp] theorem State.setFelt_tasks (t : Nat) (x : Felt) : (s.setFelt t x).tasks = s.tasks := rfl
@[simp] theorem State.setFelt_queues (t : Nat) (x : Felt) : (s.setFelt t x).queues = s.queues := rfl
@[simp] theorem State.setFelt_copies (t : Nat) (x : Felt) : (s.setFelt t x).copies = s.copies := rfl
@[simp] theorem State.setFelt_joins (t : Nat) (x : Felt) : (s.setFelt t x).joins = s.joins := rfl
@[simp] theorem State.setFelt_dmem (t : Nat) (x : Felt) : (s.setFelt t x).dmem = s.dmem := rfl
@[simp] theorem State.setFelt_hmem (t : Nat) (x : Felt) : (s.setFelt t x).hmem = s.hmem := rfl
@[simp] theorem State.setFelt_keeps (t : Nat) (x : Felt) : (s.setFelt t x).keeps = s.keeps := rfl
@[simp] theorem State.setFelt_nameMirror (t : Nat) (x : Felt) : (s.setFelt t x).nameMirror = s.nameMirror := rfl
@[simp] theorem State.setFelt_hostFresh (t : Nat) (x : Felt) : (s.setFelt t x).hostFresh = s.hostFresh := rfl
@[simp] theorem State.setFelt_parked (t : Nat) (x : Felt) : (s.setFelt t x).parked = s.parked := rfl
@[simp] theorem State.setFelt_tlb (t : Nat) (x : Felt) : (s.setFelt t x).tlb = s.tlb := rfl
@[simp] theorem State.setFelt_keepLeaves (t : Nat) (x : Felt) : (s.setFelt t x).keepLeaves = s.keepLeaves := rfl
@[simp] theorem State.setFelt_atc (t : Nat) (x : Felt) : (s.setFelt t x).atc = s.atc := rfl
@[simp] theorem State.setFelt_icache (t : Nat) (x : Felt) : (s.setFelt t x).icache = s.icache := rfl
@[simp] theorem State.setFelt_lds (t : Nat) (x : Felt) : (s.setFelt t x).lds = s.lds := rfl
@[simp] theorem State.setFelt_dies (t : Nat) (x : Felt) : (s.setFelt t x).dies = s.dies := rfl
@[simp] theorem State.setFelt_ports (t : Nat) (x : Felt) : (s.setFelt t x).ports = s.ports := rfl
@[simp] theorem State.setFelt_ingest (t : Nat) (x : Felt) : (s.setFelt t x).ingest = s.ingest := rfl
@[simp] theorem State.setFelt_samples (t : Nat) (x : Felt) : (s.setFelt t x).samples = s.samples := rfl
@[simp] theorem State.setFelt_sampleRecs (t : Nat) (x : Felt) : (s.setFelt t x).sampleRecs = s.sampleRecs := rfl
@[simp] theorem State.setFelt_stage (t : Nat) (x : Felt) : (s.setFelt t x).stage = s.stage := rfl
@[simp] theorem State.setFelt_images (t : Nat) (x : Felt) : (s.setFelt t x).images = s.images := rfl
@[simp] theorem State.setFelt_plan (t : Nat) (x : Felt) : (s.setFelt t x).plan = s.plan := rfl
@[simp] theorem State.setFelt_avoidNow (t : Nat) (x : Felt) : (s.setFelt t x).avoidNow = s.avoidNow := rfl
@[simp] theorem State.setFelt_keepGens (t : Nat) (x : Felt) : (s.setFelt t x).keepGens = s.keepGens := rfl
@[simp] theorem State.setFelt_reclaims (t : Nat) (x : Felt) : (s.setFelt t x).reclaims = s.reclaims := rfl
@[simp] theorem State.setFelt_past (t : Nat) (x : Felt) : (s.setFelt t x).past = s.past := rfl
@[simp] theorem State.setFelt_walks (t : Nat) (x : Felt) : (s.setFelt t x).walks = s.walks := rfl
@[simp] theorem State.setFelt_avoid (t : Nat) (x : Felt) : (s.setFelt t x).avoid = s.avoid := rfl
@[simp] theorem State.setFelt_peerno (t : Nat) (x : Felt) : (s.setFelt t x).peerno = s.peerno := rfl
@[simp] theorem State.setFelt_overPower (t : Nat) (x : Felt) : (s.setFelt t x).overPower = s.overPower := rfl
@[simp] theorem State.setFelt_coolant (t : Nat) (x : Felt) : (s.setFelt t x).coolant = s.coolant := rfl
@[simp] theorem State.setFelt_shut (t : Nat) (x : Felt) : (s.setFelt t x).shut = s.shut := rfl
@[simp] theorem State.setFelt_mhalt (t : Nat) (x : Felt) : (s.setFelt t x).mhalt = s.mhalt := rfl
@[simp] theorem State.setFelt_life (t : Nat) (x : Felt) : (s.setFelt t x).life = s.life := rfl
@[simp] theorem State.setFelt_drainers (t : Nat) (x : Felt) : (s.setFelt t x).drainers = s.drainers := rfl
@[simp] theorem State.setFelt_pend (t : Nat) (x : Felt) : (s.setFelt t x).pend = s.pend := rfl
@[simp] theorem State.setFelt_fresh (t : Nat) (x : Felt) : (s.setFelt t x).fresh = s.fresh := rfl
@[simp] theorem State.setFelt_nextId (t : Nat) (x : Felt) : (s.setFelt t x).nextId = s.nextId := rfl
@[simp] theorem State.setFelt_out (t : Nat) (x : Felt) : (s.setFelt t x).out = s.out := rfl

/-! ## setTask -/

@[simp] theorem State.setTask_agenda (t : Nat) (x : Task) : (s.setTask t x).agenda = s.agenda := rfl
@[simp] theorem State.setTask_focus (t : Nat) (x : Task) : (s.setTask t x).focus = s.focus := rfl
@[simp] theorem State.setTask_runs (t : Nat) (x : Task) : (s.setTask t x).runs = s.runs := rfl
@[simp] theorem State.setTask_groups (t : Nat) (x : Task) : (s.setTask t x).groups = s.groups := rfl
@[simp] theorem State.setTask_teams (t : Nat) (x : Task) : (s.setTask t x).teams = s.teams := rfl
@[simp] theorem State.setTask_felts (t : Nat) (x : Task) : (s.setTask t x).felts = s.felts := rfl
@[simp] theorem State.setTask_tasks (t : Nat) (x : Task) : (s.setTask t x).tasks = ins s.tasks t x := rfl
@[simp] theorem State.setTask_queues (t : Nat) (x : Task) : (s.setTask t x).queues = s.queues := rfl
@[simp] theorem State.setTask_copies (t : Nat) (x : Task) : (s.setTask t x).copies = s.copies := rfl
@[simp] theorem State.setTask_joins (t : Nat) (x : Task) : (s.setTask t x).joins = s.joins := rfl
@[simp] theorem State.setTask_dmem (t : Nat) (x : Task) : (s.setTask t x).dmem = s.dmem := rfl
@[simp] theorem State.setTask_hmem (t : Nat) (x : Task) : (s.setTask t x).hmem = s.hmem := rfl
@[simp] theorem State.setTask_keeps (t : Nat) (x : Task) : (s.setTask t x).keeps = s.keeps := rfl
@[simp] theorem State.setTask_nameMirror (t : Nat) (x : Task) : (s.setTask t x).nameMirror = s.nameMirror := rfl
@[simp] theorem State.setTask_hostFresh (t : Nat) (x : Task) : (s.setTask t x).hostFresh = s.hostFresh := rfl
@[simp] theorem State.setTask_parked (t : Nat) (x : Task) : (s.setTask t x).parked = s.parked := rfl
@[simp] theorem State.setTask_tlb (t : Nat) (x : Task) : (s.setTask t x).tlb = s.tlb := rfl
@[simp] theorem State.setTask_keepLeaves (t : Nat) (x : Task) : (s.setTask t x).keepLeaves = s.keepLeaves := rfl
@[simp] theorem State.setTask_atc (t : Nat) (x : Task) : (s.setTask t x).atc = s.atc := rfl
@[simp] theorem State.setTask_icache (t : Nat) (x : Task) : (s.setTask t x).icache = s.icache := rfl
@[simp] theorem State.setTask_lds (t : Nat) (x : Task) : (s.setTask t x).lds = s.lds := rfl
@[simp] theorem State.setTask_dies (t : Nat) (x : Task) : (s.setTask t x).dies = s.dies := rfl
@[simp] theorem State.setTask_ports (t : Nat) (x : Task) : (s.setTask t x).ports = s.ports := rfl
@[simp] theorem State.setTask_ingest (t : Nat) (x : Task) : (s.setTask t x).ingest = s.ingest := rfl
@[simp] theorem State.setTask_samples (t : Nat) (x : Task) : (s.setTask t x).samples = s.samples := rfl
@[simp] theorem State.setTask_sampleRecs (t : Nat) (x : Task) : (s.setTask t x).sampleRecs = s.sampleRecs := rfl
@[simp] theorem State.setTask_stage (t : Nat) (x : Task) : (s.setTask t x).stage = s.stage := rfl
@[simp] theorem State.setTask_images (t : Nat) (x : Task) : (s.setTask t x).images = s.images := rfl
@[simp] theorem State.setTask_plan (t : Nat) (x : Task) : (s.setTask t x).plan = s.plan := rfl
@[simp] theorem State.setTask_avoidNow (t : Nat) (x : Task) : (s.setTask t x).avoidNow = s.avoidNow := rfl
@[simp] theorem State.setTask_keepGens (t : Nat) (x : Task) : (s.setTask t x).keepGens = s.keepGens := rfl
@[simp] theorem State.setTask_reclaims (t : Nat) (x : Task) : (s.setTask t x).reclaims = s.reclaims := rfl
@[simp] theorem State.setTask_past (t : Nat) (x : Task) : (s.setTask t x).past = s.past := rfl
@[simp] theorem State.setTask_walks (t : Nat) (x : Task) : (s.setTask t x).walks = s.walks := rfl
@[simp] theorem State.setTask_avoid (t : Nat) (x : Task) : (s.setTask t x).avoid = s.avoid := rfl
@[simp] theorem State.setTask_peerno (t : Nat) (x : Task) : (s.setTask t x).peerno = s.peerno := rfl
@[simp] theorem State.setTask_overPower (t : Nat) (x : Task) : (s.setTask t x).overPower = s.overPower := rfl
@[simp] theorem State.setTask_coolant (t : Nat) (x : Task) : (s.setTask t x).coolant = s.coolant := rfl
@[simp] theorem State.setTask_shut (t : Nat) (x : Task) : (s.setTask t x).shut = s.shut := rfl
@[simp] theorem State.setTask_mhalt (t : Nat) (x : Task) : (s.setTask t x).mhalt = s.mhalt := rfl
@[simp] theorem State.setTask_life (t : Nat) (x : Task) : (s.setTask t x).life = s.life := rfl
@[simp] theorem State.setTask_drainers (t : Nat) (x : Task) : (s.setTask t x).drainers = s.drainers := rfl
@[simp] theorem State.setTask_pend (t : Nat) (x : Task) : (s.setTask t x).pend = s.pend := rfl
@[simp] theorem State.setTask_fresh (t : Nat) (x : Task) : (s.setTask t x).fresh = s.fresh := rfl
@[simp] theorem State.setTask_nextId (t : Nat) (x : Task) : (s.setTask t x).nextId = s.nextId := rfl
@[simp] theorem State.setTask_out (t : Nat) (x : Task) : (s.setTask t x).out = s.out := rfl

/-! ## setLd -/

@[simp] theorem State.setLd_agenda (l : Nat) (x : Ld) : (s.setLd l x).agenda = s.agenda := rfl
@[simp] theorem State.setLd_focus (l : Nat) (x : Ld) : (s.setLd l x).focus = s.focus := rfl
@[simp] theorem State.setLd_runs (l : Nat) (x : Ld) : (s.setLd l x).runs = s.runs := rfl
@[simp] theorem State.setLd_groups (l : Nat) (x : Ld) : (s.setLd l x).groups = s.groups := rfl
@[simp] theorem State.setLd_teams (l : Nat) (x : Ld) : (s.setLd l x).teams = s.teams := rfl
@[simp] theorem State.setLd_felts (l : Nat) (x : Ld) : (s.setLd l x).felts = s.felts := rfl
@[simp] theorem State.setLd_tasks (l : Nat) (x : Ld) : (s.setLd l x).tasks = s.tasks := rfl
@[simp] theorem State.setLd_queues (l : Nat) (x : Ld) : (s.setLd l x).queues = s.queues := rfl
@[simp] theorem State.setLd_copies (l : Nat) (x : Ld) : (s.setLd l x).copies = s.copies := rfl
@[simp] theorem State.setLd_joins (l : Nat) (x : Ld) : (s.setLd l x).joins = s.joins := rfl
@[simp] theorem State.setLd_dmem (l : Nat) (x : Ld) : (s.setLd l x).dmem = s.dmem := rfl
@[simp] theorem State.setLd_hmem (l : Nat) (x : Ld) : (s.setLd l x).hmem = s.hmem := rfl
@[simp] theorem State.setLd_keeps (l : Nat) (x : Ld) : (s.setLd l x).keeps = s.keeps := rfl
@[simp] theorem State.setLd_nameMirror (l : Nat) (x : Ld) : (s.setLd l x).nameMirror = s.nameMirror := rfl
@[simp] theorem State.setLd_hostFresh (l : Nat) (x : Ld) : (s.setLd l x).hostFresh = s.hostFresh := rfl
@[simp] theorem State.setLd_parked (l : Nat) (x : Ld) : (s.setLd l x).parked = s.parked := rfl
@[simp] theorem State.setLd_tlb (l : Nat) (x : Ld) : (s.setLd l x).tlb = s.tlb := rfl
@[simp] theorem State.setLd_keepLeaves (l : Nat) (x : Ld) : (s.setLd l x).keepLeaves = s.keepLeaves := rfl
@[simp] theorem State.setLd_atc (l : Nat) (x : Ld) : (s.setLd l x).atc = s.atc := rfl
@[simp] theorem State.setLd_icache (l : Nat) (x : Ld) : (s.setLd l x).icache = s.icache := rfl
@[simp] theorem State.setLd_lds (l : Nat) (x : Ld) : (s.setLd l x).lds = ins s.lds l x := rfl
@[simp] theorem State.setLd_dies (l : Nat) (x : Ld) : (s.setLd l x).dies = s.dies := rfl
@[simp] theorem State.setLd_ports (l : Nat) (x : Ld) : (s.setLd l x).ports = s.ports := rfl
@[simp] theorem State.setLd_ingest (l : Nat) (x : Ld) : (s.setLd l x).ingest = s.ingest := rfl
@[simp] theorem State.setLd_samples (l : Nat) (x : Ld) : (s.setLd l x).samples = s.samples := rfl
@[simp] theorem State.setLd_sampleRecs (l : Nat) (x : Ld) : (s.setLd l x).sampleRecs = s.sampleRecs := rfl
@[simp] theorem State.setLd_stage (l : Nat) (x : Ld) : (s.setLd l x).stage = s.stage := rfl
@[simp] theorem State.setLd_images (l : Nat) (x : Ld) : (s.setLd l x).images = s.images := rfl
@[simp] theorem State.setLd_plan (l : Nat) (x : Ld) : (s.setLd l x).plan = s.plan := rfl
@[simp] theorem State.setLd_avoidNow (l : Nat) (x : Ld) : (s.setLd l x).avoidNow = s.avoidNow := rfl
@[simp] theorem State.setLd_keepGens (l : Nat) (x : Ld) : (s.setLd l x).keepGens = s.keepGens := rfl
@[simp] theorem State.setLd_reclaims (l : Nat) (x : Ld) : (s.setLd l x).reclaims = s.reclaims := rfl
@[simp] theorem State.setLd_past (l : Nat) (x : Ld) : (s.setLd l x).past = s.past := rfl
@[simp] theorem State.setLd_walks (l : Nat) (x : Ld) : (s.setLd l x).walks = s.walks := rfl
@[simp] theorem State.setLd_avoid (l : Nat) (x : Ld) : (s.setLd l x).avoid = s.avoid := rfl
@[simp] theorem State.setLd_peerno (l : Nat) (x : Ld) : (s.setLd l x).peerno = s.peerno := rfl
@[simp] theorem State.setLd_overPower (l : Nat) (x : Ld) : (s.setLd l x).overPower = s.overPower := rfl
@[simp] theorem State.setLd_coolant (l : Nat) (x : Ld) : (s.setLd l x).coolant = s.coolant := rfl
@[simp] theorem State.setLd_shut (l : Nat) (x : Ld) : (s.setLd l x).shut = s.shut := rfl
@[simp] theorem State.setLd_mhalt (l : Nat) (x : Ld) : (s.setLd l x).mhalt = s.mhalt := rfl
@[simp] theorem State.setLd_life (l : Nat) (x : Ld) : (s.setLd l x).life = s.life := rfl
@[simp] theorem State.setLd_drainers (l : Nat) (x : Ld) : (s.setLd l x).drainers = s.drainers := rfl
@[simp] theorem State.setLd_pend (l : Nat) (x : Ld) : (s.setLd l x).pend = s.pend := rfl
@[simp] theorem State.setLd_fresh (l : Nat) (x : Ld) : (s.setLd l x).fresh = s.fresh := rfl
@[simp] theorem State.setLd_nextId (l : Nat) (x : Ld) : (s.setLd l x).nextId = s.nextId := rfl
@[simp] theorem State.setLd_out (l : Nat) (x : Ld) : (s.setLd l x).out = s.out := rfl

/-! ## setDie -/

@[simp] theorem State.setDie_agenda (d : Nat) (x : Die) : (s.setDie d x).agenda = s.agenda := rfl
@[simp] theorem State.setDie_focus (d : Nat) (x : Die) : (s.setDie d x).focus = s.focus := rfl
@[simp] theorem State.setDie_runs (d : Nat) (x : Die) : (s.setDie d x).runs = s.runs := rfl
@[simp] theorem State.setDie_groups (d : Nat) (x : Die) : (s.setDie d x).groups = s.groups := rfl
@[simp] theorem State.setDie_teams (d : Nat) (x : Die) : (s.setDie d x).teams = s.teams := rfl
@[simp] theorem State.setDie_felts (d : Nat) (x : Die) : (s.setDie d x).felts = s.felts := rfl
@[simp] theorem State.setDie_tasks (d : Nat) (x : Die) : (s.setDie d x).tasks = s.tasks := rfl
@[simp] theorem State.setDie_queues (d : Nat) (x : Die) : (s.setDie d x).queues = s.queues := rfl
@[simp] theorem State.setDie_copies (d : Nat) (x : Die) : (s.setDie d x).copies = s.copies := rfl
@[simp] theorem State.setDie_joins (d : Nat) (x : Die) : (s.setDie d x).joins = s.joins := rfl
@[simp] theorem State.setDie_dmem (d : Nat) (x : Die) : (s.setDie d x).dmem = s.dmem := rfl
@[simp] theorem State.setDie_hmem (d : Nat) (x : Die) : (s.setDie d x).hmem = s.hmem := rfl
@[simp] theorem State.setDie_keeps (d : Nat) (x : Die) : (s.setDie d x).keeps = s.keeps := rfl
@[simp] theorem State.setDie_nameMirror (d : Nat) (x : Die) : (s.setDie d x).nameMirror = s.nameMirror := rfl
@[simp] theorem State.setDie_hostFresh (d : Nat) (x : Die) : (s.setDie d x).hostFresh = s.hostFresh := rfl
@[simp] theorem State.setDie_parked (d : Nat) (x : Die) : (s.setDie d x).parked = s.parked := rfl
@[simp] theorem State.setDie_tlb (d : Nat) (x : Die) : (s.setDie d x).tlb = s.tlb := rfl
@[simp] theorem State.setDie_keepLeaves (d : Nat) (x : Die) : (s.setDie d x).keepLeaves = s.keepLeaves := rfl
@[simp] theorem State.setDie_atc (d : Nat) (x : Die) : (s.setDie d x).atc = s.atc := rfl
@[simp] theorem State.setDie_icache (d : Nat) (x : Die) : (s.setDie d x).icache = s.icache := rfl
@[simp] theorem State.setDie_lds (d : Nat) (x : Die) : (s.setDie d x).lds = s.lds := rfl
@[simp] theorem State.setDie_dies (d : Nat) (x : Die) : (s.setDie d x).dies = ins s.dies d x := rfl
@[simp] theorem State.setDie_ports (d : Nat) (x : Die) : (s.setDie d x).ports = s.ports := rfl
@[simp] theorem State.setDie_ingest (d : Nat) (x : Die) : (s.setDie d x).ingest = s.ingest := rfl
@[simp] theorem State.setDie_samples (d : Nat) (x : Die) : (s.setDie d x).samples = s.samples := rfl
@[simp] theorem State.setDie_sampleRecs (d : Nat) (x : Die) : (s.setDie d x).sampleRecs = s.sampleRecs := rfl
@[simp] theorem State.setDie_stage (d : Nat) (x : Die) : (s.setDie d x).stage = s.stage := rfl
@[simp] theorem State.setDie_images (d : Nat) (x : Die) : (s.setDie d x).images = s.images := rfl
@[simp] theorem State.setDie_plan (d : Nat) (x : Die) : (s.setDie d x).plan = s.plan := rfl
@[simp] theorem State.setDie_avoidNow (d : Nat) (x : Die) : (s.setDie d x).avoidNow = s.avoidNow := rfl
@[simp] theorem State.setDie_keepGens (d : Nat) (x : Die) : (s.setDie d x).keepGens = s.keepGens := rfl
@[simp] theorem State.setDie_reclaims (d : Nat) (x : Die) : (s.setDie d x).reclaims = s.reclaims := rfl
@[simp] theorem State.setDie_past (d : Nat) (x : Die) : (s.setDie d x).past = s.past := rfl
@[simp] theorem State.setDie_walks (d : Nat) (x : Die) : (s.setDie d x).walks = s.walks := rfl
@[simp] theorem State.setDie_avoid (d : Nat) (x : Die) : (s.setDie d x).avoid = s.avoid := rfl
@[simp] theorem State.setDie_peerno (d : Nat) (x : Die) : (s.setDie d x).peerno = s.peerno := rfl
@[simp] theorem State.setDie_overPower (d : Nat) (x : Die) : (s.setDie d x).overPower = s.overPower := rfl
@[simp] theorem State.setDie_coolant (d : Nat) (x : Die) : (s.setDie d x).coolant = s.coolant := rfl
@[simp] theorem State.setDie_shut (d : Nat) (x : Die) : (s.setDie d x).shut = s.shut := rfl
@[simp] theorem State.setDie_mhalt (d : Nat) (x : Die) : (s.setDie d x).mhalt = s.mhalt := rfl
@[simp] theorem State.setDie_life (d : Nat) (x : Die) : (s.setDie d x).life = s.life := rfl
@[simp] theorem State.setDie_drainers (d : Nat) (x : Die) : (s.setDie d x).drainers = s.drainers := rfl
@[simp] theorem State.setDie_pend (d : Nat) (x : Die) : (s.setDie d x).pend = s.pend := rfl
@[simp] theorem State.setDie_fresh (d : Nat) (x : Die) : (s.setDie d x).fresh = s.fresh := rfl
@[simp] theorem State.setDie_nextId (d : Nat) (x : Die) : (s.setDie d x).nextId = s.nextId := rfl
@[simp] theorem State.setDie_out (d : Nat) (x : Die) : (s.setDie d x).out = s.out := rfl

/-! ## setPort -/

@[simp] theorem State.setPort_agenda (k : Nat) (x : Port) : (s.setPort k x).agenda = s.agenda := rfl
@[simp] theorem State.setPort_focus (k : Nat) (x : Port) : (s.setPort k x).focus = s.focus := rfl
@[simp] theorem State.setPort_runs (k : Nat) (x : Port) : (s.setPort k x).runs = s.runs := rfl
@[simp] theorem State.setPort_groups (k : Nat) (x : Port) : (s.setPort k x).groups = s.groups := rfl
@[simp] theorem State.setPort_teams (k : Nat) (x : Port) : (s.setPort k x).teams = s.teams := rfl
@[simp] theorem State.setPort_felts (k : Nat) (x : Port) : (s.setPort k x).felts = s.felts := rfl
@[simp] theorem State.setPort_tasks (k : Nat) (x : Port) : (s.setPort k x).tasks = s.tasks := rfl
@[simp] theorem State.setPort_queues (k : Nat) (x : Port) : (s.setPort k x).queues = s.queues := rfl
@[simp] theorem State.setPort_copies (k : Nat) (x : Port) : (s.setPort k x).copies = s.copies := rfl
@[simp] theorem State.setPort_joins (k : Nat) (x : Port) : (s.setPort k x).joins = s.joins := rfl
@[simp] theorem State.setPort_dmem (k : Nat) (x : Port) : (s.setPort k x).dmem = s.dmem := rfl
@[simp] theorem State.setPort_hmem (k : Nat) (x : Port) : (s.setPort k x).hmem = s.hmem := rfl
@[simp] theorem State.setPort_keeps (k : Nat) (x : Port) : (s.setPort k x).keeps = s.keeps := rfl
@[simp] theorem State.setPort_nameMirror (k : Nat) (x : Port) : (s.setPort k x).nameMirror = s.nameMirror := rfl
@[simp] theorem State.setPort_hostFresh (k : Nat) (x : Port) : (s.setPort k x).hostFresh = s.hostFresh := rfl
@[simp] theorem State.setPort_parked (k : Nat) (x : Port) : (s.setPort k x).parked = s.parked := rfl
@[simp] theorem State.setPort_tlb (k : Nat) (x : Port) : (s.setPort k x).tlb = s.tlb := rfl
@[simp] theorem State.setPort_keepLeaves (k : Nat) (x : Port) : (s.setPort k x).keepLeaves = s.keepLeaves := rfl
@[simp] theorem State.setPort_atc (k : Nat) (x : Port) : (s.setPort k x).atc = s.atc := rfl
@[simp] theorem State.setPort_icache (k : Nat) (x : Port) : (s.setPort k x).icache = s.icache := rfl
@[simp] theorem State.setPort_lds (k : Nat) (x : Port) : (s.setPort k x).lds = s.lds := rfl
@[simp] theorem State.setPort_dies (k : Nat) (x : Port) : (s.setPort k x).dies = s.dies := rfl
@[simp] theorem State.setPort_ports (k : Nat) (x : Port) : (s.setPort k x).ports = ins s.ports k x := rfl
@[simp] theorem State.setPort_ingest (k : Nat) (x : Port) : (s.setPort k x).ingest = s.ingest := rfl
@[simp] theorem State.setPort_samples (k : Nat) (x : Port) : (s.setPort k x).samples = s.samples := rfl
@[simp] theorem State.setPort_sampleRecs (k : Nat) (x : Port) : (s.setPort k x).sampleRecs = s.sampleRecs := rfl
@[simp] theorem State.setPort_stage (k : Nat) (x : Port) : (s.setPort k x).stage = s.stage := rfl
@[simp] theorem State.setPort_images (k : Nat) (x : Port) : (s.setPort k x).images = s.images := rfl
@[simp] theorem State.setPort_plan (k : Nat) (x : Port) : (s.setPort k x).plan = s.plan := rfl
@[simp] theorem State.setPort_avoidNow (k : Nat) (x : Port) : (s.setPort k x).avoidNow = s.avoidNow := rfl
@[simp] theorem State.setPort_keepGens (k : Nat) (x : Port) : (s.setPort k x).keepGens = s.keepGens := rfl
@[simp] theorem State.setPort_reclaims (k : Nat) (x : Port) : (s.setPort k x).reclaims = s.reclaims := rfl
@[simp] theorem State.setPort_past (k : Nat) (x : Port) : (s.setPort k x).past = s.past := rfl
@[simp] theorem State.setPort_walks (k : Nat) (x : Port) : (s.setPort k x).walks = s.walks := rfl
@[simp] theorem State.setPort_avoid (k : Nat) (x : Port) : (s.setPort k x).avoid = s.avoid := rfl
@[simp] theorem State.setPort_peerno (k : Nat) (x : Port) : (s.setPort k x).peerno = s.peerno := rfl
@[simp] theorem State.setPort_overPower (k : Nat) (x : Port) : (s.setPort k x).overPower = s.overPower := rfl
@[simp] theorem State.setPort_coolant (k : Nat) (x : Port) : (s.setPort k x).coolant = s.coolant := rfl
@[simp] theorem State.setPort_shut (k : Nat) (x : Port) : (s.setPort k x).shut = s.shut := rfl
@[simp] theorem State.setPort_mhalt (k : Nat) (x : Port) : (s.setPort k x).mhalt = s.mhalt := rfl
@[simp] theorem State.setPort_life (k : Nat) (x : Port) : (s.setPort k x).life = s.life := rfl
@[simp] theorem State.setPort_drainers (k : Nat) (x : Port) : (s.setPort k x).drainers = s.drainers := rfl
@[simp] theorem State.setPort_pend (k : Nat) (x : Port) : (s.setPort k x).pend = s.pend := rfl
@[simp] theorem State.setPort_fresh (k : Nat) (x : Port) : (s.setPort k x).fresh = s.fresh := rfl
@[simp] theorem State.setPort_nextId (k : Nat) (x : Port) : (s.setPort k x).nextId = s.nextId := rfl
@[simp] theorem State.setPort_out (k : Nat) (x : Port) : (s.setPort k x).out = s.out := rfl

/-! ## emit -/

@[simp] theorem State.emit_agenda (o : Out) : (s.emit o).agenda = s.agenda := rfl
@[simp] theorem State.emit_focus (o : Out) : (s.emit o).focus = s.focus := rfl
@[simp] theorem State.emit_runs (o : Out) : (s.emit o).runs = s.runs := rfl
@[simp] theorem State.emit_groups (o : Out) : (s.emit o).groups = s.groups := rfl
@[simp] theorem State.emit_teams (o : Out) : (s.emit o).teams = s.teams := rfl
@[simp] theorem State.emit_felts (o : Out) : (s.emit o).felts = s.felts := rfl
@[simp] theorem State.emit_tasks (o : Out) : (s.emit o).tasks = s.tasks := rfl
@[simp] theorem State.emit_queues (o : Out) : (s.emit o).queues = s.queues := rfl
@[simp] theorem State.emit_copies (o : Out) : (s.emit o).copies = s.copies := rfl
@[simp] theorem State.emit_joins (o : Out) : (s.emit o).joins = s.joins := rfl
@[simp] theorem State.emit_dmem (o : Out) : (s.emit o).dmem = s.dmem := rfl
@[simp] theorem State.emit_hmem (o : Out) : (s.emit o).hmem = s.hmem := rfl
@[simp] theorem State.emit_keeps (o : Out) : (s.emit o).keeps = s.keeps := rfl
@[simp] theorem State.emit_nameMirror (o : Out) : (s.emit o).nameMirror = s.nameMirror := rfl
@[simp] theorem State.emit_hostFresh (o : Out) : (s.emit o).hostFresh = s.hostFresh := rfl
@[simp] theorem State.emit_parked (o : Out) : (s.emit o).parked = s.parked := rfl
@[simp] theorem State.emit_tlb (o : Out) : (s.emit o).tlb = s.tlb := rfl
@[simp] theorem State.emit_keepLeaves (o : Out) : (s.emit o).keepLeaves = s.keepLeaves := rfl
@[simp] theorem State.emit_atc (o : Out) : (s.emit o).atc = s.atc := rfl
@[simp] theorem State.emit_icache (o : Out) : (s.emit o).icache = s.icache := rfl
@[simp] theorem State.emit_lds (o : Out) : (s.emit o).lds = s.lds := rfl
@[simp] theorem State.emit_dies (o : Out) : (s.emit o).dies = s.dies := rfl
@[simp] theorem State.emit_ports (o : Out) : (s.emit o).ports = s.ports := rfl
@[simp] theorem State.emit_ingest (o : Out) : (s.emit o).ingest = s.ingest := rfl
@[simp] theorem State.emit_samples (o : Out) : (s.emit o).samples = s.samples := rfl
@[simp] theorem State.emit_sampleRecs (o : Out) : (s.emit o).sampleRecs = s.sampleRecs := rfl
@[simp] theorem State.emit_stage (o : Out) : (s.emit o).stage = s.stage := rfl
@[simp] theorem State.emit_images (o : Out) : (s.emit o).images = s.images := rfl
@[simp] theorem State.emit_plan (o : Out) : (s.emit o).plan = s.plan := rfl
@[simp] theorem State.emit_avoidNow (o : Out) : (s.emit o).avoidNow = s.avoidNow := rfl
@[simp] theorem State.emit_keepGens (o : Out) : (s.emit o).keepGens = s.keepGens := rfl
@[simp] theorem State.emit_reclaims (o : Out) : (s.emit o).reclaims = s.reclaims := rfl
@[simp] theorem State.emit_past (o : Out) : (s.emit o).past = s.past := rfl
@[simp] theorem State.emit_walks (o : Out) : (s.emit o).walks = s.walks := rfl
@[simp] theorem State.emit_avoid (o : Out) : (s.emit o).avoid = s.avoid := rfl
@[simp] theorem State.emit_peerno (o : Out) : (s.emit o).peerno = s.peerno := rfl
@[simp] theorem State.emit_overPower (o : Out) : (s.emit o).overPower = s.overPower := rfl
@[simp] theorem State.emit_coolant (o : Out) : (s.emit o).coolant = s.coolant := rfl
@[simp] theorem State.emit_shut (o : Out) : (s.emit o).shut = s.shut := rfl
@[simp] theorem State.emit_mhalt (o : Out) : (s.emit o).mhalt = s.mhalt := rfl
@[simp] theorem State.emit_life (o : Out) : (s.emit o).life = s.life := rfl
@[simp] theorem State.emit_drainers (o : Out) : (s.emit o).drainers = s.drainers := rfl
@[simp] theorem State.emit_pend (o : Out) : (s.emit o).pend = s.pend := rfl
@[simp] theorem State.emit_fresh (o : Out) : (s.emit o).fresh = s.fresh := rfl
@[simp] theorem State.emit_nextId (o : Out) : (s.emit o).nextId = s.nextId := rfl
@[simp] theorem State.emit_out (o : Out) : (s.emit o).out = s.out ++ [o] := rfl

/-! ## An update by a function is a write of the looked-up entry -/

@[simp] theorem State.modGrp_eq (k : Nat) (f : Group → Group) : s.modGrp k f = s.setGrp k (f (s.grp k)) := rfl
@[simp] theorem State.modTeam_eq (k : Nat) (f : Team → Team) : s.modTeam k f = s.setTeam k (f (s.team k)) := rfl
@[simp] theorem State.modFelt_eq (k : Nat) (f : Felt → Felt) : s.modFelt k f = s.setFelt k (f (s.felt k)) := rfl
@[simp] theorem State.modTask_eq (k : Nat) (f : Task → Task) : s.modTask k f = s.setTask k (f (s.task k)) := rfl
@[simp] theorem State.modLd_eq (k : Nat) (f : Ld → Ld) : s.modLd k f = s.setLd k (f (s.ldev k)) := rfl
@[simp] theorem State.modDie_eq (k : Nat) (f : Die → Die) : s.modDie k f = s.setDie k (f (s.die k)) := rfl
@[simp] theorem State.modPort_eq (k : Nat) (f : Port → Port) : s.modPort k f = s.setPort k (f (s.port k)) := rfl

/-! ## Reading back -/

@[simp] theorem State.grp_setGrp (k : Nat) (x : Group) : (s.setGrp k x).grp k = x := by simp [State.grp]
theorem State.grp_setGrp_ne {k j : Nat} (x : Group) (h : k ≠ j) : (s.setGrp k x).grp j = s.grp j := by simp [State.grp, look_ins_ne _ _ h]
@[simp] theorem State.team_setGrp (k j : Nat) (x : Group) : (s.setGrp k x).team j = s.team j := rfl
@[simp] theorem State.felt_setGrp (k j : Nat) (x : Group) : (s.setGrp k x).felt j = s.felt j := rfl
@[simp] theorem State.task_setGrp (k j : Nat) (x : Group) : (s.setGrp k x).task j = s.task j := rfl
@[simp] theorem State.ldev_setGrp (k j : Nat) (x : Group) : (s.setGrp k x).ldev j = s.ldev j := rfl
@[simp] theorem State.die_setGrp (k j : Nat) (x : Group) : (s.setGrp k x).die j = s.die j := rfl
@[simp] theorem State.port_setGrp (k j : Nat) (x : Group) : (s.setGrp k x).port j = s.port j := rfl
@[simp] theorem State.team_setTeam (k : Nat) (x : Team) : (s.setTeam k x).team k = x := by simp [State.team]
theorem State.team_setTeam_ne {k j : Nat} (x : Team) (h : k ≠ j) : (s.setTeam k x).team j = s.team j := by simp [State.team, look_ins_ne _ _ h]
@[simp] theorem State.grp_setTeam (k j : Nat) (x : Team) : (s.setTeam k x).grp j = s.grp j := rfl
@[simp] theorem State.felt_setTeam (k j : Nat) (x : Team) : (s.setTeam k x).felt j = s.felt j := rfl
@[simp] theorem State.task_setTeam (k j : Nat) (x : Team) : (s.setTeam k x).task j = s.task j := rfl
@[simp] theorem State.ldev_setTeam (k j : Nat) (x : Team) : (s.setTeam k x).ldev j = s.ldev j := rfl
@[simp] theorem State.die_setTeam (k j : Nat) (x : Team) : (s.setTeam k x).die j = s.die j := rfl
@[simp] theorem State.port_setTeam (k j : Nat) (x : Team) : (s.setTeam k x).port j = s.port j := rfl
@[simp] theorem State.felt_setFelt (k : Nat) (x : Felt) : (s.setFelt k x).felt k = x := by simp [State.felt]
theorem State.felt_setFelt_ne {k j : Nat} (x : Felt) (h : k ≠ j) : (s.setFelt k x).felt j = s.felt j := by simp [State.felt, look_ins_ne _ _ h]
@[simp] theorem State.grp_setFelt (k j : Nat) (x : Felt) : (s.setFelt k x).grp j = s.grp j := rfl
@[simp] theorem State.team_setFelt (k j : Nat) (x : Felt) : (s.setFelt k x).team j = s.team j := rfl
@[simp] theorem State.task_setFelt (k j : Nat) (x : Felt) : (s.setFelt k x).task j = s.task j := rfl
@[simp] theorem State.ldev_setFelt (k j : Nat) (x : Felt) : (s.setFelt k x).ldev j = s.ldev j := rfl
@[simp] theorem State.die_setFelt (k j : Nat) (x : Felt) : (s.setFelt k x).die j = s.die j := rfl
@[simp] theorem State.port_setFelt (k j : Nat) (x : Felt) : (s.setFelt k x).port j = s.port j := rfl
@[simp] theorem State.task_setTask (k : Nat) (x : Task) : (s.setTask k x).task k = x := by simp [State.task]
theorem State.task_setTask_ne {k j : Nat} (x : Task) (h : k ≠ j) : (s.setTask k x).task j = s.task j := by simp [State.task, look_ins_ne _ _ h]
@[simp] theorem State.grp_setTask (k j : Nat) (x : Task) : (s.setTask k x).grp j = s.grp j := rfl
@[simp] theorem State.team_setTask (k j : Nat) (x : Task) : (s.setTask k x).team j = s.team j := rfl
@[simp] theorem State.felt_setTask (k j : Nat) (x : Task) : (s.setTask k x).felt j = s.felt j := rfl
@[simp] theorem State.ldev_setTask (k j : Nat) (x : Task) : (s.setTask k x).ldev j = s.ldev j := rfl
@[simp] theorem State.die_setTask (k j : Nat) (x : Task) : (s.setTask k x).die j = s.die j := rfl
@[simp] theorem State.port_setTask (k j : Nat) (x : Task) : (s.setTask k x).port j = s.port j := rfl
@[simp] theorem State.ldev_setLd (k : Nat) (x : Ld) : (s.setLd k x).ldev k = x := by simp [State.ldev]
theorem State.ldev_setLd_ne {k j : Nat} (x : Ld) (h : k ≠ j) : (s.setLd k x).ldev j = s.ldev j := by simp [State.ldev, look_ins_ne _ _ h]
@[simp] theorem State.grp_setLd (k j : Nat) (x : Ld) : (s.setLd k x).grp j = s.grp j := rfl
@[simp] theorem State.team_setLd (k j : Nat) (x : Ld) : (s.setLd k x).team j = s.team j := rfl
@[simp] theorem State.felt_setLd (k j : Nat) (x : Ld) : (s.setLd k x).felt j = s.felt j := rfl
@[simp] theorem State.task_setLd (k j : Nat) (x : Ld) : (s.setLd k x).task j = s.task j := rfl
@[simp] theorem State.die_setLd (k j : Nat) (x : Ld) : (s.setLd k x).die j = s.die j := rfl
@[simp] theorem State.port_setLd (k j : Nat) (x : Ld) : (s.setLd k x).port j = s.port j := rfl
@[simp] theorem State.die_setDie (k : Nat) (x : Die) : (s.setDie k x).die k = x := by simp [State.die]
theorem State.die_setDie_ne {k j : Nat} (x : Die) (h : k ≠ j) : (s.setDie k x).die j = s.die j := by simp [State.die, look_ins_ne _ _ h]
@[simp] theorem State.grp_setDie (k j : Nat) (x : Die) : (s.setDie k x).grp j = s.grp j := rfl
@[simp] theorem State.team_setDie (k j : Nat) (x : Die) : (s.setDie k x).team j = s.team j := rfl
@[simp] theorem State.felt_setDie (k j : Nat) (x : Die) : (s.setDie k x).felt j = s.felt j := rfl
@[simp] theorem State.task_setDie (k j : Nat) (x : Die) : (s.setDie k x).task j = s.task j := rfl
@[simp] theorem State.ldev_setDie (k j : Nat) (x : Die) : (s.setDie k x).ldev j = s.ldev j := rfl
@[simp] theorem State.port_setDie (k j : Nat) (x : Die) : (s.setDie k x).port j = s.port j := rfl
@[simp] theorem State.port_setPort (k : Nat) (x : Port) : (s.setPort k x).port k = x := by simp [State.port]
theorem State.port_setPort_ne {k j : Nat} (x : Port) (h : k ≠ j) : (s.setPort k x).port j = s.port j := by simp [State.port, look_ins_ne _ _ h]
@[simp] theorem State.grp_setPort (k j : Nat) (x : Port) : (s.setPort k x).grp j = s.grp j := rfl
@[simp] theorem State.team_setPort (k j : Nat) (x : Port) : (s.setPort k x).team j = s.team j := rfl
@[simp] theorem State.felt_setPort (k j : Nat) (x : Port) : (s.setPort k x).felt j = s.felt j := rfl
@[simp] theorem State.task_setPort (k j : Nat) (x : Port) : (s.setPort k x).task j = s.task j := rfl
@[simp] theorem State.ldev_setPort (k j : Nat) (x : Port) : (s.setPort k x).ldev j = s.ldev j := rfl
@[simp] theorem State.die_setPort (k j : Nat) (x : Port) : (s.setPort k x).die j = s.die j := rfl

end Sys2Proof.Machine
end

