-- ==== Sys2Proof/Laws/Unit.lean ====
section
/-! SUPPORT. Running a unit's body step by step, and what issuing a unit leaves. -/

namespace Sys2Proof.Machine

/-! ## The state monad of a unit -/

section Monad
variable {α β : Type}

@[simp] theorem ok_bind (a : α) (f : α → Except Stop β) : (Except.ok a >>= f) = f a := rfl
@[simp] theorem error_bind (e : Stop) (f : α → Except Stop β) : ((Except.error e : Except Stop α) >>= f) = .error e := rfl

/-- What follows a step that ends in `t`. -/
theorem run_bind_ok {x : M α} {f : α → M β} {s t : State} {a : α} (h : x.run s = .ok (a, t)) :
    (x >>= f).run s = (f a).run t := by
  simp [StateT.run_bind, h]

@[simp] theorem run_getG (g : Nat) (s : State) : (getG g).run s = .ok (s.grp g, s) := rfl
@[simp] theorem run_modG (g : Nat) (f : Group → Group) (s : State) : (modG g f).run s = .ok ((), s.modGrp g f) := rfl
@[simp] theorem run_get (s : State) : (get : M State).run s = .ok (s, s) := rfl
@[simp] theorem run_set (s t : State) : (set t : M PUnit).run s = .ok (⟨⟩, t) := rfl
@[simp] theorem run_modify (f : State → State) (s : State) : (modify f : M PUnit).run s = .ok (⟨⟩, f s) := rfl
@[simp] theorem run_pure (a : α) (s : State) : (pure a : M α).run s = .ok (a, s) := rfl
@[simp] theorem run_stop (r : Stop) (s : State) : (stop r : M α).run s = .error r := rfl
@[simp] theorem run_guard_true (r : Stop) (s : State) : (guardM true r).run s = .ok ((), s) := rfl
@[simp] theorem run_guard_false (r : Stop) (s : State) : (guardM false r).run s = .error r := rfl
theorem run_guard {b : Bool} (h : b = true) (r : Stop) (s : State) : (guardM b r).run s = .ok ((), s) := by simp [h]
@[simp] theorem run_trap (c : Nat) (i : W64) (s : State) : (trap c i : M α).run s = .error (.trap c i 0 0 0 0#64) := rfl
@[simp] theorem run_newId (s : State) : newId.run s = .ok (s.nextId, { s with nextId := s.nextId + 1 }) := rfl

end Monad

/-! ## The unit in progress -/

theorem UnitOk.look {s : State} {run : Run} {cx : Cx} {acc : Accepts} {mill : Bool} (h : UnitOk s run cx acc mill) :
    look s.runs (siteOf (s.grp cx.g)) = some run := by
  have hc := h.cur
  rw [State.current, h.own] at hc
  simp only at hc
  split at hc
  · cases hc
  · simp_all

/-- Nothing of a read of an unmapped register is pending for the trap of R156. -/
def noRur (s : State) (g : Nat) : Prop := ∀ r, look s.runs (siteOf (s.grp g)) = some r → r.rur = none

/-- A unit whose checks pass and whose body ends in `t` issues (R19, R30, R32). -/
theorem issue_next {z : Bool} {op : Nat} {acc : Accepts} {mill : Bool} {static : Cx → M Unit} {body : Cx → M Ctl} {s t : State}
    {run : Run} {cx : Cx} {c : Ctl} (h : UnitOk s run cx acc mill) (hs : (static cx).run s = .ok ((), s))
    (hb : (body cx).run s = .ok (c, t)) (hr : ∀ r, look t.runs (siteOf (s.grp cx.g)) = some r → r.rur = none) :
    issue z op acc mill static body s = .next (t.finish cx run z op c) := by
  have hu : (unitBody cx acc mill static body).run s = .ok (c, t) := by
    have hg : (!cx.h.bad && acc.ok cx.h && !(cx.h.pred.isSome && (s.grp cx.g).shadow.isSome) && (mill || (s.grp cx.g).mill.isNone)) = true := by
      rw [h.once, h.hints, h.shadow, h.mill]; rfl
    unfold unitBody
    rw [run_bind_ok (run_getG cx.g s), run_bind_ok (run_guard hg _ s), run_bind_ok hs, h.noBreak]
    simp only []
    rw [run_bind_ok hb, run_bind_ok (run_get t)]
    split
    · rename_i r hl
      rw [hr r hl]; rfl
    · rfl
  rw [issue, h.cur]
  simp [hu, h.probe]

/-- A unit whose own checks raise a trap: nothing of its effect happens. -/
theorem issue_static_error {z : Bool} {op : Nat} {acc : Accepts} {mill : Bool} {static : Cx → M Unit} {body : Cx → M Ctl}
    {s : State} {run : Run} {cx : Cx} {e : Stop} (h : UnitOk s run cx acc mill) (hs : (static cx).run s = .error e) :
    issue z op acc mill static body s = .next ((rurSticky s cx.g e).stopped cx run e) := by
  have hg : (!cx.h.bad && acc.ok cx.h && !(cx.h.pred.isSome && (s.grp cx.g).shadow.isSome) && (mill || (s.grp cx.g).mill.isNone)) = true := by
    rw [h.once, h.hints, h.shadow, h.mill]; rfl
  have hu : (unitBody cx acc mill static body).run s = .error e := by
    unfold unitBody
    rw [run_bind_ok (run_getG cx.g s), run_bind_ok (run_guard hg _ s), StateT.run_bind, hs]; rfl
  rw [issue, h.cur]
  simp only [hu, h.probe]
  cases e <;> rfl

/-- A unit whose body stops. -/
theorem issue_body_error {z : Bool} {op : Nat} {acc : Accepts} {mill : Bool} {static : Cx → M Unit} {body : Cx → M Ctl}
    {s : State} {run : Run} {cx : Cx} {e : Stop} (h : UnitOk s run cx acc mill) (hs : (static cx).run s = .ok ((), s))
    (hb : (body cx).run s = .error e) :
    issue z op acc mill static body s = .next ((rurSticky s cx.g e).stopped cx run e) := by
  have hg : (!cx.h.bad && acc.ok cx.h && !(cx.h.pred.isSome && (s.grp cx.g).shadow.isSome) && (mill || (s.grp cx.g).mill.isNone)) = true := by
    rw [h.once, h.hints, h.shadow, h.mill]; rfl
  have hu : (unitBody cx acc mill static body).run s = .error e := by
    unfold unitBody
    rw [run_bind_ok (run_getG cx.g s), run_bind_ok (run_guard hg _ s), run_bind_ok hs, h.noBreak]
    simp only []
    rw [StateT.run_bind, hb]; rfl
  rw [issue, h.cur]
  simp only [hu, h.probe]
  cases e <;> rfl

/-! ## What issuing leaves -/

/-- Windows and what has arrived: only the operations, the registers they write and the copies in the spill area move. -/
theorem settle_frame (x : Group) :
    settle x = { x with vval := (settle x).vval, sval := (settle x).sval, q := (settle x).q, ops := (settle x).ops, wspill := (settle x).wspill } := by
  have put : ∀ (y : Group) (d : Dest), ∃ v s q, putResult y d = { y with vval := v, sval := s, q := q } := by
    intro y d
    unfold putResult
    split
    · exact ⟨_, _, _, rfl⟩
    · split
      · exact ⟨_, _, _, rfl⟩
      · exact ⟨_, _, _, rfl⟩
  have puts : ∀ (ds : List Dest) (y : Group), ∃ v s q, ds.foldl putResult y = { y with vval := v, sval := s, q := q } := by
    intro ds
    induction ds with
    | nil => intro y; exact ⟨_, _, _, rfl⟩
    | cons d ds ih =>
      intro y
      obtain ⟨v, s, q, e⟩ := put y d
      obtain ⟨v', s', q', e'⟩ := ih (putResult y d)
      rw [e] at e'
      exact ⟨v', s', q', by rw [List.foldl_cons, e, e']⟩
  have all : ∀ (os : List LOp) (y : Group), ∃ v s q, os.foldl (fun x o => o.dests.foldl putResult x) y = { y with vval := v, sval := s, q := q } := by
    intro os
    induction os with
    | nil => intro y; exact ⟨_, _, _, rfl⟩
    | cons o os ih =>
      intro y
      obtain ⟨v, s, q, e⟩ := puts o.dests y
      obtain ⟨v', s', q', e'⟩ := ih (o.dests.foldl putResult y)
      rw [e] at e'
      exact ⟨v', s', q', by rw [List.foldl_cons, e, e']⟩
  obtain ⟨v, s, q, e⟩ := all (x.ops.filter (fun o => o.ready && o.dests.all (fun d => !openWindow x.w o d))) x
  unfold settle
  simp only [e]

/-- With no claim waiting, none is granted (R170). -/
theorem grantClaims_none {s : State} (h : ∀ e ∈ s.groups, claimOf e.2 = none) (site fuel : Nat) : s.grantClaims site fuel = s := by
  cases fuel with
  | zero => rfl
  | succ n =>
    have : s.grantable site = none := by
      unfold State.grantable
      have hf : (s.siteGroups site).filter (fun e => (claimOf e.2).isSome) = [] := by
        simp only [List.filter_eq_nil_iff]
        intro e he
        simp [h e (List.mem_filter.mp he).1]
      simp only [hf, List.find?_nil, Option.map_none]
    simp [State.grantClaims, this]

theorem mem_ins {β : Type} {m : FMap β} {n : Nat} {x : β} {e : Nat × β} (h : e ∈ ins m n x) : e = (n, x) ∨ e ∈ m := by
  induction m with
  | nil => simpa [ins] using h
  | cons a t ih =>
    obtain ⟨k, v⟩ := a
    simp only [ins] at h
    split at h
    · simpa using h
    · split at h
      · rcases List.mem_cons.mp h with h | h
        · exact .inl h
        · exact .inr (List.mem_cons_of_mem _ h)
      · rcases List.mem_cons.mp h with h | h
        · exact .inr (h ▸ List.mem_cons_self)
        · exact (ih h).imp id (List.mem_cons_of_mem _)

theorem look_map {β : Type} (m : FMap β) (f : Nat → β → β) (n : Nat) :
    look (m.map (fun e => (e.1, f e.1 e.2))) n = (look m n).map (f n) := by
  induction m with
  | nil => rfl
  | cons a t ih =>
    obtain ⟨k, v⟩ := a
    by_cases h : k = n
    · subst h; simp [look]
    · simp [look, h, ih]

theorem mem_look {β : Type} {m : FMap β} {n : Nat} {x : β} (h : look m n = some x) : (n, x) ∈ m := by
  induction m with
  | nil => simp at h
  | cons a t ih =>
    obtain ⟨k, v⟩ := a
    simp only [look] at h
    split at h
    · simp_all
    · exact List.mem_cons_of_mem _ (ih h)

/-- With no record waiting, a run's end only takes it off its partition (R20). -/
theorem endRun_plain {s : State} (h : s.sampleRecs = []) (site : Nat) :
    s.endRun site = { s with runs := erase s.runs site, focus := if s.focus == some site then none else s.focus } := by
  have : s.putSamples site = s := by
    unfold State.putSamples
    split
    · rfl
    · rw [h]; simp only [List.filter_nil, List.foldl_nil]; cases s; simp_all
  simp [State.endRun, this]

theorem claimOf_arch (x : Group) : claimOf x.arch = claimOf x := rfl

/-- Every group has what `arch` and the PCs say of it in both states. -/
structure SameArch (s t : State) : Prop where
  arch : ∀ k, (t.grp k).arch = (s.grp k).arch
  pcs : ∀ k, (t.grp k).pcs = (s.grp k).pcs
  claims : (∀ e ∈ s.groups, claimOf e.2 = none) → ∀ e ∈ t.groups, claimOf e.2 = none
  rest : { t with groups := s.groups, runs := s.runs, focus := s.focus } = s

theorem SameArch.refl (s : State) : SameArch s s := ⟨fun _ => rfl, fun _ => rfl, id, rfl⟩

theorem SameArch.trans {s t u : State} (h : SameArch s t) (k : SameArch t u) : SameArch s u where
  arch g := (k.arch g).trans (h.arch g)
  pcs g := (k.pcs g).trans (h.pcs g)
  claims hc := k.claims (h.claims hc)
  rest := by
    have h1 := h.rest
    have h2 := k.rest
    cases s; cases t; cases u
    simp only [State.mk.injEq] at *
    simp_all

/-- A group's counts moved on. -/
theorem sameArch_modGrp (s : State) (g : Nat) (f : Group → Group) (ha : ∀ x, (f x).arch = x.arch) (hp : ∀ x, (f x).pcs = x.pcs) :
    SameArch s (s.modGrp g f) where
  arch k := by
    by_cases h : g = k
    · subst h; simp [ha]
    · simp [State.grp_setGrp_ne _ _ h]
  pcs k := by
    by_cases h : g = k
    · subst h; simp [hp]
    · simp [State.grp_setGrp_ne _ _ h]
  claims hc e he := by
    rcases mem_ins he with rfl | he
    · have : claimOf (f (s.grp g)) = claimOf (s.grp g) := by rw [← claimOf_arch, ha, claimOf_arch]
      rw [this]
      unfold State.grp
      cases hl : look s.groups g with
      | none => rfl
      | some x => exact hc _ (mem_look hl)
    · exact hc e he
  rest := rfl

theorem sameArch_map (s : State) (f : Nat → Group → Group) (ha : ∀ k x, (f k x).arch = x.arch) (hp : ∀ k x, (f k x).pcs = x.pcs) :
    SameArch s { s with groups := s.groups.map (fun e => (e.1, f e.1 e.2)) } where
  arch k := by
    simp only [State.grp, look_map]
    cases look s.groups k <;> simp [ha]
  pcs k := by
    simp only [State.grp, look_map]
    cases look s.groups k <;> simp [hp]
  claims hc e he := by
    obtain ⟨a, ha', rfl⟩ := List.mem_map.mp he
    have : claimOf (f a.1 a.2) = claimOf a.2 := by rw [← claimOf_arch, ha, claimOf_arch]
    exact this.trans (hc a ha')
  rest := rfl

/-- The counts at the end of a run (R77, R108) are no part of what a claim sees. -/
theorem sameArch_runOver {s : State} (h : s.sampleRecs = []) (g : Nat) (act : W64) : SameArch s (s.runOver g act) := by
  have h1 := sameArch_map s (fun k x => if k != g && resident x && siteOf x == siteOf (s.grp g) then { x with waited := x.waited + 1 } else x)
    (fun k x => by split <;> rfl) (fun k x => by split <;> rfl)
  have h2 := sameArch_modGrp { s with groups := s.groups.map (fun e => (e.1, if e.1 != g && resident e.2 && siteOf e.2 == siteOf (s.grp g) then { e.2 with waited := e.2.waited + 1 } else e.2)) } g
    (fun x => { x with waited := 0, runs := satAdd x.runs 1, ages := gen x.w (fun t => if hasLane act t then 0 else lane 0 x.ages t + 1) })
    (fun _ => rfl) (fun _ => rfl)
  have h3 := h1.trans h2
  have e : (fun (e : Nat × Group) => if e.1 != g && resident e.2 && siteOf e.2 == siteOf (s.grp g) then (e.1, { e.2 with waited := e.2.waited + 1 }) else e)
      = (fun e => (e.1, if e.1 != g && resident e.2 && siteOf e.2 == siteOf (s.grp g) then { e.2 with waited := e.2.waited + 1 } else e.2)) := by
    funext e; split <;> rfl
  unfold State.runOver
  simp only [e]
  rw [endRun_plain (by simpa using h)]
  exact h3.trans ⟨fun _ => rfl, fun _ => rfl, id, rfl⟩

theorem settleTick_loops (act : W64) (x : Group) : (settle (tick act x)).loops = x.loops := by
  rw [settle_frame]; unfold tick; split <;> rfl
theorem settleTick_lc (act : W64) (x : Group) : (settle (tick act x)).lc = x.lc := by
  rw [settle_frame]; unfold tick; split <;> rfl

/-- A unit that issues moves its group on as `arch` says, where its group stands at no loop end. -/
theorem issued_arch {cx : Cx} {op : Nat} {c : Ctl} {x : Group} (loop : atLoopEnd x cx.pc = false) :
    (issued cx op c x).arch = (settle (tick cx.act x)).arch := by
  unfold issued Group.arch
  simp only [loop, Bool.false_eq_true, if_false, ← settleTick_loops cx.act x, ← settleTick_lc cx.act x]

theorem issued_pcs {cx : Cx} {op : Nat} {c : Ctl} {x : Group} (loop : atLoopEnd x cx.pc = false) :
    (issued cx op c x).pcs = gen x.w (fun t => if hasLane cx.act t && !hasLane x.exited t then
      (match c.moves.find? (fun e => e.1 == t) with | some e => e.2 | none => cx.pc + 4#64) else lane 0#64 x.pcs t) := by
  unfold issued
  simp only [loop, Bool.false_eq_true, if_false] <;> rfl

/-- Issuing a unit that does nothing more than its effect (R20, R28, R32, R77). -/
theorem finish_leaves {s : State} {cx : Cx} {run : Run} {z : Bool} {op : Nat} {c : Ctl} (calm : Calm s cx.g)
    (loop : atLoopEnd (s.grp cx.g) cx.pc = false) (hx : c.exits = false) (ht : c.trapret = false) (hp : c.post = none)
    (hs : c.stopAfter = none) :
    Leaves s (s.finish cx run z op c) cx (fun u => match c.moves.find? (fun e => e.1 == u) with | some e => e.2 | none => cx.pc + 4#64) := by
  have harch := issued_arch (op := op) (c := c) loop
  have hsite : siteOf ((s.modGrp cx.g (issued cx op c)).grp cx.g) = siteOf (s.grp cx.g) := by
    have : siteOf (issued cx op c (s.grp cx.g)) = siteOf (issued cx op c (s.grp cx.g)).arch := rfl
    simp only [State.modGrp_eq, State.grp_setGrp, this, harch]
    rw [show siteOf (settle (tick cx.act (s.grp cx.g))).arch = siteOf (settle (tick cx.act (s.grp cx.g))) from rfl, settle_frame]
    unfold tick
    split <;> rfl
  have hsample : ∀ n b, (s.modGrp cx.g (issued cx op c)).sampleUnit cx n (s.wordAt cx) b = s.modGrp cx.g (issued cx op c) := by
    intro n b
    unfold State.sampleUnit
    simp only [hsite]
    have : look (s.modGrp cx.g (issued cx op c)).samples (siteOf (s.grp cx.g)) = none := calm.samples
    rw [this]
  have hstep : (issued cx op c (s.grp cx.g)).stepping = false := by
    have : (issued cx op c (s.grp cx.g)).stepping = (issued cx op c (s.grp cx.g)).arch.stepping := rfl
    rw [this, harch, show (settle (tick cx.act (s.grp cx.g))).arch.stepping = (settle (tick cx.act (s.grp cx.g))).stepping from rfl, settle_frame]
    unfold tick
    split <;> exact calm.step
  have hclaim : ∀ e ∈ (s.modGrp cx.g (issued cx op c)).groups, claimOf e.2 = none := by
    intro e he
    rcases mem_ins he with rfl | he
    · have : claimOf (issued cx op c (s.grp cx.g)) = claimOf (s.grp cx.g) := by
        rw [← claimOf_arch, harch, claimOf_arch, settle_frame]
        unfold tick
        split <;> rfl
      rw [this]
      unfold State.grp
      cases hl : look s.groups cx.g with
      | none => rfl
      | some x => exact calm.claims _ (mem_look hl)
    · exact calm.claims e he
  obtain ⟨words, hw⟩ : ∃ w, w = run.words + cx.h.count + 1 := ⟨_, rfl⟩
  obtain ⟨s2, h2⟩ : ∃ s2, s2 = (s.modGrp cx.g (issued cx op c)).countWords cx run words := ⟨_, rfl⟩
  have e2 : SameArch (s.modGrp cx.g (issued cx op c)) s2 := by rw [h2]; exact ⟨fun _ => rfl, fun _ => rfl, id, rfl⟩
  have r2 : s2.sampleRecs = [] := by rw [h2]; exact calm.recs
  have e3 : ∀ fin, SameArch s2 (s2.nextRun cx run words fin c) := by
    intro fin
    unfold State.nextRun
    rw [hx]
    simp only [Bool.false_eq_true, if_false]
    split
    · exact sameArch_runOver r2 cx.g cx.act
    · exact ⟨fun _ => rfl, fun _ => rfl, id, rfl⟩
  have e4 : ∀ fin, ((s2.nextRun cx run words fin c).grantClaims (siteOf (s.grp cx.g)) 16).afterUnit cx c = s2.nextRun cx run words fin c := by
    intro fin
    rw [grantClaims_none ((e3 fin).claims (e2.claims hclaim))]
    unfold State.afterUnit
    simp only [hs, ht, hp, Bool.false_eq_true, if_false]
  have e5 : ∃ fin, s.finish cx run z op c = s2.nextRun cx run words fin c := by
    unfold State.finish
    simp only [hsample, ← hw, ← h2, e4]
    have still : ∀ fin, ((s2.nextRun cx run words fin c).grp cx.g).stepping = false := by
      intro fin
      have h3 := (e2.trans (e3 fin)).arch cx.g
      have : ((s2.nextRun cx run words fin c).grp cx.g).stepping = (((s2.nextRun cx run words fin c).grp cx.g).arch).stepping := rfl
      rw [this, h3]
      simp only [State.modGrp_eq, State.grp_setGrp]
      exact hstep
    have goes : ∀ fin (b : Bool), (if b = true then (s2.nextRun cx run words fin c).stepOver cx.g cx.pc else s2.nextRun cx run words fin c) =
        s2.nextRun cx run words fin c := by
      intro fin b
      unfold State.stepOver
      simp [still]
    exact ⟨_, goes _ _⟩
  obtain ⟨fin, e5⟩ := e5
  have e := e2.trans (e3 fin)
  rw [e5]
  refine ⟨?_, ?_, ?_, ?_⟩
  · rw [e.arch]; simpa using harch
  · intro u hu
    rw [e.pcs]
    simp only [State.modGrp_eq, State.grp_setGrp, issued_pcs loop]
    have := lane_gen 0#64 (fun t => if (hasLane cx.act t && !hasLane (s.grp cx.g).exited t) = true then
      (match c.moves.find? (fun e => e.1 == t) with | some e => e.2 | none => cx.pc + 4#64) else lane 0#64 (s.grp cx.g).pcs t) hu
    exact this
  · intro g hg
    rw [e.arch]
    simp [State.grp_setGrp_ne _ _ (Ne.symm hg)]
  · have := e.rest
    generalize s2.nextRun cx run words fin c = t at this
    cases t; cases s
    simp only [State.modGrp_eq, State.setGrp, State.mk.injEq] at *
    simp_all

end Sys2Proof.Machine
end

