-- ==== Sys2Proof/Laws/Memory.lean ====
section
/-! SUPPORT. What the shared operations on memory can do: which keep the canonical form, and what an agent's look at
memory changes. -/

namespace Sys2Proof.Machine

/-! ## The canonical form -/

theorem memOk_reset : State.reset.memOk := ⟨Mem.wf_nil, Mem.wf_nil⟩

/-- The canonical form is about the two memories alone. -/
theorem memOk_of_eq {s t : State} (h : s.memOk) (hd : t.dmem = s.dmem) (hh : t.hmem = s.hmem) : t.memOk := by
  unfold State.memOk at *
  rw [hd, hh]
  exact h

theorem memOk_wrN_dmem {s : State} (h : s.memOk) (a : Nat) (bs : List W8) : State.memOk { s with dmem := wrN s.dmem a bs } :=
  ⟨wrN_wf h.1 a bs, h.2⟩
theorem memOk_wrN_hmem {s : State} (h : s.memOk) (a : Nat) (bs : List W8) : State.memOk { s with hmem := wrN s.hmem a bs } :=
  ⟨h.1, wrN_wf h.2 a bs⟩
theorem memOk_zeroRange {s : State} (h : s.memOk) (lo n : Nat) : State.memOk { s with dmem := zeroRange s.dmem lo n } :=
  ⟨zeroRange_wf h.1 lo n, h.2⟩

@[simp] theorem scrPut_dmem (s : State) (t a : Nat) (bs : List W8) : (s.scrPut t a bs).dmem = s.dmem := rfl
@[simp] theorem scrPut_hmem (s : State) (t a : Nat) (bs : List W8) : (s.scrPut t a bs).hmem = s.hmem := rfl

theorem memOk_scrPut {s : State} (h : s.memOk) (t a : Nat) (bs : List W8) : (s.scrPut t a bs).memOk :=
  memOk_of_eq h rfl rfl

/-- Names whose entries were stored to: their bytes in device memory are replaced. -/
theorem memOk_spoilNames (es : List Nat) : ∀ {s : State}, s.memOk → (s.spoilNames es).memOk := by
  induction es with
  | nil => intro s h; exact h
  | cons a r ih => intro s h; exact ih (memOk_of_eq (memOk_wrN_dmem h a _) rfl rfl)

theorem memOk_devPut {s : State} (h : s.memOk) (a : Nat) (bs : List W8) : (s.devPut a bs).memOk :=
  memOk_spoilNames _ (memOk_wrN_dmem h a bs)

theorem memOk_writeT {s : State} (h : s.memOk) (t : Target) (bs : List W8) : (s.writeT t bs).memOk := by
  cases t with
  | dev a => exact memOk_devPut h a bs
  | keep a m => exact memOk_devPut h a bs
  | host ld a => exact memOk_wrN_hmem h _ bs
  | cxl ld a => exact memOk_wrN_hmem h _ bs
  | scr t a => exact memOk_scrPut h t a bs

theorem memOk_writeAll (ws : List (Target × List W8)) : ∀ {s : State}, s.memOk → (s.writeAll ws).memOk := by
  induction ws with
  | nil => intro s h; exact h
  | cons w r ih => intro s h; exact ih (memOk_writeT h w.1 w.2)

theorem memOk_setKeep {s : State} (h : s.memOk) (a : Nat) (k : Keep) : (s.setKeep a k).memOk := ⟨wrN_wf h.1 _ _, h.2⟩

theorem memOk_useKeep {s : State} (h : s.memOk) (a : Nat) : (s.useKeep a).memOk := by
  unfold State.useKeep
  split
  · exact h
  · exact memOk_setKeep h a _

theorem memOk_foldl {α : Type} (f : State → α → State) (hf : ∀ s a, s.memOk → (f s a).memOk) (l : List α) :
    ∀ {s : State}, s.memOk → (l.foldl f s).memOk := by
  induction l with
  | nil => intro s h; exact h
  | cons a r ih => intro s h; exact ih (hf s a h)

theorem memOk_useKeeps (size : Nat) (ts : List Target) : ∀ {s : State}, s.memOk → (s.useKeeps size ts).memOk := by
  induction ts with
  | nil => intro s h; exact h
  | cons t r ih =>
    intro s h
    cases t with
    | keep a m => exact ih (memOk_foldl _ (fun s i h => memOk_useKeep h _) _ h)
    | _ => exact ih h

/-! ## What an agent's look at memory changes -/

/-- `t` is `s` after translations and reads: only what is kept from them, and the count of free values, has moved. -/
def Looked (s t : State) : Prop :=
  { t with tlb := s.tlb, walks := s.walks, keepLeaves := s.keepLeaves, atc := s.atc, fresh := s.fresh } = s

theorem Looked.refl (s : State) : Looked s s := rfl

theorem Looked.trans {s t u : State} (h : Looked s t) (k : Looked t u) : Looked s u := by
  unfold Looked at *
  rw [← h, ← k]

theorem Looked.memOk {s t : State} (h : Looked s t) (hm : s.memOk) : t.memOk := by
  unfold Looked at h
  rw [← h] at hm
  exact hm

/-- A sequence that ends has both parts ending. -/
theorem bind_ok {α β : Type} {x : M α} {f : α → M β} {s t : State} {b : β} (h : (x >>= f).run s = .ok (b, t)) :
    ∃ a u, x.run s = .ok (a, u) ∧ (f a).run u = .ok (b, t) := by
  rw [StateT.run_bind] at h
  cases hx : x.run s with
  | error e => rw [hx] at h; cases h
  | ok p => rw [hx] at h; exact ⟨p.1, p.2, rfl, h⟩

theorem pure_ok {α : Type} {s t : State} {a b : α} (h : (pure a : M α).run s = .ok (b, t)) : a = b ∧ s = t := by
  cases h
  exact ⟨rfl, rfl⟩

theorem stop_not_ok {α : Type} {r : Stop} {s t : State} {b : α} (h : (stop r : M α).run s = .ok (b, t)) : False := by cases h

theorem looked_freeVal {s t : State} {v : W64} (h : freeVal.run s = .ok (v, t)) : Looked s t := by
  cases h
  rfl

theorem looked_leafFor {dom : W16} {va : Nat} {s t : State} {r : Except (Nat × Nat) (W64 × Nat)}
    (h : (leafFor dom va).run s = .ok (r, t)) : Looked s t := by
  unfold leafFor at h
  obtain ⟨s0, u, h0, h⟩ := bind_ok h
  cases h0
  have keep : ∀ {u : State} {x : Except (Nat × Nat) (W64 × Nat)}, Looked s u →
      (match x with
        | .ok (p, lv) => (do modify (fun (s : State) => s.cacheLeaf dom va p lv); pure x : M (Except (Nat × Nat) (W64 × Nat)))
        | .error _ => pure x).run u = .ok (r, t) → Looked s t := by
    intro u x hl h
    refine hl.trans ?_
    cases x with
    | error e => cases h; rfl
    | ok p =>
      obtain ⟨pte, lv⟩ := p
      cases h
      rfl
  revert h
  dsimp only
  split
  · intro h
    obtain ⟨x, v, h1, h⟩ := bind_ok h
    cases h1
    exact keep rfl h
  · intro h
    obtain ⟨x, v, h1, h⟩ := bind_ok h
    obtain ⟨w, z, h2, h1⟩ := bind_ok h1
    cases h1
    exact keep (looked_freeVal h2) h

theorem looked_trans {dom : W16} {va : W64} {n : Need} {s t : State} {r : Tr} (h : (trans dom va n).run s = .ok (r, t)) : Looked s t := by
  unfold trans at h
  obtain ⟨l, u, h1, h⟩ := bind_ok h
  have hl := looked_leafFor h1
  refine hl.trans ?_
  rcases l with ⟨code, lv⟩ | ⟨pte, lv⟩
  · cases h; rfl
  · obtain ⟨s0, v, h0, h⟩ := bind_ok h
    cases h0
    revert h
    dsimp only
    repeat' split
    all_goals intro h
    all_goals (cases h; rfl)

theorem looked_agentAt {dom : W16} {va : W64} {n : Need} {s t : State} {r : Target × Used} (h : (agentAt dom va n).run s = .ok (r, t)) :
    Looked s t := by
  unfold agentAt at h
  split at h
  · obtain ⟨_, _, h1, _⟩ := bind_ok h
    cases h1
  · obtain ⟨x, u, h1, h⟩ := bind_ok h
    have hl := looked_trans h1
    revert h
    cases x with
    | ok t u => intro h; cases h; exact hl
    | fault c k l => intro h; cases h
    | miss m =>
      intro h
      obtain ⟨s0, v, h0, h⟩ := bind_ok h
      cases h0
      repeat' split at h
      all_goals cases h

/-- An agent's read changes nothing but what is kept from its translations. -/
theorem looked_agentRead {dom : W16} {need : Need} (fuel : Nat) : ∀ {va : W64} {n : Nat} {s t : State} {bs : List W8},
    (agentRead dom need fuel va n).run s = .ok (bs, t) → Looked s t := by
  induction fuel with
  | zero => intro va n s t bs h; cases h; rfl
  | succ f ih =>
    intro va n s t bs h
    unfold agentRead at h
    split at h
    · cases h; rfl
    · obtain ⟨x, u, h1, h⟩ := bind_ok h
      obtain ⟨s0, v, h0, h⟩ := bind_ok h
      cases h0
      obtain ⟨y, w, h2, h⟩ := bind_ok h
      cases h
      exact (looked_agentAt h1).trans (ih h2)

/-- Nor does working out where an agent's write goes. -/
theorem looked_agentTargets {dom : W16} {need : Need} (fuel : Nat) : ∀ {va : W64} {bs : List W8} {s t : State} {r : List (Target × List W8)},
    (agentTargets dom need fuel va bs).run s = .ok (r, t) → Looked s t := by
  induction fuel with
  | zero => intro va n s t bs h; cases h; rfl
  | succ f ih =>
    intro va n s t bs h
    unfold agentTargets at h
    split at h
    · cases h; rfl
    · obtain ⟨x, u, h1, h⟩ := bind_ok h
      obtain ⟨y, w, h2, h⟩ := bind_ok h
      cases h
      exact (looked_agentAt h1).trans (ih h2)

theorem looked_kread {dom : W16} {va : W64} {n : Nat} {s t : State} {bs : List W8} (h : (kread dom va n).run s = .ok (bs, t)) :
    Looked s t := looked_agentRead _ h

/-- An agent's write that ends: its translations, then all of its bytes at the targets they gave. -/
theorem kwrite_ok {dom : W16} {va : W64} {bs : List W8} {s t : State} {r : Unit} (h : (kwrite dom va bs).run s = .ok (r, t)) :
    ∃ u ws, Looked s u ∧ t = u.writeAll ws := by
  unfold kwrite at h
  obtain ⟨ws, u, h1, h⟩ := bind_ok h
  cases h
  exact ⟨u, ws, looked_agentTargets _ h1, rfl⟩

theorem memOk_kwrite {dom : W16} {va : W64} {bs : List W8} {s t : State} {r : Unit} (h : (kwrite dom va bs).run s = .ok (r, t))
    (hm : s.memOk) : t.memOk := by
  obtain ⟨u, ws, hl, rfl⟩ := kwrite_ok h
  exact memOk_writeAll ws (hl.memOk hm)

end Sys2Proof.Machine
end

