-- ==== Sys2Proof/Laws/PerInstr.lean ====
section
/-! SUPPORT. Facts about each constructor of `Instr` as syntax. -/

namespace Sys2Proof.Laws

/-- An instruction is an event exactly where no word carries it. -/
def Carried.Statement (i : Instr) : Prop := i.isEvent = (encodeWord i).isNone

theorem Carried.himm : ∀ f, Carried.Statement (.himm f) := fun _ => rfl
theorem Carried.hpred : ∀ f, Carried.Statement (.hpred f) := fun _ => rfl
theorem Carried.hmode : ∀ f, Carried.Statement (.hmode f) := fun _ => rfl
theorem Carried.hord : ∀ f, Carried.Statement (.hord f) := fun _ => rfl
theorem Carried.hcache : ∀ f, Carried.Statement (.hcache f) := fun _ => rfl
theorem Carried.htype : ∀ f, Carried.Statement (.htype f) := fun _ => rfl
theorem Carried.bra : ∀ f, Carried.Statement (.bra f) := fun _ => rfl
theorem Carried.call : ∀ f, Carried.Statement (.call f) := fun _ => rfl
theorem Carried.ret : ∀ f, Carried.Statement (.ret f) := fun _ => rfl
theorem Carried.jmpi : ∀ f, Carried.Statement (.jmpi f) := fun _ => rfl
theorem Carried.exit : ∀ f, Carried.Statement (.exit f) := fun _ => rfl
theorem Carried.yield : ∀ f, Carried.Statement (.yield f) := fun _ => rfl
theorem Carried.sleep : ∀ f, Carried.Statement (.sleep f) := fun _ => rfl
theorem Carried.nop : ∀ f, Carried.Statement (.nop f) := fun _ => rfl
theorem Carried.bkpt : ∀ f, Carried.Statement (.bkpt f) := fun _ => rfl
theorem Carried.trap : ∀ f, Carried.Statement (.trap f) := fun _ => rfl
theorem Carried.trapret : ∀ f, Carried.Statement (.trapret f) := fun _ => rfl
theorem Carried.drain : ∀ f, Carried.Statement (.drain f) := fun _ => rfl
theorem Carried.loop : ∀ f, Carried.Statement (.loop f) := fun _ => rfl
theorem Carried.csrr : ∀ f, Carried.Statement (.csrr f) := fun _ => rfl
theorem Carried.csrw : ∀ f, Carried.Statement (.csrw f) := fun _ => rfl
theorem Carried.tlaunch : ∀ f, Carried.Statement (.tlaunch f) := fun _ => rfl
theorem Carried.tsucc : ∀ f, Carried.Statement (.tsucc f) := fun _ => rfl
theorem Carried.icinv : ∀ f, Carried.Statement (.icinv f) := fun _ => rfl
theorem Carried.ifence : ∀ f, Carried.Statement (.ifence f) := fun _ => rfl
theorem Carried.fence : ∀ f, Carried.Statement (.fence f) := fun _ => rfl
theorem Carried.salu0Add : ∀ f, Carried.Statement (.salu0Add f) := fun _ => rfl
theorem Carried.salu0Sub : ∀ f, Carried.Statement (.salu0Sub f) := fun _ => rfl
theorem Carried.salu0And : ∀ f, Carried.Statement (.salu0And f) := fun _ => rfl
theorem Carried.salu0Or : ∀ f, Carried.Statement (.salu0Or f) := fun _ => rfl
theorem Carried.salu0Xor : ∀ f, Carried.Statement (.salu0Xor f) := fun _ => rfl
theorem Carried.salu0Andn : ∀ f, Carried.Statement (.salu0Andn f) := fun _ => rfl
theorem Carried.salu0Shl : ∀ f, Carried.Statement (.salu0Shl f) := fun _ => rfl
theorem Carried.salu0Shr : ∀ f, Carried.Statement (.salu0Shr f) := fun _ => rfl
theorem Carried.salu0Sar : ∀ f, Carried.Statement (.salu0Sar f) := fun _ => rfl
theorem Carried.rotl : ∀ f, Carried.Statement (.rotl f) := fun _ => rfl
theorem Carried.salu0Min : ∀ f, Carried.Statement (.salu0Min f) := fun _ => rfl
theorem Carried.salu0Max : ∀ f, Carried.Statement (.salu0Max f) := fun _ => rfl
theorem Carried.minn : ∀ f, Carried.Statement (.minn f) := fun _ => rfl
theorem Carried.maxn : ∀ f, Carried.Statement (.maxn f) := fun _ => rfl
theorem Carried.salu0Mov : ∀ f, Carried.Statement (.salu0Mov f) := fun _ => rfl
theorem Carried.mul : ∀ f, Carried.Statement (.mul f) := fun _ => rfl
theorem Carried.mulh : ∀ f, Carried.Statement (.mulh f) := fun _ => rfl
theorem Carried.mulhn : ∀ f, Carried.Statement (.mulhn f) := fun _ => rfl
theorem Carried.div : ∀ f, Carried.Statement (.div f) := fun _ => rfl
theorem Carried.divn : ∀ f, Carried.Statement (.divn f) := fun _ => rfl
theorem Carried.rem : ∀ f, Carried.Statement (.rem f) := fun _ => rfl
theorem Carried.remn : ∀ f, Carried.Statement (.remn f) := fun _ => rfl
theorem Carried.popc : ∀ f, Carried.Statement (.popc f) := fun _ => rfl
theorem Carried.clz : ∀ f, Carried.Statement (.clz f) := fun _ => rfl
theorem Carried.ctz : ∀ f, Carried.Statement (.ctz f) := fun _ => rfl
theorem Carried.brev : ∀ f, Carried.Statement (.brev f) := fun _ => rfl
theorem Carried.bfe : ∀ f, Carried.Statement (.bfe f) := fun _ => rfl
theorem Carried.bfi : ∀ f, Carried.Statement (.bfi f) := fun _ => rfl
theorem Carried.abs : ∀ f, Carried.Statement (.abs f) := fun _ => rfl
theorem Carried.neg : ∀ f, Carried.Statement (.neg f) := fun _ => rfl
theorem Carried.scmp : ∀ f, Carried.Statement (.scmp f) := fun _ => rfl
theorem Carried.addi : ∀ f, Carried.Statement (.addi f) := fun _ => rfl
theorem Carried.andi : ∀ f, Carried.Statement (.andi f) := fun _ => rfl
theorem Carried.ori : ∀ f, Carried.Statement (.ori f) := fun _ => rfl
theorem Carried.xori : ∀ f, Carried.Statement (.xori f) := fun _ => rfl
theorem Carried.shli : ∀ f, Carried.Statement (.shli f) := fun _ => rfl
theorem Carried.shri : ∀ f, Carried.Statement (.shri f) := fun _ => rfl
theorem Carried.sari : ∀ f, Carried.Statement (.sari f) := fun _ => rfl
theorem Carried.rotli : ∀ f, Carried.Statement (.rotli f) := fun _ => rfl
theorem Carried.movi : ∀ f, Carried.Statement (.movi f) := fun _ => rfl
theorem Carried.lea : ∀ f, Carried.Statement (.lea f) := fun _ => rfl
theorem Carried.vgive : ∀ f, Carried.Statement (.vgive f) := fun _ => rfl
theorem Carried.vclaim : ∀ f, Carried.Statement (.vclaim f) := fun _ => rfl
theorem Carried.vfree : ∀ f, Carried.Statement (.vfree f) := fun _ => rfl
theorem Carried.vstat : ∀ f, Carried.Statement (.vstat f) := fun _ => rfl
theorem Carried.vmovs : ∀ f, Carried.Statement (.vmovs f) := fun _ => rfl
theorem Carried.vmovsFirst : ∀ f, Carried.Statement (.vmovsFirst f) := fun _ => rfl
theorem Carried.vmovsD : ∀ f, Carried.Statement (.vmovsD f) := fun _ => rfl
theorem Carried.vmovsFirstD : ∀ f, Carried.Statement (.vmovsFirstD f) := fun _ => rfl
theorem Carried.iadd : ∀ f, Carried.Statement (.iadd f) := fun _ => rfl
theorem Carried.isub : ∀ f, Carried.Statement (.isub f) := fun _ => rfl
theorem Carried.imul : ∀ f, Carried.Statement (.imul f) := fun _ => rfl
theorem Carried.imulh : ∀ f, Carried.Statement (.imulh f) := fun _ => rfl
theorem Carried.imad : ∀ f, Carried.Statement (.imad f) := fun _ => rfl
theorem Carried.idiv : ∀ f, Carried.Statement (.idiv f) := fun _ => rfl
theorem Carried.irem : ∀ f, Carried.Statement (.irem f) := fun _ => rfl
theorem Carried.imin : ∀ f, Carried.Statement (.imin f) := fun _ => rfl
theorem Carried.imax : ∀ f, Carried.Statement (.imax f) := fun _ => rfl
theorem Carried.and : ∀ f, Carried.Statement (.and f) := fun _ => rfl
theorem Carried.andn : ∀ f, Carried.Statement (.andn f) := fun _ => rfl
theorem Carried.or : ∀ f, Carried.Statement (.or f) := fun _ => rfl
theorem Carried.orn : ∀ f, Carried.Statement (.orn f) := fun _ => rfl
theorem Carried.xor : ∀ f, Carried.Statement (.xor f) := fun _ => rfl
theorem Carried.xnor : ∀ f, Carried.Statement (.xnor f) := fun _ => rfl
theorem Carried.shl : ∀ f, Carried.Statement (.shl f) := fun _ => rfl
theorem Carried.shr : ∀ f, Carried.Statement (.shr f) := fun _ => rfl
theorem Carried.sar : ∀ f, Carried.Statement (.sar f) := fun _ => rfl
theorem Carried.icmp : ∀ f, Carried.Statement (.icmp f) := fun _ => rfl
theorem Carried.icmpand : ∀ f, Carried.Statement (.icmpand f) := fun _ => rfl
theorem Carried.sel : ∀ f, Carried.Statement (.sel f) := fun _ => rfl
theorem Carried.selNotP0 : ∀ f, Carried.Statement (.selNotP0 f) := fun _ => rfl
theorem Carried.iaddi : ∀ f, Carried.Statement (.iaddi f) := fun _ => rfl
theorem Carried.fadd : ∀ f, Carried.Statement (.fadd f) := fun _ => rfl
theorem Carried.fsub : ∀ f, Carried.Statement (.fsub f) := fun _ => rfl
theorem Carried.fmul : ∀ f, Carried.Statement (.fmul f) := fun _ => rfl
theorem Carried.ffma : ∀ f, Carried.Statement (.ffma f) := fun _ => rfl
theorem Carried.fnma : ∀ f, Carried.Statement (.fnma f) := fun _ => rfl
theorem Carried.fmin : ∀ f, Carried.Statement (.fmin f) := fun _ => rfl
theorem Carried.fminnan : ∀ f, Carried.Statement (.fminnan f) := fun _ => rfl
theorem Carried.fmax : ∀ f, Carried.Statement (.fmax f) := fun _ => rfl
theorem Carried.fmaxnan : ∀ f, Carried.Statement (.fmaxnan f) := fun _ => rfl
theorem Carried.fcmp : ∀ f, Carried.Statement (.fcmp f) := fun _ => rfl
theorem Carried.fcmpand : ∀ f, Carried.Statement (.fcmpand f) := fun _ => rfl
theorem Carried.fdiv : ∀ f, Carried.Statement (.fdiv f) := fun _ => rfl
theorem Carried.funAbs : ∀ f, Carried.Statement (.funAbs f) := fun _ => rfl
theorem Carried.funNeg : ∀ f, Carried.Statement (.funNeg f) := fun _ => rfl
theorem Carried.funSqrt : ∀ f, Carried.Statement (.funSqrt f) := fun _ => rfl
theorem Carried.funRcp : ∀ f, Carried.Statement (.funRcp f) := fun _ => rfl
theorem Carried.funRsq : ∀ f, Carried.Statement (.funRsq f) := fun _ => rfl
theorem Carried.funExp2 : ∀ f, Carried.Statement (.funExp2 f) := fun _ => rfl
theorem Carried.funLog2 : ∀ f, Carried.Statement (.funLog2 f) := fun _ => rfl
theorem Carried.funSin : ∀ f, Carried.Statement (.funSin f) := fun _ => rfl
theorem Carried.funCos : ∀ f, Carried.Statement (.funCos f) := fun _ => rfl
theorem Carried.funTanh : ∀ f, Carried.Statement (.funTanh f) := fun _ => rfl
theorem Carried.funFloor : ∀ f, Carried.Statement (.funFloor f) := fun _ => rfl
theorem Carried.funCeil : ∀ f, Carried.Statement (.funCeil f) := fun _ => rfl
theorem Carried.funTrunc : ∀ f, Carried.Statement (.funTrunc f) := fun _ => rfl
theorem Carried.funRint : ∀ f, Carried.Statement (.funRint f) := fun _ => rfl
theorem Carried.funFrac : ∀ f, Carried.Statement (.funFrac f) := fun _ => rfl
theorem Carried.dadd : ∀ f, Carried.Statement (.dadd f) := fun _ => rfl
theorem Carried.dsub : ∀ f, Carried.Statement (.dsub f) := fun _ => rfl
theorem Carried.dmul : ∀ f, Carried.Statement (.dmul f) := fun _ => rfl
theorem Carried.dfma : ∀ f, Carried.Statement (.dfma f) := fun _ => rfl
theorem Carried.dnma : ∀ f, Carried.Statement (.dnma f) := fun _ => rfl
theorem Carried.iunMov : ∀ f, Carried.Statement (.iunMov f) := fun _ => rfl
theorem Carried.iunNot : ∀ f, Carried.Statement (.iunNot f) := fun _ => rfl
theorem Carried.iunNeg : ∀ f, Carried.Statement (.iunNeg f) := fun _ => rfl
theorem Carried.iunAbs : ∀ f, Carried.Statement (.iunAbs f) := fun _ => rfl
theorem Carried.iunPopc : ∀ f, Carried.Statement (.iunPopc f) := fun _ => rfl
theorem Carried.iunClz : ∀ f, Carried.Statement (.iunClz f) := fun _ => rfl
theorem Carried.iunCtz : ∀ f, Carried.Statement (.iunCtz f) := fun _ => rfl
theorem Carried.iunBrev : ∀ f, Carried.Statement (.iunBrev f) := fun _ => rfl
theorem Carried.iunBswap : ∀ f, Carried.Statement (.iunBswap f) := fun _ => rfl
theorem Carried.iunXnib : ∀ f, Carried.Statement (.iunXnib f) := fun _ => rfl
theorem Carried.iunXnibn : ∀ f, Carried.Statement (.iunXnibn f) := fun _ => rfl
theorem Carried.iunXbyte : ∀ f, Carried.Statement (.iunXbyte f) := fun _ => rfl
theorem Carried.iunXbyten : ∀ f, Carried.Statement (.iunXbyten f) := fun _ => rfl
theorem Carried.iunInsnib : ∀ f, Carried.Statement (.iunInsnib f) := fun _ => rfl
theorem Carried.dcmp : ∀ f, Carried.Statement (.dcmp f) := fun _ => rfl
theorem Carried.dcmpand : ∀ f, Carried.Statement (.dcmpand f) := fun _ => rfl
theorem Carried.dunAbs : ∀ f, Carried.Statement (.dunAbs f) := fun _ => rfl
theorem Carried.dunNeg : ∀ f, Carried.Statement (.dunNeg f) := fun _ => rfl
theorem Carried.dunSqrt : ∀ f, Carried.Statement (.dunSqrt f) := fun _ => rfl
theorem Carried.dunFloor : ∀ f, Carried.Statement (.dunFloor f) := fun _ => rfl
theorem Carried.dunCeil : ∀ f, Carried.Statement (.dunCeil f) := fun _ => rfl
theorem Carried.dunTrunc : ∀ f, Carried.Statement (.dunTrunc f) := fun _ => rfl
theorem Carried.dunRint : ∀ f, Carried.Statement (.dunRint f) := fun _ => rfl
theorem Carried.ddiv : ∀ f, Carried.Statement (.ddiv f) := fun _ => rfl
theorem Carried.cvt : ∀ f, Carried.Statement (.cvt f) := fun _ => rfl
theorem Carried.cvtn : ∀ f, Carried.Statement (.cvtn f) := fun _ => rfl
theorem Carried.cvtb : ∀ f, Carried.Statement (.cvtb f) := fun _ => rfl
theorem Carried.cvtbHdr : ∀ f, Carried.Statement (.cvtbHdr f) := fun _ => rfl
theorem Carried.cvtm : ∀ f, Carried.Statement (.cvtm f) := fun _ => rfl
theorem Carried.shflAbs : ∀ f, Carried.Statement (.shflAbs f) := fun _ => rfl
theorem Carried.shflRel : ∀ f, Carried.Statement (.shflRel f) := fun _ => rfl
theorem Carried.shfliBc : ∀ f, Carried.Statement (.shfliBc f) := fun _ => rfl
theorem Carried.shfliRot : ∀ f, Carried.Statement (.shfliRot f) := fun _ => rfl
theorem Carried.shfliRev : ∀ f, Carried.Statement (.shfliRev f) := fun _ => rfl
theorem Carried.shfliSwap : ∀ f, Carried.Statement (.shfliSwap f) := fun _ => rfl
theorem Carried.voteMask : ∀ f, Carried.Statement (.voteMask f) := fun _ => rfl
theorem Carried.voteCount : ∀ f, Carried.Statement (.voteCount f) := fun _ => rfl
theorem Carried.voteFirst : ∀ f, Carried.Statement (.voteFirst f) := fun _ => rfl
theorem Carried.voteLast : ∀ f, Carried.Statement (.voteLast f) := fun _ => rfl
theorem Carried.voteParity : ∀ f, Carried.Statement (.voteParity f) := fun _ => rfl
theorem Carried.voteFull : ∀ f, Carried.Statement (.voteFull f) := fun _ => rfl
theorem Carried.voteEmpty : ∀ f, Carried.Statement (.voteEmpty f) := fun _ => rfl
theorem Carried.reduxAdd : ∀ f, Carried.Statement (.reduxAdd f) := fun _ => rfl
theorem Carried.reduxMin : ∀ f, Carried.Statement (.reduxMin f) := fun _ => rfl
theorem Carried.reduxMax : ∀ f, Carried.Statement (.reduxMax f) := fun _ => rfl
theorem Carried.reduxAnd : ∀ f, Carried.Statement (.reduxAnd f) := fun _ => rfl
theorem Carried.reduxOr : ∀ f, Carried.Statement (.reduxOr f) := fun _ => rfl
theorem Carried.reduxXor : ∀ f, Carried.Statement (.reduxXor f) := fun _ => rfl
theorem Carried.scanAdd : ∀ f, Carried.Statement (.scanAdd f) := fun _ => rfl
theorem Carried.scanMin : ∀ f, Carried.Statement (.scanMin f) := fun _ => rfl
theorem Carried.scanMax : ∀ f, Carried.Statement (.scanMax f) := fun _ => rfl
theorem Carried.scanAnd : ∀ f, Carried.Statement (.scanAnd f) := fun _ => rfl
theorem Carried.scanOr : ∀ f, Carried.Statement (.scanOr f) := fun _ => rfl
theorem Carried.scanXor : ∀ f, Carried.Statement (.scanXor f) := fun _ => rfl
theorem Carried.matchPair : ∀ f, Carried.Statement (.matchPair f) := fun _ => rfl
theorem Carried.matchMask : ∀ f, Carried.Statement (.matchMask f) := fun _ => rfl
theorem Carried.pmovTop : ∀ f, Carried.Statement (.pmovTop f) := fun _ => rfl
theorem Carried.pmovFromp : ∀ f, Carried.Statement (.pmovFromp f) := fun _ => rfl
theorem Carried.pmovAnd : ∀ f, Carried.Statement (.pmovAnd f) := fun _ => rfl
theorem Carried.pmovOr : ∀ f, Carried.Statement (.pmovOr f) := fun _ => rfl
theorem Carried.pmovXor : ∀ f, Carried.Statement (.pmovXor f) := fun _ => rfl
theorem Carried.pmovNot : ∀ f, Carried.Statement (.pmovNot f) := fun _ => rfl
theorem Carried.pmovFroms : ∀ f, Carried.Statement (.pmovFroms f) := fun _ => rfl
theorem Carried.ldb : ∀ f, Carried.Statement (.ldb f) := fun _ => rfl
theorem Carried.ldh : ∀ f, Carried.Statement (.ldh f) := fun _ => rfl
theorem Carried.ldw : ∀ f, Carried.Statement (.ldw f) := fun _ => rfl
theorem Carried.ldd : ∀ f, Carried.Statement (.ldd f) := fun _ => rfl
theorem Carried.ldq : ∀ f, Carried.Statement (.ldq f) := fun _ => rfl
theorem Carried.stb : ∀ f, Carried.Statement (.stb f) := fun _ => rfl
theorem Carried.sth : ∀ f, Carried.Statement (.sth f) := fun _ => rfl
theorem Carried.stw : ∀ f, Carried.Statement (.stw f) := fun _ => rfl
theorem Carried.std : ∀ f, Carried.Statement (.std f) := fun _ => rfl
theorem Carried.stq : ∀ f, Carried.Statement (.stq f) := fun _ => rfl
theorem Carried.ldv : ∀ f, Carried.Statement (.ldv f) := fun _ => rfl
theorem Carried.pref : ∀ f, Carried.Statement (.pref f) := fun _ => rfl
theorem Carried.aadd : ∀ f, Carried.Statement (.aadd f) := fun _ => rfl
theorem Carried.amin : ∀ f, Carried.Statement (.amin f) := fun _ => rfl
theorem Carried.amax : ∀ f, Carried.Statement (.amax f) := fun _ => rfl
theorem Carried.aand : ∀ f, Carried.Statement (.aand f) := fun _ => rfl
theorem Carried.aor : ∀ f, Carried.Statement (.aor f) := fun _ => rfl
theorem Carried.axor : ∀ f, Carried.Statement (.axor f) := fun _ => rfl
theorem Carried.axchg : ∀ f, Carried.Statement (.axchg f) := fun _ => rfl
theorem Carried.acas : ∀ f, Carried.Statement (.acas f) := fun _ => rfl
theorem Carried.afadd : ∀ f, Carried.Statement (.afadd f) := fun _ => rfl
theorem Carried.kld : ∀ f, Carried.Statement (.kld f) := fun _ => rfl
theorem Carried.kst : ∀ f, Carried.Statement (.kst f) := fun _ => rfl
theorem Carried.krec : ∀ f, Carried.Statement (.krec f) := fun _ => rfl
theorem Carried.cpy : ∀ f, Carried.Statement (.cpy f) := fun _ => rfl
theorem Carried.cpyq : ∀ f, Carried.Statement (.cpyq f) := fun _ => rfl
theorem Carried.cwait : ∀ f, Carried.Statement (.cwait f) := fun _ => rfl
theorem Carried.ctest : ∀ f, Carried.Statement (.ctest f) := fun _ => rfl
theorem Carried.ccancel : ∀ f, Carried.Statement (.ccancel f) := fun _ => rfl
theorem Carried.mma : ∀ f, Carried.Statement (.mma f) := fun _ => rfl
theorem Carried.mrdy : ∀ f, Carried.Statement (.mrdy f) := fun _ => rfl
theorem Carried.mwait : ∀ f, Carried.Statement (.mwait f) := fun _ => rfl
theorem Carried.macc : ∀ f, Carried.Statement (.macc f) := fun _ => rfl
theorem Carried.mstat : ∀ f, Carried.Statement (.mstat f) := fun _ => rfl
theorem Carried.wload : ∀ f, Carried.Statement (.wload f) := fun _ => rfl
theorem Carried.wloadScratch : ∀ f, Carried.Statement (.wloadScratch f) := fun _ => rfl
theorem Carried.wupd : ∀ f, Carried.Statement (.wupd f) := fun _ => rfl
theorem Carried.wqry : ∀ f, Carried.Statement (.wqry f) := fun _ => rfl
theorem Carried.wqryExcl : ∀ f, Carried.Statement (.wqryExcl f) := fun _ => rfl
theorem Carried.wfind : ∀ f, Carried.Statement (.wfind f) := fun _ => rfl
theorem Carried.wcut : ∀ f, Carried.Statement (.wcut f) := fun _ => rfl
theorem Carried.wopRoot : ∀ f, Carried.Statement (.wopRoot f) := fun _ => rfl
theorem Carried.wopClear : ∀ f, Carried.Statement (.wopClear f) := fun _ => rfl
theorem Carried.wopGet : ∀ f, Carried.Statement (.wopGet f) := fun _ => rfl
theorem Carried.wopSet : ∀ f, Carried.Statement (.wopSet f) := fun _ => rfl
theorem Carried.wopSave : ∀ f, Carried.Statement (.wopSave f) := fun _ => rfl
theorem Carried.wopRestore : ∀ f, Carried.Statement (.wopRestore f) := fun _ => rfl
theorem Carried.wopStat : ∀ f, Carried.Statement (.wopStat f) := fun _ => rfl
theorem Carried.wopCutptr : ∀ f, Carried.Statement (.wopCutptr f) := fun _ => rfl
theorem Carried.nwake : ∀ f, Carried.Statement (.nwake f) := fun _ => rfl
theorem Carried.nsig : ∀ f, Carried.Statement (.nsig f) := fun _ => rfl
theorem Carried.ndep : ∀ f, Carried.Statement (.ndep f) := fun _ => rfl
theorem Carried.njoin : ∀ f, Carried.Statement (.njoin f) := fun _ => rfl
theorem Carried.nwait : ∀ f, Carried.Statement (.nwait f) := fun _ => rfl
theorem Carried.barInit : ∀ f, Carried.Statement (.barInit f) := fun _ => rfl
theorem Carried.barArv : ∀ f, Carried.Statement (.barArv f) := fun _ => rfl
theorem Carried.barWait : ∀ f, Carried.Statement (.barWait f) := fun _ => rfl
theorem Carried.barSync : ∀ f, Carried.Statement (.barSync f) := fun _ => rfl
theorem Carried.barFarv : ∀ f, Carried.Statement (.barFarv f) := fun _ => rfl
theorem Carried.barFwait : ∀ f, Carried.Statement (.barFwait f) := fun _ => rfl
theorem Carried.barFsync : ∀ f, Carried.Statement (.barFsync f) := fun _ => rfl
theorem Carried.barTest : ∀ f, Carried.Statement (.barTest f) := fun _ => rfl
theorem Carried.bandInit : ∀ f, Carried.Statement (.bandInit f) := fun _ => rfl
theorem Carried.bandPut : ∀ f, Carried.Statement (.bandPut f) := fun _ => rfl
theorem Carried.bandTake : ∀ f, Carried.Statement (.bandTake f) := fun _ => rfl
theorem Carried.bandDone : ∀ f, Carried.Statement (.bandDone f) := fun _ => rfl
theorem Carried.bandTest : ∀ f, Carried.Statement (.bandTest f) := fun _ => rfl
theorem Carried.runSelect : ∀ at_, Carried.Statement (.runSelect at_) := fun _ => rfl
theorem Carried.longLatencyResult : ∀ op, Carried.Statement (.longLatencyResult op) := fun _ => rfl
theorem Carried.storeAcknowledge : ∀ gid entry scope, Carried.Statement (.storeAcknowledge gid entry scope) := fun _ _ _ => rfl
theorem Carried.atomicPerform : ∀ op, Carried.Statement (.atomicPerform op) := fun _ => rfl
theorem Carried.keepWriteApply : ∀ op, Carried.Statement (.keepWriteApply op) := fun _ => rfl
theorem Carried.keepReconcileApply : ∀ op, Carried.Statement (.keepReconcileApply op) := fun _ => rfl
theorem Carried.translationAnswer : ∀ ld pasid page ans, Carried.Statement (.translationAnswer ld pasid page ans) := fun _ _ _ _ => rfl
theorem Carried.pageRequestResponse : ∀ ld prg resp, Carried.Statement (.pageRequestResponse ld prg resp) := fun _ _ _ => rfl
theorem Carried.pageRequestTimeout : ∀ ld prg, Carried.Statement (.pageRequestTimeout ld prg) := fun _ _ => rfl
theorem Carried.parkTimeout : ∀ gid, Carried.Statement (.parkTimeout gid) := fun _ => rfl
theorem Carried.sleepExpiry : ∀ gid, Carried.Statement (.sleepExpiry gid) := fun _ => rfl
theorem Carried.nwaitTimeout : ∀ gid, Carried.Statement (.nwaitTimeout gid) := fun _ => rfl
theorem Carried.njoinTimeout : ∀ gid, Carried.Statement (.njoinTimeout gid) := fun _ => rfl
theorem Carried.claimDeadlockDetect : ∀ core part, Carried.Statement (.claimDeadlockDetect core part) := fun _ _ => rfl
theorem Carried.fpThreshold : ∀ task, Carried.Statement (.fpThreshold task) := fun _ => rfl
theorem Carried.nameOperationApply : ∀ op, Carried.Statement (.nameOperationApply op) := fun _ => rfl
theorem Carried.groupNameDead : ∀ gid, Carried.Statement (.groupNameDead gid) := fun _ => rfl
theorem Carried.teamRetire : ∀ team, Carried.Statement (.teamRetire team) := fun _ => rfl
theorem Carried.taskRetire : ∀ task, Carried.Statement (.taskRetire task) := fun _ => rfl
theorem Carried.launchPacketConsume : ∀ queue, Carried.Statement (.launchPacketConsume queue) := fun _ => rfl
theorem Carried.feltPlacement : ∀ ld, Carried.Statement (.feltPlacement ld) := fun _ => rfl
theorem Carried.drainLimit : ∀ task, Carried.Statement (.drainLimit task) := fun _ => rfl
theorem Carried.saveGroup : ∀ gid, Carried.Statement (.saveGroup gid) := fun _ => rfl
theorem Carried.placeSavedGroup : ∀ gid, Carried.Statement (.placeSavedGroup gid) := fun _ => rfl
theorem Carried.copyCommandStart : ∀ cmd, Carried.Statement (.copyCommandStart cmd) := fun _ => rfl
theorem Carried.copyUnitChunk : ∀ core pick, Carried.Statement (.copyUnitChunk core pick) := fun _ _ => rfl
theorem Carried.copyQueueConsume : ∀ queue, Carried.Statement (.copyQueueConsume queue) := fun _ => rfl
theorem Carried.sharedEngineChunk : ∀ die pick, Carried.Statement (.sharedEngineChunk die pick) := fun _ _ => rfl
theorem Carried.fabricRequestTimeout : ∀ cmd, Carried.Statement (.fabricRequestTimeout cmd) := fun _ => rfl
theorem Carried.matrixOperationStart : ∀ team, Carried.Statement (.matrixOperationStart team) := fun _ => rfl
theorem Carried.matrixOperationComplete : ∀ team differs, Carried.Statement (.matrixOperationComplete team differs) := fun _ _ => rfl
theorem Carried.maccPerform : ∀ team, Carried.Statement (.maccPerform team) := fun _ => rfl
theorem Carried.storageError : ∀ where_, Carried.Statement (.storageError where_) := fun _ => rfl
theorem Carried.budgetPeriod : ∀ die, Carried.Statement (.budgetPeriod die) := fun _ => rfl
theorem Carried.sampleTag : ∀ core part, Carried.Statement (.sampleTag core part) := fun _ _ => rfl
theorem Carried.ethernetFrameReceive : ∀ die port frame, Carried.Statement (.ethernetFrameReceive die port frame) := fun _ _ _ => rfl
theorem Carried.ingestRoffPoll : ∀ die port, Carried.Statement (.ingestRoffPoll die port) := fun _ _ => rfl
theorem Carried.fileskWindowAccess : ∀ ld port acc, Carried.Statement (.fileskWindowAccess ld port acc) := fun _ _ _ => rfl
theorem Carried.hostMemoryRead : ∀ ld addr size, Carried.Statement (.hostMemoryRead ld addr size) := fun _ _ _ => rfl
theorem Carried.hostMemoryWrite : ∀ ld addr bytes, Carried.Statement (.hostMemoryWrite ld addr bytes) := fun _ _ _ => rfl
theorem Carried.hostAtomicop : ∀ ld op addr size a b, Carried.Statement (.hostAtomicop ld op addr size a b) := fun _ _ _ _ _ _ => rfl
theorem Carried.registerWrite : ∀ ld offset bytes, Carried.Statement (.registerWrite ld offset bytes) := fun _ _ _ => rfl
theorem Carried.invalidateRange : ∀ ld c, Carried.Statement (.invalidateRange ld c) := fun _ _ => rfl
theorem Carried.invalidateDomain : ∀ ld c, Carried.Statement (.invalidateDomain ld c) := fun _ _ => rfl
theorem Carried.invalidateAll : ∀ ld c, Carried.Statement (.invalidateAll ld c) := fun _ _ => rfl
theorem Carried.invalidationComplete : ∀ ld, Carried.Statement (.invalidationComplete ld) := fun _ => rfl
theorem Carried.atsInvalidateRequest : ∀ ld pasid page log2, Carried.Statement (.atsInvalidateRequest ld pasid page log2) := fun _ _ _ _ => rfl
theorem Carried.atsInvalidateCompletion : ∀ ld, Carried.Statement (.atsInvalidateCompletion ld) := fun _ => rfl
theorem Carried.wake : ∀ ld r, Carried.Statement (.wake ld r) := fun _ _ => rfl
theorem Carried.sig : ∀ ld r, Carried.Statement (.sig ld r) := fun _ _ => rfl
theorem Carried.dep : ∀ ld r, Carried.Statement (.dep ld r) := fun _ _ => rfl
theorem Carried.join : ∀ ld r, Carried.Statement (.join ld r) := fun _ _ => rfl
theorem Carried.portJoinTimeout : ∀ ld port ticket, Carried.Statement (.portJoinTimeout ld port ticket) := fun _ _ _ => rfl
theorem Carried.clear : ∀ ld r, Carried.Statement (.clear ld r) := fun _ _ => rfl
theorem Carried.regq : ∀ c, Carried.Statement (.regq c) := fun _ => rfl
theorem Carried.resetq : ∀ c, Carried.Statement (.resetq c) := fun _ => rfl
theorem Carried.faultring : ∀ c, Carried.Statement (.faultring c) := fun _ => rfl
theorem Carried.ctxpool : ∀ c, Carried.Statement (.ctxpool c) := fun _ => rfl
theorem Carried.preempt : ∀ c, Carried.Statement (.preempt c) := fun _ => rfl
theorem Carried.release : ∀ c, Carried.Statement (.release c) := fun _ => rfl
theorem Carried.swapout : ∀ c, Carried.Statement (.swapout c) := fun _ => rfl
theorem Carried.swapin : ∀ c, Carried.Statement (.swapin c) := fun _ => rfl
theorem Carried.endtask : ∀ c, Carried.Statement (.endtask c) := fun _ => rfl
theorem Carried.namehost : ∀ c, Carried.Statement (.namehost c) := fun _ => rfl
theorem Carried.namedrop : ∀ c, Carried.Statement (.namedrop c) := fun _ => rfl
theorem Carried.namerights : ∀ c, Carried.Statement (.namerights c) := fun _ => rfl
theorem Carried.namefree : ∀ c, Carried.Statement (.namefree c) := fun _ => rfl
theorem Carried.pagereq : ∀ c, Carried.Statement (.pagereq c) := fun _ => rfl
theorem Carried.attach : ∀ c, Carried.Statement (.attach c) := fun _ => rfl
theorem Carried.halt : ∀ c, Carried.Statement (.halt c) := fun _ => rfl
theorem Carried.resume : ∀ c, Carried.Statement (.resume c) := fun _ => rfl
theorem Carried.step : ∀ c, Carried.Statement (.step c) := fun _ => rfl
theorem Carried.brk : ∀ c, Carried.Statement (.brk c) := fun _ => rfl
theorem Carried.watch : ∀ c, Carried.Statement (.watch c) := fun _ => rfl
theorem Carried.readreg : ∀ c, Carried.Statement (.readreg c) := fun _ => rfl
theorem Carried.writereg : ∀ c, Carried.Statement (.writereg c) := fun _ => rfl
theorem Carried.sample : ∀ c, Carried.Statement (.sample c) := fun _ => rfl
theorem Carried.trace : ∀ c, Carried.Statement (.trace c) := fun _ => rfl
theorem Carried.readctr : ∀ c, Carried.Statement (.readctr c) := fun _ => rfl
theorem Carried.timesnap : ∀ c, Carried.Statement (.timesnap c) := fun _ => rfl
theorem Carried.lifetime : ∀ c, Carried.Statement (.lifetime c) := fun _ => rfl
theorem Carried.mhalt : ∀ c, Carried.Statement (.mhalt c) := fun _ => rfl
theorem Carried.fwset : ∀ c, Carried.Statement (.fwset c) := fun _ => rfl
theorem Carried.budgetset : ∀ c, Carried.Statement (.budgetset c) := fun _ => rfl
theorem Carried.preset : ∀ c, Carried.Statement (.preset c) := fun _ => rfl
theorem Carried.avoidset : ∀ c, Carried.Statement (.avoidset c) := fun _ => rfl
theorem Carried.portmode : ∀ c, Carried.Statement (.portmode c) := fun _ => rfl
theorem Carried.sliceset : ∀ c, Carried.Statement (.sliceset c) := fun _ => rfl
theorem Carried.cfgread : ∀ c, Carried.Statement (.cfgread c) := fun _ => rfl
theorem Carried.lockInterfaceRequest : ∀ ld, Carried.Statement (.lockInterfaceRequest ld) := fun _ => rfl
theorem Carried.startInterfaceRequest : ∀ ld, Carried.Statement (.startInterfaceRequest ld) := fun _ => rfl
theorem Carried.stopInterfaceRequest : ∀ ld, Carried.Statement (.stopInterfaceRequest ld) := fun _ => rfl
theorem Carried.functionLevelReset : ∀ ld, Carried.Statement (.functionLevelReset ld) := fun _ => rfl
theorem Carried.ideIntegrityFailure : ∀ ld, Carried.Statement (.ideIntegrityFailure ld) := fun _ => rfl
theorem Carried.interfaceReport : ∀ ld, Carried.Statement (.interfaceReport ld) := fun _ => rfl
theorem Carried.moduleReset : ∀ img, Carried.Statement (.moduleReset img) := fun _ => rfl
theorem Carried.dieJoin : ∀ die, Carried.Statement (.dieJoin die) := fun _ => rfl
theorem Carried.dieJoinTimeout : ∀ die, Carried.Statement (.dieJoinTimeout die) := fun _ => rfl
theorem Carried.fileskLinkTrain : ∀ port peer, Carried.Statement (.fileskLinkTrain port peer) := fun _ _ => rfl
theorem Carried.fileskPartnerTimeout : ∀ port, Carried.Statement (.fileskPartnerTimeout port) := fun _ => rfl
theorem Carried.powerLimit : ∀ exceeded, Carried.Statement (.powerLimit exceeded) := fun _ => rfl
theorem Carried.thermalThrottle : ∀ die hot, Carried.Statement (.thermalThrottle die hot) := fun _ _ => rfl
theorem Carried.thermalShutdown : ∀ die, Carried.Statement (.thermalShutdown die) := fun _ => rfl
theorem Carried.coolantExcursion : ∀ outside, Carried.Statement (.coolantExcursion outside) := fun _ => rfl
theorem Carried.coreRetire : ∀ core, Carried.Statement (.coreRetire core) := fun _ => rfl
theorem Carried.hbmChannelSpare : ∀ die channel, Carried.Statement (.hbmChannelSpare die channel) := fun _ _ => rfl
theorem Carried.fileskLaneLoss : ∀ port, Carried.Statement (.fileskLaneLoss port) := fun _ => rfl
theorem Carried.millinerFirmwareUpdate : ∀ img, Carried.Statement (.millinerFirmwareUpdate img) := fun _ => rfl
theorem Carried.microcodeUpdate : ∀ die rejoin, Carried.Statement (.microcodeUpdate die rejoin) := fun _ _ => rfl
theorem Carried.hbmCalibration : ∀ die channel, Carried.Statement (.hbmCalibration die channel) := fun _ _ => rfl
theorem Carried.fileskRetraining : ∀ port done, Carried.Statement (.fileskRetraining port done) := fun _ _ => rfl
theorem Carried.lifetimeHistogramUpdate : ∀ bins, Carried.Statement (.lifetimeHistogramUpdate bins) := fun _ => rfl
theorem Carried.reservedWord : ∀ w, Carried.Statement (.reservedWord w) := fun _ => rfl
theorem Carried.millinerRestart : ∀ m pc, Carried.Statement (.millinerRestart m pc) := fun _ _ => rfl
theorem Carried.correctedError : ∀ die site, Carried.Statement (.correctedError die site) := fun _ _ => rfl
theorem Carried.fileskPartnerHalt : ∀ port halted, Carried.Statement (.fileskPartnerHalt port halted) := fun _ _ => rfl
theorem Carried.makerSessionOpen : ∀ ld rsaOk slhOk, Carried.Statement (.makerSessionOpen ld rsaOk slhOk) := fun _ _ _ => rfl
theorem Carried.peerNumberAssign : ∀ level n, Carried.Statement (.peerNumberAssign level n) := fun _ _ => rfl

end Sys2Proof.Laws
end

