-- ==== Sys2Proof/Laws/Registers.lean ====
section
/-! SUPPORT. What reading and writing registers does where the operands are in place (R24–R28, R155). -/

namespace Sys2Proof.Machine

/-! ## Reading and writing registers in place -/

theorem run_readS {s : State} {cx : Cx} {n : Nat} {v : W64} (h : ScalarOk (s.grp cx.g) n v) : (readS cx n).run s = .ok (v, s) := by
  unfold readS
  simp only [run_bind_ok (run_getG cx.g s), h.1, h.2]
  rfl

theorem run_writeS {s : State} {cx : Cx} {n : Nat} (v : W64) (h : pendingReg (s.grp cx.g) (96 + n) = none) :
    (writeS cx n v).run s = .ok ((), s.setGrp cx.g ((s.grp cx.g).setS n v)) := by
  unfold writeS
  simp only [run_bind_ok (run_getG cx.g s), h]
  rfl

theorem run_applyMarks_nil {s : State} {cx : Cx} (k : Nat) : (applyMarks cx k []).run s = .ok ((), s) := by
  unfold applyMarks
  simp only [run_bind_ok (run_getG cx.g s)]
  rfl

theorem skip_eq {cx : Cx} (k : M Ctl) (h : cx.exe ≠ 0#64) : skipIfNone cx k = k := by simp [skipIfNone, h]

/-- A register with nothing pending awaits nothing in any thread. -/
theorem pendingAt_none {x : Group} {r : Nat} (h : pendingReg x r = none) (t : Nat) : pendingAt x r t = none := by
  unfold pendingReg at h
  unfold pendingAt
  rw [List.findSome?_eq_none_iff] at *
  intro o ho
  have := h o ho
  simp only [Option.map_eq_none_iff, List.find?_eq_none] at *
  intro d hd hc
  refine this d hd ?_
  simp only [Bool.and_eq_true, bne_iff_ne] at *
  refine ⟨hc.1, fun hm => ?_⟩
  have := hc.2
  rw [hm] at this
  simp [hasLane] at this

theorem run_readV {s : State} {cx : Cx} {need : W64} {spec r : Nat} (h : pendingReg (s.grp cx.g) r = none)
    (hm : 80 ≤ r ∨ (look (s.grp cx.g).vval r).isSome = true) :
    (readV cx need spec r).run s = .ok (gen (s.grp cx.g).w (fun t => lane 0#32 (storedV (s.grp cx.g) r) t), s) := by
  unfold readV
  simp only [run_bind_ok (run_getG cx.g s), pendingAt_none h]
  have hn : (laneList (s.grp cx.g).w need).any (fun t => decide (r < 80) && (look (s.grp cx.g).vval r).isNone) = false := by
    rcases hm with hm | hm
    · simp [show ¬ r < 80 by omega]
    · cases hl : look (s.grp cx.g).vval r <;> simp_all
  simp only [List.any_eq_false.mpr (fun _ _ => Bool.false_ne_true), Bool.false_eq_true, if_false, hn]
  rfl

/-- A 32-bit source that is in place. -/
theorem run_readOp {s : State} {cx : Cx} {need : W64} {spec k : Nat} (h : SourceOk (s.grp cx.g) spec (k + 1)) :
    (readOp cx need spec).run s = .ok (gen (s.grp cx.g).w (fun t => (s.grp cx.g).el32 spec t), s) := by
  unfold SourceOk at h
  unfold readOp Group.el32
  rw [run_bind_ok (run_getG cx.g s)]
  split at h
  · rename_i hs
    have h0 := h 0 (by omega)
    simp only [Nat.add_zero] at h0
    have hi := h0.1
    unfold isMapped at hi
    rw [Bool.and_eq_true, Bool.and_eq_true] at hi
    simp only [if_pos (show spec < 88 by omega), if_pos hs]
    rw [run_readV h0.2.2 (.inr hi.1.2)]
    simp [storedV, show ¬ 80 ≤ spec by omega]
  · split at h
    · rename_i h1 h2
      have h0 := h 0 (by omega)
      simp only [Nat.add_zero] at h0
      simp only [if_pos h2, if_neg h1]
      rw [run_readV h0 (.inl (by omega))]
      simp [storedV, show 80 ≤ spec by omega]
    · rename_i h1 h2
      simp only [if_neg h1, if_neg h2]
      split at h
      · by_cases c1 : spec = 88
        · subst c1; rfl
        · by_cases c2 : spec = 89
          · subst c2; rfl
          · by_cases c3 : spec = 90
            · subst c3; rfl
            · by_cases c4 : spec = 91
              · subst c4; rfl
              · by_cases c5 : spec = 92
                · subst c5; rfl
                · by_cases c6 : spec = 93
                  · subst c6; rfl
                  · have c7 : spec = 94 := by omega
                    subst c7; rfl
      · rename_i h3
        obtain ⟨v, hv⟩ := Option.isSome_iff_exists.mp h.1
        have hr : ScalarOk (s.grp cx.g) (spec - 96) v := ⟨by rw [show 96 + (spec - 96) = spec by omega]; exact hv, by rw [show 96 + (spec - 96) = spec by omega]; exact h.2⟩
        have n88 : (spec == 88) = false := by simp; omega
        have n89 : (spec == 89) = false := by simp; omega
        have n90 : (spec == 90) = false := by simp; omega
        have n91 : (spec == 91) = false := by simp; omega
        have n92 : (spec == 92) = false := by simp; omega
        have n93 : (spec == 93) = false := by simp; omega
        have n94 : (spec == 94) = false := by simp; omega
        simp only [n88, n89, n90, n91, n92, n93, n94, Bool.false_eq_true, if_false, show ¬ spec = 88 by omega, show ¬ spec = 89 by omega,
          show ¬ spec = 90 by omega, show ¬ spec = 91 by omega, show ¬ spec = 92 by omega, show ¬ spec = 93 by omega, show ¬ spec = 94 by omega]
        rw [run_bind_ok (run_readS hr), hv]
        rfl

/-- The second register of a 64-bit source that is in place. -/
theorem run_readV_second {s : State} {cx : Cx} {need : W64} {spec : Nat} (h : SourceOk (s.grp cx.g) spec 2) (hs : spec < 88) (he : spec % 2 = 0) :
    (readV cx need spec (spec + 1)).run s = .ok (gen (s.grp cx.g).w (fun t => (s.grp cx.g).el32 (spec + 1) t), s) := by
  unfold SourceOk at h
  rw [if_pos hs] at h
  split at h
  · rename_i h80
    have h1 := h 1 (by omega)
    have hi := h1.1
    unfold isMapped at hi
    rw [Bool.and_eq_true, Bool.and_eq_true] at hi
    rw [run_readV h1.2.2 (.inr hi.1.2)]
    simp [storedV, Group.el32, show ¬ 80 ≤ spec + 1 by omega, show spec + 1 < 80 by omega]
  · rw [run_readV (h 1 (by omega)) (.inl (by omega))]
    simp [storedV, Group.el32, show 80 ≤ spec + 1 by omega, show ¬ spec + 1 < 80 by omega, show spec + 1 < 88 by omega]

theorem SourceOk.second {x : Group} {spec : Nat} (h : SourceOk x spec 2) (hs : spec < 88) (he : spec % 2 = 0) : SourceOk x (spec + 1) 1 := by
  unfold SourceOk at *
  split at h
  · rw [if_pos (by omega)]
    intro i hi
    have := h 1 (by omega)
    have : i = 0 := by omega
    subst this; assumption
  · rw [if_neg (by omega), if_pos (by omega)]
    intro i hi
    have := h 1 (by omega)
    have : i = 0 := by omega
    subst this; assumption

/-- A 64-bit source that is in place. -/
theorem run_readOp64 {s : State} {cx : Cx} {need : W64} {spec : Nat} (h : SourceOk (s.grp cx.g) spec 2) (he : 88 ≤ spec ∨ spec % 2 = 0) :
    (readOp64 cx need spec).run s = .ok (gen (s.grp cx.g).w (fun t => (s.grp cx.g).el64 spec t), s) := by
  unfold readOp64
  rw [run_bind_ok (run_getG cx.g s)]
  have out : ∀ f : Nat → W64, (∀ t, t < (s.grp cx.g).w → f t = (s.grp cx.g).el64 spec t) →
      (Except.ok (gen (s.grp cx.g).w f, s) : Except Stop (List W64 × State)) = .ok (gen (s.grp cx.g).w (fun t => (s.grp cx.g).el64 spec t), s) := by
    intro f hf
    congr 2
    apply List.map_congr_left
    intro t ht
    exact hf t (by simpa using ht)
  by_cases h1 : spec < 88
  · rw [if_pos h1, run_bind_ok (run_readOp (k := 1) h), run_bind_ok (run_readV_second h h1 (by omega))]
    refine out _ (fun t ht => ?_)
    rw [lane_gen _ _ ht, lane_gen _ _ ht, Group.el64, if_pos h1]
  · rw [if_neg h1]
    by_cases c1 : spec = 88
    · subst c1; exact out _ (fun _ _ => rfl)
    · rw [if_neg (by simpa using c1)]
      by_cases c2 : spec = 89
      · subst c2; exact out _ (fun _ _ => rfl)
      · rw [if_neg (by simpa using c2)]
        by_cases c3 : spec = 91
        · subst c3; exact out _ (fun _ _ => rfl)
        · rw [if_neg (by simpa using c3)]
          by_cases c4 : 96 ≤ spec
          · rw [if_pos c4]
            have h' := h
            unfold SourceOk at h'
            rw [if_neg (by omega), if_neg (by omega), if_neg (by omega)] at h'
            obtain ⟨v, hv⟩ := Option.isSome_iff_exists.mp h'.1
            have hr : ScalarOk (s.grp cx.g) (spec - 96) v := ⟨by rw [show 96 + (spec - 96) = spec by omega]; exact hv, by rw [show 96 + (spec - 96) = spec by omega]; exact h'.2⟩
            rw [run_bind_ok (run_readS hr)]
            refine out _ (fun t _ => ?_)
            rw [Group.el64, if_neg h1, if_neg c1, if_neg c2, if_neg c3, if_pos c4, hv]
            rfl
          · rw [if_neg c4, run_bind_ok (run_readOp (k := 1) h)]
            refine out _ (fun t ht => ?_)
            rw [lane_gen _ _ ht, Group.el64, if_neg h1, if_neg c1, if_neg c2, if_neg c3, if_neg c4]

/-- A source of the unit's type that is in place. -/
theorem run_readEl {s : State} {cx : Cx} {need : W64} {spec : Nat} {wide : Bool} (h : SourceOk (s.grp cx.g) spec (if wide then 2 else 1))
    (he : wide = true → 88 ≤ spec ∨ spec % 2 = 0) :
    (readEl cx need spec wide).run s = .ok (gen (s.grp cx.g).w (fun t => (s.grp cx.g).el wide spec t), s) := by
  unfold readEl Group.el
  cases wide
  · simp only [Bool.false_eq_true, if_false] at *
    rw [run_bind_ok (run_readOp (k := 0) h)]
    simp only [run_pure, gen, List.map_map]
    rfl
  · simp only [if_true] at *
    exact run_readOp64 h (he trivial)

/-- A register in place needs no refill (R161). -/
theorem needsRefill_inPlace {x : Group} {r : Nat} (h : isMapped x r = true) (hw : x.wspill.contains r = false) (exe : W64) :
    needsRefill x exe r = false := by
  unfold isMapped at h
  simp only [Bool.and_eq_true, Bool.not_eq_true'] at h
  simp only [needsRefill, h.2, hw, Bool.false_and, Bool.or_self]

/-- Registers that are all in place need no refill (R161). -/
theorem run_refillAll {s : State} {cx : Cx} {ds : List Nat} (rs : List Nat)
    (h : ∀ r ∈ rs, isMapped (s.grp cx.g) r = true ∧ (s.grp cx.g).wspill.contains r = false) : (refillAll cx ds rs).run s = .ok ((), s) := by
  have : rs.filter (needsRefill (s.grp cx.g) cx.exe) = [] := by
    rw [List.filter_eq_nil_iff]
    intro r hr
    rw [needsRefill_inPlace (h r hr).1 (h r hr).2]
    exact Bool.false_ne_true
  unfold refillAll
  rw [run_bind_ok (run_getG cx.g s), this]
  rfl

theorem mem_insSorted {x y : Nat} {l : List Nat} (h : y ∈ insSorted x l) : y = x ∨ y ∈ l := by
  induction l with
  | nil => simpa [insSorted] using h
  | cons a t ih =>
    simp only [insSorted] at h
    split at h
    · simpa using h
    · split at h
      · exact .inr h
      · rcases List.mem_cons.mp h with h | h
        · exact .inr (by simp [h])
        · exact (ih h).imp id (List.mem_cons_of_mem _)
theorem mem_sortN {y : Nat} {l : List Nat} (h : y ∈ sortN l) : y ∈ l := by
  induction l with
  | nil => exact h
  | cons a t ih =>
    rcases mem_insSorted h with h | h
    · simp [h]
    · exact List.mem_cons_of_mem _ (ih h)

theorem run_refillSpecs {s : State} {cx : Cx} {ds : List Nat} {ps : List (Nat × Nat)}
    (h : ∀ p ∈ ps, SourceOk (s.grp cx.g) p.1 p.2) : (refillSpecs cx ds ps).run s = .ok ((), s) := by
  unfold refillSpecs
  apply run_refillAll
  intro r hr
  obtain ⟨p, hp, hr⟩ := List.mem_flatMap.mp (mem_sortN hr)
  unfold specRegs at hr
  split at hr
  · rename_i hs
    have h := h p hp
    unfold SourceOk at h
    rw [if_pos hs] at h
    obtain ⟨i, hi, rfl⟩ := List.mem_map.mp hr
    exact ⟨(h i (by simpa using hi)).1, (h i (by simpa using hi)).2.1⟩
  · simp at hr

theorem mustWait_none {x : Group} {r : Nat} (h : pendingReg x r = none) (m : W64) : mustWait x r m = false := by
  unfold mustWait
  rw [List.any_eq_false]
  intro t _
  simp [pendingAt_none h]

theorem arch_stampReg (x : Group) (r : Nat) : (stampReg x r).arch = x.arch := rfl

theorem touchReg_none {s : State} {g r : Nat} (m : W64) (h : (s.grp g).pinned.all (fun e => e.2 != r) = true) : s.touchReg g r m = s := by
  unfold State.touchReg
  rw [if_neg]
  simp only [List.all_eq_true, List.any_eq_true, not_exists, not_and, bne_iff_ne, beq_iff_eq] at *
  exact h

/-- A write of a register that nothing is on its way to. -/
theorem putV_eq {x : Group} {m : W64} {r : Nat} (vals : List W32) (hr : r < 80) (hp : pendingReg x r = none) : putV m r vals x = x.setV m r vals := by
  unfold putV Group.setV
  rw [if_pos hr, hp]
  rfl

/-- A write of a mapped vector register that nothing is on its way to. -/
theorem run_writeV {s : State} {cx : Cx} {m : W64} {r : Nat} (vals : List W32) (protect : List Nat) (hr : r < 80)
    (hp : pendingReg (s.grp cx.g) r = none) (hm : isMapped (s.grp cx.g) r = true) (hq : (s.grp cx.g).pinned.all (fun e => e.2 != r) = true) :
    (writeV cx m r vals protect).run s = .ok ((), s.setGrp cx.g ((s.grp cx.g).setV m r vals)) := by
  unfold isMapped at hm
  simp only [Bool.and_eq_true, Bool.not_eq_true'] at hm
  have hl : (look (s.grp cx.g).vval r).isNone = false := by
    cases h : look (s.grp cx.g).vval r <;> simp_all
  have hn : writeNeeds (s.grp cx.g) (putV m r vals (s.grp cx.g)) r = 0 := by
    simp only [writeNeeds, hp, hl, hm.2, Option.isSome_none, Bool.or_self, Bool.false_eq_true, if_false]
  rw [← putV_eq vals hr hp]
  unfold writeV
  rw [run_bind_ok (run_getG cx.g s)]
  simp only [mustWait_none hp, hm.2, hp, Option.isSome_none, Bool.false_and, Bool.or_self, Bool.false_eq_true, if_false]
  rw [run_bind_ok (run_getG cx.g s), hn, show takeEntries cx.g (r :: protect) 0 = pure () from rfl, run_bind_ok (run_pure () s), run_bind_ok (run_modify _ s), touchReg_none m hq]
  rfl

theorem run_writeQ {s : State} {cx : Cx} {m : W64} {k : Nat} (vals : List W32) (hk : k < 8) (hp : pendingReg (s.grp cx.g) (80 + k) = none) :
    (writeQ cx m k vals).run s = .ok ((), s.setGrp cx.g ((s.grp cx.g).setV m (80 + k) vals)) := by
  unfold writeQ Group.setV
  rw [run_bind_ok (run_getG cx.g s), run_bind_ok (run_guard (by rw [mustWait_none hp]; rfl) _ s)]
  rw [if_neg (by omega), if_pos (by omega), Nat.add_sub_cancel_left]
  rfl

/-- The registers of a group that the checks of a write look at, where another register is written. -/
theorem pendingReg_dropDest {x : Group} {r k : Nat} (m : W64) (h : pendingReg x k = none) :
    pendingReg { x with ops := x.ops.map (dropDest r m) } k = none := by
  unfold pendingReg at *
  rw [List.findSome?_eq_none_iff] at *
  intro o ho
  obtain ⟨p, hp, rfl⟩ := List.mem_map.mp ho
  have := h p hp
  simp only [Option.map_eq_none_iff, List.find?_eq_none] at *
  intro d hd hc
  unfold dropDest at hd
  simp only [List.mem_filter, List.mem_map] at hd
  obtain ⟨⟨e, he, rfl⟩, h0⟩ := hd
  refine this e he ?_
  split at hc
  · rename_i heq
    simp only [Bool.and_eq_true, bne_iff_ne] at *
    refine ⟨hc.1, fun hm => hc.2 ?_⟩
    rw [hm]; simp
  · exact hc

theorem setV_w (x : Group) (m : W64) (r : Nat) (v : List W32) : (x.setV m r v).w = x.w := by
  unfold Group.setV; split
  · rfl
  · split <;> rfl
theorem setV_pinned (x : Group) (m : W64) (r : Nat) (v : List W32) : (x.setV m r v).pinned = x.pinned := by
  unfold Group.setV; split
  · rfl
  · split <;> rfl
theorem setV_pending {x : Group} {k : Nat} (m : W64) (r : Nat) (v : List W32) (h : pendingReg x k = none) : pendingReg (x.setV m r v) k = none := by
  unfold Group.setV; split
  · exact pendingReg_dropDest m h
  · split
    · exact pendingReg_dropDest m h
    · exact h
theorem setV_mapped {x : Group} {k : Nat} (m : W64) (r : Nat) (v : List W32) (h : isMapped x k = true) : isMapped (x.setV m r v) k = true := by
  unfold isMapped at *
  unfold Group.setV
  simp only [Bool.and_eq_true, Bool.not_eq_true'] at *
  simp only [decide_eq_true_eq] at h
  split
  · refine ⟨⟨by simpa using h.1.1, ?_⟩, ?_⟩
    · by_cases hk : r = k
      · subst hk; simp [stampReg]
      · simp [stampReg, look_ins_ne _ _ hk, h.1.2]
    · have := h.2
      simp only [stampReg, List.contains_eq_mem, decide_eq_false_iff_not, List.mem_filter, not_and] at *
      exact fun hc => absurd hc this
  · split <;> simpa using h

@[simp] theorem setGrp_setGrp (s : State) (g : Nat) (x y : Group) : (s.setGrp g x).setGrp g y = s.setGrp g y := by
  simp [State.setGrp]

theorem run_pushY {s : State} {cx : Cx} {m : W64} (vals : List W64) :
    (pushY cx m vals).run s = .ok ((), s.setGrp cx.g ((s.grp cx.g).push m vals)) := rfl

/-- A vector result of 32 bits into a destination that is in place. -/
theorem run_writeD {s : State} {cx : Cx} {d : Nat} (vals : List W32) (h : DestOk (s.grp cx.g) d 1) :
    (writeD cx d vals).run s = .ok ((), s.setGrp cx.g (((s.grp cx.g).setV cx.exe d vals).push cx.exe (vals.map (fun v => v.setWidth 64)))) := by
  obtain ⟨h88, hv, hq⟩ := h
  unfold writeD
  by_cases h1 : d < 80
  · have hv := hv h1 0 (by omega)
    have hq := hq (by omega) 0 (by omega)
    simp only [Nat.add_zero] at hv hq
    rw [if_pos h1, run_bind_ok (run_writeV _ _ h1 hq hv.1 hv.2), run_pushY, State.grp_setGrp, setGrp_setGrp]
  · rw [if_neg h1]
    by_cases h2 : d < 88
    · have hq := hq h2 0 (by omega)
      simp only [Nat.add_zero] at hq
      have := run_writeQ (s := s) (cx := cx) (m := cx.exe) (k := d - 80) vals (by omega) (by rw [show 80 + (d - 80) = d by omega]; exact hq)
      rw [show 80 + (d - 80) = d by omega] at this
      rw [if_pos h2, run_bind_ok this, run_pushY, State.grp_setGrp, setGrp_setGrp]
    · rw [if_neg h2]
      simp only [Group.setV, if_neg h1, if_neg h2]
      exact run_pushY _

/-- Two registers written, both in place. -/
theorem run_writePair {s : State} {cx : Cx} {m : W64} {d : Nat} (lo hi : List W32) (h : DestOk (s.grp cx.g) d 2) (h88 : d < 88) (he : d % 2 = 0) :
    (writeRegs cx m [(d, lo), (d + 1, hi)]).run s = .ok ((), s.setGrp cx.g (((s.grp cx.g).setV m d lo).setV m (d + 1) hi)) := by
  obtain ⟨-, hv, hq⟩ := h
  have hq0 := hq h88 0 (by omega)
  have hq1 := hq h88 1 (by omega)
  simp only [Nat.add_zero] at hq0
  unfold writeRegs
  rw [run_bind_ok (run_getG cx.g s)]
  by_cases h1 : d < 80
  · have hv0 := hv h1 0 (by omega)
    have hv1 := hv h1 1 (by omega)
    simp only [Nat.add_zero] at hv0
    have f1 : ([(d, lo), (d + 1, hi)].filter (fun w => !isMapped (s.grp cx.g) w.1)) = [] := by simp [hv0.1, hv1.1]
    have f2 : ([(d, lo), (d + 1, hi)].filter (fun w => isMapped (s.grp cx.g) w.1)) = [(d, lo), (d + 1, hi)] := by simp [hv0.1, hv1.1]
    rw [f1, f2]
    simp only [writeList, if_pos h1, if_pos (show d + 1 < 80 by omega)]
    have w0 := run_writeV (s := s) (cx := cx) (m := m) lo ([(d + 1, hi)].map (·.1) ++ ([] : List (Nat × List W32)).map (·.1)) h1 hq0 hv0.1 hv0.2
    have w1 := run_writeV (s := s.setGrp cx.g ((s.grp cx.g).setV m d lo)) (cx := cx) (m := m) (r := d + 1) hi
      (([] : List (Nat × List W32)).map (·.1) ++ ([] : List (Nat × List W32)).map (·.1)) (by omega) (by simpa using setV_pending m d lo hq1)
      (by simpa using setV_mapped m d lo hv1.1) (by simpa [setV_pinned] using hv1.2)
    refine (run_bind_ok (t := s.setGrp cx.g (((s.grp cx.g).setV m d lo).setV m (d + 1) hi)) (a := ()) ?_).trans rfl
    rw [run_bind_ok w0, run_bind_ok w1, State.grp_setGrp, setGrp_setGrp]
    rfl
  · have m0 : isMapped (s.grp cx.g) d = false := by simp [isMapped, h1]
    have m1 : isMapped (s.grp cx.g) (d + 1) = false := by simp [isMapped, show ¬ d + 1 < 80 by omega]
    have f1 : ([(d, lo), (d + 1, hi)].filter (fun w => !isMapped (s.grp cx.g) w.1)) = [(d, lo), (d + 1, hi)] := by simp [m0, m1]
    have f2 : ([(d, lo), (d + 1, hi)].filter (fun w => isMapped (s.grp cx.g) w.1)) = [] := by simp [m0, m1]
    rw [f1, f2]
    simp only [writeList, if_neg h1, if_neg (show ¬ d + 1 < 80 by omega)]
    have w0 := run_writeQ (s := s) (cx := cx) (m := m) (k := d - 80) lo (by omega) (by rw [show 80 + (d - 80) = d by omega]; exact hq0)
    have w1 := run_writeQ (s := s.setGrp cx.g ((s.grp cx.g).setV m d lo)) (cx := cx) (m := m) (k := d + 1 - 80) hi (by omega)
      (by rw [show 80 + (d + 1 - 80) = d + 1 by omega]; simpa using setV_pending m d lo hq1)
    rw [show 80 + (d - 80) = d by omega] at w0
    rw [show 80 + (d + 1 - 80) = d + 1 by omega] at w1
    refine (run_bind_ok (t := s) (a := ()) rfl).trans ?_
    rw [run_bind_ok w0, run_bind_ok w1, State.grp_setGrp, setGrp_setGrp]
    rfl

/-- A vector result of the unit's type into a destination that is in place. -/
theorem run_writeEl {s : State} {cx : Cx} {d : Nat} {wide : Bool} (vals : List W64) (h : DestOk (s.grp cx.g) d (if wide then 2 else 1))
    (he : wide = true → 88 ≤ d ∨ d % 2 = 0) :
    (writeEl cx d wide vals).run s = .ok ((), s.setGrp cx.g ((s.grp cx.g).result cx.exe d wide vals)) := by
  unfold writeEl Group.result
  cases wide
  · simp only [Bool.false_eq_true, if_false] at *
    exact run_writeD _ h
  · simp only [if_true] at *
    unfold writeD64
    by_cases h1 : d < 88
    · simp only [if_pos h1]
      rw [run_bind_ok (run_writePair _ _ h h1 (by have := he trivial; omega)), run_pushY]
      simp
    · simp only [if_neg h1]
      exact run_pushY _

/-! ## Units whose effect stays within their group -/

/-- A group that stands where `x` stands, waits for what `x` waits for, and is debugged as `x` is. -/
structure SamePlace (x y : Group) : Prop where
  site : siteOf y = siteOf x
  wait : y.wait = x.wait
  step : y.stepping = x.stepping
  loops : y.loops = x.loops
  handler : y.handler = x.handler

theorem calm_setGrp {s : State} {g : Nat} {y : Group} (h : Calm s g) (p : SamePlace (s.grp g) y) : Calm (s.setGrp g y) g where
  samples := by simpa [p.site] using h.samples
  recs := h.recs
  step := by simpa [p.step] using h.step
  claims := by
    intro e he
    rcases mem_ins he with rfl | he
    · have : claimOf y = claimOf (s.grp g) := by unfold claimOf; rw [p.wait]
      rw [this]
      unfold State.grp
      cases hl : look s.groups g with
      | none => rfl
      | some x => exact h.claims _ (mem_look hl)
    · exact h.claims e he

/-- A unit whose body only changes its own group, and leaves the control of the run alone, issues and leaves exactly that. -/
theorem issue_leaves {z : Bool} {op : Nat} {acc : Accepts} {mill : Bool} {static : Cx → M Unit} {body : Cx → M Ctl} {s : State}
    {run : Run} {cx : Cx} {c : Ctl} {y : Group} (h : UnitOk s run cx acc mill) (calm : Calm s cx.g)
    (loop : atLoopEnd (s.grp cx.g) cx.pc = false) (hs : (static cx).run s = .ok ((), s))
    (hb : (body cx).run s = .ok (c, s.setGrp cx.g y)) (p : SamePlace (s.grp cx.g) y) (hx : c.exits = false) (ht : c.trapret = false)
    (hp : c.post = none) (hd : c.stopAfter = none) :
    ∃ t, issue z op acc mill static body s = .next t
      ∧ Leaves (s.setGrp cx.g y) t cx (fun u => match c.moves.find? (fun e => e.1 == u) with | some e => e.2 | none => cx.pc + 4#64) := by
  refine ⟨_, issue_next h hs hb ?_, ?_⟩
  · intro r hl
    have := h.look
    simp only [State.setGrp_runs] at hl
    rw [this] at hl
    cases hl
    exact h.rur
  · refine finish_leaves (calm_setGrp calm p) ?_ hx ht hp hd
    unfold atLoopEnd at *
    simpa [p.loops] using loop

theorem samePlace_setS (x : Group) (n : Nat) (v : W64) : SamePlace x (x.setS n v) := ⟨rfl, rfl, rfl, rfl, rfl⟩
theorem samePlace_setP (x : Group) (e : W64) (k : Nat) (m : W64) : SamePlace x (x.setP e k m) := ⟨rfl, rfl, rfl, rfl, rfl⟩
theorem samePlace_push (x : Group) (m : W64) (v : List W64) : SamePlace x (x.push m v) := ⟨rfl, rfl, rfl, rfl, rfl⟩
theorem samePlace_setV (x : Group) (m : W64) (r : Nat) (v : List W32) : SamePlace x (x.setV m r v) := by
  unfold Group.setV; split
  · exact ⟨rfl, rfl, rfl, rfl, rfl⟩
  · split <;> exact ⟨rfl, rfl, rfl, rfl, rfl⟩
theorem SamePlace.trans {x y z : Group} (a : SamePlace x y) (b : SamePlace y z) : SamePlace x z :=
  ⟨b.site.trans a.site, b.wait.trans a.wait, b.step.trans a.step, b.loops.trans a.loops, b.handler.trans a.handler⟩
theorem samePlace_result (x : Group) (m : W64) (d : Nat) (wide : Bool) (v : List W64) : SamePlace x (x.result m d wide v) := by
  unfold Group.result
  cases wide
  · exact (samePlace_setV _ _ _ _).trans (samePlace_push _ _ _)
  · simp only [if_true]
    split
    · exact ((samePlace_setV _ _ _ _).trans (samePlace_setV _ _ _ _)).trans (samePlace_push _ _ _)
    · exact samePlace_push _ _ _

/-! ## Last-use marks (R27) -/

theorem samePlace_unmap (x : Group) (r : Nat) : SamePlace x (x.unmap r) := ⟨rfl, rfl, rfl, rfl, rfl⟩
theorem samePlace_unmaps (rs : List Nat) (x : Group) : SamePlace x (rs.foldl Group.unmap x) := by
  induction rs generalizing x with
  | nil => exact ⟨rfl, rfl, rfl, rfl, rfl⟩
  | cons r rs ih => exact (samePlace_unmap x r).trans (ih _)
theorem samePlace_marked (x : Group) (e : W64) (k : Nat) (rs : List Nat) : SamePlace x (x.marked e k rs) := by
  unfold Group.marked
  split
  · exact ⟨rfl, rfl, rfl, rfl, rfl⟩
  · split
    · exact samePlace_unmaps rs x
    · exact ⟨rfl, rfl, rfl, rfl, rfl⟩

theorem pending_unmaps {k : Nat} (rs : List Nat) {x : Group} (h : pendingReg x k = none) : pendingReg (rs.foldl Group.unmap x) k = none := by
  induction rs generalizing x with
  | nil => exact h
  | cons r rs ih => exact ih (pendingReg_dropDest _ h)
theorem pending_marked {k : Nat} {x : Group} (e : W64) (n : Nat) (rs : List Nat) (h : pendingReg x k = none) :
    pendingReg (x.marked e n rs) k = none := by
  unfold Group.marked
  split
  · exact h
  · split
    · exact pending_unmaps rs h
    · exact h

/-- A register that nothing pins takes no entry with it (R251). -/
theorem keepPins_unpinned {x : Group} {r : Nat} (hp : x.pinned.all (fun e => e.2 != r) = true) : keepPins (· == r) x = x := by
  have : (x.pinned.map (·.2)).filter (fun q => q == r && (look x.vval q).isSome && !x.spilled.contains q && !x.pinheld.contains q) = [] := by
    rw [List.filter_eq_nil_iff]
    intro q hq
    obtain ⟨e, he, rfl⟩ := List.mem_map.mp hq
    have h := List.all_eq_true.mp hp e he
    simp only [bne_iff_ne] at h
    rw [show (e.2 == r) = false by simpa using h]
    simp
  unfold keepPins
  simp only [this, List.dedup_nil, List.append_nil]

theorem run_unmapReg {s : State} {g r : Nat} (hm : (s.grp g).mill = none) (hp : (s.grp g).pinned.all (fun e => e.2 != r) = true) :
    (unmapReg g r).run s = .ok ((), s.setGrp g ((s.grp g).unmap r)) := by
  unfold unmapReg
  rw [run_bind_ok (run_getG g s)]
  simp only [hm, Option.isSome_none, Bool.false_eq_true, if_false]
  rw [run_bind_ok (run_modify _ s), touchReg_none _ hp, run_bind_ok (run_modG _ _ _), State.modGrp_eq, keepPins_unpinned hp]
  simp only [run_modG, State.modGrp_eq, State.grp_setGrp, setGrp_setGrp]
  rfl

theorem run_unmaps {g : Nat} (rs : List Nat) {s : State} (hm : (s.grp g).mill = none)
    (hp : ∀ r ∈ rs, (s.grp g).pinned.all (fun e => e.2 != r) = true) :
    (rs.forM (unmapReg g)).run s = .ok ((), if rs.isEmpty then s else s.setGrp g (rs.foldl Group.unmap (s.grp g))) := by
  induction rs generalizing s with
  | nil => rfl
  | cons r rs ih =>
    rw [show (r :: rs).forM (unmapReg g) = (unmapReg g r >>= fun _ => rs.forM (unmapReg g)) from rfl,
      run_bind_ok (run_unmapReg hm (hp r List.mem_cons_self)), ih]
    · cases rs <;> simp
    · rw [State.grp_setGrp]; exact hm
    · intro q hq
      rw [State.grp_setGrp]; exact hp q (List.mem_cons_of_mem _ hq)

/-- What the marks of an instruction do (R27). -/
theorem run_applyMarks {s : State} {cx : Cx} (k : Nat) (rs : List Nat) (hm : (s.grp cx.g).mill = none)
    (hp : ∀ r ∈ rs, (s.grp cx.g).pinned.all (fun e => e.2 != r) = true) :
    (applyMarks cx k rs).run s = .ok ((), if rs.isEmpty then s else s.setGrp cx.g ((s.grp cx.g).marked cx.exe k rs)) := by
  unfold applyMarks Group.marked
  rw [run_bind_ok (run_getG cx.g s)]
  cases he : rs.isEmpty
  · have hc : (false || (s.grp cx.g).mill.isSome) = false := by rw [hm]; rfl
    simp only [hc, Bool.false_eq_true, if_false]
    by_cases hx : cx.exe = fullMask (s.grp cx.g).w
    · rw [if_pos hx, run_unmaps rs hm hp, he, if_pos hx]
      rfl
    · rw [if_neg hx, if_neg hx]
      rfl
  · simp only [Bool.true_or, if_true]
    rfl

end Sys2Proof.Machine
end

