-- ==== Sys2Proof/Laws/Traps.lean ====
section
/-! SUPPORT. What telling of something can change (a record, a trace, an interrupt message), and what taking a trap and
returning from one leave. -/

namespace Sys2Proof.Machine

/-! ## Records -/

/-- `t` is `s` after records were written: memory, translations, the mirror of the name tables, what is held for later and what left the module may have moved;
groups, teams, tasks, runs and every other part stand. -/
def Noted (s t : State) : Prop :=
  { t with dmem := s.dmem, hmem := s.hmem, tlb := s.tlb, walks := s.walks, keepLeaves := s.keepLeaves, atc := s.atc, fresh := s.fresh,
           out := s.out, nameMirror := s.nameMirror, pend := s.pend, lds := s.lds, dies := s.dies } = s

theorem Noted.refl (s : State) : Noted s s := rfl

theorem Noted.trans {s t u : State} (h : Noted s t) (k : Noted t u) : Noted s u := by
  unfold Noted at *
  rw [← h, ← k]

theorem Noted.groups {s t : State} (h : Noted s t) : t.groups = s.groups := by
  unfold Noted at h
  rw [← h]
theorem Noted.grp {s t : State} (h : Noted s t) (g : Nat) : t.grp g = s.grp g := by simp [State.grp, h.groups]
theorem Noted.teams {s t : State} (h : Noted s t) : t.teams = s.teams := by
  unfold Noted at h
  rw [← h]
theorem Noted.tasks {s t : State} (h : Noted s t) : t.tasks = s.tasks := by
  unfold Noted at h
  rw [← h]
theorem Noted.runs {s t : State} (h : Noted s t) : t.runs = s.runs := by
  unfold Noted at h
  rw [← h]

theorem Looked.noted {s t : State} (h : Looked s t) : Noted s t := by
  unfold Looked at h
  unfold Noted
  rw [← h]

/-- A target outside every scratchpad. -/
def Target.outside : Target → Bool
  | .scr _ _ => false
  | _ => true

theorem trans_outside {dom : W16} {va : W64} {n : Need} {s t : State} {x : Target} {u : Used}
    (h : (Machine.trans dom va n).run s = .ok (.ok x u, t)) : x.outside = true := by
  unfold Machine.trans at h
  obtain ⟨l, v, h1, h⟩ := bind_ok h
  rcases l with ⟨code, lv⟩ | ⟨pte, lv⟩
  · cases h
  · obtain ⟨s0, w, h0, h⟩ := bind_ok h
    cases h0
    revert h
    dsimp only
    repeat' split
    all_goals intro h
    all_goals first
      | (cases h; rfl)
      | cases h

theorem agentAt_outside {dom : W16} {va : W64} {n : Need} {s t : State} {r : Target × Used} (h : (agentAt dom va n).run s = .ok (r, t)) :
    r.1.outside = true := by
  unfold agentAt at h
  split at h
  · obtain ⟨_, _, h1, _⟩ := bind_ok h
    cases h1
  · obtain ⟨x, u, h1, h⟩ := bind_ok h
    revert h h1
    cases x with
    | ok t u => intro h1 h; cases h; exact trans_outside h1
    | fault c k l => intro _ h; cases h
    | miss m =>
      intro _ h
      obtain ⟨s0, v, h0, h⟩ := bind_ok h
      cases h0
      repeat' split at h
      all_goals cases h

theorem agentTargets_outside {dom : W16} {need : Need} (fuel : Nat) : ∀ {va : W64} {bs : List W8} {s t : State} {r : List (Target × List W8)},
    (agentTargets dom need fuel va bs).run s = .ok (r, t) → ∀ x ∈ r, x.1.outside = true := by
  induction fuel with
  | zero => intro va n s t bs h x hx; cases h; cases hx
  | succ f ih =>
    intro va n s t bs h x hx
    unfold agentTargets at h
    split at h
    · cases h; cases hx
    · obtain ⟨y, u, h1, h⟩ := bind_ok h
      obtain ⟨z, w, h2, h⟩ := bind_ok h
      cases h
      rcases List.mem_cons.1 hx with rfl | hx
      · exact agentAt_outside h1
      · exact ih h2 x hx

theorem noted_spoilNames (es : List Nat) : ∀ {s : State}, Noted s (s.spoilNames es) := by
  induction es with
  | nil => intro s; exact Noted.refl s
  | cons a r ih =>
    intro s
    refine Noted.trans ?_ (ih (s := { s with
      dmem := wrN s.dmem a (gen 16 (fun i => (Config.freeWord (s.fresh + i)).setWidth 8)), nameMirror := ins s.nameMirror a storedTo, fresh := s.fresh + 16 }))
    rfl

theorem noted_devPut (s : State) (a : Nat) (bs : List W8) : Noted s (s.devPut a bs) := by
  refine Noted.trans ?_ (noted_spoilNames _ (s := { s with dmem := wrN s.dmem a bs }))
  rfl

theorem noted_writeAll (ws : List (Target × List W8)) : ∀ {s : State}, (∀ x ∈ ws, x.1.outside = true) → Noted s (s.writeAll ws) := by
  induction ws with
  | nil => intro s _; exact Noted.refl s
  | cons w r ih =>
    intro s h
    refine Noted.trans ?_ (ih (fun x hx => h x (List.mem_cons_of_mem _ hx)))
    have := h w (List.mem_cons_self ..)
    rcases w with ⟨t, bs⟩
    cases t with
    | scr t a => cases this
    | dev a => exact noted_devPut s a bs
    | keep a m => exact noted_devPut s a bs
    | _ => rfl

/-- An agent's write that ends changes the bytes of memory, never a scratchpad. -/
theorem noted_kwrite {dom : W16} {va : W64} {bs : List W8} {s t : State} {r : Unit} (h : (kwrite dom va bs).run s = .ok (r, t)) : Noted s t := by
  unfold kwrite at h
  obtain ⟨ws, u, h1, h⟩ := bind_ok h
  cases h
  exact (looked_agentTargets _ h1).noted.trans (noted_writeAll ws (agentTargets_outside _ h1))

theorem noted_kread {dom : W16} {va : W64} {n : Nat} {s t : State} {bs : List W8} (h : (kread dom va n).run s = .ok (bs, t)) : Noted s t :=
  (looked_kread h).noted

theorem noted_msix (s : State) (ld v : Nat) : Noted s (s.msix ld v) := by
  unfold State.msix
  split
  · rfl
  · split <;> rfl

theorem memOk_msix {s : State} (h : s.memOk) (ld v : Nat) : (s.msix ld v).memOk := by
  unfold State.msix
  split
  · exact h
  · split <;> exact h

theorem noted_requestPages (owner : Option Nat) (ms : List Miss) : ∀ {s : State}, Noted s (s.requestPages owner ms) := by
  induction ms with
  | nil => intro s; exact Noted.refl s
  | cons m r ih =>
    intro s
    unfold State.requestPages
    split
    · exact ih
    · refine Noted.trans ?_ ih
      split <;> split <;> rfl

theorem memOk_requestPages (owner : Option Nat) (ms : List Miss) : ∀ {s : State}, s.memOk → (s.requestPages owner ms).memOk := by
  induction ms with
  | nil => intro s h; exact h
  | cons m r ih =>
    intro s h
    unfold State.requestPages
    split
    · exact ih h
    · refine ih ?_
      split <;> split <;> exact h

theorem noted_undeny (s : State) (k : Nat) : Noted s (s.undeny k) := by
  unfold State.undeny
  split <;> rfl

theorem memOk_undeny {s : State} (h : s.memOk) (k : Nat) : (s.undeny k).memOk := by
  unfold State.undeny
  split <;> exact h

/-- A record put into a ring: a read, then writes of memory and a message. -/
theorem ringPut_ok {ld : Nat} {desc : W64} {bytes : List W8} {s t : State} {r : Unit} (h : (ringPut ld desc bytes).run s = .ok (r, t)) :
    Noted s t ∧ (s.memOk → t.memOk) := by
  unfold ringPut at h
  obtain ⟨d, u, h1, h⟩ := bind_ok h
  have n1 := noted_kread h1
  have m1 := fun hm : s.memOk => (looked_kread h1).memOk hm
  revert h
  dsimp only
  split
  · intro h
    exact ⟨n1.trans (noted_kwrite h), fun hm => memOk_kwrite h (m1 hm)⟩
  · intro h
    obtain ⟨a, v, h2, h⟩ := bind_ok h
    obtain ⟨b, w, h3, h⟩ := bind_ok h
    cases h
    exact ⟨((n1.trans (noted_kwrite h2)).trans (noted_kwrite h3)).trans (noted_msix _ _ _),
      fun hm => memOk_msix (memOk_kwrite h3 (memOk_kwrite h2 (m1 hm))) _ _⟩

theorem ringPush_ok (s : State) (ld : Nat) (r : Ring) (bytes : List W8) :
    Noted s (s.ringPush ld r bytes) ∧ (s.memOk → (s.ringPush ld r bytes).memOk) := by
  unfold State.ringPush
  split
  · exact ⟨rfl, id⟩
  · unfold runAgent
    cases h : (ringPut ld r.desc bytes).run s with
    | ok p => exact ringPut_ok h
    | error e =>
      cases e with
      | suspend m =>
        exact ⟨(noted_requestPages none m).trans rfl, fun hm => memOk_of_eq (memOk_requestPages none m hm) rfl rfl⟩
      | fail c k l a => exact ⟨noted_undeny s k, fun hm => memOk_undeny hm k⟩
      | trap c i n k l a => exact ⟨noted_undeny s k, fun hm => memOk_undeny hm k⟩
      | _ => exact ⟨rfl, id⟩

theorem faultRecord_ok (s : State) (ld : Nat) (bytes : List W8) :
    Noted s (s.faultRecord ld bytes) ∧ (s.memOk → (s.faultRecord ld bytes).memOk) := by
  unfold State.faultRecord
  dsimp only
  split
  · exact ⟨rfl, id⟩
  · split
    · exact ringPush_ok _ _ _ _
    · split <;> exact ⟨rfl, id⟩

theorem trace_ok (s : State) (ld dom die ev : Nat) (attached : Bool) (name sitePc siteSeq addr arg : W64) (index : Nat) :
    Noted s (s.trace ld dom die ev attached name sitePc siteSeq addr arg index)
      ∧ (s.memOk → (s.trace ld dom die ev attached name sitePc siteSeq addr arg index).memOk) := by
  unfold State.trace
  dsimp only
  split
  · split <;> exact ⟨rfl, id⟩
  · split
    · have h := ringPush_ok (s.clock die).2 ld ‹Ring›
      exact ⟨Noted.trans (t := (s.clock die).2) rfl (h _).1, fun hm => (h _).2 hm⟩
    · exact ⟨rfl, id⟩

theorem traceG_ok (s : State) (g ev : Nat) (sitePc addr arg : W64) (index : Nat) :
    Noted s (s.traceG g ev sitePc addr arg index) ∧ (s.memOk → (s.traceG g ev sitePc addr arg index).memOk) := trace_ok ..

/-! ## Runs -/

/-- `t` is `s` with a run given up: beside what records move, only the runs, the focus and the samples held for it. -/
def Ended (s t : State) : Prop :=
  { t with dmem := s.dmem, hmem := s.hmem, tlb := s.tlb, walks := s.walks, keepLeaves := s.keepLeaves, atc := s.atc, fresh := s.fresh,
           out := s.out, nameMirror := s.nameMirror, pend := s.pend, lds := s.lds, dies := s.dies, runs := s.runs, focus := s.focus, sampleRecs := s.sampleRecs } = s

theorem Noted.ended {s u : State} {recs : List SampleRec} (h : Noted { s with sampleRecs := recs } u) (r : FMap Run) (f : Option Nat) :
    Ended s { u with runs := r, focus := f } := by
  unfold Noted at h
  unfold Ended
  have := congrArg (fun x : State => { x with runs := s.runs, focus := s.focus, sampleRecs := s.sampleRecs }) h
  exact this

theorem noted_foldl {α : Type} (f : State → α → State) (hf : ∀ s a, Noted s (f s a)) (l : List α) : ∀ {s : State}, Noted s (l.foldl f s) := by
  induction l with
  | nil => intro s; exact Noted.refl s
  | cons a r ih => intro s; exact (hf s a).trans ih

theorem putSamples_ok (s : State) (site : Nat) :
    (∃ recs, Noted { s with sampleRecs := recs } (s.putSamples site)) ∧ (s.memOk → (s.putSamples site).memOk) := by
  unfold State.putSamples
  split
  · exact ⟨⟨s.sampleRecs, rfl⟩, id⟩
  · rename_i r hr
    refine ⟨⟨_, noted_foldl (fun s (e : SampleRec) => s.ringPush e.ld e.ring (e.below ++ [BitVec.ofNat 8 r.words] ++ e.above)) (fun s e => (ringPush_ok s e.ld e.ring _).1) _⟩, fun hm => ?_⟩
    exact memOk_foldl (fun s (e : SampleRec) => s.ringPush e.ld e.ring (e.below ++ [BitVec.ofNat 8 r.words] ++ e.above)) (fun s e h => (ringPush_ok s e.ld e.ring _).2 h) _ (memOk_of_eq hm rfl rfl)

theorem endRun_ok (s : State) (site : Nat) : Ended s (s.endRun site) ∧ (s.memOk → (s.endRun site).memOk) := by
  obtain ⟨⟨recs, h⟩, hm⟩ := putSamples_ok s site
  exact ⟨h.ended _ _, fun h => memOk_of_eq (hm h) rfl rfl⟩

theorem Ended.groups {s t : State} (h : Ended s t) : t.groups = s.groups := by
  unfold Ended at h
  rw [← h]
theorem Ended.grp {s t : State} (h : Ended s t) (g : Nat) : t.grp g = s.grp g := by simp [State.grp, h.groups]
theorem Noted.toEnded {s t : State} (h : Noted s t) : Ended s t := by
  unfold Noted at h
  unfold Ended
  rw [← h]
theorem Ended.trans {s t u : State} (h : Ended s t) (k : Ended t u) : Ended s u := by
  unfold Ended at *
  rw [← h, ← k]

/-! ## Traps -/

/-- A group that halts (R346): it is marked so and waits for nothing; no other group changes. -/
theorem halt_ok (s : State) (g : Nat) (a : TrapArgs) (nested : Bool) :
    Ended (s.modGrp g (fun x => { x with halted := true, wait := .none, stalled := false })) (s.halt g a nested)
      ∧ (s.memOk → (s.halt g a nested).memOk) := by
  unfold State.halt
  dsimp only
  have e := endRun_ok (s.modGrp g (fun x => { x with halted := true, wait := .none, stalled := false })) (siteOf (s.grp g))
  constructor
  · exact e.1.trans (faultRecord_ok _ _ _).1.toEnded
  · intro hm
    exact (faultRecord_ok _ _ _).2 (e.2 hm)

theorem halt_grp (s : State) (g k : Nat) (a : TrapArgs) (nested : Bool) :
    (s.halt g a nested).grp k = if k = g then { s.grp g with halted := true, wait := .none, stalled := false } else s.grp k := by
  rw [(halt_ok s g a nested).1.grp]
  split
  · subst k
    simp [State.modGrp]
  · rename_i h
    exact State.grp_setGrp_ne s _ (Ne.symm h)

/-- What a trap leaves in its group (R342, R346): halted without a handler or inside one; else the saved registers written, outside every
shadow and loop, every thread that has not exited at the handler. -/
def Group.trapped (x : Group) (a : TrapArgs) : Group :=
  let h := if a.cause == 16 then x.sighandler else x.traphandler
  let live := fullMask x.w &&& ~~~x.exited
  if x.handler.isSome ∨ h = 0#64 then { x with halted := true, wait := .none, stalled := false }
  else
    { x with
      trappc := a.pc, trapcause := causeWord a.cause a.lane a.code a.level, trapinfo := a.info
      handler := some { trapset := a.set, entered := live, resume := x.pcs, shadow := x.shadow, loops := x.loops, lc := x.lc }
      shadow := none, loops := [], lc := [0#64, 0#64, 0#64]
      pcs := gen x.w (fun t => if hasLane live t then h else lane 0#64 x.pcs t) }

theorem takeTrap_grp (s : State) (g k : Nat) (a : TrapArgs) : (s.takeTrap g a).grp k = if k = g then (s.grp g).trapped a else s.grp k := by
  unfold State.takeTrap Group.trapped
  dsimp only
  have n := (traceG_ok s g evTrap a.sitePc a.addr (causeWord a.cause a.lane a.code a.level) 0).1
  generalize (if (a.cause == 16) = true then (s.grp g).sighandler else (s.grp g).traphandler) = hd
  split
  · rename_i h
    rw [halt_grp, n.grp, n.grp]
    simp [h]
  · rename_i h
    split
    · rename_i h0
      rw [halt_grp, n.grp, n.grp]
      simp [h0]
    · rename_i h0
      rw [(endRun_ok _ _).1.grp]
      simp only [h, h0, State.modGrp]
      split
      · subst k
        simp [n.grp]
      · rename_i hk
        rw [State.grp_setGrp_ne _ _ (Ne.symm hk), n.grp]

theorem memOk_takeTrap {s : State} (hm : s.memOk) (g : Nat) (a : TrapArgs) : (s.takeTrap g a).memOk := by
  unfold State.takeTrap
  dsimp only
  have n := (traceG_ok s g evTrap a.sitePc a.addr (causeWord a.cause a.lane a.code a.level) 0).2 hm
  generalize (if (a.cause == 16) = true then (s.grp g).sighandler else (s.grp g).traphandler) = hd
  split
  · exact (halt_ok _ _ _ _).2 n
  · split
    · exact (halt_ok _ _ _ _).2 n
    · exact (endRun_ok _ _).2 n

theorem memOk_trapReturn {s : State} (hm : s.memOk) (g : Nat) (h : Handler) (p : W64) : (s.trapReturn g h p).memOk := by
  unfold State.trapReturn
  dsimp only
  split
  · exact (halt_ok _ _ _ _).2 hm
  · exact (endRun_ok _ _).2 hm

end Sys2Proof.Machine
end

