-- ==== Sys2Proof/Laws/Vector.lean ====
section
/-! SUPPORT. What a vector instruction's checks, reads, marks and writes come to when its operands are in place. -/

namespace Sys2Proof.Machine

theorem eltType_eq (cx : Cx) (dflt : Nat) : unitType cx.h dflt = eltType cx dflt := by
  unfold unitType eltType
  cases cx.h.type <;> rfl

theorem saturates_eq (cx : Cx) : satOf cx.h = saturates cx := by
  unfold satOf fpMode saturates
  cases cx.h.mode <;> rfl

theorem lanes_eq (cx : Cx) (x : Group) : laneList x.w cx.exe = cx.lanes x := rfl

theorem run_forM_nil {α : Type} {f : α → M Unit} {s : State} (l : List α) (h : ∀ a ∈ l, (f a).run s = .ok ((), s)) :
    (l.forM f).run s = .ok ((), s) := by
  induction l with
  | nil => rfl
  | cons a l ih =>
    rw [show (a :: l).forM f = (f a >>= fun _ => l.forM f) from rfl, run_bind_ok (h a List.mem_cons_self)]
    exact ih (fun b hb => h b (List.mem_cons_of_mem _ hb))

theorem SourceOk.notReserved {x : Group} {spec k : Nat} (h : SourceOk x spec k) : (spec != 95) = true := by
  unfold SourceOk at h
  split at h
  · simp; omega
  · split at h
    · simp; omega
    · split at h
      · simpa using h
      · simp; omega

theorem SourcesOk.markable {x : Group} {wide : Bool} {srcs : List (Bool × Nat)} (h : SourcesOk x wide srcs) {p : Bool × Nat} (hp : p ∈ srcs) :
    (!p.1 || Machine.markable p.2) = true := by
  cases hl : p.1
  · rfl
  · have := (h.marks p hp hl).1
    simp [Machine.markable]; omega

/-- The checks of a vector unit whose operands are in place. -/
theorem run_vecStatic {s : State} {cx : Cx} {types : List Nat} {dflt d : Nat} {srcs : List (Bool × Nat)} {x : Group}
    (ht : types.contains (eltType cx dflt) = true) (h : SourcesOk x (isWide (eltType cx dflt)) srcs) (hd : d ≤ 88)
    (he : isWide (eltType cx dflt) = true → d < 88 → d % 2 = 0) :
    (vecStatic cx types dflt d srcs).run s = .ok ((), s) := by
  unfold vecStatic
  simp only [eltType_eq]
  have e1 : (srcs.forM (fun p => okSpec p.2)).run s = .ok ((), s) := run_forM_nil srcs (fun p hp => by exact run_guard (h.place p hp).notReserved _ s)
  have e2 : (okDest d).run s = .ok ((), s) := by
    unfold okDest
    rw [run_bind_ok (run_guard (by simp; omega) _ s)]
    exact run_guard (by simpa using hd) _ s
  have e3 : (srcs.forM (fun p => okMark p.1 p.2)).run s = .ok ((), s) := run_forM_nil srcs (fun p hp => by exact run_guard (h.markable hp) _ s)
  rw [run_bind_ok e1, run_bind_ok (run_guard ht _ s), run_bind_ok e2, run_bind_ok e3]
  cases hw : isWide (eltType cx dflt)
  · rfl
  · simp only [if_true]
    have ev : ∀ n, (n < 88 → n % 2 = 0) → (decide (88 ≤ n) || n % 2 == 0) = true := by
      intro n hn
      by_cases c : n < 88
      · simp [hn c]
      · simp; omega
    have e4 : (okPair d).run s = .ok ((), s) := run_guard (ev d (he hw)) _ s
    rw [run_bind_ok e4]
    exact run_forM_nil srcs (fun p hp => by exact run_guard (ev _ (h.even hw p hp)) _ s)

/-- The registers that marks name. -/
def markRegs (wide : Bool) (srcs : List (Bool × Nat)) : List Nat := srcs.flatMap (fun p => specMark p.1 p.2 (regsOf wide))

theorem marks_eq (x : Group) (exe : W64) (wide : Bool) (srcs : List (Bool × Nat)) :
    x.marks exe wide srcs = x.marked exe (srcs.filter (fun p => p.1)).length (markRegs wide srcs) := by
  unfold Group.marks markRegs specMark
  rfl

theorem samePlace_marks (x : Group) (e : W64) (wide : Bool) (srcs : List (Bool × Nat)) : SamePlace x (x.marks e wide srcs) := samePlace_marked _ _ _ _
theorem unmaps_w (rs : List Nat) (x : Group) : (rs.foldl Group.unmap x).w = x.w := by
  induction rs generalizing x with
  | nil => rfl
  | cons r rs ih => exact ih _
theorem marked_w (x : Group) (e : W64) (k : Nat) (rs : List Nat) : (x.marked e k rs).w = x.w := by
  unfold Group.marked
  split
  · rfl
  · split
    · exact unmaps_w rs x
    · rfl
theorem marks_w (x : Group) (e : W64) (wide : Bool) (srcs : List (Bool × Nat)) : (x.marks e wide srcs).w = x.w := marked_w _ _ _ _

/-- The marks of a vector unit. -/
theorem run_marks {s : State} {cx : Cx} {wide : Bool} {srcs : List (Bool × Nat)} {k : Nat} (hm : (s.grp cx.g).mill = none)
    (h : MarksOk (s.grp cx.g) wide srcs) (hk : k = (srcs.filter (fun p => p.1)).length) :
    ∃ t, (applyMarks cx k (markRegs wide srcs)).run s = .ok ((), t) ∧ t.grp cx.g = (s.grp cx.g).marks cx.exe wide srcs
      ∧ ∀ y, t.setGrp cx.g y = s.setGrp cx.g y := by
  subst hk
  refine ⟨_, run_applyMarks _ _ hm ?_, ?_, ?_⟩
  rotate_left
  · rw [marks_eq]
    cases he : (markRegs wide srcs).isEmpty
    · simp
    · simp [Group.marked, he]
  · intro y
    cases he : (markRegs wide srcs).isEmpty <;> simp
  · intro r hr
    obtain ⟨p, hp, hr⟩ := List.mem_flatMap.mp hr
    unfold specMark at hr
    split at hr
    · rename_i hl
      have hq := (h p hp hl).2
      split at hr
      · rename_i h96
        have := hq 0 (by unfold regsOf; split <;> omega)
        simp only [List.mem_singleton] at hr
        simpa [hr] using this
      · obtain ⟨i, hi, rfl⟩ := List.mem_map.mp hr
        exact hq i (by simpa using hi)
    · simp at hr

/-! ## Lane masks -/

/-- The number whose bits below `w` are `f`. -/
def maskSum (w : Nat) (f : Nat → Bool) (a : Nat) : Nat := (List.range w).foldr (fun t acc => acc + (if f t then 2 ^ t else 0)) a
theorem maskSum_add (w : Nat) (f : Nat → Bool) (a : Nat) : maskSum w f a = maskSum w f 0 + a := by
  unfold maskSum
  generalize List.range w = l
  induction l with
  | nil => simp
  | cons t l ih => simp only [List.foldr_cons]; rw [ih]; omega
theorem maskSum_succ (w : Nat) (f : Nat → Bool) : maskSum (w + 1) f 0 = maskSum w f 0 + (if f w then 2 ^ w else 0) := by
  rw [← maskSum_add]
  unfold maskSum
  rw [List.range_succ, List.foldr_append]
  simp
theorem maskSum_lt (w : Nat) (f : Nat → Bool) : maskSum w f 0 < 2 ^ w := by
  induction w with
  | zero => simp [maskSum]
  | succ w ih =>
    rw [maskSum_succ, Nat.pow_succ]
    split <;> omega
theorem maskSum_bit (w : Nat) (f : Nat → Bool) (t : Nat) : (maskSum w f 0).testBit t = (decide (t < w) && f t) := by
  induction w with
  | zero => simp [maskSum]
  | succ w ih =>
    have hlt := maskSum_lt w f
    rw [maskSum_succ]
    rcases Nat.lt_trichotomy t w with h | h | h
    · split
      · rw [Nat.add_comm, Nat.testBit_two_pow_add_gt h, ih]; simp [h]; omega
      · rw [Nat.add_zero, ih]; simp [h]; omega
    · subst h
      split
      · rename_i hf
        rw [Nat.add_comm, Nat.testBit_two_pow_add_eq, Nat.testBit_lt_two_pow hlt, hf]; simp
      · rename_i hf
        rw [Nat.add_zero, Nat.testBit_lt_two_pow hlt]; simp [hf]
    · have : maskSum w f 0 + (if f w then 2 ^ w else 0) < 2 ^ t := by
        have : 2 ^ (w + 1) ≤ 2 ^ t := Nat.pow_le_pow_right (by omega) (by omega)
        rw [Nat.pow_succ] at this
        split <;> omega
      rw [Nat.testBit_lt_two_pow this]
      simp; omega

/-- The lanes of a mask. -/
theorem hasLane_maskOf (w : Nat) (f : Nat → Bool) (t : Nat) : hasLane (maskOf w f) t = (decide (t < 64) && (decide (t < w) && f t)) := by
  unfold hasLane maskOf n64
  rw [BitVec.getLsbD_ofNat]
  congr 1
  exact maskSum_bit w f t
theorem maskOf_false {w : Nat} {f : Nat → Bool} (h : ∀ t ∈ List.range w, f t = false) : maskOf w f = 0#64 := by
  apply BitVec.eq_of_getLsbD_eq
  intro i _
  have := hasLane_maskOf w f i
  unfold hasLane at this
  rw [this]
  cases hi : decide (i < w)
  · simp
  · simp [h i (List.mem_range.mpr (by simpa using hi))]

/-! ## Units whose effect leaves their group -/

/-- A unit whose body ends in `u`, where its group stands as before and the runs are untouched. -/
theorem issue_comes {z : Bool} {op : Nat} {acc : Accepts} {mill : Bool} {static : Cx → M Unit} {body : Cx → M Ctl} {s u : State}
    {run : Run} {cx : Cx} {c : Ctl} (h : UnitOk s run cx acc mill) (calm : Calm u cx.g)
    (loop : atLoopEnd (u.grp cx.g) cx.pc = false) (hs : (static cx).run s = .ok ((), s))
    (hb : (body cx).run s = .ok (c, u)) (hr : u.runs = s.runs) (hx : c.exits = false) (ht : c.trapret = false)
    (hp : c.post = none) (hd : c.stopAfter = none) :
    ∃ t, issue z op acc mill static body s = .next t
      ∧ Leaves u t cx (fun k => match c.moves.find? (fun e => e.1 == k) with | some e => e.2 | none => cx.pc + 4#64) := by
  refine ⟨_, issue_next h hs hb ?_, finish_leaves calm loop hx ht hp hd⟩
  intro r hl
  rw [hr, h.look] at hl
  cases hl
  exact h.rur

/-! ## Events and sticky bits -/

theorem countEvents_rest (s : State) (g f : Nat) (n : List Nat) (pc seq : W64) :
    ∃ tk, s.countEvents g f n pc seq = { s with tasks := tk } := by
  unfold State.countEvents
  simp only
  split
  · exact ⟨_, rfl⟩
  · exact ⟨_, rfl⟩
theorem countEvents_zero (s : State) (g f : Nat) (n : List Nat) (pc seq : W64) (h : n.all (· == 0) = true) : s.countEvents g f n pc seq = s := by
  unfold State.countEvents
  simp [h]

/-- What a vector result leaves: the destination and the last results, SATD where a lane was clamped, the events counted. -/
def afterLanes (s : State) (cx : Cx) (y : Group) (ty fty d : Nat) (outs : List LaneOut) : State :=
  let act := (cx.lanes y).map (fun t => lane { v := 0#64 } outs t)
  (s.setGrp cx.g ((y.result cx.exe d (isWide ty) (outs.map (·.v))).sticky (act.any (·.sat)) 16#64)).countEvents cx.g (fmtIdx fty)
    (Ev.counts (act.map (·.ev))) cx.pc y.cmdseq

theorem setV_cmdseq (x : Group) (m : W64) (r : Nat) (v : List W32) : (x.setV m r v).cmdseq = x.cmdseq := by
  unfold Group.setV; split
  · rfl
  · split <;> rfl
theorem result_cmdseq (x : Group) (m : W64) (d : Nat) (wide : Bool) (v : List W64) : (x.result m d wide v).cmdseq = x.cmdseq := by
  unfold Group.result
  cases wide <;> simp only [Bool.false_eq_true, if_false, if_true, Group.push, setV_cmdseq]
  split <;> simp only [setV_cmdseq]
theorem result_w (x : Group) (m : W64) (d : Nat) (wide : Bool) (v : List W64) : (x.result m d wide v).w = x.w := by
  unfold Group.result
  cases wide <;> simp only [Bool.false_eq_true, if_false, if_true, Group.push, setV_w]
  split <;> simp only [setV_w]
theorem samePlace_sticky (x : Group) (c : Bool) (b : W64) : SamePlace x (x.sticky c b) := by
  unfold Group.sticky; split <;> exact ⟨rfl, rfl, rfl, rfl, rfl⟩

/-- The end of a vector instruction in which no lane meets a case of R127. -/
theorem run_finishLanes {s t : State} {cx : Cx} {ty fty d : Nat} {outs : List LaneOut} (h : DestOk (t.grp cx.g) d (regsOf (isWide ty)))
    (he : isWide ty = true → 88 ≤ d ∨ d % 2 = 0) (hi : ∀ k ∈ cx.lanes (t.grp cx.g), (lane { v := 0#64 } outs k).idz = false)
    (hset : ∀ y, t.setGrp cx.g y = s.setGrp cx.g y) :
    (finishLanes cx ty fty d outs).run t = .ok ({}, afterLanes s cx (t.grp cx.g) ty fty d outs) := by
  unfold finishLanes
  rw [run_bind_ok (run_getG cx.g t)]
  simp only []
  rw [run_bind_ok (run_writeEl _ h he)]
  obtain ⟨act, ha⟩ : ∃ l, l = (cx.lanes (t.grp cx.g)).map (fun k => lane { v := 0#64 } outs k) := ⟨_, rfl⟩
  rw [lanes_eq, ← ha, hset]
  obtain ⟨y, hy⟩ : ∃ y, y = (t.grp cx.g).result cx.exe d (isWide ty) (outs.map (·.v)) := ⟨_, rfl⟩
  rw [← hy]
  have e1 : (noteSat cx (act.any (·.sat))).run (s.setGrp cx.g y) = .ok ((), s.setGrp cx.g (y.sticky (act.any (·.sat)) 16#64)) := by
    unfold noteSat Group.sticky sticky
    split
    · rw [run_modG, State.modGrp_eq, State.grp_setGrp, setGrp_setGrp]
    · rfl
  have e2 : ∀ b : Bool, (y.sticky b 16#64).cmdseq = (t.grp cx.g).cmdseq := by
    intro b
    have : y.cmdseq = (t.grp cx.g).cmdseq := by rw [hy, result_cmdseq]
    unfold Group.sticky; split <;> simpa using this
  have e3 : (noteEvents cx fty (act.map (·.ev))).run (s.setGrp cx.g (y.sticky (act.any (·.sat)) 16#64)) =
      .ok ((), afterLanes s cx (t.grp cx.g) ty fty d outs) := by
    unfold noteEvents afterLanes
    rw [run_bind_ok (run_getG cx.g _), run_modify, State.grp_setGrp, e2, ← ha, ← hy]
  have e4 : maskOf (t.grp cx.g).w (fun k => hasLane cx.exe k && (lane { v := 0#64 } outs k).idz) = 0#64 := by
    have : ∀ k ∈ List.range (t.grp cx.g).w, (hasLane cx.exe k && (lane { v := 0#64 } outs k).idz) = false := by
      intro k hk
      cases hl : hasLane cx.exe k
      · rfl
      · exact hi k (List.mem_filter.mpr ⟨hk, hl⟩)
    exact maskOf_false this
  rw [run_bind_ok e1, run_bind_ok e3, e4]
  rfl

/-! ## The shapes of vector instructions -/

theorem calm_afterLanes {s : State} {cx : Cx} {x y : Group} {ty fty d : Nat} {outs : List LaneOut} (h : Calm s cx.g) (hx : s.grp cx.g = x)
    (p : SamePlace x y) : Calm (afterLanes s cx y ty fty d outs) cx.g ∧ (∀ pc, atLoopEnd ((afterLanes s cx y ty fty d outs).grp cx.g) pc = atLoopEnd x pc)
      ∧ (afterLanes s cx y ty fty d outs).runs = s.runs := by
  unfold afterLanes
  simp only
  generalize hr : (y.result cx.exe d (isWide ty) (outs.map (·.v))).sticky _ 16#64 = z
  obtain ⟨tk, ht⟩ := countEvents_rest (s.setGrp cx.g z) cx.g (fmtIdx fty) (Ev.counts (((cx.lanes y).map (fun t => lane { v := 0#64 } outs t)).map (·.ev))) cx.pc y.cmdseq
  rw [ht]
  have q : SamePlace (s.grp cx.g) z := by
    rw [hx, ← hr]; exact (p.trans (samePlace_result _ _ _ _ _)).trans (samePlace_sticky _ _ _)
  have c := calm_setGrp h q
  refine ⟨⟨c.samples, c.recs, c.step, c.claims⟩, ?_, rfl⟩
  intro pc
  have : ({ s.setGrp cx.g z with tasks := tk } : State).grp cx.g = z := State.grp_setGrp s cx.g z
  rw [this]
  unfold atLoopEnd
  rw [q.loops, hx]

theorem maskCount (l m : Bool) (a b : Nat) : countMarks l m = ([(l, a), (m, b)].filter (fun p => p.1)).length := by
  cases l <;> cases m <;> rfl

/-- A three-operand vector instruction in which no lane meets a case of R127. -/
theorem vec3_comes {op : Nat} {mode rd : Bool} {types : List Nat} {dflt : Nat} {r : Lane3} {f : FV3} {s : State} {run : Run} {cx : Cx} {ty : Nat}
    (h : Issuing s run cx { mode := mode, type := decide (1 < types.length) } false) (ht : types.contains ty = true) (hty : ty = eltType cx dflt)
    (hv : VecOk (s.grp cx.g) cx.exe (isWide ty) [(f.l, f.a.toNat), (f.m, f.b.toNat)] f.d.toNat)
    (hd : rd = true → SourceOk (s.grp cx.g) f.d.toNat (regsOf (isWide ty)))
    (hi : ∀ a b d, (r ty cx.h a b d).idz = false) :
    let x := s.grp cx.g
    ∃ t, vec3 op mode rd types dflt r f s = .next t
      ∧ Leaves (afterLanes s cx (x.marks cx.exe (isWide ty) [(f.l, f.a.toNat), (f.m, f.b.toNat)]) ty ty f.d.toNat
          (gen x.w (fun t => r ty cx.h (x.el (isWide ty) f.a.toNat t) (x.el (isWide ty) f.b.toNat t) (if rd then x.el (isWide ty) f.d.toNat t else 0#64))))
          t cx cx.next := by
  intro x
  have hm : (s.grp cx.g).mill = none := by simpa using h.unit.mill
  have cal := calm_afterLanes (ty := ty) (fty := ty) (d := f.d.toNat)
    (outs := gen x.w (fun t => r ty cx.h (x.el (isWide ty) f.a.toNat t) (x.el (isWide ty) f.b.toNat t) (if rd then x.el (isWide ty) f.d.toNat t else 0#64)))
    h.calm (x := x) rfl (samePlace_marks x cx.exe (isWide ty) [(f.l, f.a.toNat), (f.m, f.b.toNat)])
  have evenOf : ∀ n, (isWide ty = true → n < 88 → n % 2 = 0) → isWide ty = true → 88 ≤ n ∨ n % 2 = 0 := by
    intro n hn hw
    by_cases c : n < 88
    · exact .inr (hn hw c)
    · exact .inl (by omega)
  have ia : (f.l, f.a.toNat) ∈ [(f.l, f.a.toNat), (f.m, f.b.toNat)] := by simp
  have ib : (f.m, f.b.toNat) ∈ [(f.l, f.a.toNat), (f.m, f.b.toNat)] := by simp
  obtain ⟨t, e5, hg, hset⟩ := run_marks (s := s) (cx := cx) (wide := isWide ty) (k := countMarks f.l f.m) hm hv.marks (maskCount _ _ _ _)
  refine issue_comes (c := {}) h.unit cal.1 (by rw [cal.2.1]; exact h.loop) ?_ ?_ cal.2.2 rfl rfl rfl rfl
  · exact run_vecStatic (by rw [← hty]; exact ht) (by rw [← hty]; exact hv.toSourcesOk) hv.dest.1 (by rw [← hty]; exact hv.evenD)
  · rw [skipMarks, if_neg h.some]
    simp only [eltType_eq, ← hty]
    have e1 : (refillSpecs cx (specRegs f.d.toNat (if isWide ty then 2 else 1)) ([(f.a.toNat, if isWide ty then 2 else 1), (f.b.toNat, if isWide ty then 2 else 1)]
        ++ (if rd then [(f.d.toNat, if isWide ty then 2 else 1)] else []))).run s = .ok ((), s) := by
      apply run_refillSpecs
      intro p hp
      rcases List.mem_append.mp hp with hp | hp
      · simp only [List.mem_cons, List.not_mem_nil, or_false] at hp
        rcases hp with rfl | rfl
        · exact hv.place _ ia
        · exact hv.place _ ib
      · cases rd
        · simp at hp
        · simp only [if_true, List.mem_singleton] at hp
          rw [hp]; exact hd rfl
    have e2 := run_readEl (s := s) (cx := cx) (need := cx.exe) (hv.place _ ia) (evenOf _ (fun w => hv.even w _ ia))
    have e3 := run_readEl (s := s) (cx := cx) (need := cx.exe) (hv.place _ ib) (evenOf _ (fun w => hv.even w _ ib))
    obtain ⟨ds, e4, hds⟩ : ∃ ds, (∀ k : List W64 → M Ctl, ((if rd then (readEl cx cx.exe f.d.toNat (isWide ty) >>= k) else (pure [] >>= k)) : M Ctl).run s = (k ds).run s)
        ∧ ∀ k, k < x.w → lane 0#64 ds k = if rd then x.el (isWide ty) f.d.toNat k else 0#64 := by
      cases rd
      · exact ⟨[], fun _ => rfl, fun _ _ => rfl⟩
      · exact ⟨_, fun k => run_bind_ok (run_readEl (hd rfl) (evenOf _ hv.evenD)), fun k hk => by simp [lane_gen _ _ hk, x]⟩
    rw [run_bind_ok e1, run_bind_ok e2, run_bind_ok e3]
    rw [e4]
    have e5' : (applyMarks cx (countMarks f.l f.m) (specMark f.l f.a.toNat (if isWide ty then 2 else 1) ++ specMark f.m f.b.toNat (if isWide ty then 2 else 1))).run s
        = .ok ((), t) := by
      rw [← e5]; unfold markRegs regsOf; simp
    rw [run_bind_ok e5', run_bind_ok (run_getG cx.g t), hg, marks_w]
    have ho : gen x.w (fun k => r ty cx.h (lane 0#64 (gen x.w (fun t => x.el (isWide ty) f.a.toNat t)) k) (lane 0#64 (gen x.w (fun t => x.el (isWide ty) f.b.toNat t)) k) (lane 0#64 ds k))
        = gen x.w (fun t => r ty cx.h (x.el (isWide ty) f.a.toNat t) (x.el (isWide ty) f.b.toNat t) (if rd then x.el (isWide ty) f.d.toNat t else 0#64)) := by
      apply List.map_congr_left
      intro k hk
      have hk : k < x.w := by simpa using hk
      rw [lane_gen _ _ hk, lane_gen _ _ hk, hds k hk]
    rw [ho, run_finishLanes (s := s) (by rw [hg]; exact hv.dest) (evenOf _ hv.evenD) ?_ hset, hg]
    intro k hk
    have hk : k < x.w := by
      have := (List.mem_filter.mp hk).1
      rw [hg, marks_w] at this
      simpa using this
    rw [lane_gen _ _ hk]
    exact hi _ _ _

/-! ## Integer elements -/

theorem eltBits_eq (ty : Nat) (x : W64) : eltBits ty x = (x.setWidth (tyBits ty)).toNat := by
  simp [eltBits, BitVec.toNat_setWidth]

theorem ofBits_signed {n : Nat} (p : BitVec n) (hn : 0 < n) : ofBits n true p.toNat = p.toInt := by
  unfold ofBits
  rw [BitVec.toInt_eq_toNat_cond]
  have : 2 ^ n = 2 * 2 ^ (n - 1) := by
    obtain ⟨m, rfl⟩ : ∃ m, n = m + 1 := ⟨n - 1, by omega⟩
    rw [Nat.pow_succ]; simp; omega
  by_cases h : 2 ^ (n - 1) ≤ p.toNat
  · rw [if_pos (by simpa using h), if_neg (by omega)]
    push_cast; rfl
  · rw [if_neg (by simpa using h), if_pos (by omega)]
theorem tyBits_pos (ty : Nat) : 0 < tyBits ty := by unfold tyBits; split <;> omega
theorem eltInt_eq (ty : Nat) (x : W64) : eltInt ty x = numOf ty x := by
  unfold eltInt numOf isSigned
  rw [eltBits_eq]
  by_cases h : ty < 4
  · simp only [decide_eq_true h, if_pos h]
    exact ofBits_signed _ (tyBits_pos ty)
  · simp [h, ofBits]
theorem holdBits_eq {ty : Nat} (h : ty < 8) (v : Nat) : holdBits ty v = heldAs ty (BitVec.ofNat _ v) := by
  unfold holdBits heldAs
  have key : ∀ n, 0 < n → n ≤ 32 → ∀ u, u < 2 ^ n → n64 (if 2 ^ (n - 1) ≤ u then u + 2 ^ 32 - 2 ^ n else u) = ((BitVec.ofNat n u).signExtend 32).setWidth 64 := by
    intro n h0 h32 u hu
    apply BitVec.eq_of_toNat_eq
    have hw : 2 ^ n ≤ 2 ^ 32 := Nat.pow_le_pow_right (by omega) h32
    have h2 : 2 ^ n = 2 * 2 ^ (n - 1) := by
      obtain ⟨m, rfl⟩ : ∃ m, n = m + 1 := ⟨n - 1, by omega⟩
      rw [Nat.pow_succ]; simp; omega
    have hm : (BitVec.ofNat n u).msb = decide (2 ^ (n - 1) ≤ u) := by
      rw [BitVec.msb_eq_decide, BitVec.toNat_ofNat, Nat.mod_eq_of_lt hu]
    rw [BitVec.toNat_setWidth, BitVec.toNat_signExtend, hm, BitVec.toNat_setWidth, BitVec.toNat_ofNat, Nat.mod_eq_of_lt hu, n64, BitVec.toNat_ofNat]
    simp only [decide_eq_true_eq]
    split <;> omega
  by_cases h2 : ty < 2
  · simp only [h2, decide_true, Bool.true_and, if_true]
    have h32 : tyBits ty ≤ 32 := by interval_cases ty <;> decide
    have := key (tyBits ty) (tyBits_pos ty) h32 (v % 2 ^ tyBits ty) (Nat.mod_lt _ (by positivity))
    rw [← apply_ite n64] 
    simp only [decide_eq_true_eq]
    rw [this]
    congr 2
    exact BitVec.eq_of_toNat_eq (by simp)
  · simp only [h2, decide_false, Bool.false_and, Bool.false_eq_true, if_false]
    apply BitVec.eq_of_toNat_eq
    simp [n64]
theorem holdInt_eq {ty : Nat} (h : ty < 8) (i : Int) : holdInt ty i = heldAs ty (BitVec.ofInt _ i) := by
  unfold holdInt
  rw [holdBits_eq h]
  congr 1
  apply BitVec.eq_of_toNat_eq
  rw [BitVec.toNat_ofNat, BitVec.toNat_ofInt]
  apply Nat.mod_eq_of_lt
  have : 0 < (2 ^ tyBits ty : Nat) := by positivity
  have h1 := Int.emod_lt_of_pos i (show (0 : Int) < ((2 ^ tyBits ty : Nat) : Int) by exact_mod_cast this)
  have h2 := Int.emod_nonneg i (show ((2 ^ tyBits ty : Nat) : Int) ≠ 0 by positivity)
  omega
/-- Lanes that neither saturate nor meet an event. -/
theorem afterLanes_plain {s : State} {cx : Cx} {y : Group} {ty fty d : Nat} {n : Nat} {v : Nat → LaneOut} (hy : y.w = n) (hs : ∀ t, (v t).sat = false) (he : ∀ t, (v t).ev = {}) :
    afterLanes s cx y ty fty d (gen n v) = s.setGrp cx.g (y.result cx.exe d (isWide ty) (gen n (fun t => (v t).v))) := by
  have hl : ∀ t ∈ cx.lanes y, lane { v := 0#64 } (gen n v) t = v t := by
    intro t ht
    have := (List.mem_filter.mp ht).1
    exact lane_gen _ _ (by rw [← hy]; simpa using this)
  unfold afterLanes
  simp only []
  have h1 : (cx.lanes y).map (fun t => lane { v := 0#64 } (gen n v) t) = (cx.lanes y).map v := List.map_congr_left hl
  rw [h1, countEvents_zero]
  · have : ((cx.lanes y).map v).any (·.sat) = false := by
      rw [List.any_eq_false]; intro o ho
      obtain ⟨t, _, rfl⟩ := List.mem_map.mp ho
      simp [hs]
    rw [this]
    simp [Group.sticky, gen, List.map_map]
    rfl
  · simp [Ev.counts, Function.comp_def, he]

end Sys2Proof.Machine
end

