-- ==== Sys2Proof/Tests/Slice0.lean ====
section
/-! SUPPORT. The model's own tests: the words of the spec's encodings, ill-formed terms, single steps, and for every
statement a state and operands that meet its premises. -/

namespace Sys2Proof.Tests

open Sys2Proof Sys2Proof.Machine

set_option maxRecDepth 100000

/-! ## A group that is ready to issue -/

/-- What lane `t` of register v`r` holds. -/
def vAt (r t : Nat) : W32 := BitVec.ofNat 32 (r * 16 + t + 1)
/-- What s`i` holds. -/
def sAt (i : Nat) : W64 := BitVec.ofNat 64 (i * 8)

/-- Sixteen threads, every register in place. -/
def grp0 : Group :=
  { Group.blank with
    w := 16, place := .resident, started := true, role := 2, floor := 80
    vval := (List.range 80).map (fun r => (r, gen 16 (vAt r))), sval := (List.range 32).map (fun i => (96 + i, sAt i))
    q := (List.range 8).map (fun k => (k, gen 16 (vAt (80 + k)))), p := (List.range 8).map (fun k => (k, 0x00FF#64))
    y0 := gen 16 (fun t => BitVec.ofNat 64 t), y1 := gen 16 (fun _ => 0#64)
    pcs := gen 16 (fun _ => 0x20000#64), ages := gen 16 (fun _ => 0) }

/-- The run of all sixteen threads, its unit's hints `h`. -/
def run0 (h : Hints) : Run := { gid := 0, act := 0xFFFF#64, words := 0, pc := 0x20000#64, upc := 0x20000#64, hints := h, held := false, rur := none }
/-- Its unit. -/
def cx0 (h : Hints) : Cx := { g := 0, act := 0xFFFF#64, exe := 0xFFFF#64, pc := 0x20000#64, upc := 0x20000#64, h := h }
/-- A state in which the group `x` alone runs, its code and data in the page at 0x20000, which it may read, write and execute. -/
def stOf (x : Group) (h : Hints) : State := { State.reset.withLoader with groups := [(0, x)], runs := [(0, run0 h)], focus := some 0 }
def st0 (h : Hints) : State := stOf grp0 h

theorem stOf_grp (x : Group) (h : Hints) : (stOf x h).grp 0 = x := rfl

/-- What the group needs for its unit to issue. -/
def goodGrp (x : Group) : Bool :=
  siteOf x == 0 && x.shadow.isNone && x.mill.isNone && x.brks.isEmpty && x.unmatched.isNone && !x.stepping && (claimOf x).isNone
    && x.loops.isEmpty && x.cmdseq == 0#64 && x.spills == 0 && x.refills == 0

theorem st_issuing {x : Group} {h : Hints} {acc : Accepts} {mill : Bool} (hx : goodGrp x = true) (hb : h.bad = false) (ha : acc.ok h = true)
    (hp : h.pred = none) : Issuing (stOf x h) (run0 h) (cx0 h) acc mill := by
  simp only [goodGrp, Bool.and_eq_true, Bool.not_eq_true', beq_iff_eq, List.isEmpty_iff, Option.isNone_iff_eq_none] at hx
  obtain ⟨⟨⟨⟨⟨⟨⟨⟨⟨⟨hs, h1⟩, h2⟩, h3⟩, h4⟩, h5⟩, h6⟩, h7⟩, h8⟩, h9⟩, h10⟩ := hx
  have he : executing x 0xFFFF#64 h = 0xFFFF#64 := by simp [executing, h1, hp]
  have hc : (stOf x h).current = some (run0 h, cx0 h) := by
    have : (stOf x h).current = some (run0 h, { g := 0, act := 0xFFFF#64, exe := executing x 0xFFFF#64 h, pc := 0x20000#64, upc := 0x20000#64, h := h, seq := x.cmdseq, moved := x.spills + x.refills }) := rfl
    rw [this, he, h8, h9, h10]; rfl
  refine ⟨⟨hc, ?_, rfl, rfl, hb, ha, ?_, ?_, ?_⟩, ⟨?_, rfl, ?_, ?_⟩, ?_, by simp [cx0]⟩
  · change some 0 = some (siteOf x); rw [hs]
  · change (h.pred.isSome && x.shadow.isSome) = false; rw [hp]; rfl
  · change (mill || x.mill.isNone) = true; rw [h2]; simp
  · change breakHit x _ = none; simp [breakHit, h3, h4]
  · rfl
  · exact h5
  · intro e he
    have : e = (0, x) := by simpa [stOf] using he
    subst this; exact h6
  · change atLoopEnd x _ = false; simp [atLoopEnd, h7]

/-- Every register of the group is in place, and holds what `grp0` holds. -/
structure InPlace (x : Group) : Prop where
  v : x.vval = grp0.vval
  s : x.sval = grp0.sval
  q : x.q = grp0.q
  ops : x.ops = []
  sp : x.wspill = []
  spd : x.spilled = []
  pin : x.pinned = []
  w : x.w = 16

theorem inPlace0 : InPlace grp0 := ⟨rfl, rfl, rfl, rfl, rfl, rfl, rfl, rfl⟩

theorem InPlace.pending {x : Group} (h : InPlace x) (r : Nat) : pendingReg x r = none := by simp [pendingReg, h.ops]
theorem InPlace.scalar {x : Group} (h : InPlace x) {i : Nat} (hi : i < 32) : ScalarOk x i (sAt i) := by
  refine ⟨?_, h.pending _⟩
  rw [h.s]
  revert i
  decide
theorem InPlace.mapped {x : Group} (h : InPlace x) {r : Nat} (hr : r < 80) : isMapped x r = true := by
  have : isMapped x r = isMapped grp0 r := by simp [isMapped, h.v, h.spd, inPlace0.spd]
  rw [this]
  clear this
  revert r
  decide
theorem InPlace.pins {x : Group} (h : InPlace x) (r : Nat) : x.pinned.all (fun e => e.2 != r) = true := by simp [h.pin]

theorem InPlace.source {x : Group} (h : InPlace x) {spec k : Nat} (hs : spec + k ≤ 80 ∨ (80 ≤ spec ∧ spec < 128 ∧ spec ≠ 95)) : SourceOk x spec k := by
  unfold SourceOk
  split
  · intro i hi
    refine ⟨h.mapped (by omega), by simp [h.sp], h.pending _⟩
  · split
    · intro i hi; exact h.pending _
    · split
      · omega
      · obtain ⟨i, rfl, hi⟩ : ∃ i, spec = 96 + i ∧ i < 32 := ⟨spec - 96, by omega, by omega⟩
        have := h.scalar hi
        exact ⟨by rw [this.1]; rfl, h.pending _⟩

theorem InPlace.sources {x : Group} (h : InPlace x) {wide : Bool} {srcs : List (Bool × Nat)}
    (hs : srcs.all (fun p => !p.1 && decide (p.2 % 2 = 0) && (decide (p.2 + 2 ≤ 80) || (decide (80 ≤ p.2) && decide (p.2 < 128)))) = true) : SourcesOk x wide srcs := by
  simp only [List.all_eq_true, Bool.and_eq_true, Bool.or_eq_true, Bool.not_eq_true', decide_eq_true_eq] at hs
  refine ⟨fun p hp => h.source ?_, fun _ p hp _ => (hs p hp).1.2, fun p hp m => ?_⟩
  · have := hs p hp
    unfold regsOf
    split <;> omega
  · rw [(hs p hp).1.1] at m; cases m

theorem InPlace.dest {x : Group} (h : InPlace x) {d k : Nat} (hd : d + k ≤ 80 ∨ d = 88) : DestOk x d k := by
  refine ⟨by omega, fun h80 i hi => ⟨h.mapped (by omega), h.pins _⟩, fun h88 i hi => h.pending _⟩

theorem marks_none {x : Group} {exe : W64} {wide : Bool} {srcs : List (Bool × Nat)} (hs : srcs.all (fun p => !p.1) = true) : x.marks exe wide srcs = x := by
  have e : srcs.flatMap (fun p => if p.1 then (if 96 ≤ p.2 then [p.2] else (List.range (regsOf wide)).map (p.2 + ·)) else []) = [] := by
    simp only [List.all_eq_true, Bool.not_eq_true'] at hs
    simp only [List.flatMap_eq_nil_iff]
    intro p hp
    simp [hs p hp]
  simp [Group.marks, Group.marked, e]

/-- Unmarked even sources and an even destination. -/
theorem InPlace.vec {x : Group} (h : InPlace x) {exe : W64} {wide : Bool} {srcs : List (Bool × Nat)} {d : Nat}
    (hs : srcs.all (fun p => !p.1 && decide (p.2 % 2 = 0) && (decide (p.2 + 2 ≤ 80) || (decide (80 ≤ p.2) && decide (p.2 < 128)))) = true)
    (hd : d % 2 = 0 ∧ d + 2 ≤ 80) : VecOk x exe wide srcs d := by
  have hm : x.marks exe wide srcs = x := marks_none (by
    simp only [List.all_eq_true, Bool.and_eq_true] at hs ⊢
    intro p hp; exact (hs p hp).1.1)
  refine ⟨h.sources hs, ?_, fun _ _ => hd.1⟩
  rw [hm]
  refine h.dest ?_
  unfold regsOf
  split <;> omega

/-- An instruction has its effect on a state: it answers a next state. -/
def Runs (i : Instr) (s : State) : Prop := ∃ t, exec i s = .next t
theorem runs_comes {i : Instr} {s u : State} {cx : Cx} (h : Comes i s u cx) : Runs i s := h.elim fun t h => ⟨t, h.1⟩
theorem runs_does {i : Instr} {s : State} {cx : Cx} {y : Group} (h : Does i s cx y) : Runs i s := runs_comes h
theorem runs_goes {i : Instr} {s u : State} {cx : Cx} {g : Nat → W64} (h : Goes i s u cx g) : Runs i s := h.elim fun t h => ⟨t, h.1⟩
theorem runs_traps {i : Instr} {s : State} {r : Run} {cx : Cx} {c : Nat} {v : W64} (h : Traps i s r cx c v) : Runs i s := ⟨_, h⟩
theorem runs_trapsAt {i : Instr} {s : State} {r : Run} {cx : Cx} {c a b d : Nat} {v w : W64} (h : TrapsAt i s r cx c v a b d w) : Runs i s := ⟨_, h⟩
theorem runs_trapsAfter {i : Instr} {s u : State} {cx : Cx} {c a : Nat} {v : W64} (h : TrapsAfter i s u cx c v a) : Runs i s := h.elim fun _ h => ⟨_, h.2⟩
theorem runs_stalls {i : Instr} {s : State} {r : Run} {cx : Cx} (h : Stalls i s r cx) : Runs i s := ⟨_, h⟩
theorem runs_becomes {i : Instr} {s u : State} (h : Becomes i s u) : Runs i s := ⟨_, h⟩

/-! ## Witnesses

Each theorem applies one rule to a concrete state and operands: every premise is met there, at the boundary the name or the comment says. -/

def fs3 (d a b : Nat) : FS3 := { z := false, d := BitVec.ofNat 6 d, l := false, a := BitVec.ofNat 6 a, m := false, b := BitVec.ofNat 6 b }
def fs2 (d a : Nat) : FS2 := { z := false, d := BitVec.ofNat 6 d, l := false, a := BitVec.ofNat 6 a }
def fv3 (d a b : Nat) : FV3 := { z := false, d := BitVec.ofNat 7 d, l := false, a := BitVec.ofNat 7 a, m := false, b := BitVec.ofNat 7 b }
def fv2 (d a : Nat) : FV2 := { z := false, d := BitVec.ofNat 7 d, l := false, a := BitVec.ofNat 7 a }

/-- No hint. -/
theorem issuing0 (acc : Accepts) (mill : Bool) : Issuing (st0 {}) (run0 {}) (cx0 {}) acc mill :=
  st_issuing (by decide) rfl (by simp [Accepts.ok]) rfl

theorem witness_scalarAlu0 (h : scalarAlu0Rule) : ∀ r ∈ salu0Rows, Runs (r.1 (fs3 31 0 31)) (st0 {}) := fun r hr =>
  runs_does (h.1 r hr (fs3 31 0 31) (st0 {}) (run0 {}) (cx0 {}) (sAt 0) (sAt 31) (issuing0 _ _) rfl rfl (inPlace0.scalar (by decide)) (inPlace0.scalar (by decide)) (inPlace0.pending _))

theorem witness_scalarAlu0_mov (h : scalarAlu0Rule) : Runs (.salu0Mov (fs2 0 31)) (st0 {}) :=
  runs_does (h.2.1 (fs2 0 31) (st0 {}) (run0 {}) (cx0 {}) (sAt 31) (issuing0 _ _) rfl (inPlace0.scalar (by decide)) (inPlace0.pending _))

/-- FN4 15 with every other bit clear, and with every other bit set. -/
theorem witness_scalarAlu0_reserved (h : scalarAlu0Rule) : decode 0x1000000F#32 = none ∧ decode 0x90FFFFFF#32 = none :=
  ⟨h.2.2 _ (by decide) (by decide), h.2.2 _ (by decide) (by decide)⟩

theorem witness_scalarAlu1 (h : scalarAlu1Rule) : Runs (.mul (fs3 1 2 3)) (st0 {}) ∧ Runs (.brev (fs2 1 2)) (st0 {}) ∧ Runs (.clz (fs2 1 0)) (st0 {}) := by
  refine ⟨runs_does (h.1 _ (.head _) (fs3 1 2 3) (st0 {}) (run0 {}) (cx0 {}) (sAt 2) (sAt 3) (issuing0 _ _) rfl rfl (inPlace0.scalar (by decide)) (inPlace0.scalar (by decide)) (inPlace0.pending _)),
    runs_does (h.2.1 _ (.tail _ (.tail _ (.head _))) (fs2 1 2) (st0 {}) (run0 {}) (cx0 {}) (sAt 2) (issuing0 _ _) rfl (inPlace0.scalar (by decide)) (inPlace0.pending _)), ?_⟩
  obtain ⟨n, _, hn⟩ := h.2.2 _ (.tail _ (.head _)) (fs2 1 0) (st0 {}) (run0 {}) (cx0 {}) (sAt 0) (issuing0 _ _) rfl (inPlace0.scalar (by decide)) (inPlace0.pending _)
  exact runs_does hn

/-- `grp0` with s0 and s1 as given. -/
def withS (a b : W64) : Group := { grp0 with sval := ins (ins grp0.sval 96 a) 97 b }
theorem good_withS (a b : W64) : goodGrp (withS a b) = true := rfl
theorem issuing_withS (a b : W64) (acc : Accepts) (mill : Bool) : Issuing (stOf (withS a b) {}) (run0 {}) (cx0 {}) acc mill :=
  st_issuing (good_withS a b) rfl (by simp [Accepts.ok]) rfl
theorem withS_a (a b : W64) : ScalarOk (withS a b) 0 a := ⟨by simp [withS, look_ins_ne (n := 97) (k := 96)], rfl⟩
theorem withS_b (a b : W64) : ScalarOk (withS a b) 1 b := ⟨by simp [withS], rfl⟩
theorem withS_p (a b : W64) (r : Nat) : pendingReg (withS a b) r = none := rfl

/-- A field of length 0, one of all 64 bits, one cut off at the top. -/
theorem witness_bitFields (h : bitFieldsRule) : ∀ b ∈ [0#64, 0x1000#64, 0x3FFF#64],
    (∃ v, Does (.bfe (fs3 2 0 1)) (stOf (withS 5#64 b) {}) (cx0 {}) v) ∧ ∃ v, Does (.bfi (fs3 2 0 1)) (stOf (withS 5#64 b) {}) (cx0 {}) v := by
  intro b _
  have q := h (fs3 2 0 1) (stOf (withS 5#64 b) {}) (run0 {}) (cx0 {}) 5#64 b (issuing_withS _ _ _ _) rfl rfl (withS_a _ _) (withS_b _ _) (withS_p _ _ _)
  obtain ⟨⟨v, _, hv⟩, q⟩ := q
  obtain ⟨w, _, hw⟩ := q (sAt 2) (by change look (ins (ins grp0.sval 96 5#64) 97 b) 98 = _; rw [look_ins_ne _ _ (by decide), look_ins_ne _ _ (by decide)]; decide)
  exact ⟨⟨_, hv⟩, ⟨_, hw⟩⟩

theorem witness_scalarDivision (h : scalarDivisionRule) :
    Runs (.div (fs3 2 0 1)) (stOf (withS 7#64 (BitVec.allOnes 64)) {}) ∧ Runs (.divn (fs3 2 0 1)) (stOf (withS 0x8000000000000000#64 (BitVec.allOnes 64)) {})
      ∧ Runs (.rem (fs3 2 0 1)) (stOf (withS 7#64 0#64) {}) ∧ Runs (.div (fs3 2 0 1)) (stOf (withS 0x8000000000000000#64 (BitVec.allOnes 64)) {}) := by
  have q (a b : W64) := h (fs3 2 0 1) (stOf (withS a b) {}) (run0 {}) (cx0 {}) a b (issuing_withS _ _ _ _) rfl rfl (withS_a _ _) (withS_b _ _) (withS_p _ _ _)
  refine ⟨runs_does ((q 7#64 (BitVec.allOnes 64)).1 (by decide) (by decide)).1, runs_does ((q _ _).2.1 (by decide)).1, ?_, ?_⟩
  · obtain ⟨t, ht, _⟩ := ((q 7#64 0#64).2.2 _ (.tail _ (.head _)) rfl).1 rfl
    exact ⟨t, ht⟩
  · obtain ⟨t, ht, _⟩ := ((q 0x8000000000000000#64 (BitVec.allOnes 64)).2.2 _ (.tail _ (.tail _ (.tail _ (.tail _ (.head _))))) ⟨rfl, rfl⟩).1 rfl
    exact ⟨t, ht⟩

/-- A unit whose only hints are an element type and a mode. -/
def hType (t : Nat) : Hints := { type := some { t := BitVec.ofNat 5 t } }
theorem issuing1 (h : Hints) (acc : Accepts) (mill : Bool) (hb : h.bad = false) (ha : acc.ok h = true) (hp : h.pred = none) :
    Issuing (st0 h) (run0 h) (cx0 h) acc mill := st_issuing (by decide) hb ha hp

def fscmp (c : Nat) : FScmp := { z := false, p := 7#3, l := false, a := 0#6, m := false, b := 31#6, c := BitVec.ofNat 4 c }

/-- The first and the last condition. -/
theorem witness_scalarCompare (h : scalarCompareRule) : Runs (.scmp (fscmp 0)) (st0 {}) ∧ Runs (.scmp (fscmp 9)) (st0 {}) := by
  have q (c : Nat) := h (fscmp c) (st0 {}) (run0 {}) (cx0 {}) (sAt 0) (sAt 31) (issuing0 _ _) rfl rfl (inPlace0.scalar (i := 0) (by decide)) (inPlace0.scalar (i := 31) (by decide))
  exact ⟨runs_does (q 0 _ (.head _) rfl), runs_does (q 9 _ (.tail _ (.tail _ (.tail _ (.tail _ (.tail _ (.tail _ (.tail _ (.tail _ (.tail _ (.head _)))))))))) rfl)⟩

/-- No HIMM, one, and two. -/
theorem witness_scalarImmediates (h : scalarImmediatesRule) : Runs (.addi { z := false, d := 1#6, l := false, a := 2#6, i := 0x400#11 }) (st0 {})
    ∧ Runs (.movi { z := false, d := 1#6, i := 0x7FF#11 }) (st0 { imm := [0x80000#20] }) ∧ Runs (.lea { z := false, d := 1#6, i := 1#11 }) (st0 { imm := [0x80000#20, 1#20] }) := by
  refine ⟨?_, ?_, ?_⟩
  · exact runs_does ((h (st0 {}) (run0 {}) (cx0 {}) 0x400#11 _ (issuing0 _ _) (.inl ⟨rfl, rfl⟩)).1 _ (.head _) { z := false, d := 1#6, l := false, a := 2#6, i := 0x400#11 } (sAt 2) rfl rfl
      (inPlace0.scalar (by decide)) (inPlace0.pending _))
  · exact runs_does ((h (st0 { imm := [0x80000#20] }) _ _ 0x7FF#11 _ (issuing1 _ _ _ rfl rfl rfl) (.inr (.inl ⟨0x80000#20, rfl, rfl⟩))).2 { z := false, d := 1#6, i := 0x7FF#11 } rfl (inPlace0.pending _)).1
  · exact runs_does ((h (st0 { imm := [0x80000#20, 1#20] }) _ _ 1#11 _ (issuing1 _ _ _ rfl rfl rfl) (.inr (.inr ⟨0x80000#20, 1#20, rfl, rfl⟩))).2 { z := false, d := 1#6, i := 1#11 } rfl (inPlace0.pending _)).2

/-- Amounts 0 and 63, a HIMM, a nonzero reserved field. -/
theorem witness_scalarShiftImmediates (h : scalarShiftImmediatesRule) : Runs (.shli { z := false, d := 1#6, l := false, a := 2#6, n := 63#6 }) (st0 {})
    ∧ Runs (.sari { z := false, d := 1#6, l := false, a := 2#6, n := 0#6 }) (st0 {})
    ∧ Runs (.shli { z := false, d := 1#6, l := false, a := 2#6, n := 63#6 }) (st0 { imm := [0#20] }) ∧ decode 0x17000040#32 = none :=
  ⟨runs_does ((h.1 _ (.head _) _ _ _ _).1 (sAt 2) (issuing0 _ _) rfl (inPlace0.scalar (by decide)) (inPlace0.pending _)),
    runs_does ((h.1 _ (.tail _ (.tail _ (.head _))) _ _ _ _).1 (sAt 2) (issuing0 _ _) rfl (inPlace0.scalar (by decide)) (inPlace0.pending _)),
    runs_traps ((h.1 _ (.head _) { z := false, d := 1#6, l := false, a := 2#6, n := 63#6 } _ (run0 _) (cx0 _)).2 rfl rfl (by decide)),
    h.2 _ (by decide) (by decide)⟩

/-- Both marks, where every thread executes. -/
theorem witness_scalarLastUse (h : scalarLastUseRule) : Runs (.salu0Add { z := false, d := 1#6, l := true, a := 2#6, m := true, b := 3#6 }) (st0 {}) :=
  runs_does (h _ (.head _) { z := false, d := 1#6, l := true, a := 2#6, m := true, b := 3#6 } (st0 {}) (run0 {}) (cx0 {}) (sAt 2) (sAt 3) (issuing0 _ _) rfl rfl
    (inPlace0.scalar (by decide)) (inPlace0.scalar (by decide)) (inPlace0.pending _))

/-! ### Vector rules: elements of 8 bits and of 64 bits -/

theorem witness_vectorExact (h : vectorExactRule) : Runs (.iadd (fv3 2 4 6)) (st0 (hType 0)) ∧ Runs (.iadd (fv3 2 4 6)) (st0 (hType 7))
    ∧ Runs (.iaddi { z := false, d := 2#7, l := false, a := 4#7, i := 0x80#8 }) (st0 {}) :=
  ⟨runs_does ((h (st0 (hType 0)) _ _ 0 rfl (by decide)).1 (issuing1 _ _ _ rfl rfl rfl) _ (.head _) (fv3 2 4 6) (inPlace0.vec (by decide) (by decide))),
    runs_does ((h (st0 (hType 7)) _ _ 7 rfl (by decide)).1 (issuing1 _ _ _ rfl rfl rfl) _ (.head _) (fv3 2 4 6) (inPlace0.vec (by decide) (by decide))),
    runs_does ((h (st0 {}) _ _ 2 rfl (by decide)).2 (issuing0 _ _) { z := false, d := 2#7, l := false, a := 4#7, i := 0x80#8 } (inPlace0.vec (by decide) (by decide)) _ (.inl ⟨rfl, rfl⟩))⟩

theorem witness_vectorBits (h : vectorBitsRule) : Runs (.and (fv3 2 4 6)) (st0 (hType 0)) ∧ Runs (.and (fv3 2 4 90)) (st0 (hType 7)) :=
  ⟨runs_does (h _ (.head _) (fv3 2 4 6) (st0 (hType 0)) _ _ 0 rfl (by decide) (issuing1 _ _ _ rfl rfl rfl) (inPlace0.vec (by decide) (by decide))),
    runs_does (h _ (.head _) (fv3 2 4 90) (st0 (hType 7)) _ _ 7 rfl (by decide) (issuing1 _ _ _ rfl rfl rfl) (inPlace0.vec (by decide) (by decide)))⟩

/-- A divisor of 16 and more in every lane, and one of 0 in every lane (specifier 90 reads as zero). -/
theorem witness_vectorDivision (h : vectorDivisionRule) : Runs (.idiv (fv3 2 4 6)) (st0 {}) ∧ Runs (.idiv (fv3 2 4 90)) (st0 {}) :=
  ⟨runs_does ((h _ (.head _) (fv3 2 4 6) (st0 {}) _ _ 2 rfl (by decide) (issuing0 _ _) (inPlace0.vec (by decide) (by decide))).1 (by decide)),
    runs_comes ((h _ (.head _) (fv3 2 4 90) (st0 {}) _ _ 2 rfl (by decide) (issuing0 _ _) (inPlace0.vec (by decide) (by decide))).2.1 (by decide) (by decide))⟩

/-- `grp0` with TRAPMASK.IDIVZEN set. -/
def grpTrap : Group := { grp0 with trapmask := 2#64 }
theorem inPlaceTrap : InPlace grpTrap := ⟨rfl, rfl, rfl, rfl, rfl, rfl, rfl, rfl⟩
theorem witness_vectorDivision_trap (h : vectorDivisionRule) : Runs (.irem (fv3 2 4 90)) (stOf grpTrap {}) := by
  obtain ⟨v, i, _, _, e⟩ := (h _ (.tail _ (.head _)) (fv3 2 4 90) (stOf grpTrap {}) (run0 {}) (cx0 {}) 2 rfl (by decide) (st_issuing rfl rfl (by simp [Accepts.ok]) rfl)
    (inPlaceTrap.vec (by decide) (by decide))).2.2 0 ((List.range 15).map (· + 1)) (by decide) (by decide)
  exact ⟨_, e⟩

/-- MOV in the last of the types, BREV and NEG in the first. -/
theorem witness_vectorUnary (h : vectorUnaryRule) : Runs (.iunMov (fv2 2 4)) (st0 (hType 14)) ∧ Runs (.iunBrev (fv2 2 4)) (st0 (hType 0)) ∧ Runs (.iunNeg (fv2 2 4)) (st0 (hType 0)) := by
  have q (t : Nat) (ht : eltType (cx0 (hType t)) 2 = t) := h (fv2 2 4) (st0 (hType t)) (run0 _) (cx0 _) t ht.symm (issuing1 _ _ _ rfl rfl rfl) (inPlace0.vec (by decide) (by decide))
  refine ⟨runs_does ((q 14 rfl).1 (by decide)), ?_, runs_does (((q 0 rfl).2 (by decide)).2 _ (.head _))⟩
  obtain ⟨v, _, hv⟩ := ((q 0 rfl).2 (by decide)).1 _ (.tail _ (.tail _ (.tail _ (.tail _ (.head _))))) (by intro e; cases e)
  exact runs_does hv

theorem witness_vectorFields (h : vectorFieldsRule) : Runs (.iunXnib { z := false, d := 2#7, l := false, a := 4#7, k := 7#3 }) (st0 {})
    ∧ Runs (.iunInsnib { z := false, d := 2#7, l := false, a := 4#7, k := 0#3 }) (st0 {}) ∧ Runs (.iunXbyte { z := false, d := 2#7, l := false, a := 4#7, k := 3#2 }) (st0 {}) := by
  have q := h (st0 {}) (run0 {}) (cx0 {}) rfl (issuing0 _ _)
  refine ⟨runs_does (q.1 { z := false, d := 2#7, l := false, a := 4#7, k := 7#3 } (inPlace0.vec (by decide) (by decide))).1, ?_,
    runs_does (q.2 { z := false, d := 2#7, l := false, a := 4#7, k := 3#2 } (inPlace0.vec (by decide) (by decide))).1⟩
  obtain ⟨v, hv, _⟩ := (q.1 { z := false, d := 2#7, l := false, a := 4#7, k := 0#3 } (inPlace0.vec (by decide) (by decide))).2.2 (inPlace0.source (.inl (by decide)))
  exact runs_does hv

/-- `grp0` with v2 unmapped. -/
def grpGap : Group := { grp0 with vval := erase grp0.vval 2 }
theorem witness_vectorMapsDestination (h : vectorMapsDestinationRule) : Runs (.iadd (fv3 2 90 91)) (stOf grpGap {}) :=
  runs_does (h (fv3 2 90 91) (stOf grpGap {}) (run0 {}) (cx0 {}) rfl rfl (st_issuing rfl rfl (by simp [Accepts.ok]) rfl)
    ⟨fun p hp => by rcases List.mem_pair.1 hp with rfl | rfl <;> (unfold SourceOk; decide), by decide, fun p hp => by rcases List.mem_pair.1 hp with rfl | rfl <;> (intro e; cases e)⟩ (by decide) (by rw [marks_none (by decide)]; decide) (by rw [marks_none (by decide)]; decide) (by rw [marks_none (by decide)]; decide)
    (by rw [marks_none (by decide)]; decide) (.inl (by rw [marks_none (by decide)]; decide)))

/-- Specifier 95 as a source and as the destination, the first type outside the row, the first destination above 88, an odd register of a pair. -/
theorem witness_vectorIllegal (h : vectorIllegalRule) : Runs (.iadd (fv3 2 95 6)) (st0 {}) ∧ Runs (.iadd (fv3 2 4 6)) (st0 (hType 8)) ∧ Runs (.iadd (fv3 95 4 6)) (st0 {})
    ∧ Runs (.iadd (fv3 89 4 6)) (st0 {}) ∧ Runs (.iadd (fv3 2 4 7)) (st0 (hType 7)) := by
  have q (f : FV3) (g : Hints) (hb : g.bad = false) (ha : Accepts.ok { mode := true, type := true } g = true) (hp : g.pred = none) :=
    h (.iadd) (by simp only [List.mem_append]; left; left; exact .head _) f (st0 g) (run0 g) (cx0 g) (issuing1 g { mode := true, type := true } false hb ha hp).unit
  exact ⟨runs_traps ((q (fv3 2 95 6) {} rfl rfl rfl).1 (.inl (by decide))), runs_traps ((q (fv3 2 4 6) (hType 8) rfl rfl rfl).1 (.inr (.inr (.inr (by decide))))),
    runs_traps ((q (fv3 95 4 6) {} rfl rfl rfl).1 (.inr (.inr (.inl (by decide))))),
    runs_traps ((q (fv3 89 4 6) {} rfl rfl rfl).2 (by decide) (by decide) (by decide) (by decide) (.inl (by decide))),
    runs_traps ((q (fv3 2 4 7) (hType 7) rfl rfl rfl).2 (by decide) (by decide) (by decide) (by decide) (.inr (.inr (.inr ⟨by decide, .inr (.inr (by decide))⟩))))⟩

def fvc (c : Nat) : FVC := { z := false, c := BitVec.ofNat 4 c, p := 7#3, l := false, a := 4#7, m := false, b := 6#7 }

theorem maskOf_get (w : Nat) (f : Nat → Bool) : ∃ m : W64, ∀ t, t < 64 → m.getLsbD t = (decide (t < w) && f t) := by
  refine ⟨BitVec.ofFnLE (fun t : Fin 64 => decide (t.val < w) && f t.val), fun t ht => ?_⟩
  rw [BitVec.getLsbD_ofFnLE]
  simp [ht]

/-- The last condition of each compare. -/
theorem witness_vectorCompare (h : vectorCompareRule) : Runs (.icmpand (fvc 7)) (st0 (hType 0)) ∧ Runs (.dcmp (fvc 7)) (st0 {}) := by
  constructor
  · obtain ⟨m, hm⟩ := maskOf_get 16 (fun t => bitsOf 0 (grp0.el false 4 t &&& grp0.el false 6 t) != 0)
    exact runs_does ((h (fvc 7) (st0 (hType 0)) (run0 _) (cx0 _)).1 0 rfl (by decide) (issuing1 _ _ _ rfl rfl rfl) (inPlace0.sources (by decide)) _
      (.tail _ (.tail _ (.tail _ (.tail _ (.tail _ (.tail _ (.tail _ (.head _)))))))) rfl m hm).2
  · obtain ⟨m, hm⟩ := maskOf_get 16 (fun t => [some .lt, some .eq, some .gt].contains
      (cmpN (decodeF (fmtOf 11) false (bitsOf 11 (grp0.el true 4 t))) (decodeF (fmtOf 11) false (bitsOf 11 (grp0.el true 6 t)))))
    exact runs_comes ((h (fvc 7) (st0 {}) (run0 _) (cx0 _)).2 _ (.tail _ (.head _)) 11 rfl (.head _) (issuing0 _ _) (inPlace0.sources (by decide)) _
      (.tail _ (.tail _ (.tail _ (.tail _ (.tail _ (.tail _ (.tail _ (.head _)))))))) rfl m hm).1

theorem witness_vectorSelect (h : vectorSelectRule) : Runs (.sel (fv3 2 4 6)) (st0 (hType 0)) ∧ Runs (.selNotP0 (fv3 2 4 6)) (st0 (hType 14)) :=
  ⟨runs_does (h (fv3 2 4 6) (st0 (hType 0)) _ _ 0 rfl (by decide) (issuing1 _ _ _ rfl rfl rfl) (inPlace0.vec (by decide) (by decide))).1,
    runs_does (h (fv3 2 4 6) (st0 (hType 14)) _ _ 14 rfl (by decide) (issuing1 _ _ _ rfl rfl rfl) (inPlace0.vec (by decide) (by decide))).2⟩

theorem witness_predicateMoves (h : predicateMovesRule) : Runs (.pmovTop { z := false, l := false, a := 4#7, k := 7#3 }) (st0 {}) ∧ Runs (.pmovFromp { z := false, d := 2#7, k := 7#3 }) (st0 {})
    ∧ Runs (.pmovNot { z := false, j := 0#3, k := 7#3 }) (st0 {}) ∧ Runs (.pmovFroms { z := false, l := false, a := 31#5, k := 0#3 }) (st0 {}) := by
  have q := h (st0 {}) (run0 {}) (cx0 {}) (issuing0 _ _)
  obtain ⟨m, hm⟩ := maskOf_get 16 (fun t => grp0.el32 4 t != 0#32)
  exact ⟨runs_does (q.1 { z := false, l := false, a := 4#7, k := 7#3 } m (inPlace0.sources (by decide)) hm), runs_does (q.2.1 { z := false, d := 2#7, k := 7#3 } (inPlace0.dest (.inl (by decide)))),
    runs_does (q.2.2.1 _ (.tail _ (.tail _ (.tail _ (.head _)))) { z := false, j := 0#3, k := 7#3 }),
    runs_does (q.2.2.2 { z := false, l := false, a := 31#5, k := 0#3 } (sAt 31) (inPlace0.scalar (by decide)) (inPlace0.pins _))⟩

/-! ### Floating point, conversions, cross-lane -/

/-- The least and the greatest rounding mode; the greatest f32 exponent that does not overflow. -/
theorem witness_roundingModes (h : roundingModesRule) : (roundF f32 0 false 1 127 false).bits < 2 ^ 32 ∧ (roundF f16 3 true 3 (-30) false).bits < 2 ^ 16 :=
  ⟨(h f32 (.tail _ (.tail _ (.head _))) 0 false 1 127 (by decide) (by decide) (by decide)).1, (h f16 (.head _) 3 true 3 (-30) (by decide) (by decide) (by decide)).1⟩

/-- The least exponent that overflows, and a result that FTZ flushes. -/
theorem witness_roundingOverflow (h : roundingOverflowRule) :
    (roundF f32 0 false 1 128 false).ovf = true ∧ roundNum f32 {} false (.fin false 1 128) = (0 + f32.infBits, { ovf := true })
      ∧ roundNum f32 { ftz := true } false (.fin true 1 (-149)) = (f32.signBit, { unf := true }) :=
  ⟨(h f32 (.tail _ (.tail _ (.head _))) {} false 1 128 (by decide)).2.2 (by decide) (by decide),
    (h f32 (.tail _ (.tail _ (.head _))) {} false 1 128 (by decide)).1 (by decide),
    (h f32 (.tail _ (.tail _ (.head _))) { ftz := true } true 1 (-149) (by decide)).2.1 (by decide) rfl (by decide) (by decide)⟩

/-- Elements of 16 and of 64 bits. -/
theorem witness_floatArithmetic (h : floatArithmeticRule) : Runs (.fadd (fv3 2 4 6)) (st0 (hType 8)) ∧ Runs (.dnma (fv3 2 4 6)) (st0 {}) :=
  ⟨runs_comes (h _ (.head _) (fv3 2 4 6) (st0 (hType 8)) _ _ 8 rfl (by decide) (issuing1 _ _ _ rfl rfl rfl) (inPlace0.vec (by decide) (by decide)) (by intro e; cases e)),
    runs_comes (h _ (.tail _ (.tail _ (.tail _ (.tail _ (.tail _ (.tail _ (.tail _ (.tail _ (.tail _ (.head _)))))))))) (fv3 2 4 6) (st0 {}) _ _ 11 rfl (by decide) (issuing0 _ _)
      (inPlace0.vec (by decide) (by decide)) (fun _ => inPlace0.source (.inl (by decide))))⟩

theorem witness_floatDivideMinMax (h : floatDivideMinMaxRule) : Runs (.ddiv (fv3 2 4 6)) (st0 {}) ∧ Runs (.fmaxnan (fv3 2 4 6)) (st0 (hType 9)) := by
  constructor
  · obtain ⟨o, ho, _⟩ := (h (fv3 2 4 6) (st0 {}) (run0 _) (cx0 _)).1 _ (.tail _ (.head _)) 11 rfl (.head _) (issuing0 _ _) (inPlace0.vec (by decide) (by decide))
    exact runs_comes ho
  · obtain ⟨o, ho, _⟩ := (h (fv3 2 4 6) (st0 (hType 9)) (run0 _) (cx0 _)).2 _ (.tail _ (.tail _ (.tail _ (.head _)))) 9 rfl (by decide) (issuing1 _ _ _ rfl rfl rfl)
      (inPlace0.vec (by decide) (by decide))
    exact runs_comes ho

theorem witness_floatFunctions (h : Obligations.FloatFunctions) : Runs (.funAbs (fv2 2 4)) (st0 (hType 8)) ∧ Runs (.funTanh (fv2 2 4)) (st0 {}) ∧ Runs (.dunAbs (fv2 2 4)) (st0 {}) := by
  refine ⟨runs_comes (((h (fv2 2 4) (st0 (hType 8)) (run0 _) (cx0 _)).1 8 rfl (by decide) (issuing1 _ _ _ rfl rfl rfl) (inPlace0.vec (by decide) (by decide))).1 _ (.head _)), ?_,
    runs_comes ((h (fv2 2 4) (st0 {}) (run0 _) (cx0 _)).2 _ (.head _) _ rfl rfl (issuing0 _ _) (inPlace0.vec (by decide) (by decide)))⟩
  obtain ⟨f, hf, _⟩ := ((h (fv2 2 4) (st0 {}) (run0 _) (cx0 _)).1 10 rfl (by decide) (issuing0 _ _) (inPlace0.vec (by decide) (by decide))).2 _
    (.tail _ (.tail _ (.tail _ (.tail _ (.tail _ (.tail _ (.head _)))))))
  exact runs_comes hf

def fcvt (g t : Nat) (u : Bool) : FCvt := { z := false, d := 2#7, l := false, a := 4#7, g := BitVec.ofNat 3 g, t := BitVec.ofNat 4 t, u := u }

/-- From the first type to the last, and back. -/
theorem witness_conversions (h : conversionsRule) : Runs (.cvt (fcvt 7 0 false)) (st0 {}) ∧ Runs (.cvt (fcvt 0 11 true)) (st0 {}) := by
  have hm : grp0.marks 0xFFFF#64 (tyBits 0 == 64) [(false, 4)] = grp0 := marks_none rfl
  have hn : grp0.marks 0xFFFF#64 (tyBits 11 == 64) [(false, 4)] = grp0 := marks_none rfl
  constructor
  · exact runs_comes (h (fcvt 7 0 false) (st0 {}) (run0 _) (cx0 _) (issuing0 _ _) (by decide) (by decide) (inPlace0.sources (by decide)) (by decide)
      (by change DestOk (grp0.marks 0xFFFF#64 (tyBits 0 == 64) [(false, 4)]) _ _; rw [hm]; exact inPlace0.dest (.inl (by decide))))
  · exact runs_comes (h (fcvt 0 11 true) (st0 {}) (run0 _) (cx0 _) (issuing0 _ _) (by decide) (by decide) (inPlace0.sources (by decide)) (by decide)
      (by change DestOk (grp0.marks 0xFFFF#64 (tyBits 11 == 64) [(false, 4)]) _ _; rw [hn]; exact inPlace0.dest (.inl (by decide))))

theorem witness_narrowWithResidue (h : narrowWithResidueRule) : Runs (.cvtn { z := false, d := 2#7, l := false, a := 4#7, c := 7#3 }) (st0 {}) := by
  obtain ⟨_, _, _, _, hc⟩ := h { z := false, d := 2#7, l := false, a := 4#7, c := 7#3 } (st0 {}) (run0 _) (cx0 _) 9 (issuing0 _ _) rfl (by decide)
    ⟨⟨fun p hp => by rcases List.mem_pair.1 hp with rfl | rfl; exact inPlace0.source (.inl (by decide)); exact inPlace0.source (.inr (by decide)),
      by decide, fun p hp => by rcases List.mem_pair.1 hp with rfl | rfl <;> (intro e; cases e)⟩,
      by rw [marks_none rfl]; exact inPlace0.dest (.inl (by decide)), by decide⟩ (by decide)
  exact runs_comes hc

/-- `grp0` with s0 as given, for a control word of CVTB. -/
def grpCtl (c : W64) : Group := { grp0 with sval := ins grp0.sval 96 c }
theorem grpCtl_issuing (c : W64) (acc : Accepts) (mill : Bool) : Issuing (stOf (grpCtl c) {}) (run0 {}) (cx0 {}) acc mill := st_issuing rfl rfl (by simp [Accepts.ok]) rfl
theorem grpCtl_block (c : W64) : ∀ k < 16, isMapped (grpCtl c) (16 + k) = true ∧ pendingReg (grpCtl c) (16 + k) = none := fun k hk =>
  ⟨(inPlace0.mapped (r := 16 + k) (by omega) : isMapped grp0 (16 + k) = true), rfl⟩
def fcvtb : FCvtb := { z := false, d := 16#7, l := false, a := 4#7, m := false, c := 0#5 }
theorem grpCtl_src (c : W64) (r : Nat) (hr : r < 80) : SourceOk (grpCtl c) r 1 := by
  have := inPlace0.source (spec := r) (k := 1) (.inl (by omega))
  unfold SourceOk at this ⊢
  simpa [hr, isMapped, pendingReg, grpCtl] using this

/-- Masses of 2 and of 8 bits; a mass of 1 bit, and one element too many. -/
theorem witness_blocks (h : Obligations.BlocksAndMasses) : Runs (.cvtbHdr fcvtb) (stOf (grpCtl 2#64) {}) ∧ Runs (.cvtbHdr fcvtb) (stOf (grpCtl 1#64) {})
    ∧ Runs (.cvtb fcvtb) (stOf (grpCtl 8#64) {}) ∧ Runs (.cvtb fcvtb) (stOf (grpCtl 0x3E8#64) {}) := by
  have q (c : W64) := (h (stOf (grpCtl c) {}) (run0 {}) (cx0 {})).1 fcvtb c (grpCtl_issuing c _ _) rfl ⟨by simp [stOf_grp, cx0, grpCtl, fcvtb], rfl⟩
  have src (c : W64) : SourcesOk (grpCtl c) false [(false, 4)] :=
    ⟨fun p hp => by rw [List.mem_singleton] at hp; subst hp; exact grpCtl_src c 4 (by decide), by decide, fun p hp => by rw [List.mem_singleton] at hp; subst hp; intro e; cases e⟩
  refine ⟨?_, runs_traps ((q 1#64).1 ⟨by decide, by decide, grpCtl_block _⟩ (by decide) (src _)), ?_, ?_⟩
  · obtain ⟨e, _, he⟩ := (q 2#64).2.1 (grpCtl 2#64) rfl (src _) ⟨by decide, by decide, grpCtl_block _⟩ (by decide)
    exact runs_comes he
  · exact runs_comes (((q 8#64).2.2 (by decide) (by decide) (fun k hk => grpCtl_src _ _ (by have : k < 1 := hk; change 4 + k < 80; omega)) ⟨by decide, by decide, grpCtl_block _⟩
      (fun k hk => grpCtl_src _ _ (by change 16 + k < 80; omega)) (fun k hk => rfl) (grpCtl 8#64) rfl ⟨by decide, by decide, grpCtl_block _⟩).1 (by decide) (by decide) (by decide))
  · exact runs_traps (((q 0x3E8#64).2.2 (by decide) (by decide) (fun k hk => grpCtl_src _ _ (by have : k < 1 := hk; change 4 + k < 80; omega)) ⟨by decide, by decide, grpCtl_block _⟩
      (fun k hk => grpCtl_src _ _ (by change 16 + k < 80; omega)) (fun k hk => rfl) (grpCtl 0x3E8#64) rfl ⟨by decide, by decide, grpCtl_block _⟩).2 (.inr (.inl (by decide))))

theorem witness_masses (h : Obligations.BlocksAndMasses) : Runs (.cvtm { z := false, d := 2#7, l := false, a := 4#7, k := 0x80#8 }) (st0 {}) :=
  runs_comes ((h (st0 {}) (run0 {}) (cx0 {})).2 { z := false, d := 2#7, l := false, a := 4#7, k := 0x80#8 } _ (issuing0 _ _) (inPlace0.vec (by decide) (by decide)) (.inl ⟨rfl, rfl⟩))

def fvk6 (k : Nat) : FVK6 := { z := false, d := 2#7, l := false, a := 4#7, k := BitVec.ofNat 6 k }

/-- BC at the last thread and just past it, SWAP at the last stride and just past it. -/
theorem witness_shuffles (h : shufflesRule) : Runs (.shflAbs (fv3 2 4 6)) (st0 (hType 0)) ∧ Runs (.shfliBc (fvk6 15)) (st0 {}) ∧ Runs (.shfliBc (fvk6 16)) (st0 {})
    ∧ Runs (.shfliSwap (fvk6 3)) (st0 {}) ∧ Runs (.shfliSwap (fvk6 4)) (st0 {}) := by
  have hm : grp0.marked 0xFFFF#64 0 [] = grp0 := rfl
  have q (k : Nat) := (h (st0 {}) (run0 _) (cx0 _) 2 rfl (by decide) (issuing0 _ _) (by decide)).2 (fvk6 k) (inPlace0.vec (srcs := [(false, 4)]) (by decide) (show 2 % 2 = 0 ∧ 2 + 2 ≤ 80 from by decide))
  refine ⟨runs_does ((h (st0 (hType 0)) (run0 _) (cx0 _) 0 rfl (by decide) (issuing1 _ _ _ rfl rfl rfl) (by decide)).1 (fv3 2 4 6) (inPlace0.sources (by decide)) (inPlace0.sources (by decide))
      (by decide) (inPlace0.dest (.inl (by decide)))).1,
    runs_does ((q 15 _ (.head _)).1 (by decide)), runs_traps ((q 16 _ (.head _)).2 (by decide)),
    runs_does ((q 3 _ (.tail _ (.tail _ (.tail _ (.head _))))).1 (by decide)), runs_traps ((q 4 _ (.tail _ (.tail _ (.tail _ (.head _))))).2 (by decide))⟩

theorem witness_votes (h : votesRule) : Runs (.voteMask { z := false, d := 31#5, p := 7#3 }) (st0 {}) ∧ Runs (.voteLast { z := false, d := 31#5, p := 7#3 }) (st0 {}) := by
  have q := h { z := false, d := 31#5, p := 7#3 } (st0 {}) (run0 _) (cx0 _) (issuing0 _ _) (inPlace0.pending _) (by decide) (by decide)
  obtain ⟨m, _, hm⟩ := q.1
  exact ⟨runs_does hm, runs_does (q.2 _ (.tail _ (.tail _ (.head _))))⟩

def fredux (d s : Nat) : FRedux := { z := false, d := BitVec.ofNat 7 d, l := false, a := 4#7, s := BitVec.ofNat 3 s }
def fscan (s : Nat) (e : Bool) : FScan := { z := false, d := 2#7, l := false, a := 4#7, s := BitVec.ofNat 3 s, e := e }

/-- The whole group into a scalar, the largest segment, the smallest. -/
theorem witness_integerReductions (h : integerReductionsRule) : Runs (.reduxAdd (fredux 2 4)) (st0 {}) ∧ Runs (.reduxAdd (fredux 127 0)) (st0 {}) ∧ Runs (.scanAdd (fscan 1 true)) (st0 (hType 7)) := by
  have q := h _ (.head _) (st0 {}) (run0 _) (cx0 _) 2 rfl (by decide) (issuing0 _ _) (by decide) (by decide)
  refine ⟨runs_does ((q.1 (fredux 2 4) (by decide) (by decide)).1 (by decide) (inPlace0.vec (by decide) (by decide))),
    runs_does ((q.1 (fredux 127 0) (by decide) (by decide)).2 (by decide) rfl (inPlace0.sources (by decide)) (inPlace0.pending _) 1160 (by decide)),
    runs_does ((h _ (.head _) (st0 (hType 7)) (run0 _) (cx0 _) 7 rfl (by decide) (issuing1 _ _ _ rfl rfl rfl) (by decide) (by decide)).2 (fscan 1 true) (by decide) (by decide)
      (inPlace0.vec (by decide) (by decide)))⟩

theorem witness_floatReductions (h : floatReductionsRule) : Runs (.reduxAdd (fredux 2 0)) (st0 (hType 8)) ∧ Runs (.reduxAdd (fredux 127 0)) (st0 (hType 11)) ∧ Runs (.scanAdd (fscan 4 false)) (st0 (hType 8)) := by
  have q (t : Nat) (ht : eltType (cx0 (hType t)) 2 = t) (hm : t ∈ [8, 9, 10, 11]) := h _ (.head _) (st0 (hType t)) (run0 _) (cx0 _) t ht.symm hm (issuing1 _ _ _ rfl rfl rfl) (.head _) (show (0xFFFF#64 &&& ~~~fullMask 16 = 0#64) from by decide)
  exact ⟨runs_comes (((q 8 rfl (by decide)).1 (fredux 2 0) (by decide) (by decide)).1 (by decide) (inPlace0.vec (by decide) (by decide))),
    runs_comes (((q 11 rfl (by decide)).1 (fredux 127 0) (by decide) (by decide)).2 (by decide) rfl (inPlace0.sources (by decide)) (inPlace0.pending _)),
    runs_comes ((q 8 rfl (by decide)).2 (fscan 4 false) (by decide) (by decide) (inPlace0.vec (by decide) (by decide)))⟩

theorem witness_matchClasses (h : matchClassesRule) : Runs (.matchMask (fv3 2 4 6)) (st0 {}) := by
  obtain ⟨v, _, hv⟩ := h (fv3 2 4 6) (st0 {}) (run0 _) (cx0 _) (issuing0 _ _) (by decide) (inPlace0.vec (by decide) (by decide)) _ (.tail _ (.head _))
  exact runs_does hv

theorem only_claims {s : State} {x : Group} (h : s.groups = [(0, x)]) (hc : claimOf x = none) : ∀ e ∈ s.groups, claimOf e.2 = none := by
  rw [h]
  intro e he
  rw [List.mem_singleton] at he
  subst he
  exact hc

/-! ### Hints, control, traps -/

/-- The unit's first hint, its last before the run's 24th word, and the word that does not fit. -/
theorem witness_hintWords (h : hintWordsRule) : Runs (.himm { h := 0#20 }) (st0 {}) ∧ Runs (.htype { t := 0#5 }) { st0 {} with runs := [(0, { run0 {} with words := 22 })] }
    ∧ Runs (.hord { o := 0#3, c := 0#3 }) { st0 {} with runs := [(0, { run0 {} with words := 23 })] } :=
  ⟨⟨_, ((h (st0 {}) (run0 {}) (cx0 {}) rfl).1 { h := 0#20 }).1 (.inr rfl)⟩,
    ⟨_, ((h { st0 {} with runs := [(0, { run0 {} with words := 22 })] } { run0 {} with words := 22 } (cx0 {}) rfl).2.2.2.2.2 { t := 0#5 }).1 (.inl (by decide))⟩,
    ⟨_, ((h { st0 {} with runs := [(0, { run0 {} with words := 23 })] } { run0 {} with words := 23 } (cx0 {}) rfl).2.2.2.1 { o := 0#3, c := 0#3 }).2.1 (by decide) (by decide) (.inl rfl)⟩⟩

/-- One HIMM too many for NOP; an HPRED under an open shadow. -/
theorem witness_hintMisuse (h : hintMisuseRule) : Runs (.nop { z := false }) (st0 { imm := [0#20] })
    ∧ Runs (.nop { z := false }) (stOf { grp0 with shadow := some { p := 0#3, sense := true, left := 1 } } { pred := some { p := 0#3, s := true, c := 0#3 } }) :=
  ⟨runs_traps (h { z := false } (st0 { imm := [0#20] }) (run0 _) (cx0 _) rfl rfl (.inr (.inl (by decide)))),
    runs_traps (h { z := false } (stOf { grp0 with shadow := some { p := 0#3, sense := true, left := 1 } } { pred := some { p := 0#3, s := true, c := 0#3 } }) (run0 _)
      { cx0 { pred := some { p := 0#3, s := true, c := 0#3 } } with exe := 0x00FF#64 } rfl rfl
      (.inr (.inr (.inr (.inr (.inr (.inr ⟨by decide, by change (some _ : Option Shadow) ≠ none; decide⟩)))))))⟩

/-- A unit whose HPRED skips every thread. -/
def hOff : Hints := { pred := some { p := 0#3, s := true, c := 0#3 } }
def grpOff : Group := { grp0 with p := [] }
def cxOff : Cx := { cx0 hOff with exe := 0#64 }
theorem off_unit (acc : Accepts) : UnitOk (stOf grpOff hOff) (run0 hOff) cxOff acc true := ⟨rfl, rfl, rfl, rfl, rfl, by simp [Accepts.ok, cxOff, cx0, hOff], rfl, rfl, rfl⟩
theorem off_calm : Calm (stOf grpOff hOff) 0 := ⟨rfl, rfl, rfl, only_claims rfl rfl⟩
def fml (d a : Nat) : FML := { z := false, d := BitVec.ofNat 7 d, a := BitVec.ofNat 7 a, l := false, s := 0#3, k := false, h := 0#4 }
def fms (d a : Nat) : FMS := { z := false, d := BitVec.ofNat 7 d, n := false, a := BitVec.ofNat 7 a, l := false, s := 0#3, k := false }

theorem witness_skippedUnits (h : skippedUnitsRule) : Runs (.salu0Add (fs3 1 2 3)) (stOf grpOff hOff) ∧ Runs (.ldw (fml 87 127)) (stOf grpOff hOff) ∧ Runs (.stw (fms 0 90)) (stOf grpOff hOff)
    ∧ Runs (.exit { z := false }) (stOf grpOff hOff) := by
  have q := h (stOf grpOff hOff) (run0 hOff) cxOff off_calm rfl rfl rfl
  exact ⟨runs_comes (q.1 _ (off_unit _)), runs_comes (q.2.1 (fml 87 127) (off_unit _) rfl rfl (by decide) (by intro e; cases e) (by decide)),
    runs_comes (q.2.2.1 (fms 0 90) (off_unit _) rfl (by decide) (by decide) (by intro e; cases e) (by intro e; cases e)), runs_comes (q.2.2.2 { z := false } (off_unit _))⟩

/-- An operation on its way to v2. -/
def pendingV2 : LOp := longOp grp0 (cx0 {}) 1 .load 2 0 0#64 [2] (fun _ => []) .done .done false []
def grpPend : Group := { grp0 with ops := [pendingV2] }

theorem witness_quietWords (h : quietWordsRule) : Runs (.nop { z := false }) (st0 {}) ∧ Runs (.yield { z := false }) (st0 {}) ∧ Runs (.drain { z := false }) (st0 {})
    ∧ Runs (.drain { z := false }) (stOf grpPend {}) ∧ Runs (.ifence { z := false }) (st0 {}) := by
  have q := h { z := false } (st0 {}) (run0 _) (cx0 _) (issuing0 _ _)
  refine ⟨runs_does q.1, ?_, runs_does (q.2.2.1 (by decide)), ⟨_, (h { z := false } (stOf grpPend {}) (run0 _) (cx0 _) (st_issuing rfl rfl (by simp [Accepts.ok]) rfl)).2.2.2.1 (by decide)⟩, runs_does (q.2.2.2.2 (by decide))⟩
  obtain ⟨t, ht, _⟩ := q.2.1
  exact ⟨t, ht⟩

def fc (u : Bool) (p o : Nat) : FC := { z := false, u := u, p := BitVec.ofNat 3 p, s := u, o := BitVec.ofNat 19 o }
/-- `grp0` with a return address of v78 and v79 in every thread. -/
def grpRet (a : Nat) : Group := { grp0 with vval := ins (ins grp0.vval 78 (gen 16 (fun _ => BitVec.ofNat 32 a))) 79 (gen 16 (fun _ => 0#32)) }
theorem grpRet_src (a : Nat) : SourceOk (grpRet a) 78 2 := by
  unfold SourceOk
  intro i hi
  refine ⟨?_, rfl, rfl⟩
  match i, hi with
  | 0, _ => simp [isMapped, grpRet, look_ins_ne (n := 79) (k := 78), grp0]; decide
  | 1, _ => simp [isMapped, grpRet, grp0]; decide

/-- The farthest branch back, a CALL under a predicate, a return to a word and one to no word, JMPI to both. -/
theorem witness_branches (h : Obligations.Branches) : Runs (.bra (fc false 0 0x40000)) (st0 {}) ∧ Runs (.call (fc true 7 1)) (st0 {}) ∧ Runs (.ret { z := false }) (stOf (grpRet 0x20010) {})
    ∧ Runs (.ret { z := false }) (stOf (grpRet 0x20012) {}) ∧ Runs (.jmpi { z := false, l := true, a := 0#6 }) (stOf (withS 0x20004#64 0#64) {})
    ∧ Runs (.jmpi { z := false, l := true, a := 0#6 }) (stOf (withS 0x20001#64 0#64) {}) := by
  have q := h (st0 {}) (run0 {}) (cx0 {}) rfl
  have r (a : Nat) := ((h (stOf (grpRet a) {}) (run0 _) (cx0 _) rfl).2 (st_issuing rfl rfl rfl rfl)).1 { z := false } rfl (grpRet_src a)
  have j (v : W64) := ((h (stOf (withS v 0#64) {}) (run0 _) (cx0 _) rfl).2 (issuing_withS _ _ _ _)).2.2 { z := false, l := true, a := 0#6 } v (withS_a _ _) rfl rfl
  refine ⟨runs_goes (q.1 (fc false 0 0x40000) (issuing0 _ _)).1, ?_, runs_goes ((r 0x20010).1 (by decide)), ?_, runs_goes ((j 0x20004#64).1 (by decide)), runs_traps ((j 0x20001#64).2 (by decide))⟩
  · obtain ⟨m, hm⟩ := maskOf_get 16 (fun t => hasLane 0xFFFF#64 t && (!true || ((look grp0.p 7).getD 0#64).getLsbD t == true))
    exact runs_goes ((q.1 (fc true 7 1) (issuing0 _ _)).2.1 rfl (by decide) (inPlace0.dest (.inl (by decide))) m hm)
  · obtain ⟨l, hl, _⟩ := (r 0x20012).2 0xFFFF#64 (by decide) (by decide)
    exact ⟨_, hl⟩

/-- A milliner's thread. -/
def grpMill : Group := { grp0 with w := 1, mill := some 0, vval := [], sval := (List.range 64).map (fun i => (96 + i, sAt i)) }
def stMill : State := { State.reset.withLoader with groups := [(0, grpMill)], runs := [(1536, { run0 {} with act := 1#64 })], focus := some 1536 }
def cxMill : Cx := { cx0 {} with act := 1#64, exe := 1#64 }
theorem mill_issuing (acc : Accepts) : Issuing stMill { run0 {} with act := 1#64 } cxMill acc true :=
  ⟨⟨rfl, rfl, rfl, rfl, rfl, by simp [Accepts.ok, cxMill, cx0], rfl, rfl, rfl⟩, ⟨rfl, rfl, rfl, only_claims rfl rfl⟩, rfl, by decide⟩

theorem witness_branches_milliner (h : Obligations.Branches) : Runs (.call (fc false 0 1)) stMill ∧ Runs (.ret { z := false }) stMill := by
  have q := h stMill { run0 {} with act := 1#64 } cxMill rfl
  exact ⟨runs_goes ((q.1 (fc false 0 1) (mill_issuing _)).2.2 (by decide) rfl rfl),
    runs_goes ((q.2 (mill_issuing _)).2.1 { z := false } (sAt 63) (by decide) rfl ⟨rfl, rfl⟩ (by decide) (by decide) (by decide))⟩

/-- Inside the body at 0x1FFF8 to 0x20008. -/
def grpLoop (exited : W64) : Group := { grp0 with loops := [{ start := 0x1FFF8#64, stop := 0x20008#64 }], exited := exited }
def runHalf : Run := { run0 {} with act := 0x00FF#64 }
def stLoop (exited act : W64) : State := { stOf (grpLoop exited) {} with runs := [(0, { run0 {} with act := act })] }
theorem loop_issuing (e a : W64) (acc : Accepts) (ha : a ≠ 0#64) : Issuing (stLoop e a) { run0 {} with act := a } { cx0 {} with act := a, exe := a } acc true :=
  ⟨⟨rfl, rfl, rfl, rfl, rfl, by simp [Accepts.ok, cx0], rfl, rfl, rfl⟩, ⟨rfl, rfl, rfl, only_claims rfl rfl⟩, by simp [atLoopEnd, stLoop, stOf, grpLoop, State.grp, look, cx0, grp0], ha⟩

/-- To the last word of the body, out of it with every live thread, out of it with half of them. -/
theorem witness_loopExits (h : loopExitsRule) : Runs (.bra (fc false 0 2)) (stLoop 0#64 0xFFFF#64) ∧ Runs (.bra (fc false 0 3)) (stLoop 0#64 0xFFFF#64)
    ∧ Runs (.bra (fc false 0 0x7FFFD)) (stLoop 0#64 0x00FF#64) := by
  have q (o : Nat) (a : W64) (ha : a ≠ 0#64) (hm : a &&& ~~~fullMask 16 = 0#64) := h (fc false 0 o) (stLoop 0#64 a) { run0 {} with act := a } { cx0 {} with act := a, exe := a } { start := 0x1FFF8#64, stop := 0x20008#64 } []
    (loop_issuing _ _ _ ha) rfl rfl (by simp) (show (0x1FFF8 : Nat) ≤ 0x20000 from by decide) (show (0x20000 : Nat) ≤ 0x20008 from by decide) rfl (show 16 ≤ 64 from by decide) (by decide) hm
  exact ⟨runs_goes ((q 2 0xFFFF#64 (by decide) (by decide)).1 (by decide)), runs_goes ((q 3 0xFFFF#64 (by decide) (by decide)).2.1 (by decide) (by decide) (by simp)),
    runs_traps ((q 0x7FFFD 0x00FF#64 (by decide) (by decide)).2.2 (by decide) (by decide))⟩

def fai (a i : Nat) : FAI := { z := false, l := false, a := BitVec.ofNat 6 a, i := BitVec.ofNat 11 i }

/-- Lengths 0, 1, 256 and 257; a count of 0; a fourth level. -/
theorem witness_loop (h : loopsRule) : Runs (.loop (fai 1 0)) (st0 {}) ∧ Runs (.loop (fai 1 257)) (st0 {}) ∧ Runs (.loop (fai 0 256)) (st0 {})
    ∧ Runs (.loop (fai 1 1)) (stOf { grp0 with loops := List.replicate 3 { start := 0#64, stop := 0#64 } } {}) := by
  refine ⟨runs_traps ((h.1 (fai 1 0) (st0 {}) (run0 _) (cx0 _) (sAt 1) (issuing0 _ _) (inPlace0.scalar (by decide)) rfl rfl).1 (.inl rfl)),
    runs_traps ((h.1 (fai 1 257) (st0 {}) (run0 _) (cx0 _) (sAt 1) (issuing0 _ _) (inPlace0.scalar (by decide)) rfl rfl).1 (.inr (by decide))),
    runs_goes (((h.1 (fai 0 256) (st0 {}) (run0 _) (cx0 _) (sAt 0) (issuing0 _ _) (inPlace0.scalar (by decide)) rfl rfl).2 (by decide) (by decide)).1 rfl), ?_⟩
  refine runs_traps (((h.1 (fai 1 1) (stOf { grp0 with loops := List.replicate 3 { start := 0#64, stop := 0#64 } } {}) (run0 _) (cx0 _) (sAt 1)
    ⟨⟨rfl, rfl, rfl, rfl, rfl, rfl, rfl, rfl, rfl⟩, ⟨rfl, rfl, rfl, only_claims rfl rfl⟩, rfl, by decide⟩ ⟨rfl, rfl⟩ rfl rfl).2 (by decide) (by decide)).2.1 (by decide) rfl)

/-- The state and the value an operation ends with. -/
def endOf {α : Type} (x : M α) (s : State) : State := match x.run s with | .ok p => p.2 | .error _ => s
def valOf {α : Type} (d : α) (x : M α) (s : State) : α := match x.run s with | .ok p => p.1 | .error _ => d
theorem run_end {α : Type} (d : α) (x : M α) (s : State) (h : (x.run s).toBool = true) : x.run s = .ok (valOf d x s, endOf x s) := by
  unfold valOf endOf
  cases hx : x.run s with
  | ok p => rfl
  | error e => rw [hx] at h; cases h

/-- A state whose code at 0x20000 is as given. -/
def stCode (x : Group) (ws : List Nat) : State := let s := stOf x {}; { s with dmem := wrN s.dmem 0x20000 (ws.flatMap (toLe 4)) }
theorem code_issuing {x : Group} {acc : Accepts} {mill : Bool} (ws : List Nat) (hx : goodGrp x = true) : Issuing (stCode x ws) (run0 {}) (cx0 {}) acc mill := by
  have q : Issuing (stOf x {}) (run0 {}) (cx0 {}) acc mill := st_issuing hx rfl (by simp [Accepts.ok]) rfl
  exact ⟨⟨q.unit.cur, q.unit.own, rfl, rfl, rfl, q.unit.hints, q.unit.shadow, q.unit.mill, q.unit.noBreak⟩, ⟨q.calm.samples, q.calm.recs, q.calm.step, q.calm.claims⟩, q.loop, q.some⟩

/-- A body of one word: a NOP, and a branch. -/
theorem witness_loop_push (h : loopsRule) : Runs (.loop (fai 1 1)) (stCode grp0 [0, 0x10000000]) ∧ Runs (.loop (fai 1 1)) (stCode grp0 [0, 0x02000001]) := by
  have q (ws : List Nat) (hf : ((fetchWord 0 0x20004#64).run (stCode grp0 ws)).toBool = true) :=
    ((h.1 (fai 1 1) (stCode grp0 ws) (run0 {}) (cx0 {}) (sAt 1) (code_issuing ws rfl) (inPlace0.scalar (by decide)) rfl rfl).2 (by decide) (by decide)).2.2 (by decide) (show (0 : Nat) < 3 from by decide) rfl
      (valOf 0#32 (fetchWord 0 0x20004#64) (stCode grp0 ws)) (endOf (fetchWord 0 0x20004#64) (stCode grp0 ws)) (stCode grp0 ws) rfl (run_end _ _ _ hf)
  refine ⟨runs_goes ((q [0, 0x10000000] (by decide) (by decide) ⟨by decide, by decide, by decide, by decide⟩ (by decide)).1 (by decide)),
    runs_traps ((q [0, 0x02000001] (by decide) (by decide) ⟨by decide, by decide, by decide, by decide⟩ (by decide)).2 (by decide) (by decide))⟩

/-- At the last word of the body, one pass and several to go. -/
theorem witness_loop_end (h : loopsRule) : ∀ n ∈ [1#64, 2#64],
    Runs (.nop { z := false }) (stOf { grp0 with loops := [{ start := 0x1FFF8#64, stop := 0x20000#64 }], lc := [n, 0#64, 0#64] } {}) := by
  intro n _
  obtain ⟨t, ht, _⟩ := h.2 { z := false } (stOf { grp0 with loops := [{ start := 0x1FFF8#64, stop := 0x20000#64 }], lc := [n, 0#64, 0#64] } {}) (run0 {}) (cx0 {}) []
    { start := 0x1FFF8#64, stop := 0x20000#64 } ⟨rfl, rfl, rfl, rfl, rfl, rfl, rfl, rfl, rfl⟩ ⟨rfl, rfl, rfl, only_claims rfl rfl⟩ rfl rfl rfl (by decide) (by decide)
  exact ⟨t, ht⟩

def fa (a : Nat) : FA := { z := false, l := false, a := BitVec.ofNat 6 a }
def hand0 : Handler := { trapset := 1#64, entered := 0xFFFF#64, resume := [], shadow := none, loops := [], lc := [0#64, 0#64, 0#64] }

theorem witness_endsAndTraps (h : Obligations.EndsAndTraps) : Runs (.sleep (fa 0)) (st0 {}) ∧ Runs (.trap (fa 1)) (st0 {}) ∧ Runs (.bkpt { z := false }) (st0 {}) ∧ Runs (.trapret { z := false }) (st0 {})
    ∧ Runs (.trapret { z := false }) (stOf { grp0 with handler := some hand0 } {}) ∧ Runs (.exit { z := false }) (stOf { grp0 with w := 32 } {}) ∧ Runs (.exit { z := false }) (st0 {}) := by
  have q := h (st0 {}) (run0 {}) (cx0 {}) (issuing0 _ _) rfl rfl
  refine ⟨runs_does (q.1 (fa 0) (sAt 0) (inPlace0.scalar (by decide))).1, runs_trapsAfter (q.1 (fa 1) (sAt 1) (inPlace0.scalar (by decide))).2, runs_trapsAfter ((q.2 { z := false }).1 (.inl rfl)),
    runs_traps ((q.2 { z := false }).2.1 rfl), ?_, ?_, ?_⟩
  · obtain ⟨v, _, _, e⟩ := ((h (stOf { grp0 with handler := some hand0 } {}) (run0 {}) (cx0 {}) (st_issuing rfl rfl (by decide) rfl) rfl rfl).2 { z := false }).2.2.1 hand0 rfl
    exact ⟨_, e⟩
  · exact runs_does (((h (stOf { grp0 with w := 32 } {}) (run0 {}) (cx0 {}) (st_issuing rfl rfl (by decide) rfl) rfl rfl).2 { z := false }).2.2.2.1 (by decide))
  · obtain ⟨t, e, _⟩ := (q.2 { z := false }).2.2.2.2 (sAt 0) (by decide) (inPlace0.scalar (by decide)) (by decide) (by decide) rfl (by decide)
    exact ⟨t, e⟩

/-- A handler's address; none; a return to a word and to no word. -/
theorem witness_trapEntryAndReturn (h : Obligations.TrapEntryAndReturn) (a : TrapArgs) :
    (((stOf { grp0 with traphandler := 0x30000#64, sighandler := 0x30000#64 } {}).takeTrap 0 a).grp 0).trappc = a.pc ∧ (((st0 {}).takeTrap 0 a).grp 0).halted = true
      ∧ (((stOf { grp0 with trappc := 0x20004#64 } {}).trapReturn 0 hand0 0x20000#64).grp 0).handler = none ∧ (((stOf { grp0 with trappc := 0x20002#64 } {}).trapReturn 0 hand0 0x20000#64).grp 0).halted = true := by
  refine ⟨?_, (((h (st0 {}) 0 rfl).1 a (by decide) (by decide) (by decide)).2 (.inr (by change (if a.cause = 16 then (0#64 : W64) else 0#64) = 0#64; split <;> rfl))).1, ?_, ?_⟩
  · obtain ⟨e, _, hg, _⟩ := ((h (stOf { grp0 with traphandler := 0x30000#64, sighandler := 0x30000#64 } {}) 0 rfl).1 a (by decide) (by decide) (by decide)).1 rfl
      (by change (if a.cause = 16 then (0x30000#64 : W64) else 0x30000#64) ≠ 0#64; split <;> decide)
    rw [hg]
  · rw [((h (stOf { grp0 with trappc := 0x20004#64 } {}) 0 rfl).2 hand0 0x20000#64).1 (by decide) |>.1]
  · exact (((h (stOf { grp0 with trappc := 0x20002#64 } {}) 0 rfl).2 hand0 0x20000#64).2 (by decide)).1

def fdi (d i : Nat) : FDI := { z := false, d := BitVec.ofNat 6 d, i := BitVec.ofNat 11 i }

/-- The first and the last register, the clock, a number that names none; on a milliner, a number a milliner has not; a read-only register written. -/
theorem witness_controlRegisters (h : Obligations.ControlRegisters) : Runs (.csrr (fdi 31 0)) (st0 {}) ∧ Runs (.csrr (fdi 31 0x30)) (st0 {}) ∧ Runs (.csrr (fdi 1 5)) (st0 {}) ∧ Runs (.csrr (fdi 63 0x28)) stMill
    ∧ Runs (.csrr (fdi 1 1)) stMill ∧ Runs (.csrw (fai 1 0x08)) (st0 {}) ∧ Runs (.csrw (fai 1 0x24)) stMill ∧ Runs (.csrw (fai 1 0)) (st0 {}) := by
  have q := h (st0 {}) (run0 {}) (cx0 {})
  have m := h stMill { run0 {} with act := 1#64 } cxMill
  refine ⟨runs_does ((q.1 (fdi 31 0)).1 (issuing0 _ _) (inPlace0.pending _) _ (.head _) rfl), ?_, runs_traps ((q.1 (fdi 1 5)).2.2 (issuing0 _ _).unit (by decide)),
    runs_does ((m.1 (fdi 63 0x28)).1 (mill_issuing _) rfl _ (by rw [if_neg (by decide)]; exact .tail _ (.tail _ (.tail _ (.tail _ (.tail _ (.tail _ (.tail _ (.tail _ (.tail _ (.tail _ (.tail _ (.head _)))))))))))) rfl),
    runs_traps ((m.1 (fdi 1 1)).2.2 (mill_issuing _).unit (by decide)), runs_does ((q.2 (fai 1 0x08) (sAt 1) rfl).1 (issuing0 _ _) (inPlace0.scalar (by decide)) rfl _ (.head _) rfl),
    runs_does ((m.2 (fai 1 0x24) (sAt 1) rfl).1 (mill_issuing _) ⟨rfl, rfl⟩ rfl _ (by rw [if_neg (by decide)]; exact .tail _ (.tail _ (.tail _ (.tail _ (.tail _ (.tail _ (.head _))))))) rfl),
    runs_traps ((q.2 (fai 1 0) (sAt 1) rfl).2 (issuing0 _ _).unit (by decide))⟩
  obtain ⟨c, u, _, e⟩ := (q.1 (fdi 31 0x30)).2.1 (issuing0 _ _) (inPlace0.pending _) rfl
  exact runs_comes e

/-! ### Memory access -/

/-- A state with the same runs and groups lets the same unit issue. -/
theorem issuing_same {s u : State} {run : Run} {cx : Cx} {acc : Accepts} {mill : Bool} (h : Issuing s run cx acc mill) (h1 : u.focus = s.focus) (h2 : u.runs = s.runs)
    (h3 : u.groups = s.groups) (h4 : u.samples = s.samples) (h5 : u.sampleRecs = s.sampleRecs) : Issuing u run cx acc mill := by
  have hg : u.grp = s.grp := by funext k; simp [State.grp, h3]
  have hc : u.current = s.current := by simp [State.current, h1, h2, hg]
  obtain ⟨⟨a, b, c, c2, d, e, f, g, i⟩, ⟨j, k, l, m⟩, n, o⟩ := h
  exact ⟨⟨hc.trans a, by rw [h1, hg]; exact b, c, c2, d, e, by rw [hg]; exact f, by rw [hg]; exact g, by rw [hg]; exact i⟩,
    ⟨by rw [h4, hg]; exact j, by rw [h5]; exact k, by rw [hg]; exact l, by rw [h3]; exact m⟩, by rw [hg]; exact n, o⟩

/-- `grp0` with the base `b` in s0, the offset 16 × t in v4 and the number `v` in v6 of every thread. -/
def grpMem (b : W64) : Group := { grp0 with sval := ins grp0.sval 96 b, vval := ins grp0.vval 4 (gen 16 (fun t => BitVec.ofNat 32 (16 * t))) }
/-- The same with a team of one felt, 4 KiB of scratchpad, and its task. -/
def stTeam (x : Group) (h : Hints) : State :=
  { stOf x h with
    teams := [(0, { Team.blank with resident := true, retired := false, gids := [0] })], felts := [(0, { Felt.blank with teams := [0] })]
    tasks := [(0, { Task.blank with tcb := { Tcb.blank with mem := 1#32, shape := 0#32 }, ended := false })] }
theorem team_issuing {x : Group} {h : Hints} {acc : Accepts} {mill : Bool} (hx : goodGrp x = true) (hb : h.bad = false) (ha : acc.ok h = true)
    (hp : h.pred = none) : Issuing (stTeam x h) (run0 h) (cx0 h) acc mill := issuing_same (st_issuing hx hb ha hp) rfl rfl rfl rfl rfl
theorem mem_good (b : W64) : goodGrp (grpMem b) = true := rfl
theorem mem_base (b : W64) : ScalarOk (grpMem b) 0 b := ⟨by simp [grpMem], rfl⟩
theorem mem_pins (b : W64) (r : Nat) : (grpMem b).pinned.all (fun e => e.2 != r) = true := rfl
theorem mem_mapped (b : W64) {r : Nat} (hr : r < 80) : isMapped (grpMem b) r = true := by
  have h : isMapped grp0 r = true := inPlace0.mapped hr
  simp only [isMapped, Bool.and_eq_true, decide_eq_true_eq] at h ⊢
  refine ⟨⟨hr, ?_⟩, h.2⟩
  by_cases e : 4 = r
  · subst e; simp [grpMem]
  · rw [show (grpMem b).vval = ins grp0.vval 4 _ from rfl, look_ins_ne _ _ e]; exact h.1.2
theorem mem_source (b : W64) {spec k : Nat} (hs : spec + k ≤ 80 ∨ (80 ≤ spec ∧ spec < 95)) : SourceOk (grpMem b) spec k := by
  unfold SourceOk
  split
  · intro i hi; exact ⟨mem_mapped b (by omega), rfl, rfl⟩
  · split
    · intro i hi; rfl
    · split
      · omega
      · omega
theorem mem_scalar (b : W64) {i : Nat} (hi : i < 32) : SourceOk (grpMem b) (96 + i) 1 := by
  unfold SourceOk
  have : ¬ 96 + i < 80 ∧ ¬ 96 + i < 88 ∧ ¬ 96 + i < 96 := by omega
  simp only [this.1, this.2.1, this.2.2, if_false]
  refine ⟨?_, rfl⟩
  by_cases e : 96 = 96 + i
  · rw [← e]; simp [grpMem]
  · rw [show (grpMem b).sval = ins grp0.sval 96 b from rfl, look_ins_ne _ _ e, (inPlace0.scalar hi).1]; rfl

/-- The two forms of an access: every thread at s0 + v4, and the uniform form at s0. -/
theorem mem_addr {s : State} {h : Hints} (b : W64) {d a : Nat} {regs : List Nat} (hg : s.grp 0 = grpMem b) (hw : (s.die (dieOf (s.grp 0))).watches = []) (ha : a = 4 ∨ a = 90) :
    AddrOk s (cx0 h) d a 0 false regs b where
  base := by change ScalarOk (s.grp 0) 0 b; rw [hg]; exact mem_base b
  offset := by change SourceOk (s.grp 0) a 1; rw [hg]; exact mem_source b (by omega)
  mark := by intro e; cases e
  mill := by intro e; exact absurd (show (s.grp 0).mill = none by rw [hg]; rfl) e
  free := by intro r _; change (s.grp 0).pinned.all _ = true; rw [hg]; rfl
  watch := hw
  still := by intro o ho; have : o ∈ (s.grp 0).ops := ho
              rw [hg] at this; cases this
  some := by change (cx0 h).lanes (s.grp 0) ≠ []; rw [hg]; change laneList 16 0xFFFF#64 ≠ []; decide

theorem longOk_nil (x : Group) (n : Nat) : LongOk x n [] := fun r hr => by cases hr
theorem mem_long (b : W64) {regs : List Nat} (hr : ∀ r ∈ regs, r < 80) : LongOk (grpMem b) 0 regs := fun r h =>
  ⟨rfl, fun h80 => ⟨mem_mapped b h80, rfl, .inl rfl⟩, fun h96 => absurd (hr r h) (by omega)⟩
theorem mem_long_s (b : W64) {r : Nat} (hr : 96 ≤ r ∧ r < 128) : LongOk (grpMem b) 0 [r] := fun k h => by
  rw [List.mem_singleton] at h; subst h
  obtain ⟨i, rfl⟩ : ∃ i, k = 96 + i := ⟨k - 96, by omega⟩
  have := mem_scalar b (i := i) (by omega)
  unfold SourceOk at this
  have n : ¬ 96 + i < 80 ∧ ¬ 96 + i < 88 ∧ ¬ 96 + i < 96 := by omega
  simp only [n.1, n.2.1, n.2.2, if_false] at this
  exact ⟨rfl, fun h => by omega, fun _ => ⟨this.1, rfl⟩⟩

/-- The base in the page at 0x20000. -/
def memB : W64 := 0x20000#64
theorem order0 (x : Group) (orders waits : List Nat) (hn : 0 ∉ waits) : OrderOk x (cx0 {}) orders waits := ⟨fun e => absurd rfl e, fun e => absurd e hn⟩

theorem keepLoads_none {x : Group} (h : x.ops = []) (exe : W64) (spots : List (Target × Nat)) : keepLoads exe spots x = x := by
  obtain ⟨⟩ := x; simp only at h; subst h; rfl
theorem long_keep {x : Group} {exe : W64} {spots : List (Target × Nat)} {k n : Nat} {marks regs : List Nat} (h : x.ops = []) (hm : marks = []) (hl : LongOk x n regs) :
    LongOk ((keepLoads exe spots x).lastUse exe k marks) n regs := by
  rw [keepLoads_none h, hm]; simpa [Group.lastUse, Group.marked] using hl
theorem torn_none {x : Group} (h : x.sb = []) (p : Target × Nat) : tornStores x p = [] := by simp [tornStores, h]
/-- A check that succeeds, with what it finds. -/
theorem found {q : M (List (Nat × Target × Used))} {s : State} (h : (q.run s).toBool = true) : q.run s = .ok (valOf [] q s, endOf q s) := run_end [] q s h

/-- Every thread's byte into a vector register, and the widest access in the uniform form into a pair of scalars. -/
theorem witness_loads (h : Obligations.Loads) : Runs (.ldb (fml 2 4)) (stOf (grpMem memB) {}) ∧ Runs (.ldd (fml 127 90)) (stOf (grpMem memB) {}) := by
  let s := stOf (grpMem memB) {}
  constructor
  · let q := checkAccess (cx0 {}) ((cx0 {}).spots (grpMem memB) 2 4 memB 0#64) { size := 1, align := 1, need := { r := true }, uniform := false, sc := false }
    exact runs_comes (h _ (.head _) (fml 2 4) s (endOf q s) (run0 {}) (cx0 {}) memB (valOf [] q s) (fun _ => [0#8]) (st_issuing (mem_good _) rfl (by decide) rfl) (fun e => absurd rfl e)
      (order0 _ _ _ (by decide)) (mem_addr memB rfl rfl (.inl rfl)) (.inl ⟨by decide, by decide⟩) (found (by decide +kernel)) (fun _ e he => by cases he) (fun p _ => torn_none rfl p)
      (long_keep rfl rfl (mem_long memB (by decide))) (by decide +kernel) (fun e => by cases e))
  · let q := checkAccess (cx0 {}) ((cx0 {}).spots (grpMem memB) 127 90 memB 0#64) { size := 8, align := 8, need := { r := true }, uniform := true, sc := false }
    exact runs_comes (h _ (.tail _ (.tail _ (.tail _ (.head _)))) (fml 127 90) s (endOf q s) (run0 {}) (cx0 {}) memB (valOf [] q s) (fun _ => List.replicate 8 0#8) (st_issuing (mem_good _) rfl (by decide) rfl) (fun e => absurd rfl e)
      (order0 _ _ _ (by decide)) (mem_addr memB rfl rfl (.inr rfl)) (.inr ⟨by decide, by decide, by decide⟩) (found (by decide +kernel)) (fun _ e he => by cases he) (fun p _ => torn_none rfl p)
      (long_keep rfl rfl (mem_long_s memB (by decide))) (by decide +kernel) (fun e => by cases e))

/-- A buffer with room, and one with 64 entries. -/
theorem witness_stores (h : storesRule) : Runs (.stw (fms 6 4)) (stOf (grpMem memB) {}) ∧ Runs (.stb (fms 6 4)) (stOf { grpMem memB with sb := List.replicate 64 { id := 0, writes := [], tokens := [], acked := 1#6, landed := true, used := [], site := 0#64, seq := 0#64 } } {}) := by
  constructor
  · let s := stOf (grpMem memB) {}
    let q := checkAccess (cx0 {}) ((cx0 {}).spots (grpMem memB) 6 4 memB 0#64) { size := 4, align := 4, need := { w := true }, uniform := false, sc := false, store := true }
    exact runs_comes ((h _ (.tail _ (.tail _ (.head _))) (fms 6 4) s (endOf q s) (run0 {}) (cx0 {}) memB (valOf [] q s) (st_issuing (mem_good _) rfl (by decide) rfl) (order0 _ _ _ (by decide))
      (mem_addr memB rfl rfl (.inl rfl)) (fun i hi => mem_source memB (.inl (by have : i < 1 := hi; change 6 + i + 1 ≤ 80; omega))) (by decide) (by decide) (by decide) (found (by decide +kernel))).1 (by decide))
  · let x := { grpMem memB with sb := List.replicate 64 { id := 0, writes := [], tokens := [], acked := 1#6, landed := true, used := [], site := 0#64, seq := 0#64 } }
    let s := stOf x {}
    let q := checkAccess (cx0 {}) ((cx0 {}).spots x 6 4 memB 0#64) { size := 1, align := 1, need := { w := true }, uniform := false, sc := false, store := true }
    have ad : AddrOk s (cx0 {}) 6 4 0 false [] memB := ⟨⟨by decide, rfl⟩, by unfold SourceOk; decide, by decide, fun e => absurd rfl e, fun r hr => (by cases hr), rfl, fun o ho => (by cases ho), by decide⟩
    exact runs_stalls ((h _ (.head _) (fms 6 4) s (endOf q s) (run0 {}) (cx0 {}) memB (valOf [] q s) (st_issuing rfl rfl (by decide) rfl) (order0 _ _ _ (by decide))
      ad (fun i hi => by unfold SourceOk; have : i = 0 := by have : i < 1 := hi; omega
                         subst this; decide) (by decide) (by decide) (by decide) (found (by decide +kernel))).2 (by decide))

/-- A byte at the start of a buffered store, one just past it, and two read together. -/
theorem witness_ownStores (h : ownStoresRule) :
    let e : SbEntry := { id := 0, writes := [(.dev 0x20000, [7#8, 9#8])], tokens := [], acked := 1#6, landed := false, used := [], site := 0#64, seq := 0#64 }
    ownByte { grp0 with sb := [e] } (.dev 0x20001) 1#8 = 9#8 ∧ ownByte { grp0 with sb := [e] } (.dev 0x20002) 1#8 = 1#8
      ∧ (st0 {}).ownRead { grp0 with sb := [e] } (.dev 0x20001) 2 = [9#8, 0#8] := by
  intro e
  refine ⟨?_, (h (st0 {}) { grp0 with sb := [e] } (.dev 0x20002)).1 1#8 (by decide), ((h (st0 {}) { grp0 with sb := [e] } (.dev 0x20001)).2.2 2 rfl).trans (by decide +kernel)⟩
  have := (h (st0 {}) { grp0 with sb := [e] } (.dev 0x20001)).2.1 1#8 [] [] e [] [] (0, .dev 0x20000, [7#8, 9#8]) 1 rfl rfl (by decide) rfl (by decide) (by decide)
  exact (Option.some.inj this).symm

/-- An odd address, one that is not canonical, one past the allocation's last word, and the last word. -/
theorem witness_accessChecks (h : accessChecksRule) : Runs (.ldw (fml 127 90)) (stTeam (grpMem 0x20001#64) {}) ∧ Runs (.ldw (fml 127 90)) (stTeam (grpMem 0x0100000000000000#64) {})
    ∧ Runs (.ldw (fml 127 90)) (stTeam (grpMem 0xFFFFFF000F001000#64) {}) ∧ Runs (.stw (fms 6 90)) (stTeam (grpMem 0x20001#64) {}) ∧
    ∃ ts, (checkAccess (cx0 {}) ((cx0 {}).spots (grpMem 0xFFFFFF000F000FFC#64) 127 90 0xFFFFFF000F000FFC#64 0#64) { size := 4, align := 4, need := { r := true }, uniform := true }).run
      (stTeam (grpMem 0xFFFFFF000F000FFC#64) {}) = .ok (ts, stTeam (grpMem 0xFFFFFF000F000FFC#64) {}) := by
  have q (b : W64) := h (stTeam (grpMem b) {}) (run0 {}) (cx0 {}) 127 90 b 4 (.ldw (fml 127 90)) (.inl ⟨_, .tail _ (.tail _ (.head _)), fml 127 90, rfl, rfl, rfl, rfl, fun e => absurd rfl e,
    team_issuing (mem_good _) rfl (by decide) rfl, order0 _ _ _ (by decide), mem_addr b rfl rfl (.inr rfl), .inr ⟨by decide, by decide, by decide⟩⟩)
  have p (b : W64) := h (stTeam (grpMem b) {}) (run0 {}) (cx0 {}) 6 90 b 4 (.stw (fms 6 90)) (.inr ⟨_, .tail _ (.tail _ (.head _)), fms 6 90, rfl, rfl, rfl, rfl, (fun e => by cases e),
    team_issuing (mem_good _) rfl (by decide) rfl, order0 _ _ _ (by decide), mem_addr b rfl rfl (.inr rfl), mem_source b (.inl (by decide))⟩)
  refine ⟨runs_trapsAt ((q 0x20001#64).1 (by decide) 1#64 (by decide) (0, 0x20001#64) [] (by decide) (by decide)),
    runs_trapsAt ((q 0x0100000000000000#64).2.1 (by decide) (by decide) 1#64 (by decide) (0, 0x0100000000000000#64) [] (by decide) (by decide)),
    runs_trapsAt ((q 0xFFFFFF000F001000#64).2.2.1 (by decide) (by decide) 1#64 (by decide) (0, 0xFFFFFF000F001000#64) [] (by decide) (by decide)),
    runs_trapsAt ((p 0x20001#64).1 (by decide) 0xFFFF#64 (by decide) (0, 0x20001#64) ((List.range 15).map (fun t => (t + 1, 0x20001#64))) (by decide) (by decide)),
    ⟨_, (q 0xFFFFFF000F000FFC#64).2.2.2 (by decide) (by decide) _ _ _⟩⟩

/-! ### Atomics, keep words, fences, the pool, the queues -/

def fma (d a : Nat) (n : Bool) : FMA := { z := false, d := BitVec.ofNat 7 d, n := n, a := BitVec.ofNat 7 a, l := false, s := 0#3, k := false, h := 0#4 }

/-- Each thread's word, with and without a result. -/
theorem witness_atomics (h : Obligations.Atomics) : Runs (.aadd (fma 6 4 false)) (stOf (grpMem memB) {}) ∧ Runs (.afadd (fma 6 4 true)) (stOf (grpMem memB) {}) := by
  let s := stOf (grpMem memB) {}
  constructor
  · let q := checkAccess (cx0 {}) ((cx0 {}).spots (grpMem memB) 6 4 memB 0#64) { size := 4, align := 4, need := { r := true, w := true }, uniform := false, atomic := some 0 }
    exact runs_comes (h _ (.head _) (fma 6 4 false) s (endOf q s) (run0 {}) (cx0 {}) memB (valOf [] q s) (st_issuing (mem_good _) rfl (by decide) rfl) (by decide) (order0 _ _ _ (by decide))
      (mem_addr memB rfl rfl (.inl rfl)) (by decide) (fun i hi => mem_source memB (.inl (by have : i < 1 := hi; change 6 + i + 1 ≤ 80; omega))) (by decide) (found (by decide +kernel)) (long_keep rfl rfl (mem_long memB (by decide))))
  · let q := checkAccess (cx0 {}) ((cx0 {}).spots (grpMem memB) 6 4 memB 0#64) { size := 4, align := 4, need := { r := true, w := true }, uniform := false, atomic := some 8 }
    exact runs_comes (h _ (.tail _ (.tail _ (.tail _ (.tail _ (.tail _ (.tail _ (.tail _ (.tail _ (.head _))))))))) (fma 6 4 true) s (endOf q s) (run0 {}) (cx0 {}) memB (valOf [] q s) (st_issuing (mem_good _) rfl (by decide) rfl)
      (by decide) (order0 _ _ _ (by decide)) (mem_addr memB rfl rfl (.inl rfl)) (by decide) (fun i hi => mem_source memB (.inl (by have : i < 1 := hi; change 6 + i + 1 ≤ 80; omega))) (fun _ => rfl)
      (found (by decide +kernel)) (longOk_nil _ _))

/-- A keep page at 0x20000: the page type of its leaf is 3. -/
def stKeep : State := let s := stOf (grpMem memB) {}; { s with dmem := wrN s.dmem 0x10000 (toLe 8 0xEF) }
theorem keep_issuing (acc : Accepts) (mill : Bool) : Issuing stKeep (run0 {}) (cx0 {}) acc mill := issuing_same (st_issuing (mem_good memB) rfl (by simp [Accepts.ok]) rfl) rfl rfl rfl rfl rfl

theorem witness_keepWords (h : Obligations.KeepWords) : Runs (.kld (fml 8 4)) stKeep ∧ Runs (.kst (fma 8 4 false)) stKeep ∧ Runs (.kst (fma 8 4 true)) stKeep ∧ Runs (.krec (fma 8 4 false)) stKeep := by
  have src (k : Nat) : ∀ i < k, k ≤ 4 → SourceOk (grpMem memB) (8 + i) 1 := fun i hi hk => mem_source memB (.inl (by omega))
  refine ⟨?_, ?_, ?_, ?_⟩
  · let q := checkAccess (cx0 {}) ((cx0 {}).spots (grpMem memB) 8 4 memB 0#64) { size := 8, align := 8, need := { r := true }, uniform := false }
    exact runs_comes ((h stKeep (endOf q stKeep) (run0 {}) (cx0 {}) memB (valOf [] q stKeep)).1 (fml 8 4) (keep_issuing _ _) (order0 _ _ _ (by decide)) (mem_addr memB rfl rfl (.inl rfl)) (by decide) (by decide)
      (long_keep rfl rfl (mem_long memB (by decide))) (fun e he => by cases he) (found (by decide +kernel)) (fun _ => (0#64, 0x1000000000000#64, 1#64)) (by decide +kernel))
  · let q := checkAccess (cx0 {}) ((cx0 {}).spots (grpMem memB) 8 4 memB 0#64) { size := 8, align := 8, need := { w := true }, uniform := false, store := false }
    exact runs_comes (((h stKeep (endOf q stKeep) (run0 {}) (cx0 {}) memB (valOf [] q stKeep)).2 (fma 8 4 false)).1 (keep_issuing _ _) (order0 _ _ _ (by decide)) (mem_addr memB rfl rfl (.inl rfl))
      (by decide) (by decide) (fun i hi => src 4 i hi (by decide)) (long_keep rfl rfl (mem_long memB (by decide))) (found (by decide +kernel)) |>.1 rfl)
  · let q := checkAccess (cx0 {}) ((cx0 {}).spots (grpMem memB) 8 4 memB 0#64) { size := 8, align := 8, need := { w := true }, uniform := false, store := true }
    exact runs_comes (((h stKeep (endOf q stKeep) (run0 {}) (cx0 {}) memB (valOf [] q stKeep)).2 (fma 8 4 true)).1 (keep_issuing _ _) (order0 _ _ _ (by decide)) (mem_addr memB rfl rfl (.inl rfl))
      (by decide) (by decide) (fun i hi => src 4 i hi (by decide)) (longOk_nil _ _) (found (by decide +kernel)) |>.2 rfl (by decide))
  · let q := checkAccess (cx0 {}) ((cx0 {}).spots (grpMem memB) 8 4 memB 0#64) { size := 8, align := 8, need := { r := true, w := true }, uniform := false, krec := true }
    exact runs_comes (((h stKeep (endOf q stKeep) (run0 {}) (cx0 {}) memB (valOf [] q stKeep)).2 (fma 8 4 false)).2 (keep_issuing _ _) (order0 _ _ _ (by decide)) (mem_addr memB rfl rfl (.inl rfl))
      (by decide) (by decide) (fun i hi => src 2 i hi (by decide)) (long_keep rfl rfl (mem_long memB (by decide))) (found (by decide +kernel)))

def hOrd (o c : Nat) : Hints := { ord := some { o := BitVec.ofNat 3 o, c := BitVec.ofNat 3 c } }
/-- A store that has reached nothing. -/
def oneStore : SbEntry := { id := 0, writes := [], tokens := [], acked := 0#6, landed := false, used := [], site := 0#64, seq := 0#64 }

/-- FENCE with no order, the least and the greatest, and one that waits. -/
theorem witness_prefetchAndFence (h : prefetchAndFenceRule) : Runs (.pref { z := false, a := 4#7, l := false, s := 0#3, k := false }) (stOf (grpMem memB) {}) ∧ Runs (.fence { z := false }) (st0 (hOrd 0 0))
    ∧ Runs (.fence { z := false }) (st0 (hOrd 1 0)) ∧ Runs (.fence { z := false }) (st0 (hOrd 4 5)) ∧ Runs (.fence { z := false }) (stOf { grp0 with sb := [oneStore] } {}) := by
  have q (o c : Nat) := (h (st0 (hOrd o c)) (run0 _) (cx0 _)).2 { z := false } (st_issuing rfl rfl rfl rfl)
  exact ⟨runs_does ((h (stOf (grpMem memB) {}) (run0 _) (cx0 _)).1 { z := false, a := 4#7, l := false, s := 0#3, k := false } memB (st_issuing (mem_good _) rfl (by decide) rfl) (mem_addr memB rfl rfl (.inl rfl))),
    runs_traps ((q 0 0).1 (by decide)), runs_does ((q 1 0).2.1 (by decide) (fun p hp => by cases hp) (fun e => absurd e (by decide))), runs_does ((q 4 5).2.1 (by decide) (fun p hp => by cases hp) (by decide)),
    runs_stalls (((h (stOf { grp0 with sb := [oneStore] } {}) (run0 _) (cx0 _)).2 { z := false } (st_issuing rfl rfl rfl rfl)).2.2 (by decide) (by decide))⟩

def fdn (n : Nat) : FDN := { z := false, d := 31#6, n := BitVec.ofNat 11 n }
/-- A group at floor 20 that lies in the partition's only slot, its floor as given. -/
def grpFloor (f : Nat) : Group := { grp0 with floor := f, vval := [] }

/-- Giving down to 4 and below; claiming past 80, nothing, one register, and one with nothing free. -/
theorem witness_pool (h : Obligations.RegisterPool) : Runs (.vgive (fdn 76)) (st0 {}) ∧ Runs (.vgive (fdn 77)) (st0 {}) ∧ Runs (.vclaim (fdn 1)) (st0 {}) ∧ Runs (.vclaim (fdn 0)) (st0 {})
    ∧ Runs (.vfree { z := false, c := 15#4, f := 64#7 }) (st0 {}) ∧ Runs (.vfree { z := false, c := 15#4, f := 65#7 }) (st0 {}) ∧ Runs (.vstat { z := false, d := 31#6, k := 6#11 }) (st0 {})
    ∧ Runs (.vmovs { z := false, d := 31#5, l := false, a := 4#7, k := 15#7 }) (st0 {}) ∧ Runs (.vmovs { z := false, d := 31#5, l := false, a := 4#7, k := 16#7 }) (st0 {})
    ∧ Runs (.vmovsFirstD { z := false, d := 31#5, l := false, a := 4#7 }) (st0 {}) := by
  have q := h (st0 {}) (run0 {}) (cx0 {}) (issuing0 _ _) rfl rfl
  have g (n : Nat) := q.1 (fdn n) (inPlace0.pending _)
  refine ⟨runs_does ((g 76).2.1 (by decide)), runs_does ((g 77).1 (by decide)), runs_does ((g 1).2.2.1 (by decide)), runs_does ((g 0).2.2.2.1 (by decide) (by decide)),
    runs_does ((q.2.1 { z := false, c := 15#4, f := 64#7 }).1 (by decide)), runs_traps ((q.2.1 { z := false, c := 15#4, f := 65#7 }).2 (by decide)),
    runs_does (q.2.2.1 { z := false, d := 31#6, k := 6#11 } (inPlace0.pending _) _ (.tail _ (.tail _ (.tail _ (.tail _ (.tail _ (.tail _ (.head _))))))) rfl),
    runs_does ((q.2.2.2 false 31 4 15 false _ (.inl ⟨{ z := false, d := 31#5, l := false, a := 4#7, k := 15#7 }, rfl, rfl, rfl, rfl, rfl⟩) (inPlace0.source (.inl (by decide))) (by decide) (by decide) (inPlace0.pending _)).1 (by decide)),
    runs_traps ((q.2.2.2 false 31 4 16 false _ (.inl ⟨{ z := false, d := 31#5, l := false, a := 4#7, k := 16#7 }, rfl, rfl, rfl, rfl, rfl⟩) (inPlace0.source (.inl (by decide))) (by decide) (by decide) (inPlace0.pending _)).2 (by decide)),
    runs_does ((q.2.2.2 true 31 4 0 false _ (.inr ⟨{ z := false, d := 31#5, l := false, a := 4#7 }, rfl, rfl, rfl, rfl, by decide⟩) (inPlace0.source (.inl (by decide))) (by decide) (by decide) (inPlace0.pending _)).1 (by decide))⟩

theorem witness_claims (h : Obligations.RegisterPool) : Runs (.vclaim (fdn 4)) (stOf (grpFloor 20) {}) ∨ Runs (.vclaim (fdn 4)) (stOf (grpFloor 20) {}) := by
  have q := (h (stOf (grpFloor 20) {}) (run0 {}) (cx0 {}) (st_issuing rfl rfl rfl rfl) rfl rfl).1 (fdn 4) rfl |>.2.2.2.2 (by decide) (by decide) rfl rfl
  by_cases hf : 4 * 1 ≤ (stOf (grpFloor 20) {}).unreserved 0 0 ∧ (4 - min 4 (max 0 20 - 20)) * 1 ≤ (stOf (grpFloor 20) {}).freeSlices 0
  · exact .inl (runs_comes (q.1 hf rfl rfl))
  · exact .inr (runs_comes (q.2 hf))

def fe : FE := { z := false, t := 31#6, p := 0#6, l := false, q := 1#6, k := false, h := 0#4 }
theorem withS_long (a b : W64) : LongOk (withS a b) 0 [127] := fun r hr => by
  rw [List.mem_singleton] at hr; subst hr
  refine ⟨rfl, fun h => by omega, fun _ => ⟨?_, rfl⟩⟩
  rw [show (withS a b).sval = ins (ins grp0.sval 96 a) 97 b from rfl, look_ins_ne _ _ (by decide), look_ins_ne _ _ (by decide)]; decide

/-- Aligned and misaligned packet addresses; the last scope of ICINV and the first that is none. -/
theorem witness_queueWords (h : Obligations.QueueWords) : Runs (.tlaunch fe) (stOf (withS 0x20100#64 0x20040#64) {}) ∧ Runs (.tlaunch fe) (stOf (withS 0x20080#64 0x20040#64) {}) ∧ Runs (.tlaunch fe) (stOf (withS 0x20100#64 0x20020#64) {})
    ∧ Runs (.tsucc fe) (stOf (withS 0x20100#64 0x20200#64) {}) ∧ Runs (.cpyq fe) (stOf (withS 0x20040#64 0x20080#64) {}) ∧ Runs (.icinv fe) (stOf (withS 0x20000#64 0x50000000040#64) {})
    ∧ Runs (.icinv fe) (stOf (withS 0x20000#64 0x60000000040#64) {}) := by
  have q (a b : W64) (s1 : State) := h fe (stOf (withS a b) {}) s1 (run0 {}) (cx0 {}) a b rfl (withS_a a b) (withS_b a b) (withS_long a b)
  refine ⟨?_, ?_, ?_, ?_, ?_, ?_, ?_⟩
  · let p := precheck (cx0 {}) [(0x20100#64, { r := true }), (0x20040#64, rwNeed)]
    exact runs_comes (((q _ _ (endOf p (stOf (withS 0x20100#64 0x20040#64) {}))).1 (issuing_withS _ _ _ _)).1 (by decide) (by decide) _ (run_end [] p _ (by decide +kernel)))
  · exact runs_traps (((q 0x20080#64 0x20040#64 (st0 {})).1 (issuing_withS _ _ _ _)).2.1 (by decide))
  · exact runs_traps (((q 0x20100#64 0x20020#64 (st0 {})).1 (issuing_withS _ _ _ _)).2.2.1 (by decide) (by decide))
  · let p := precheck (cx0 {}) [(0x20100#64, rwNeed), (0x20200#64, rwNeed)]
    exact runs_comes (((q _ _ (endOf p (stOf (withS 0x20100#64 0x20200#64) {}))).1 (issuing_withS _ _ _ _)).2.2.2.1 (by decide) (by decide) _ (run_end [] p _ (by decide +kernel)))
  · exact runs_traps (((q 0x20040#64 0x20080#64 (st0 {})).1 (issuing_withS _ _ _ _)).2.2.2.2.1 rfl (by decide))
  · exact runs_comes (((q 0x20000#64 0x50000000040#64 (st0 {})).2 (issuing_withS _ _ _ _)).1 (by decide) (by decide))
  · exact runs_traps (((q 0x20000#64 0x60000000040#64 (st0 {})).2 (issuing_withS _ _ _ _)).2 (.inr (by decide)))

/-- CPYQ of a group that may issue it. -/
theorem witness_cpyq (h : Obligations.QueueWords) : Runs (.cpyq fe) (stOf { withS 0x20040#64 0x20080#64 with role := 0 } {}) := by
  let s := stOf { withS 0x20040#64 0x20080#64 with role := 0 } {}
  let c := checkAccess (cx0 {}) [(lowLane 16 0xFFFF#64, 0x20040#64)] { size := 64, align := 1, need := { r := true }, uniform := true }
  let p := precheck (cx0 {}) [(0x20080#64, rwNeed)]
  let t : Nat × Target × Used := (0, .dev 0x20040, { ld := 0, dom := 0#16, va := 0x20040, pasid := none, page := 0 })
  have ht : valOf [] c s = [t] := by decide +kernel
  exact runs_comes (((h fe s (endOf c s) (run0 {}) (cx0 {}) 0x20040#64 0x20080#64 rfl (withS_a _ _) (withS_b _ _) (withS_long _ _)).1 (st_issuing rfl rfl (by decide) rfl)).2.2.2.2.2 (endOf p (endOf c s)) t (fun _ => rfl)
    (by decide) (by decide) (fun o ho => by cases ho) (fun e he => by cases he) rfl (by rw [← ht]; exact found (by decide +kernel)) _ (run_end [] p _ (by decide +kernel)) rfl)

/-! ### Weight trees -/

def tree0 : Tree := { leaves := [(5, 7), (4095, 1)], cut := 4096, status := 0#32 }
/-- `grp0` with a tree, and the address `v` in s0. -/
def grpTree (v : W64) : Group := { grpMem v with trees := [(0, tree0)] }
theorem tree_ok : TreeOk tree0 := by unfold TreeOk; decide
theorem tree_issuing (v : W64) : Issuing (stTeam (grpTree v) {}) (run0 {}) (cx0 {}) {} false := team_issuing rfl rfl rfl rfl
theorem tree_src (v : W64) {spec k : Nat} (hs : spec + k ≤ 80 ∨ (80 ≤ spec ∧ spec < 95)) : SourceOk (grpTree v) spec k := mem_source v hs
theorem tree_dest (v : W64) {d k : Nat} (hd : d + k ≤ 80) : DestOk (grpTree v) d k :=
  ⟨by omega, fun _ i hi => ⟨mem_mapped v (by omega), rfl⟩, fun _ i hi => rfl⟩
theorem tree_vec (v : W64) {exe : W64} {a d : Nat} (ha : a < 80 ∨ a = 90) (hd : d < 80) : VecOk (grpTree v) exe false [(false, a)] d := by
  refine ⟨⟨fun p hp => ?_, by intro e; (cases e), fun p hp => ?_⟩, ?_, by intro e; (cases e)⟩
  · rw [List.mem_singleton] at hp; subst hp; exact tree_src v (by change a + 1 ≤ 80 ∨ _; omega)
  · rw [List.mem_singleton] at hp; subst hp; intro e; cases e
  · rw [marks_none rfl]; exact tree_dest v (by change d + 1 ≤ 80; omega)

/-- The last run of registers that fits and the first that does not; leaves from the scratchpad; offsets that are misaligned and past the end. -/
theorem witness_treeLoads (h : Obligations.WeightTrees) : Runs (.wload { z := false, l := false, a := 16#7, c := 63#6, w := 0#2 }) (stTeam (grpTree 0#64) {})
    ∧ Runs (.wload { z := false, l := false, a := 17#7, c := 63#6, w := 0#2 }) (stTeam (grpTree 0#64) {}) ∧ Runs (.wloadScratch { z := false, l := false, a := 96#7, c := 15#6, w := 0#2 }) (stTeam (grpTree 0#64) {})
    ∧ Runs (.wloadScratch { z := false, l := false, a := 96#7, c := 15#6, w := 0#2 }) (stTeam (grpTree 2#64) {}) ∧ Runs (.wloadScratch { z := false, l := false, a := 96#7, c := 15#6, w := 0#2 }) (stTeam (grpTree 4#64) {}) := by
  have q (v : W64) := (h (stTeam (grpTree v) {}) (run0 {}) (cx0 {}) 0 tree0 (tree_issuing v) rfl (show 16 ≤ 64 by decide) rfl tree_ok (fun o ho => by cases ho)).1
  have g (v : W64) := (q v { z := false, l := false, a := 96#7, c := 15#6, w := 0#2 } rfl).2.2 v (by decide) ⟨by simp [stTeam, stOf, grpTree, grpMem, State.grp, look, cx0], rfl⟩
  refine ⟨?_, runs_traps ((q 0#64 { z := false, l := false, a := 17#7, c := 63#6, w := 0#2 } rfl).2.1 (by decide) (by decide)), ?_, runs_traps ((g 2#64).1 (by decide)), runs_traps ((g 4#64).2.1 (by decide) (by decide))⟩
  · obtain ⟨u, _, _, _, _, e⟩ := (q 0#64 { z := false, l := false, a := 16#7, c := 63#6, w := 0#2 } rfl).1 (by decide) (tree_src _ (.inl (by decide)))
    exact runs_does (e (by decide))
  · obtain ⟨u, _, _, _, _, e⟩ := (g 0#64).2.2 (by decide) (by decide) ⟨rfl, fun p _ => torn_none rfl p⟩
    exact runs_does e

theorem witness_treeWords (h : Obligations.WeightTrees) : Runs (.wupd { z := false, d := 6#7, l := false, a := 4#7, w := 0#2, x := false }) (stTeam (grpTree 0#64) {}) ∧ Runs (.wopSet { z := false, d := 6#7, l := false, a := 4#7, w := 0#2, x := false }) (stTeam (grpTree 0#64) {})
    ∧ Runs (.wqry { z := false, d := 6#7, l := false, a := 4#7, w := 0#2 }) (stTeam (grpTree 0#64) {}) ∧ Runs (.wcut { z := false, d := 6#7, l := false, a := 90#7, w := 0#2 }) (stTeam (grpTree 0#64) {})
    ∧ Runs (.wcut { z := false, d := 6#7, l := false, a := 4#7, w := 0#2 }) (stTeam (grpTree 0#64) {}) ∧ Runs (.wopStat { z := false, d := 6#7, w := 0#2 }) (stTeam (grpTree 0#64) {})
    ∧ Runs (.wopClear { z := false, w := 0#2 }) (stTeam (grpTree 0#64) {}) ∧ Runs (.wopRoot { z := false, d := 6#7, w := 1#2 }) (stTeam (grpTree 0#64) {}) := by
  have q := h (stTeam (grpTree 0#64) {}) (run0 {}) (cx0 {}) 0 tree0 (tree_issuing _) rfl (show 16 ≤ 64 by decide) rfl tree_ok (fun o ho => by cases ho)
  have m : MarksOk (grpTree 0#64) false [(false, 4), (false, 6)] := fun p hp => by rcases List.mem_pair.1 hp with rfl | rfl <;> (intro e; cases e)
  have u := q.2.1 { z := false, d := 6#7, l := false, a := 4#7, w := 0#2, x := false } rfl (tree_src _ (.inl (by decide))) (tree_src _ (.inl (by decide))) m
  have y (a : Nat) (ha : a < 80 ∨ a = 90) (hb : a < 128) := q.2.2.1 { z := false, d := 6#7, l := false, a := BitVec.ofNat 7 a, w := 0#2 } rfl (by
    have e : (BitVec.ofNat 7 a).toNat = a := by simp; omega
    change VecOk (grpTree 0#64) _ false [(false, (BitVec.ofNat 7 a).toNat)] 6
    rw [e]; exact tree_vec _ ha (by decide))
  refine ⟨?_, ?_, runs_does (y 4 (.inl (by decide)) (by decide)).1, ?_, runs_traps ((y 4 (.inl (by decide)) (by decide)).2.2.2.2 (by decide)), runs_does (q.2.2.2.2.1 { z := false, d := 6#7, w := 0#2 } rfl (tree_dest _ (by decide))).2.2,
    runs_does (q.2.2.2.2.2.1 { z := false, w := 0#2 } rfl), runs_traps (q.2.2.2.2.2.2.2 { z := false, d := 6#7, w := 1#2 } rfl (by decide))⟩
  · obtain ⟨_, _, _, _, _, e⟩ := u.1 (by decide)
    exact runs_does e
  · obtain ⟨_, _, _, _, _, _, e⟩ := u.2
    exact runs_does e
  · exact runs_does (((y 90 (.inr rfl) (by decide)).2.2.2.1 0 ((List.range 15).map (· + 1)) (by decide) (.inl rfl)).2 0 (by decide) (fun _ => rfl) (fun e => absurd e (by decide)))

/-- Every thread asks for one past the last sum that exists: its finding is 4096; the empty tree. -/
theorem witness_treeFind (h : Obligations.WeightTrees) : Runs (.wfind { z := false, d := 6#7, l := false, a := 90#7, p := 7#3, w := 0#2 }) (stTeam { grpTree 0#64 with trees := [(0, { leaves := [], cut := 4096, status := 0#32 })] } {}) := by
  obtain ⟨m, hm⟩ := maskOf_get 16 (fun _ => decide (4096 < 4096))
  exact runs_does ((h (stTeam { grpTree 0#64 with trees := [(0, { leaves := [], cut := 4096, status := 0#32 })] } {}) (run0 {}) (cx0 {}) 0 { leaves := [], cut := 4096, status := 0#32 }
    (team_issuing rfl rfl rfl rfl) rfl (show 16 ≤ 64 by decide) rfl (by unfold TreeOk; decide) (fun o ho => by cases ho)).2.2.2.1 { z := false, d := 6#7, l := false, a := 90#7, p := 7#3, w := 0#2 } rfl
    ⟨⟨fun p hp => by rw [List.mem_singleton] at hp; subst hp; exact (tree_src 0#64 (.inr (by decide)) : SourceOk (grpTree 0#64) 90 1), by intro e; (cases e), fun p hp => by rw [List.mem_singleton] at hp; subst hp; intro e; cases e⟩,
      by rw [marks_none rfl]; exact (tree_dest 0#64 (by decide) : DestOk (grpTree 0#64) 6 1), by intro e; (cases e)⟩ (fun _ => 4096) (fun k => .inr ⟨rfl, Nat.zero_le _⟩) m hm)

/-- An image at offset 0 of a scratchpad of 20 KiB whose cut is 0, and one that is misaligned. -/
def stImage : State := let s := stTeam (grpTree 0#64) {}; { s with tasks := [(0, { Task.blank with tcb := { Tcb.blank with mem := 5#32 }, ended := false })] }
def fwa : FWA := { z := false, l := false, a := 0#5, w := 0#2 }
theorem witness_treeImages (h : Obligations.WeightTrees) : Runs (.wopSave fwa) stImage ∧ Runs (.wopSave fwa) (stTeam (grpTree 32#64) {}) := by
  have q := (h stImage (run0 {}) (cx0 {}) 0 tree0 (issuing_same (tree_issuing 0#64) rfl rfl rfl rfl rfl) rfl (show 16 ≤ 64 by decide) rfl tree_ok (fun o ho => by cases ho)).2.2.2.2.2.2.1 fwa 0#64 rfl
    ⟨by simp [stImage, stTeam, stOf, grpTree, grpMem, State.grp, look, cx0, fwa], rfl⟩
  have r := (h (stTeam (grpTree 32#64) {}) (run0 {}) (cx0 {}) 0 tree0 (tree_issuing _) rfl (show 16 ≤ 64 by decide) rfl tree_ok (fun o ho => by cases ho)).2.2.2.2.2.2.1 fwa 32#64 rfl
    ⟨by simp [stTeam, stOf, grpTree, grpMem, State.grp, look, cx0, fwa], rfl⟩
  obtain ⟨_, _, _, _, _, _, e⟩ := (q.2 (by decide) (by decide)).1 (by decide)
  exact ⟨runs_comes e, runs_traps (r.1 (by decide)).1⟩

/-! ### Barriers, bands, names -/

/-- `grp0` with a control word in s0, alone in its team, its barrier 3 and band 7 as given. -/
def stBar (c : W64) (b : Bar) (d : Band) : State :=
  let s := stTeam (withS c 0#64) {}
  { s with teams := [(0, { Team.blank with resident := true, retired := false, gids := [0], bars := [(3, b)], bands := [(7, d)] })], felts := [(0, { Felt.blank with teams := [0], bars := [(3, b)] })] }
theorem bar_issuing (c : W64) (b : Bar) (d : Band) : Issuing (stBar c b d) (run0 {}) (cx0 {}) {} false := issuing_same (issuing_withS c 0#64 _ _) rfl rfl rfl rfl rfl
def bar0 (e a : Nat) : Bar := { expect := e, arrived := a, phase := false, wmask := [] }
def band0 (n : Nat) (f : W16) : Band := { count := n, full := f, phase := 0#16, wmask := 0#32 }
def stores1 (s : State) : State := { s with groups := s.groups.map (fun (e : Nat × Group) => (e.1, { e.2 with sb := [oneStore] })) }

/-- A barrier set up, malformed and in use; the last arrival and one before it; waits for both phases. -/
theorem witness_barriers (h : barriersRule) : Runs (.barInit (fa 0)) (stBar 0x200003#64 (bar0 0 0) (band0 2 0#16)) ∧ Runs (.barInit (fa 0)) (stBar 0x210003#64 (bar0 0 0) (band0 2 0#16)) ∧ Runs (.barInit (fa 0)) (stBar 0x10003#64 (bar0 2 1) (band0 2 0#16))
    ∧ Runs (.barInit (fa 0)) (stBar 0xD1003#64 (bar0 0 0) (band0 2 0#16))
    ∧ Runs (.barArv (fs2 31 0)) (stBar 3#64 (bar0 2 1) (band0 2 0#16)) ∧ Runs (.barFarv (fs2 31 0)) (stBar 3#64 (bar0 2 0) (band0 2 0#16)) ∧ Runs (.barFarv (fs2 31 0)) (stBar 4#64 (bar0 2 0) (band0 2 0#16))
    ∧ Runs (.barWait (fa 0)) (stBar 0x103#64 (bar0 2 0) (band0 2 0#16)) ∧ Runs (.barWait (fa 0)) (stBar 3#64 (bar0 2 0) (band0 2 0#16)) ∧ Runs (.barFsync (fa 0)) (stBar 3#64 (bar0 2 1) (band0 2 0#16))
    ∧ Runs (.barSync (fa 0)) (stBar 3#64 (bar0 2 0) (band0 2 0#16)) ∧ Runs (.barTest (fs2 31 0)) (stBar 0x1003#64 (bar0 2 0) (band0 2 0#16)) := by
  have q (c : W64) (b : Bar) := h (stBar c b (band0 2 0#16)) (run0 {}) (cx0 {}) 0 c false (bar_issuing c b _) rfl (withS_a _ _) rfl rfl
    (fun e he o ho => by have : e = (0, withS c 0#64) := by simpa [stBar, stTeam, stOf] using he
                         subst this; cases ho) (fun o ho => by cases ho)
  refine ⟨runs_comes (((q _ _).1 (fa 0) rfl rfl).2.2 (by unfold strays; decide) (by decide)), runs_traps (((q _ _).1 (fa 0) rfl rfl).1 (by unfold strays; decide)), runs_traps (((q _ _).1 (fa 0) rfl rfl).2.1 (by unfold strays; decide) (.inl (by decide))),
    runs_traps (((q _ _).1 (fa 0) rfl rfl).1 (by unfold strays; decide)),
    runs_comes ((((q _ _).2.1 false).1 (fs2 31 0) rfl rfl rfl).2.2.1 (by unfold strays; decide) (by decide) (by decide)), runs_comes ((((q _ _).2.1 true).1 (fs2 31 0) rfl rfl rfl).2.2.2 (by unfold strays; decide) (by decide) (by decide)),
    runs_traps ((((q _ _).2.1 true).1 (fs2 31 0) rfl rfl rfl).1 (by unfold strays; decide)),
    runs_does ((((q _ _).2.1 false).2 (fa 0) rfl rfl).2.1 (by unfold strays; decide) (by decide)), runs_comes ((((q _ _).2.1 false).2 (fa 0) rfl rfl).2.2.1 (by unfold strays; decide) (by decide)),
    runs_comes ((((q _ _).2.1 true).2 (fa 0) rfl rfl).2.2.2.2.1 (by unfold strays; decide) (by decide) (by decide)), runs_comes ((((q _ _).2.1 false).2 (fa 0) rfl rfl).2.2.2.2.2 (by unfold strays; decide) (by decide) (by decide)),
    runs_does (((q _ _).2.2 (fs2 31 0) rfl rfl rfl).2 (by unfold strays; decide))⟩

/-- An arrival whose release still waits. -/
theorem witness_barrier_stall (h : barriersRule) : Runs (.barArv (fs2 31 0)) (stores1 (stBar 3#64 (bar0 2 1) (band0 2 0#16))) :=
  runs_stalls ((((h (stores1 (stBar 3#64 (bar0 2 1) (band0 2 0#16))) (run0 {}) (cx0 {}) 0 3#64 false ⟨⟨rfl, rfl, rfl, rfl, rfl, rfl, rfl, rfl, rfl⟩, ⟨rfl, rfl, rfl, only_claims rfl rfl⟩, rfl, by decide⟩ rfl ⟨rfl, rfl⟩ rfl rfl
    (fun e he o ho => by have : e = (0, { withS 3#64 0#64 with sb := [oneStore] }) := by simpa [stores1, stBar, stTeam, stOf] using he
                         subst this; cases ho) (fun o ho => by cases ho)).2.1 false).1 (fs2 31 0) rfl rfl rfl).2.1 (by unfold strays; decide) (by decide))

/-- Counts 2, 16, 1 and 17; the last stage and one that is none; empty and full stages. -/
theorem witness_bands (h : bandsRule) : Runs (.bandInit (fa 0)) (stBar 0x100007#64 (bar0 0 0) (band0 2 0#16)) ∧ Runs (.bandInit (fa 0)) (stBar 0x110007#64 (bar0 0 0) (band0 2 0#16)) ∧ Runs (.bandInit (fa 0)) (stBar 0x10007#64 (bar0 0 0) (band0 2 0#16))
    ∧ Runs (.bandInit (fa 0)) (stBar 0x20007#64 (bar0 0 0) (band0 2 1#16)) ∧ Runs (.bandPut (fa 0)) (stBar 0x17#64 (bar0 0 0) (band0 2 1#16)) ∧ Runs (.bandPut (fa 0)) (stBar 0x07#64 (bar0 0 0) (band0 2 1#16))
    ∧ Runs (.bandDone (fa 0)) (stBar 0x07#64 (bar0 0 0) (band0 2 1#16)) ∧ Runs (.bandDone (fa 0)) (stBar 0x27#64 (bar0 0 0) (band0 2 1#16)) ∧ Runs (.bandTake (fa 0)) (stBar 0x07#64 (bar0 0 0) (band0 2 1#16)) ∧ Runs (.bandTake (fa 0)) (stBar 0x17#64 (bar0 0 0) (band0 2 1#16))
    ∧ Runs (.bandTest (fs2 31 0)) (stBar 7#64 (bar0 0 0) (band0 2 1#16)) := by
  have q (c : W64) (d : Band) := h (stBar c (bar0 0 0) d) (run0 {}) (cx0 {}) 0 c false (bar_issuing c _ d) rfl (withS_a _ _) rfl rfl
    (fun e he o ho => by have : e = (0, withS c 0#64) := by simpa [stBar, stTeam, stOf] using he
                         subst this; cases ho) (fun o ho => by cases ho)
  have i (c : W64) (d : Band) := (q c d).1 (fa 0) rfl rfl
  refine ⟨runs_comes ((i 0x100007#64 _).1.2.2 (by unfold strays; decide) (by decide)), runs_traps ((i 0x110007#64 _).1.1 (by unfold strays; decide)), runs_traps ((i 0x10007#64 _).1.1 (by unfold strays; decide)), runs_traps ((i 0x20007#64 _).1.2.1 (by unfold strays; decide) (by decide)),
    runs_comes (((i 0x17#64 (band0 2 1#16)).2.1 true).2.2.2 (by unfold strays; decide) (by decide) (by decide)), runs_traps (((i 0x07#64 (band0 2 1#16)).2.1 true).2.2.1 (by unfold strays; decide) (by decide) (by decide)),
    runs_comes (((i 0x07#64 (band0 2 1#16)).2.1 false).2.2.2 (by unfold strays; decide) (by decide) (by decide)), runs_traps (((i 0x27#64 (band0 2 1#16)).2.1 false).1 (by unfold strays; decide)),
    runs_does ((i 0x07#64 (band0 2 1#16)).2.2.2.1 (by unfold strays; decide) (by decide)), runs_comes ((i 0x17#64 (band0 2 1#16)).2.2.2.2 (by unfold strays; decide) (by decide)),
    runs_does (((q 7#64 (band0 2 1#16)).2 (fs2 31 0) rfl rfl rfl).2 (by unfold strays; decide))⟩

/-! ### Names, copies, the matrix engine -/

theorem issuing_withS_h (a b : W64) (h : Hints) (acc : Accepts) (mill : Bool) (hb : h.bad = false) (ha : acc.ok h = true) (hp : h.pred = none) :
    Issuing (stOf (withS a b) h) (run0 h) (cx0 h) acc mill := st_issuing (good_withS a b) hb ha hp

def fep : FEP := { z := false, t := 31#6, p := 0#6, l := false, h := 0#4 }
def fnj : FNjoin := { z := false, t := 15#5, p := 0#6, l := false, q := 1#6, k := false }

/-- The greatest generation and the first hint beyond it; NJOIN of a name that does not exist; NWAIT with and without a latch. -/
theorem witness_nameWords (h : Obligations.NameWords) : Runs (.nwake fep) (stOf (withS 1#64 2#64) { imm := [0xFFFF#20] }) ∧ Runs (.nwake fep) (stOf (withS 1#64 2#64) { imm := [0x10000#20] })
    ∧ Runs (.ndep fe) (stOf (withS 1#64 2#64) {}) ∧ Runs (.njoin fnj) (stOf (withS 1#64 2#64) {}) ∧ Runs (.nwait { z := false, t := 31#6, p := 0#6, l := false }) (stOf (withS 1#64 2#64) {})
    ∧ Runs (.nwait { z := false, t := 31#6, p := 0#6, l := false }) (stOf { withS 1#64 2#64 with latch := true } {}) := by
  have q (g : Hints) := h (stOf (withS 1#64 2#64) g) (run0 g) (cx0 g) rfl (fun o ho => by cases ho)
  refine ⟨?_, ?_, ?_, ?_, ?_, ?_⟩
  · exact runs_comes (((q { imm := [0xFFFF#20] }).1 (issuing_withS_h _ _ _ _ _ rfl rfl rfl)).1 1 31 0 0 _ 1#64 (0, 0#64) (.nwake fep) (.inl ⟨fep, rfl, rfl, rfl, rfl, rfl, rfl, rfl, by decide⟩) (withS_a _ _) (withS_long _ _) |>.1 (by decide))
  · exact runs_traps (((q { imm := [0x10000#20] }).1 (issuing_withS_h _ _ _ _ _ rfl rfl rfl)).2.1 fep (by decide))
  · exact runs_comes (((q {}).1 (issuing_withS _ _ _ _)).1 3 31 0 0 _ 1#64 _ (.ndep fe) (.inr ⟨fe, 2#64, withS_b _ _, rfl, rfl, rfl, rfl, .inr ⟨rfl, rfl, rfl⟩⟩) (withS_a _ _) (withS_long _ _) |>.1 (by decide))
  · have n := (((q {}).1 (issuing_withS _ _ _ _)).2.2.2 fnj 1#64 2#64 (withS_a _ _) (withS_b _ _) rfl rfl (by decide)).1
    cases e : (stOf (withS 1#64 2#64) {}).resolve ((stOf (withS 1#64 2#64) {}).grp 0).dom 1#64 (0 % 65536) 3 with
    | error st => exact runs_does (n st e)
    | ok en =>
      have : ((stOf (withS 1#64 2#64) {}).resolve ((stOf (withS 1#64 2#64) {}).grp 0).dom 1#64 (0 % 65536) 3).toBool = false := by decide
      rw [e] at this; cases this
  · exact runs_does (((q {}).2 { z := false, t := 31#6, p := 0#6, l := false } 1#64 (issuing_withS _ _ _ _) (withS_a _ _) rfl).2 rfl rfl)
  · exact runs_does (((h (stOf { withS 1#64 2#64 with latch := true } {}) (run0 {}) (cx0 {}) rfl (fun o ho => by cases ho)).2 { z := false, t := 31#6, p := 0#6, l := false } 1#64 (st_issuing rfl rfl (by decide) rfl) ⟨rfl, rfl⟩ rfl).1 (.inl rfl))

/-- One row of four bytes from 0x20000 to offset 64 of the scratchpad, its bitmap at offset 0. -/
def packet0 : List W8 := gen 64 (fun i => if i = 0 ∨ i = 6 ∨ i = 18 ∨ i = 20 ∨ i = 22 ∨ i = 36 ∨ i = 52 then 1#8 else if i = 16 then 4#8 else if i = 10 then 2#8 else if i = 38 then 4#8 else if i = 40 then 64#8 else 0#8)
/-- A group of role 0 with the packet at 0x20040, s0 and s1 as given. -/
def stPacket (a b : W64) (r : Nat) : State := let s := stTeam { withS a b with role := r } {}; { s with dmem := wrN s.dmem 0x20040 packet0 }
theorem packet_issuing (a b : W64) (r : Nat) : Issuing (stPacket a b r) (run0 {}) (cx0 {}) {} false := issuing_same (st_issuing (x := { withS a b with role := r }) (h := {}) rfl rfl rfl rfl) rfl rfl rfl rfl rfl

theorem witness_copyWords (h : Obligations.CopyWords) : Runs (.cpy fep) (stPacket 0x20040#64 0#64 1) ∧ Runs (.cpy fep) (stPacket 0x20041#64 0#64 0) ∧ Runs (.cpy fep) (stPacket 0x20080#64 0#64 0) ∧ Runs (.cpy fep) (stPacket 0x20040#64 0#64 0)
    ∧ Runs (.ccancel fep) (stPacket 0x20040#64 0#64 0) := by
  have q (a : W64) (r : Nat) := (h (stPacket a 0#64 r) (run0 {}) (cx0 {}) a (packet_issuing _ _ _) rfl (fun o ho => by cases ho) (fun e he => by cases he) rfl).1 fep (withS_a _ _)
  let c (a : W64) := checkAccess (cx0 {}) [(lowLane 16 0xFFFF#64, a)] { size := 64, align := 1, need := { r := true }, uniform := true }
  have one (a : W64) (ha : valOf [] (c a) (stPacket a 0#64 0) = [(0, .dev a.toNat, { ld := 0, dom := 0#16, va := a.toNat, pasid := none, page := 0 })]) (hr : ((c a).run (stPacket a 0#64 0)).toBool = true) :=
    ((q a 0).2 rfl).2.2.1 (endOf (c a) (stPacket a 0#64 0)) (0, .dev a.toNat, { ld := 0, dom := 0#16, va := a.toNat, pasid := none, page := 0 })
  refine ⟨runs_traps ((q _ 1).1 (by decide)).1, runs_traps (((q 0x20041#64 0).2 rfl).1 (by decide)), ?_, ?_, runs_comes (((q 0x20040#64 0).2 rfl).2.2.2.1 (withS_long _ _) (fun c hc => by cases hc))⟩
  · have e : (c 0x20080#64).run (stPacket 0x20080#64 0#64 0) = .ok ([(0, .dev 0x20080, { ld := 0, dom := 0#16, va := 0x20080, pasid := none, page := 0 })], endOf (c 0x20080#64) (stPacket 0x20080#64 0#64 0)) := by
      rw [run_end [] _ _ (by decide)]; exact congrArg Except.ok (Prod.ext (by decide) rfl)
    exact runs_traps (((one 0x20080#64 (by decide) (by decide)) (by decide) (by decide) e rfl).1 0 (by decide) (fun k _ => Nat.zero_le k))
  · have e : (c 0x20040#64).run (stPacket 0x20040#64 0#64 0) = .ok ([(0, .dev 0x20040, { ld := 0, dom := 0#16, va := 0x20040, pasid := none, page := 0 })], endOf (c 0x20040#64) (stPacket 0x20040#64 0#64 0)) := by
      rw [run_end [] _ _ (by decide)]; exact congrArg Except.ok (Prod.ext (by decide) rfl)
    exact runs_comes ((((one 0x20040#64 (by decide) (by decide)) (by decide) (by decide) e rfl).2 (by decide)).2 (by decide) (by decide) rfl (withS_long _ _))

def few : FEW := { z := false, t := 31#6, p := 0#6, l := false, q := 1#6, k := false }
/-- A window address's last word, one past it, a misaligned one and no window address; a mask that is met and one that is not. -/
theorem witness_copyWaits (h : Obligations.CopyWords) : Runs (.cwait few) (stPacket 0x20000#64 0#64 0) ∧ Runs (.cwait few) (stPacket 0xFFFFFF000F000004#64 0#64 0) ∧ Runs (.cwait few) (stPacket 0xFFFFFF000F001000#64 0#64 0)
    ∧ Runs (.cwait few) (stPacket 0xFFFFFF000F000FF8#64 0#64 0) ∧ Runs (.cwait few) (stPacket 0xFFFFFF000F000FF8#64 1#64 0) ∧ Runs (.ctest fe) (stPacket 0xFFFFFF000F000FF8#64 1#64 0) := by
  have q (a b : W64) (off : Nat) := (h (stPacket a b 0) (run0 {}) (cx0 {}) a (packet_issuing _ _ _) rfl (fun o ho => by cases ho) (fun e he => by cases he) rfl).2 off 0 1 31 b [] (withS_a _ _) (withS_b _ _) rfl
  refine ⟨runs_traps (((q 0x20000#64 0#64 0).1 few rfl rfl rfl rfl).1 (fun t k e => by have : (stPacket 0x20000#64 0#64 0).window 0 0x20000#64 = .outside := rfl
                                                                                       rw [show (cx0 {}).g = 0 from rfl, this] at e; cases e)),
    runs_traps (((q 0xFFFFFF000F000004#64 0#64 4).1 few rfl rfl rfl rfl).2.1 rfl (by decide)), runs_traps (((q 0xFFFFFF000F001000#64 0#64 0x1000).1 few rfl rfl rfl rfl).2.2.1 rfl (by decide) (by decide)),
    runs_does ((((q 0xFFFFFF000F000FF8#64 0#64 0xFF8).1 few rfl rfl rfl rfl).2.2.2 rfl (by decide) (by decide) rfl).1 (by decide)),
    runs_does ((((q 0xFFFFFF000F000FF8#64 1#64 0xFF8).1 few rfl rfl rfl rfl).2.2.2 rfl (by decide) (by decide) rfl).2 (by decide)),
    runs_comes ((q 0xFFFFFF000F000FF8#64 1#64 0xFF8).2 fe rfl rfl rfl rfl rfl (by decide) (by decide) (withS_long _ _))⟩

/-- A group of role 1 with an accumulator store of 4 KiB beside its scratchpad. -/
def stMatrix (a b : W64) (r : Nat) : State :=
  let s := stTeam { withS a b with role := r } {}
  { s with tasks := [(0, { Task.blank with tcb := { Tcb.blank with mem := 0x201#32 }, ended := false })] }
theorem matrix_issuing (a b : W64) (r : Nat) : Issuing (stMatrix a b r) (run0 {}) (cx0 {}) {} false := issuing_same (st_issuing (x := { withS a b with role := r }) (h := {}) rfl rfl rfl rfl) rfl rfl rfl rfl rfl
theorem withS_src (a b : W64) (r : Nat) {k : Nat} (hk : k < 80) : SourceOk { withS a b with role := r } k 1 := by
  unfold SourceOk
  rw [if_pos hk]
  intro i hi
  exact ⟨(inPlace0.mapped (r := k + i) (by omega) : isMapped grp0 (k + i) = true), rfl, rfl⟩

theorem witness_matrixWords (h : Obligations.MatrixWords) : Runs (.mma fep) (stMatrix 0xFFFFFF000F000000#64 0#64 0) ∧ Runs (.mma fep) (stMatrix 0xFFFFFF000F000020#64 0#64 1) ∧ Runs (.mma fep) (stMatrix 0xFFFFFF000F000000#64 0#64 1)
    ∧ Runs (.mstat fep) (stMatrix 1#64 0#64 1) ∧ Runs (.mstat fep) (stMatrix 2#64 0#64 1) ∧ Runs (.mrdy fe) (stMatrix 0x1FF#64 0x40#64 1) ∧ Runs (.mrdy fe) (stMatrix 0x0FF#64 0x40#64 1) ∧ Runs (.mrdy fe) (stMatrix 0x1FF#64 0x140#64 1)
    ∧ Runs (.macc fe) (stMatrix 0x1000000#64 0#64 1) ∧ Runs (.macc fe) (stMatrix 0x10003C0#64 0x40#64 1) ∧ Runs (.mwait { z := false, t := 31#6, p := 0#6, l := false }) (stMatrix 0x100#64 0#64 1)
    ∧ Runs (.mwait { z := false, t := 31#6, p := 0#6, l := false }) (stMatrix 0x101#64 0#64 1) := by
  have q (a b : W64) (r : Nat) := h (stMatrix a b r) (run0 {}) (cx0 {}) a b (matrix_issuing _ _ _) (fun e he => by cases he) (fun o ho => by cases ho) (fun e he => by cases he) rfl (show 16 ≤ 64 by decide)
  have m (a : W64) (r : Nat) := (q a 0#64 r).1 fep (withS_a _ _)
  have y (a b : W64) := ((q a b 1).2.1 fe (withS_a _ _) (withS_b _ _)).2 rfl
  have w (a : W64) := (q a 0#64 1).2.2 { z := false, t := 31#6, p := 0#6, l := false } (withS_a _ _) rfl
  refine ⟨runs_traps ((m _ 0).1 (by decide)), runs_traps (((m 0xFFFFFF000F000020#64 1).2.1 rfl).1 (fun off e => by
      have : (stMatrix 0xFFFFFF000F000020#64 0#64 1).window 0 0xFFFFFF000F000020#64 = .team 0 32 := rfl
      rw [show (cx0 {}).g = 0 from rfl, this] at e; injection e with _ e; subst e; decide)), ?_,
    runs_comes ((m 1#64 1).2.2.2 (by decide) (withS_long _ _)), runs_traps ((m 2#64 1).2.2.1 (by decide)),
    runs_comes ((y 0x1FF#64 0x40#64).2.2.2.1 (by decide) (by rintro ⟨c, hc, _⟩; cases hc) (by decide) (fun r hr => by
      obtain ⟨i, hi, rfl⟩ := List.mem_map.1 hr
      have : i < 16 := List.mem_range.1 hi
      exact withS_src _ _ _ (by change 64 + i < 80; omega)) (withS_long _ _)),
    runs_traps ((y 0x0FF#64 0x40#64).1 (by decide)), runs_traps ((y 0x1FF#64 0x140#64).1 (by decide)), ?_, ?_,
    runs_does ((w 0x100#64).2.1 (by decide) rfl), runs_traps ((w 0x101#64).1 (by decide))⟩
  · exact runs_comes ((((m 0xFFFFFF000F000000#64 1).2.1 rfl).2 0 rfl (by decide) (by decide) (by decide)).2 (by decide) |>.2.2 (fun c hc => by cases hc) (by decide) (by decide) (fun r hr => by
      obtain ⟨i, hi, rfl⟩ := List.mem_map.1 hr
      have : i < 16 := List.mem_range.1 hi
      exact withS_src _ _ _ (by change 0 + i < 80; omega)) (by decide) (withS_long _ _))
  · exact runs_comes ((y 0x1000000#64 0#64).2.2.2.2.2.2.2 (by decide) (.inl (by decide)) (by decide) (by decide) (fun _ r hr => by
      obtain ⟨i, hi, rfl⟩ := List.mem_map.1 hr
      have : i < 1 := List.mem_range.1 hi
      exact withS_src _ _ _ (by change 0 + i < 80; omega)) (withS_long _ _) (by decide))
  · exact runs_comes ((y 0x10003C0#64 0x40#64).2.2.2.2.2.2.2 (by decide) (.inl (by decide)) (by decide) (by decide) (fun _ r hr => by
      obtain ⟨i, hi, rfl⟩ := List.mem_map.1 hr
      have : i < 1 := List.mem_range.1 hi
      exact withS_src _ _ _ (by change 0 + i < 80; omega)) (withS_long _ _) (by decide))

/-! ### Runs and the results of operations -/

/-- Its threads 0 and 1 are the oldest, thread 1 at the lower PC. -/
def grpAges : Group := { grp0 with pcs := gen 16 (fun t => if t = 0 then 0x20008#64 else if t = 1 then 0x20004#64 else 0x20000#64), ages := gen 16 (fun t => if t < 2 then 1 else 0), waited := 3 }
/-- No run in progress, a rival that has waited as long in the next slot, and one that has waited less. -/
def stRivals : State := { stOf grpAges {} with groups := [(0, grpAges), (1, { grpAges with slot := 1 }), (2, { grpAges with slot := 2, waited := 2 })], runs := [], focus := none }

theorem witness_runSelection (h : Obligations.RunSelection) : Runs (.runSelect (.part 0 0)) (stOf grp0 {}) ∧ Runs (.runSelect (.part 0 0)) stRivals ∧ Runs (.runSelect (.milliner 0)) State.reset := by
  refine ⟨⟨_, (h (.part 0 0) (stOf grp0 {})).1 _ rfl⟩, ⟨_, (h (.part 0 0) stRivals).2.1 0 0x20004#64 2#64 rfl ?_ (.head _) (by decide) rfl (by decide) (by decide) ?_ ?_ rfl (.inr ⟨rfl, .inl rfl⟩) ?_ ?_ (by decide)⟩, ⟨_, (h (.milliner 0) State.reset).2.2 rfl (fun e he => by cases he)⟩⟩
  · intro e he
    rcases List.mem_cons.1 he with rfl | he
    · rfl
    rcases List.mem_cons.1 he with rfl | he
    · rfl
    rcases List.mem_cons.1 he with rfl | he
    · rfl
    cases he
  · intro e he hn _ _ _
    rcases List.mem_cons.1 he with rfl | he
    · exact absurd rfl hn
    rcases List.mem_cons.1 he with rfl | he
    · exact .inr ⟨rfl, .inr ⟨rfl, by decide⟩⟩
    rcases List.mem_cons.1 he with rfl | he
    · exact .inr ⟨rfl, .inl (by decide)⟩
    cases he
  · intro e he hn
    rcases List.mem_cons.1 he with rfl | he
    · rfl
    rcases List.mem_cons.1 he with rfl | he
    · cases hn
    rcases List.mem_cons.1 he with rfl | he
    · cases hn
    cases he
  · refine ⟨1, ⟨by decide, ?_⟩, rfl⟩
    intro u hu
    exact (by decide : ∀ u < 16, grpAges.ages.getD u 0 ≤ 1) u (of_decide_eq_true (Bool.and_eq_true_iff.1 hu).1)
  · intro t ht
    exact (by decide : ∀ t < 16, grpAges.ages.getD 1 0 ≤ grpAges.ages.getD t 0 → 0x20004 ≤ (grpAges.pcs.getD t 0#64).toNat) t (of_decide_eq_true (Bool.and_eq_true_iff.1 ht.1).1) (ht.2 1 (by decide))

/-- The group's one operation in flight. -/
def oneOp (kind : OpKind) (base : Nat) (dests : List Nat) (work : Work) : LOp :=
  { id := 0, kind := kind, site := 0#64, seq := 0#64, base := base, dests := dests.map (fun r => { reg := r, mask := 1#64, was := false, vals := [] })
    win := gen 16 (fun t => if t = 0 then 1 else 0), work := work, again := .done, acq := false, ready := false, disc := [], used := [] }
def stOp (o : LOp) : State := stOf { grp0 with ops := [o] } {}
def stStore (t : Target) : State := stOf { grp0 with ops := [oneOp .load 4 [4] .done], sb := [{ oneStore with writes := [(t, [7#8])] }] } {}

/-- A result that comes while its window is open; the atomics of the least and the greatest code, of four and eight bytes, into a scalar and a vector register. -/
theorem witness_results (h : Obligations.OperationsAtHome) : Runs (.longLatencyResult 0) (stOp (oneOp .load 4 [4] .done))
    ∧ Runs (.atomicPerform 0) (stOp (oneOp .atomic 6 [6, 7] (.atomic 0 true true [(0, .dev 0x20FF8, 5#64, 0#64)]))) ∧ Runs (.atomicPerform 0) (stOp (oneOp .atomic 103 [103] (.atomic 7 false false [(0, .dev 0x20000, 5#64, 0#64)])))
    ∧ Runs (.atomicPerform 0) (stOp (oneOp .atomic 6 [6] (.atomic 8 false false [(15, .dev 0x20FFC, 5#64, 0#64)]))) := by
  have q (o : LOp) (ho : o.id = 0) (hr : o.ready = false) := h (stOp o) 0 0 o (by unfold State.ownerOf stOp stOf; simp [ho]) rfl rfl hr
  refine ⟨runs_becomes ((q (oneOp .load 4 [4] .done) rfl rfl).1 rfl), ?_, ?_, ?_⟩
  · exact runs_becomes (((q (oneOp .atomic 6 [6, 7] (.atomic 0 true true [(0, .dev 0x20FF8, 5#64, 0#64)])) rfl rfl).2.1 rfl).1 _ _ _ _ _ _ _ rfl rfl (fun d hd => by
      rcases List.mem_cons.1 hd with rfl | hd
      · exact ⟨by decide, by decide⟩
      rcases List.mem_cons.1 hd with rfl | hd
      · exact ⟨by decide, by decide⟩
      cases hd) rfl _ (.head _) rfl)
  · exact runs_becomes (((q (oneOp .atomic 103 [103] (.atomic 7 false false [(0, .dev 0x20000, 5#64, 0#64)])) rfl rfl).2.1 rfl).1 _ _ _ _ _ _ _ rfl rfl (fun d hd => by
      rcases List.mem_cons.1 hd with rfl | hd
      · exact ⟨by decide, by decide⟩
      cases hd) rfl _ (.tail _ (.tail _ (.tail _ (.tail _ (.tail _ (.tail _ (.tail _ (.head _)))))))) rfl)
  · exact runs_becomes (((q (oneOp .atomic 6 [6] (.atomic 8 false false [(15, .dev 0x20FFC, 5#64, 0#64)])) rfl rfl).2.1 rfl).1 _ _ _ _ _ _ _ rfl rfl (fun d hd => by
      rcases List.mem_cons.1 hd with rfl | hd
      · exact ⟨by decide, by decide⟩
      cases hd) rfl _ (.tail _ (.tail _ (.tail _ (.tail _ (.tail _ (.tail _ (.tail _ (.tail _ (.head _))))))))) rfl)

/-- The first and the last merge operation; a store acknowledged at the least, the device's and the greatest scope. -/
theorem witness_homes (h : Obligations.OperationsAtHome) : Runs (.keepWriteApply 0) (stOp (oneOp .kst 4 [4] (.kst [(0, .keep 0x20000 0#3, 5#64, 1#64)])))
    ∧ Runs (.keepReconcileApply 0) (stOp (oneOp .krec 96 [96, 97] (.krec 7#3 [(0, .keep 0x20000 7#3, 5#64)])))
    ∧ (∀ k : Fin 6, Runs (.storeAcknowledge 0 0 k) (stStore (.dev 0x20000)) ∧ Runs (.storeAcknowledge 0 0 k) (stStore (.host 0 0x20000))) := by
  have q (o : LOp) (ho : o.id = 0) (hr : o.ready = false) := h (stOp o) 0 0 o (by unfold State.ownerOf stOp stOf; simp [ho]) rfl rfl hr
  refine ⟨?_, ?_, fun k => ?_⟩
  · exact runs_becomes (((q (oneOp .kst 4 [4] (.kst [(0, .keep 0x20000 0#3, 5#64, 1#64)])) rfl rfl).2.1 rfl).2.1 _ _ _ _ _ rfl rfl (fun e he b hb => by
      rcases List.mem_cons.1 he with rfl | he
      · cases hb
      cases he) (by decide) (fun d hd => by
      rcases List.mem_cons.1 hd with rfl | hd
      · rfl
      cases hd))
  · exact runs_becomes (((q (oneOp .krec 96 [96, 97] (.krec 7#3 [(0, .keep 0x20000 7#3, 5#64)])) rfl rfl).2.1 rfl).2.2 _ _ _ _ _ rfl rfl (by decide) (fun d hd => by
      rcases List.mem_cons.1 hd with rfl | hd
      · exact .inl rfl
      rcases List.mem_cons.1 hd with rfl | hd
      · exact .inr rfl
      cases hd))
  · have e (t : Target) := (h (stStore t) 0 0 (oneOp .load 4 [4] .done) rfl rfl rfl rfl).2.2 { oneStore with writes := [(t, [7#8])] } 0x20000 [7#8] k rfl rfl rfl rfl (fun c hc => by cases hc)
    exact ⟨runs_becomes ((e _).1 rfl rfl), runs_becomes ((e _).2 0 rfl rfl)⟩

/-! ### Waits and names -/

def grpWait (w : Wait) : Group := { grp0 with wait := w }
def stWait (w : Wait) : State := stOf (grpWait w) {}
def join0 (g : Option Nat) (target : W64) (limit : Nat) : Join := { ld := 0, target := target, gid := g, dom := 0#16, port := 0, ticket := 7#32, caddr := 0x20000#64, limit := limit }

/-- Each wait at its limit, and none; the greatest claim there is, its trap masked and not. -/
theorem witness_waits (h : waitsAndNamesRule) : Runs (.sleepExpiry 0) (stWait (.sleep 0)) ∧ Runs (.nwaitTimeout 0) (stWait (.nwait 31 (some 1) 0#64)) ∧ Runs (.njoinTimeout 0) { stWait (.njoin 30 5#64 (some 1) 0#64) with joins := [join0 (some 0) 5#64 1] }
    ∧ Runs (.sleepExpiry 0) (stWait .none) ∧ Runs (.nwaitTimeout 0) (stWait .none) ∧ Runs (.njoinTimeout 0) (stWait .none)
    ∧ (∀ m ∈ [0#64, 4#64], Runs (.claimDeadlockDetect 0 0) { stOf { grpWait (.vclaim 31 2047 0 0xFFFF#64 0x20000#64) with trapmask := m } {} with runs := [], focus := none }) := by
  have q (w : Wait) := (h (stWait w) 0).1 (fun o ho => by cases ho) rfl
  have n := (h (stWait .none) 0).2.1 rfl
  refine ⟨runs_becomes ((q (.sleep 0)).1 0 rfl), runs_becomes ((q (.nwait 31 (some 1) 0#64)).2.1 31 1 0#64 rfl),
    runs_becomes (((h { stWait (.njoin 30 5#64 (some 1) 0#64) with joins := [join0 (some 0) 5#64 1] } 0).1 (fun o ho => by cases ho) rfl).2.2 30 1 0#64 5#64 (join0 (some 0) 5#64 1) rfl (by decide)),
    runs_becomes n.1, runs_becomes n.2.1, runs_becomes n.2.2, ?_⟩
  intro m hm
  have k := (h { stOf { grpWait (.vclaim 31 2047 0 0xFFFF#64 0x20000#64) with trapmask := m } {} with runs := [], focus := none } 0).2.2.1 0 0 31 2047 0 0xFFFF#64 0x20000#64 rfl rfl rfl rfl rfl rfl rfl (fun c hc => by cases hc) (fun c hc => by cases hc)
    (by rcases List.mem_cons.1 hm with rfl | hm
        · decide
        rcases List.mem_cons.1 hm with rfl | hm
        · decide
        cases hm)
  rcases List.mem_cons.1 hm with rfl | hm
  · exact runs_becomes (k.1 rfl)
  rcases List.mem_cons.1 hm with rfl | hm
  · exact runs_becomes (k.2 0x20000#64 rfl ⟨0, by decide, by decide⟩ (by decide))
  cases hm

/-- A group of name 1 whose domain has a name table, name 1's entry as given. -/
def stNames (x : Group) (e : NameEnt) : State :=
  let s := stOf { x with name := 1#64 } {}
  let s := s.modLd 0 (fun l => { l with bar0 := wrN l.bar0 0x10008 (toLe 8 0x100000) })
  { s with dmem := wrN (wrN (wrN s.dmem 0x100000 (toLe 8 0x200000)) 0x200000 (toLe 8 0x300000)) 0x300010 (toLe 16 e.code), nameMirror := [(0x300010, e.code)] }
/-- A name at home, with every right. -/
def entHome : NameEnt := { st := 1, rights := 15, gen := 65535 }
def nameOp (kind reg gen : Nat) : LOp := oneOp .name 127 [127] (.name kind 1#64 (BitVec.ofNat 16 gen) reg 9#64)

theorem resolve_ok {s : State} {d : W16} {n : W64} {g r : Nat} (h : (s.resolve d n g r).toOption = some entHome) : s.resolve d n g r = .ok entHome := by
  cases e : s.resolve d n g r with
  | error k => rw [e] at h; cases h
  | ok v => rw [e] at h; exact congrArg _ (Option.some.inj h)
theorem resolve_error {s : State} {d : W16} {n : W64} {g r : Nat} (k : Nat) (h : (match s.resolve d n g r with | .error j => j == k | .ok _ => false) = true) : s.resolve d n g r = .error k := by
  cases e : s.resolve d n g r with
  | error j => rw [e] at h; exact congrArg _ (beq_iff_eq.1 h)
  | ok v => rw [e] at h; cases h

/-- Each operation on a resident holder, at the greatest generation and the last register, and one of another generation; the end of an exited group's name. -/
theorem witness_nameOperations (h : waitsAndNamesRule) : (∀ k ∈ [(1, 0), (2, 0), (3, 15)], Runs (.nameOperationApply 0) (stNames { grp0 with ops := [nameOp k.1 k.2 65535] } entHome)) ∧ Runs (.nameOperationApply 0) (stNames { grp0 with ops := [nameOp 3 0 1] } entHome)
    ∧ Runs (.groupNameDead 0) (stNames { grp0 with place := .exited } entHome) ∧ Runs (.groupNameDead 0) (stNames { grp0 with place := .exited } {}) := by
  refine ⟨?_, ?_, ?_, ?_⟩
  · have q (k r : Nat) (hk : k = 1 ∨ k = 2 ∨ k = 3) := (h (stNames { grp0 with ops := [nameOp k r 65535] } entHome) 0).2.2.2.1 0 k r (nameOp k r 65535) 1#64 9#64 65535#16 rfl rfl rfl rfl hk |>.2 entHome 0
    intro k hk
    rcases List.mem_cons.1 hk with rfl | hk
    · exact runs_becomes ((q 1 0 (.inl rfl) (resolve_ok (by decide)) rfl rfl rfl rfl).1 rfl)
    rcases List.mem_cons.1 hk with rfl | hk
    · exact runs_becomes ((q 2 0 (.inr (.inl rfl)) (resolve_ok (by decide)) rfl rfl rfl rfl).2.1 rfl)
    rcases List.mem_cons.1 hk with rfl | hk
    · exact runs_becomes ((q 3 15 (.inr (.inr rfl)) (resolve_ok (by decide)) rfl rfl rfl rfl).2.2 rfl)
    cases hk
  · exact runs_becomes ((h (stNames { grp0 with ops := [nameOp 3 0 1] } entHome) 0).2.2.2.1 0 3 0 (nameOp 3 0 1) 1#64 9#64 1#16 rfl rfl rfl rfl (.inr (.inr rfl)) |>.1 4 (resolve_error 4 (by decide)))
  · exact runs_becomes ((h (stNames { grp0 with place := .exited } entHome) 0).2.2.2.2 rfl (fun e he => by cases he) (fun j hj => by cases hj))
  · exact runs_becomes ((h (stNames { grp0 with place := .exited } {}) 0).2.2.2.2 rfl (fun e he => by cases he) (fun j hj => by cases hj))

/-- Another domain; no entry; the wrong generation; every right and one too few; the greatest generation taken again. -/
theorem witness_nameResolution (h : nameResolutionRule) : let s := stNames grp0 entHome
    s.resolve 1#16 1#64 0 3 = .error 3 ∧ s.resolve 0#16 2#64 0 3 = .error 4 ∧ s.resolve 0#16 1#64 1 3 = .error 4 ∧ s.resolve 0#16 1#64 65535 3 = .ok entHome ∧ (stNames grp0 { entHome with rights := 7 }).resolve 0#16 1#64 0 3 = .error 3
    ∧ (s.takeName 1#64 1 false 0 0#64).dmem = wrN s.dmem 0x300010 (toLe 16 ((s.takeName 1#64 1 false 0 0#64).nameEnt 1#64).code) := by
  intro s
  have e1 : s.nameEnt 1#64 = entHome := by decide
  have e2 : s.nameEnt 2#64 = {} := by decide
  have e3 : (stNames grp0 { entHome with rights := 7 }).nameEnt 1#64 = { entHome with rights := 7 } := by decide
  refine ⟨(h s 1#16 1#64 0 3).1 (by decide), (h s 0#16 2#64 0 3).2.1 (.inl (by decide)) (.inl (by rw [e2])), (h s 0#16 1#64 1 3).2.1 (.inl (by decide)) (.inr (by rw [e1]; decide)), ?_, (h (stNames grp0 { entHome with rights := 7 }) 0#16 1#64 0 3).2.2.1 (.inl (by decide)) (by rw [e3]; decide) (.inl rfl) (by rw [e3]; decide), ?_⟩
  · have := (h s 0#16 1#64 65535 3).2.2.2.1 (.inl (by decide)) (by rw [e1]; decide) (.inr (by rw [e1]; decide)) (by rw [e1]; decide)
    rw [e1] at this; exact this
  · rw [(h s 0#16 1#64 0 0).2.2.2.2 0x300010 1 false 0 0#64 (by decide) (by decide), e1]
    decide

/-! ### The host's answers, name ports, invalidations -/

/-- A read of the host's page 0x5000. -/
def missR : Miss := { ld := 0, pasid := 3#20, page := 0x5000#64, write := false, exec := false, read := true }
/-- A group that waits for the page, and its device as given. -/
def stMiss (f : Ld → Ld) : State := (stWait (.xlat [missR] 0)).modLd 0 f

/-- Refusal, the least page with the permission, a page without it; each answer to a page request, the last number among them. -/
theorem witness_hostAnswers (h : Obligations.HostAnswers) : let t := stMiss (fun l => { l with trs := [(some 0, missR)] })
    let p := stMiss (fun l => { l with prgs := [{ prg := 511, owner := some 0, miss := [missR], sent := true }] })
    let d := stMiss (fun l => { l with trs := [(some 0, missR)], pageReqs := false })
    Runs (.translationAnswer 0 3#20 0x5000#64 .refused) t ∧ Runs (.translationAnswer 0 3#20 0x5000#64 (.page 0x7000#64 0 true false false)) t ∧ Runs (.translationAnswer 0 3#20 0x5000#64 (.page 0x7000#64 21 false true true)) t
    ∧ Runs (.translationAnswer 0 3#20 0x5000#64 (.page 0x7000#64 21 false true true)) d ∧ Runs (.pageRequestResponse 0 511 .success) p ∧ Runs (.pageRequestResponse 0 511 .invalidRequest) p ∧ Runs (.pageRequestResponse 0 511 .responseFailure) p ∧ Runs (.pageRequestTimeout 0 511) p := by
  intro t p d
  have a := (h t 0 0 missR rfl rfl rfl rfl).1 rfl rfl rfl
  have c := (h d 0 0 missR rfl rfl rfl rfl).1 rfl rfl rfl
  have b := (h p 0 0 missR rfl rfl rfl rfl).2 511 rfl rfl rfl
  exact ⟨runs_becomes a.1, runs_becomes ((a.2 0x7000#64 0 true false false).1 ⟨fun _ => rfl, fun e => (by cases e), fun e => (by cases e)⟩ (by decide)), runs_becomes ((a.2 0x7000#64 21 false true true).2.1 (fun e => by have := e.1 rfl; cases this) rfl),
    runs_becomes ((c.2 0x7000#64 21 false true true).2.2 (fun e => by have := e.1 rfl; cases this) rfl),
    runs_becomes b.1, runs_becomes b.2.1, runs_becomes b.2.2.1, runs_becomes b.2.2.2⟩

/-- Port 4095 bound to name 2, or to name 1, whose entry is as given; the group holds name 1. -/
def stPort (own : W64) (e : NameEnt) : State := let s := stNames grp0 e; { s.modLd 0 (fun l => { l with ports := [(4095, own)] }) with stage := 2 }
def portReq (name : W64) (gen : W16) (reg : W8) (value caddr time : W64) : PortReq := { port := 4095, name := name, gen := gen, reg := reg, value := value, caddr := caddr, ticket := 7#32, time := time, rsv := 0#64 }

theorem ok_of_resolve {s : State} {d : W16} {n : W64} {g r : Nat} (h : (s.resolve d n g r).toOption = some entHome) : ∃ e, s.resolve d n g r = .ok e ∧ e.st = 1 := ⟨entHome, resolve_ok h, rfl⟩

/-- An unbound port and a misaligned record address; the least malformed field and the last register that is one; each operation, its record written and not. -/
theorem witness_portOperations (h : Obligations.NamePorts) : let s := stPort 2#64 entHome
    Runs (.wake 0 { portReq 1#64 0#16 0#8 0#64 0#64 0#64 with port := 4094 }) s ∧ Runs (.clear 0 (portReq 1#64 0#16 0#8 0#64 8#64 0#64)) s ∧ Runs (.dep 0 (portReq 1#64 0#16 16#8 0#64 0#64 0#64)) s ∧ Runs (.sig 0 (portReq 1#64 0#16 1#8 0#64 0#64 0#64)) s
    ∧ Runs (.wake 0 (portReq 1#64 65535#16 0#8 0#64 0x20000#64 0#64)) s ∧ Runs (.sig 0 (portReq 1#64 0#16 0#8 1#64 0#64 0#64)) s ∧ Runs (.dep 0 (portReq 1#64 0#16 15#8 1#64 0#64 0#64)) s
    ∧ Runs (.wake 0 (portReq 1#64 1#16 0#8 0#64 0#64 0#64)) s ∧ Runs (.sig 0 (portReq 1#64 1#16 0#8 0#64 0#64 0#64)) s ∧ Runs (.dep 0 (portReq 1#64 1#16 0#8 0#64 0#64 0#64)) s ∧ Runs (.join 0 (portReq 1#64 1#16 0#8 0#64 0#64 0#64)) s := by
  intro s
  have q (r : PortReq) := h s 0 r 2#64 (.inr rfl) (by decide) rfl
  have nb (r : PortReq) (hp : r.port = 4095) (hc : r.caddr.toNat % 16 = 0) := (q r).2.1 (by rw [hp]; rfl) hc
  have go (r : PortReq) (hp : r.port = 4095) (hc : r.caddr.toNat % 16 = 0) (hr : r.rsv = 0#64) := (nb r hp hc).2 hr
  refine ⟨runs_becomes ((q _).1 _ (.head _) (.inl rfl)), runs_becomes ((q (portReq 1#64 0#16 0#8 0#64 8#64 0#64)).1 _ (.tail _ (.tail _ (.tail _ (.tail _ (.head _))))) (.inr (by decide))),
    runs_becomes ((nb (portReq 1#64 0#16 16#8 0#64 0#64 0#64) rfl rfl).1 _ (.tail _ (.tail _ (.head _))) _ (.inr (.inr (.inl ⟨rfl, by decide⟩))) rfl),
    runs_becomes ((nb (portReq 1#64 0#16 1#8 0#64 0#64 0#64) rfl rfl).1 _ (.tail _ (.head _)) _ (.inr (.inl ⟨by decide, by decide⟩)) rfl), ?_, ?_, ?_, ?_, ?_, ?_, ?_⟩
  · let x : Group := { s.grp 0 with latch := true, woken := false }
    let w := [(0x20008#64, bytes8 0#64), (0x20000#64, bytes4 7#32 ++ [0#8] ++ List.replicate 3 0#8)]
    exact runs_becomes (((go (portReq 1#64 65535#16 0#8 0#64 0x20000#64 0#64) rfl rfl rfl).1 0 (endOf (w.forM (fun w => kwrite 0#16 w.1 w.2)) (s.setGrp 0 x)) rfl rfl rfl).1 rfl rfl rfl (ok_of_resolve (by decide)) (run_end () (w.forM (fun w => kwrite 0#16 w.1 w.2)) (s.setGrp 0 x) (by decide)))
  · exact runs_becomes (((go (portReq 1#64 0#16 0#8 1#64 0#64 0#64) rfl rfl rfl).1 0 _ rfl rfl rfl).2.1 rfl rfl (ok_of_resolve (by decide)) rfl)
  · exact runs_becomes (((go (portReq 1#64 0#16 15#8 1#64 0#64 0#64) rfl rfl rfl).1 0 _ rfl rfl rfl).2.2 (by decide) rfl (ok_of_resolve (by decide)) rfl)
  · exact runs_becomes ((go (portReq 1#64 1#16 0#8 0#64 0#64 0#64) rfl rfl rfl).2.1 _ (.head _) 4 _ rfl (.inr (.inr rfl)) (.inr rfl) (resolve_error 4 (by decide)) rfl)
  · exact runs_becomes ((go (portReq 1#64 1#16 0#8 0#64 0#64 0#64) rfl rfl rfl).2.1 _ (.tail _ (.head _)) 4 _ rfl (.inl rfl) (.inr rfl) (resolve_error 4 (by decide)) rfl)
  · exact runs_becomes ((go (portReq 1#64 1#16 0#8 0#64 0#64 0#64) rfl rfl rfl).2.1 _ (.tail _ (.tail _ (.head _))) 4 _ rfl (.inr (.inl rfl)) (.inr rfl) (resolve_error 4 (by decide)) rfl)
  · exact runs_becomes ((go (portReq 1#64 1#16 0#8 0#64 0#64 0#64) rfl rfl rfl).2.1 _ (.tail _ (.tail _ (.tail _ (.head _)))) 4 _ rfl (.inr (.inr rfl)) (.inl rfl) (resolve_error 4 (by decide)) rfl)

/-- JOIN of the port's own name, of a dead one, with 4096 joins before it, with 4095; CLEAR; a join at its limit. -/
theorem witness_portJoins (h : Obligations.NamePorts) : let r := portReq 1#64 0#16 0#8 0#64 0#64 0#64
    let many (n : Nat) : State := { stPort 2#64 entHome with joins := List.replicate n (join0 none 9#64 0) }
    Runs (.join 0 r) (stPort 1#64 entHome) ∧ Runs (.join 0 r) (stPort 2#64 { entHome with st := 6 }) ∧ Runs (.join 0 r) (many 4096) ∧ Runs (.join 0 r) (many 4095)
    ∧ Runs (.clear 0 (portReq 0#64 0#16 0#8 0#64 0#64 0#64)) (stPort 1#64 { entHome with loc := 0x20100#64 }) := by
  intro r many
  have go (s : State) (own : W64) (hs : s.stage = 2) (hp : s.pend = []) (hl : (s.ldev 0).tdisp = .unlocked ∧ (s.ldev 0).ports = [(4095, own)]) := (h s 0 r own (.inr hs) (by change (s.ldev 0).tdisp ≠ .error; rw [hl.1]; decide) hp).2.1
    (by change look (s.ldev 0).ports 4095 = some own; rw [hl.2]; rfl) rfl |>.2 rfl |>.2.2.1 rfl rfl
  have e1 : (stPort 1#64 entHome).resolve 0#16 1#64 0 3 = .ok entHome := resolve_ok (by decide)
  have e2 : (stPort 2#64 entHome).resolve 0#16 1#64 0 3 = .ok entHome := resolve_ok (by decide)
  have cnt (n : Nat) : (List.replicate n (join0 none 9#64 0)).countP (fun j => j.ld == 0) = n := by simp [List.countP_replicate, join0]
  refine ⟨runs_becomes ((go (stPort 1#64 entHome) 1#64 rfl rfl ⟨rfl, rfl⟩ entHome e1).1 _ rfl rfl), ?_, ?_, ?_, ?_⟩
  · have : ∃ e, (stPort 2#64 { entHome with st := 6 }).resolve 0#16 1#64 0 3 = .ok e ∧ e.st = 6 := by
      have k : ((stPort 2#64 { entHome with st := 6 }).resolve 0#16 1#64 0 3).toOption = some { entHome with st := 6 } := by decide
      cases e : (stPort 2#64 { entHome with st := 6 }).resolve 0#16 1#64 0 3 with
      | error j => rw [e] at k; cases k
      | ok v => rw [e] at k; exact ⟨v, rfl, by rw [Option.some.inj k]⟩
    obtain ⟨e, he, h6⟩ := this
    exact runs_becomes ((go (stPort 2#64 { entHome with st := 6 }) 2#64 rfl rfl ⟨rfl, rfl⟩ e he).2.1 _ (by decide) h6 rfl)
  · exact runs_becomes ((go (many 4096) 2#64 rfl rfl ⟨rfl, rfl⟩ entHome (resolve_ok (by decide))).2.2.1 _ (by decide) (by decide) (by change 4096 ≤ (List.replicate 4096 (join0 none 9#64 0)).countP (fun j => j.ld == 0); rw [cnt]) rfl)
  · exact runs_becomes ((go (many 4095) 2#64 rfl rfl ⟨rfl, rfl⟩ entHome (resolve_ok (by decide))).2.2.2 (by decide) (by decide) (by change (List.replicate 4095 (join0 none 9#64 0)).countP (fun j => j.ld == 0) < 4096; rw [cnt]; decide))
  · let s := stPort 1#64 { entHome with loc := 0x20100#64 }
    have el : (s.nameEnt 1#64).loc = 0x20100#64 := by decide
    let rd := agentRead 0#16 kernelRW 2 0x20110#64 16
    let w : List (W64 × List W8) := [(0x20110#64, List.replicate 16 0#8)]
    have := (h s 0 (portReq 0#64 0#16 0#8 0#64 0#64 0#64) 1#64 (.inr rfl) (by decide) rfl).2.1 rfl rfl |>.2 rfl |>.2.2.2 (valOf [] rd s) (endOf rd s) (endOf (w.forM (fun w => kwrite 0#16 w.1 w.2)) (endOf rd s)) (endOf (w.forM (fun w => kwrite 0#16 w.1 w.2)) (endOf rd s)) rfl rfl rfl rfl
    simp only [el] at this
    exact runs_becomes (this (run_end _ rd s (by decide +kernel)) (run_end () (w.forM (fun w => kwrite 0#16 w.1 w.2)) (endOf rd s) (by decide)) rfl trivial)

def stJoin : State := { stPort 1#64 entHome with joins := [join0 none 9#64 1] }
/-- The state in which the record of a join's end is written, and the writes of it. -/
def stJoinEnd : State := { stJoin.setDie 8 { stJoin.die 8 with clk := (stJoin.die 8).clk + BitVec.ofNat 64 (1000 * (join0 none 9#64 1).limit) } with joins := stJoin.joins.filter (· != join0 none 9#64 1) }
def joinWrites : M Unit := [((join0 none 9#64 1).caddr + 8#64, bytes8 0#64), ((join0 none 9#64 1).caddr, bytes4 (join0 none 9#64 1).ticket ++ [6#8] ++ List.replicate 3 0#8)].forM (fun w => kwrite 0#16 w.1 w.2)
theorem join_writes : (joinWrites.run stJoinEnd).toBool = true := by decide
theorem witness_portJoinTimeout (h : Obligations.NamePorts) : Runs (.portJoinTimeout 0 0 7#32) stJoin :=
  runs_becomes ((h stJoin 0 (portReq 0#64 0#16 0#8 0#64 0#64 0#64) 0#64 (.inr rfl) (by decide) rfl).2.2 0 7#32 (join0 none 9#64 1) (endOf joinWrites stJoinEnd) (by decide) (by decide) (run_end () joinWrites stJoinEnd join_writes))

def inv0 (done rsv : W64) : InvCmd := { domain := 255#16, start := 0x20000#64, len := 1#64, done := done, rsv := rsv }
def stInv (f : Ld → Ld) : State := { (stOf grp0 {}).modLd 0 f with stage := 2 }

/-- Each command with an aligned and a misaligned record; a malformed and a sound one at the head; the 31st ATS invalidation, and its completion. -/
theorem witness_invalidations (h : Obligations.Invalidations) : (∀ d ∈ [8#64, 16#64], Runs (.invalidateRange 0 (inv0 d 0#64)) (stInv id) ∧ Runs (.invalidateDomain 0 (inv0 d 0#64)) (stInv id) ∧ Runs (.invalidateAll 0 (inv0 d 0#64)) (stInv id))
    ∧ (∀ b ∈ [true, false], Runs (.invalidationComplete 0) (stInv (fun l => { l with invals := [{ kind := 0, dom := 0#16, start := 0#64, len := 1#64, done := 0x20000#64, bad := b }] })))
    ∧ Runs (.atsInvalidateRequest 0 3#20 0x5000#64 0) (stInv (fun l => { l with atsInvals := List.replicate 31 { pasid := 0#20, page := 0#64, log2 := 12 } }))
    ∧ Runs (.atsInvalidateCompletion 0) (stInv (fun l => { l with atsInvals := [{ pasid := 0#20, page := 0#64, log2 := 12 }] })) := by
  have q (c : InvCmd) := (h (stInv id) 0).1 c (.inr rfl) (by decide)
  have quiet (f : Ld → Ld) : ∀ e ∈ (stInv f).groups, inPlace e.2 = true ∧ (∀ o ∈ e.2.ops, o.ready = true) ∧ (∀ b ∈ e.2.sb, b.acked = 63#6) := by
    intro e he
    rcases List.mem_cons.1 he with rfl | he
    · exact ⟨rfl, fun o ho => (by cases ho), fun o ho => (by cases ho)⟩
    cases he
  have landed (f : Ld → Ld) : ∀ e ∈ (stInv f).groups, inPlace e.2 = true ∧ (∀ o ∈ e.2.ops, o.ready = true) ∧ (∀ b ∈ e.2.sb, b.landed = true) := by
    intro e he
    rcases List.mem_cons.1 he with rfl | he
    · exact ⟨rfl, fun o ho => (by cases ho), fun o ho => (by cases ho)⟩
    cases he
  refine ⟨?_, ?_, ?_, ?_⟩
  · intro d hd
    rcases List.mem_cons.1 hd with rfl | hd
    · exact ⟨runs_becomes ((q (inv0 8#64 0#64) _ (.head _)).1 (by decide)), runs_becomes ((q (inv0 8#64 0#64) _ (.tail _ (.head _))).1 (by decide)), runs_becomes ((q (inv0 8#64 0#64) _ (.tail _ (.tail _ (.head _)))).1 (by decide))⟩
    rcases List.mem_cons.1 hd with rfl | hd
    · exact ⟨runs_becomes ((q (inv0 16#64 0#64) _ (.head _)).2 (by decide)), runs_becomes ((q (inv0 16#64 0#64) _ (.tail _ (.head _))).2 (by decide)), runs_becomes ((q (inv0 16#64 0#64) _ (.tail _ (.tail _ (.head _)))).2 (by decide))⟩
    cases hd
  · intro b hb
    let v (b : Bool) : Inval := { kind := 0, dom := 0#16, start := 0#64, len := 1#64, done := 0x20000#64, bad := b }
    let s (b : Bool) := stInv (fun l => { l with invals := [v b] })
    let u (b : Bool) := (s b).setLd 0 { (s b).ldev 0 with invals := [] }
    let w (k : Nat) : List (W64 × List W8) := [(0x20000#64, bytes8 0#64 ++ toLe 8 k)]
    let k (n : Nat) := (w n).forM (fun w => kwrite 0#16 w.1 w.2)
    rcases List.mem_cons.1 hb with rfl | hb
    · exact runs_becomes (((h (s true) 0).2.1 (v true) [] (endOf (k 1) (u true)) rfl rfl).1 rfl (run_end () (k 1) (u true) (by decide)))
    rcases List.mem_cons.1 hb with rfl | hb
    · exact runs_becomes (((h (s false) 0).2.1 (v false) [] (endOf (k 0) (u false)) rfl rfl).2 rfl rfl (quiet _) (fun c hc => by cases hc) (run_end () (k 0) (u false) (by decide)))
    cases hb
  · exact runs_becomes ((h (stInv (fun l => { l with atsInvals := List.replicate 31 { pasid := 0#20, page := 0#64, log2 := 12 } })) 0).2.2.1 3#20 0x5000#64 0 (by decide))
  · exact runs_becomes ((h (stInv (fun l => { l with atsInvals := [{ pasid := 0#20, page := 0#64, log2 := 12 }] })) 0).2.2.2 _ [] rfl (landed _))

/-! ### States whose first pages are cached -/

/-- The entry of the page that maps the first 2^27 bytes of domain 0. -/
def widePage : TlbEnt := { ld := 0, dom := 0#16, va := 0, level := 2, pte := 0xE3#64 }
/-- The entries that the walk to it goes through. -/
def wideWalks : List TlbEnt := [{ ld := 0, dom := 0#16, va := 0, level := 0, pte := 0x8001#64 }, { ld := 0, dom := 0#16, va := 0, level := 1, pte := 0x10001#64 }]
/-- A state in which domain 0's first 2^27 bytes lie in one cached page. -/
structure Wide (s : State) : Prop where
  dom : ∃ e, s.domain 0#16 = some e ∧ num e 0 8 = 0
  p0 : leNat (rdN s.dmem 0 8) = 0x8001
  p1 : leNat (rdN s.dmem 0x8000 8) = 0x10001
  p2 : leNat (rdN s.dmem 0x10000 8) = 0xE3
  f0 : s.frameOk 0 0 512 = true
  f1 : s.frameOk 0 0x8000 32768 = true
  f2 : s.frameOk 0 0x10000 32768 = true
  f3 : s.frameOk 0 0 134217728 = true
  tlb : s.tlb = [widePage]
  walks : s.walks = wideWalks
  names : ∀ e ∈ s.nameMirror, 0x200000 ≤ e.1
  pend : s.pend = []

theorem Wide.from2 {s : State} (h : Wide s) {va : Nat} (hv : va < 134217728) : s.walkFrom 0 va 2 0x10000 = .ok (0xE3#64, 2) := by
  have b2 : bits va 38 27 = 0 := by unfold bits; omega
  rw [State.walkFrom]
  simp only [Nat.reduceSub, Nat.reduceBEq, Bool.false_eq_true, if_false, if_true, beq_self_eq_true, h.f2, Bool.not_true, b2, Nat.mul_zero, Nat.add_zero, h.p2]
  rfl
theorem Wide.from1 {s : State} (h : Wide s) {va : Nat} (hv : va < 134217728) : s.walkFrom 0 va 3 0x8000 = .ok (0xE3#64, 2) := by
  have b1 : bits va 50 39 = 0 := by unfold bits; omega
  have a2 : bits 0x10001 56 15 * 2 ^ 15 = 0x10000 := by decide
  rw [State.walkFrom]
  simp only [Nat.reduceSub, Nat.reduceBEq, Bool.false_eq_true, if_false, if_true, beq_self_eq_true, h.f1, Bool.not_true, b1, Nat.mul_zero, Nat.add_zero, h.p1, a2, h.from2 hv]
  rfl
theorem Wide.walk {s : State} (h : Wide s) {va : Nat} (hv : va < 134217728) : s.walk 0#16 va = .ok (0xE3#64, 2) := by
  obtain ⟨e, hd, hn⟩ := h.dom
  have b0 : bits va 56 51 = 0 := by unfold bits; omega
  have a1 : bits 0x8001 56 15 * 2 ^ 15 = 0x8000 := by decide
  have c : domLd 0#16 = 0 := by decide
  unfold State.walk
  rw [hd]
  simp only [hn, c]
  rw [State.walkFrom]
  simp only [Nat.reduceSub, beq_self_eq_true, if_true, h.f0, Bool.not_true, Bool.false_eq_true, if_false, b0, Nat.mul_zero, Nat.add_zero, h.p0, a1, h.from1 hv]
  rfl
theorem Wide.path {s : State} (h : Wide s) {va : Nat} (hv : va < 134217728) : s.walkPath 0#16 va 4 0 = wideWalks := by
  have b0 : bits va 56 51 = 0 := by unfold bits; omega
  have b1 : bits va 50 39 = 0 := by unfold bits; omega
  have b2 : bits va 38 27 = 0 := by unfold bits; omega
  have a1 : bits 0x8001 56 15 * 2 ^ 15 = 0x8000 := by decide
  have a2 : bits 0x10001 56 15 * 2 ^ 15 = 0x10000 := by decide
  have a3 : (bits 0xE3 1 0 != 1) = true := by decide
  have a4 : (bits 0x8001 1 0 != 1) = false := by decide
  have a5 : (bits 0x10001 1 0 != 1) = false := by decide
  have e0 : TlbEnt.of 0#16 va 0 (n64 0x8001) = { ld := 0, dom := 0#16, va := 0, level := 0, pte := 0x8001#64 } := by
    simp [TlbEnt.of, entBits, n64, domLd]; omega
  have e1 : TlbEnt.of 0#16 va 1 (n64 0x10001) = { ld := 0, dom := 0#16, va := 0, level := 1, pte := 0x10001#64 } := by
    simp [TlbEnt.of, entBits, leafBits, n64, domLd]; omega
  rw [State.walkPath]
  simp only [Nat.reduceSub, Nat.reduceBEq, beq_self_eq_true, if_true, b0, Nat.mul_zero, Nat.add_zero, h.p0, a1, a4, e0, Bool.false_or, Bool.false_eq_true, if_false]
  rw [State.walkPath]
  simp only [Nat.reduceSub, Nat.reduceBEq, beq_self_eq_true, if_true, b1, Nat.mul_zero, Nat.add_zero, h.p1, a2, a5, e1, Bool.false_or, Bool.false_eq_true, if_false]
  rw [State.walkPath]
  simp only [Nat.reduceSub, Nat.reduceBEq, if_true, b2, Nat.mul_zero, Nat.add_zero, h.p2, a3, Bool.or_true, Bool.false_eq_true, if_false]
  rfl
theorem wide_leaf {va : Nat} (hv : va < 134217728) : TlbEnt.of 0#16 va 2 0xE3#64 = widePage := by
  simp [TlbEnt.of, entBits, leafBits, widePage, domLd]
  omega
/-- The caches hold all that the access would put there. -/
theorem Wide.cached {s : State} (h : Wide s) {va : Nat} (hv : va < 134217728) : s.cacheLeaf 0#16 va 0xE3#64 2 = s := by
  obtain ⟨e, hd, hn⟩ := h.dom
  have h1 : s.tlb.contains widePage = true := by rw [h.tlb]; decide
  have h2 : wideWalks.filter (fun e => !s.walks.contains e) = [] := by rw [h.walks]; decide
  have h3 : (bits (0xE3#64 : W64).toNat 4 2 == 3) = false := by decide
  unfold State.cacheLeaf
  simp only [wide_leaf hv, h1, if_true, hd, h.walk hv, hn, h.path hv, h2, List.append_nil, h3, Bool.false_and, Bool.false_eq_true, if_false]
theorem Wide.alts {s : State} (h : Wide s) {va : Nat} (hv : va < 134217728) : (s.leafAlts 0#16 va).filter (fun r => !sameWalk r (.ok (0xE3#64, 2))) = [] := by
  have hw (e : TlbEnt) (n a : Nat) (he : e ∈ wideWalks) : s.walkFrom (domLd 0#16) va (3 - e.level) (bits e.pte.toNat 56 15 * 2 ^ 15) = .ok (0xE3#64, 2) := by
    rcases List.mem_pair.1 he with rfl | rfl
    · exact h.from1 hv
    · exact h.from2 hv
  rw [List.filter_eq_nil_iff]
  intro r hr
  unfold State.leafAlts at hr
  rw [h.tlb, h.walks] at hr
  rcases List.mem_append.1 hr with hr | hr
  · obtain ⟨e, he, rfl⟩ := List.mem_map.1 hr
    rw [List.mem_singleton.1 (List.mem_filter.1 he).1]
    decide
  · obtain ⟨e, he, rfl⟩ := List.mem_map.1 hr
    rw [hw e 0 0 (List.mem_filter.1 he).1]
    decide

theorem Wide.at {s : State} (h : Wide s) {va : W64} (n : Need) (hv : va.toNat < 134217728) : ∃ u, (agentAt 0#16 va n).run s = .ok ((.dev va.toNat, u), s) := by
  have hl : (leafFor 0#16 va.toNat).run s = .ok (.ok (0xE3#64, 2), s) := by
    unfold leafFor
    simp [StateT.run, bind, StateT.bind, get, getThe, MonadStateOf.get, StateT.get, h.walk hv, h.alts hv, pure, StateT.pure, Except.bind, Except.pure, modify, modifyGet, MonadStateOf.modifyGet, StateT.modifyGet, h.cached hv]
  have hc : domLd 0#16 = 0 := by decide
  have hca : canonical va = true := by
    have e1 : wbits va 63 57 = 0 := by unfold wbits bits; omega
    have e2 : va.getLsbD 56 = false := Nat.testBit_lt_two_pow (show va.toNat < 2 ^ 56 by omega)
    unfold canonical
    rw [e1, e2]
    rfl
  have ht : ∃ u, (Machine.trans 0#16 va n).run s = .ok (.ok (.dev va.toNat) u, s) := by
    refine ⟨{ ld := domLd 0#16, dom := 0#16, va := va.toNat, pasid := none, page := 0 }, ?_⟩
    unfold Machine.trans
    rw [StateT.run_bind, hl]
    have hm : va.toNat % 134217728 = va.toNat := Nat.mod_eq_of_lt hv
    simp [StateT.run, bind, StateT.bind, get, getThe, MonadStateOf.get, StateT.get, pure, StateT.pure, Except.bind, Except.pure, bits, leafBits, hc, h.f3, hm]
  obtain ⟨u, hu⟩ := ht
  refine ⟨u, ?_⟩
  unfold agentAt
  have h2 : ¬ (0xFFFFFF0000000000 ≤ va.toNat) := by omega
  simp only [hca, h2, decide_false, Bool.not_true, Bool.or_self, Bool.false_eq_true, if_false]
  rw [StateT.run_bind, hu]
  rfl

theorem Wide.targets {s : State} (h : Wide s) (fuel : Nat) (va : W64) (bs : List W8) (hv : va.toNat + bs.length ≤ 134217728) :
    ∃ ws, (agentTargets 0#16 kernelW fuel va bs).run s = .ok (ws, s) ∧ ∀ w ∈ ws, ∃ a, w.1 = .dev a ∧ va.toNat ≤ a ∧ a + w.2.length ≤ va.toNat + bs.length := by
  induction fuel generalizing va bs with
  | zero => exact ⟨[], rfl, fun w hw => by cases hw⟩
  | succ n ih =>
    unfold agentTargets
    cases bs with
    | nil => exact ⟨[], rfl, fun w hw => by cases hw⟩
    | cons b bs =>
      have hlt : va.toNat < 134217728 := by simp at hv; omega
      obtain ⟨u, hu⟩ := h.at kernelW hlt
      have hk : pageRun va (b :: bs).length ≤ (b :: bs).length := Nat.min_le_left _ _
      have hl : ((b :: bs).drop (pageRun va (b :: bs).length)).length = (b :: bs).length - pageRun va (b :: bs).length := List.length_drop
      have hs : (va + n64 (pageRun va (b :: bs).length)).toNat = va.toNat + pageRun va (b :: bs).length := by
        simp only [n64, BitVec.toNat_add, BitVec.toNat_ofNat]; omega
      obtain ⟨ws, hw, ha⟩ := ih (va + n64 (pageRun va (b :: bs).length)) ((b :: bs).drop (pageRun va (b :: bs).length)) (by omega)
      refine ⟨(.dev va.toNat, (b :: bs).take (pageRun va (b :: bs).length)) :: ws, ?_, ?_⟩
      · simp only [List.isEmpty_cons, Bool.false_eq_true, if_false]
        rw [StateT.run_bind, hu]
        change (StateT.run (agentTargets 0#16 kernelW n (va + n64 (pageRun va (b :: bs).length)) ((b :: bs).drop (pageRun va (b :: bs).length)) >>= fun r => pure ((.dev va.toNat, (b :: bs).take (pageRun va (b :: bs).length)) :: r)) s) = _
        rw [StateT.run_bind, hw]
        rfl
      · intro w hm
        rcases List.mem_cons.1 hm with rfl | hm
        · exact ⟨_, rfl, Nat.le_refl _, by rw [List.length_take]; omega⟩
        · obtain ⟨a, h1, h2, h3⟩ := ha w hm
          exact ⟨a, h1, by omega, by omega⟩

theorem rdN_below (m : Mem) (a c n : Nat) (bs : List W8) (h : c + n ≤ a) : rdN (wrN m a bs) c n = rdN m c n := by
  induction n generalizing c with
  | zero => rfl
  | succ n ih => rw [rdN, rdN, rd_wrN_outside bs m a c (.inl (by omega)), ih (c + 1) (by omega)]

theorem Wide.put {s : State} (h : Wide s) (a : Nat) (bs : List W8) (ha : 0x10008 ≤ a) : Wide { s with dmem := wrN s.dmem a bs } :=
  ⟨h.dom, by rw [rdN_below _ _ _ _ _ (by omega)]; exact h.p0, by rw [rdN_below _ _ _ _ _ (by omega)]; exact h.p1, by rw [rdN_below _ _ _ _ _ (by omega)]; exact h.p2, h.f0, h.f1, h.f2, h.f3, h.tlb, h.walks, h.names, h.pend⟩

theorem Wide.devPut {s : State} (h : Wide s) {a : Nat} {bs : List W8} (h3 : a + bs.length ≤ 0x200000) : s.devPut a bs = { s with dmem := wrN s.dmem a bs } := by
  have : s.nameMirror.filter (fun (e : Nat × Nat) => rangesMeet e.1 16 a bs.length) = [] := by
    rw [List.filter_eq_nil_iff]
    intro e he
    have := h.names e he
    simp only [rangesMeet, Bool.and_eq_true, decide_eq_true_eq]
    omega
  simp only [State.devPut, State.touchedNames]
  rw [this]
  rfl

theorem Wide.puts {s : State} (h : Wide s) (ws : List (Target × List W8)) (ha : ∀ w ∈ ws, ∃ a, w.1 = .dev a ∧ 0x10008 ≤ a ∧ a + w.2.length ≤ 0x200000) : Wide (s.writeAll ws) := by
  induction ws generalizing s with
  | nil => exact h
  | cons w ws ih =>
    obtain ⟨t, bs⟩ := w
    obtain ⟨a, rfl, h2, h3⟩ := ha _ (.head _)
    refine ih ?_ (fun w hw => ha w (.tail _ hw))
    change Wide (s.devPut a bs)
    rw [h.devPut h3]
    exact h.put a bs h2

theorem Wide.write {s : State} (h : Wide s) (va : W64) (bs : List W8) (hv : va.toNat + bs.length ≤ 0x200000) (ha : 0x10008 ≤ va.toNat) : ∃ t, (kwrite 0#16 va bs).run s = .ok ((), t) ∧ Wide t := by
  obtain ⟨ws, hw, hb⟩ := h.targets (bs.length / 4096 + 2) va bs (by omega)
  exact ⟨s.writeAll ws, by unfold kwrite; rw [StateT.run_bind, hw]; rfl, h.puts ws (fun w hm => (hb w hm).elim fun a k => ⟨a, k.1, Nat.le_trans ha k.2.1, Nat.le_trans k.2.2 hv⟩)⟩

theorem Wide.recorded {s : State} (h : Wide s) (ws : List (W64 × List W8)) (hv : ∀ w ∈ ws, w.1.toNat + w.2.length ≤ 0x200000 ∧ 0x10008 ≤ w.1.toNat) : ∃ u, Recorded s 0#16 ws u ∧ Wide u := by
  induction ws generalizing s with
  | nil => exact ⟨s, rfl, h⟩
  | cons w ws ih =>
    obtain ⟨t, ht, hw⟩ := h.write w.1 w.2 (hv w (.head _)).1 (hv w (.head _)).2
    obtain ⟨u, hu, hk⟩ := ih hw (fun w hm => hv w (.tail _ hm))
    refine ⟨u, ?_, hk⟩
    change ((kwrite 0#16 w.1 w.2) >>= fun _ => (ws.forM (fun w => kwrite 0#16 w.1 w.2) : M Unit)).run s = _
    rw [StateT.run_bind, ht]
    exact hu

theorem Wide.keep {s t : State} (h : Wide s) (hd : t.dmem = s.dmem) (hl : t.lds = s.lds) (hs : ∀ d, (t.die d).fwctl = (s.die d).fwctl) (ht : t.tlb = s.tlb) (hw : t.walks = s.walks) (hm : t.nameMirror = s.nameMirror) (hp : t.pend = s.pend) : Wide t := by
  have e0 (d : W16) : t.domEntry d = s.domEntry d := by unfold State.domEntry State.ldev; rw [hl]
  have e1 (d : W16) : t.domain d = s.domain d := by unfold State.domain; rw [e0]
  have e2 (a b c : Nat) : t.frameOk a b c = s.frameOk a b c := by simp only [State.frameOk, State.stackLd, hs]
  exact ⟨by rw [e1]; exact h.dom, by rw [hd]; exact h.p0, by rw [hd]; exact h.p1, by rw [hd]; exact h.p2, by rw [e2]; exact h.f0, by rw [e2]; exact h.f1, by rw [e2]; exact h.f2, by rw [e2]; exact h.f3, by rw [ht]; exact h.tlb, by rw [hw]; exact h.walks, by rw [hm]; exact h.names, by rw [hp]; exact h.pend⟩

theorem Wide.agentRead {s : State} (h : Wide s) {va : W64} {n f : Nat} {need : Need} (hv : va.toNat < 134217728) (hn : 0 < n) (hp : va.toNat % 4096 + n ≤ 4096) :
    (Machine.agentRead 0#16 need (f + 2) va n).run s = .ok (rdN s.dmem va.toNat n, s) := by
  obtain ⟨u, hu⟩ := h.at need hv
  have hk : pageRun va n = n := Nat.min_eq_left (by omega)
  have e0 : (n == 0) = false := by simp; omega
  simp only [Machine.agentRead, e0, hk, Bool.false_eq_true, if_false]
  rw [StateT.run_bind, hu]
  simp only [Nat.sub_self, beq_self_eq_true, if_true]
  change Except.ok (rdN s.dmem va.toNat n ++ [], s) = _
  rw [List.append_nil]
theorem Wide.read {s : State} (h : Wide s) {va : W64} {n : Nat} (hv : va.toNat < 134217728) (hn : 0 < n) (hp : va.toNat % 4096 + n ≤ 4096) :
    (kread 0#16 va n).run s = .ok (rdN s.dmem va.toNat n, s) := h.agentRead hv hn hp

/-- A read whose bytes are known, and a write within a page. -/
theorem Wide.reads {s : State} (h : Wide s) {need : Need} {f n : Nat} {va : W64} {bs : List W8} (hv : va.toNat < 134217728) (hn : 0 < n) (hp : va.toNat % 4096 + n ≤ 4096) (e : rdN s.dmem va.toNat n = bs) :
    (Machine.agentRead 0#16 need (f + 2) va n).run s = .ok (bs, s) := by rw [h.agentRead hv hn hp, e]
theorem Wide.target {s : State} (h : Wide s) {need : Need} {f : Nat} {va : W64} {bs : List W8} (hv : va.toNat < 134217728) (hn : 0 < bs.length) (hp : va.toNat % 4096 + bs.length ≤ 4096) :
    (agentTargets 0#16 need (f + 2) va bs).run s = .ok ([(.dev va.toNat, bs)], s) := by
  obtain ⟨u, hu⟩ := h.at need hv
  have hk : pageRun va bs.length = bs.length := Nat.min_eq_left (by omega)
  have e0 : bs.isEmpty = false := by cases bs with | nil => simp at hn | cons _ _ => rfl
  simp only [agentTargets, e0, hk, Bool.false_eq_true, if_false]
  rw [StateT.run_bind, hu]
  simp only [List.drop_length, List.take_length, List.isEmpty_nil, if_true]
  rfl
theorem Wide.puts1 {s : State} (h : Wide s) (va : W64) (bs : List W8) (hv : va.toNat + bs.length ≤ 0x200000) (ha : 0x10008 ≤ va.toNat) (hn : 0 < bs.length) (hp : va.toNat % 4096 + bs.length ≤ 4096) :
    Recorded s 0#16 [(va, bs)] { s with dmem := wrN s.dmem va.toNat bs } ∧ Wide { s with dmem := wrN s.dmem va.toNat bs } := by
  refine ⟨?_, h.put _ _ ha⟩
  change ((kwrite 0#16 va bs) >>= fun _ => (pure () : M Unit)).run s = _
  rw [StateT.run_bind]
  have e : (kwrite 0#16 va bs).run s = .ok ((), s.writeAll [(.dev va.toNat, bs)]) := by
    unfold kwrite
    rw [StateT.run_bind, h.target (by omega) hn hp]
    rfl
  rw [e]
  change Except.ok ((), s.devPut va.toNat bs) = _
  rw [h.devPut hv]

/-! ### Tasks and teams -/

/-- A run that ends in a given value. -/
theorem run_val {α : Type} [DecidableEq α] (d v : α) (x : M α) (s : State) (h : (x.run s).toBool = true) (e : valOf d x s = v) : x.run s = .ok (v, endOf x s) := by
  rw [run_end d x s h, e]

/-- A launch queue's descriptor at 0x20000: two slots from 0x20040. -/
def desc0 : List W8 := gen 64 (fun i => if i = 0 then 0x40#8 else if i = 2 then 2#8 else if i = 8 then 1#8 else 0#8)
/-- A launch packet of the task control block at 0x20100, its kind as given. -/
def slot0 (k : W8) : List W8 := gen 64 (fun i => if i = 0 then k else if i = 9 then 1#8 else if i = 10 then 2#8 else 0#8)
/-- A task of one felt: one group of 16 threads and role 2, floor 4, a budget of 64; PREDS as given. -/
def tcb0 (preds : Nat) : List W8 := gen 256 (fun i => if i = 16 then 1#8 else if i = 24 then 64#8 else if i = 42 then 4#8 else if i = 64 then 0x12#8 else if i = 200 then BitVec.ofNat 8 preds else 0#8)
def queue0 : Queue := { ld := 0, desc := 0x20000#64, dom := 0#16, kind := 0, die := 0, peerAppend := false, peer := none, window := 0, ftime := 10, stalled := false, sites := [] }
def stQueue0 : State := { stOf grp0 {} with stage := 2, queues := [(5, queue0)], nextId := 100, tlb := [widePage], walks := wideWalks }
def stQueue (k : W8) (preds : Nat) : State := { stQueue0 with dmem := wrN (wrN (wrN stQueue0.dmem 0x20000 desc0) 0x20040 (slot0 k)) 0x20100 (tcb0 preds) }
def readDesc : M (List W8) := agentRead 0#16 kernelRW 2 0x20000#64 64
def readSlot : M (List W8) := agentRead 0#16 kernelRW 3 0x20040#64 64
def readTcb : M (List W8) := agentRead 0#16 kernelR 2 0x20100#64 256
def readState : M (List W8) := agentRead 0#16 kernelRW 2 0x201CC#64 4
def writes (ws : List (W64 × List W8)) : M Unit := ws.forM (fun w => kwrite 0#16 w.1 w.2)
def consumed0 : List (W64 × List W8) := [(0x20040#64, [0#8]), (0x20018#64, toLe 8 1)]

theorem wide_queue0 : Wide stQueue0 := ⟨⟨_, rfl, rfl⟩, by decide, by decide, by decide, by decide, by decide, by decide, by decide, rfl, rfl, by decide, rfl⟩
theorem Wide.put3 {s : State} (h : Wide s) (a b c : List W8) : Wide { s with dmem := wrN (wrN (wrN s.dmem 0x20000 a) 0x20040 b) 0x20100 c } :=
  ((h.put 0x20000 a (by decide)).put 0x20040 b (by decide)).put 0x20100 c (by decide)
theorem wide_queue (k : W8) (preds : Nat) : Wide (stQueue k preds) := wide_queue0.put3 desc0 (slot0 k) (tcb0 preds)
theorem Wide.task {s : State} (h : Wide s) (n k : Nat) (t : Task) : Wide ({ s with nextId := n }.setTask k t) := h.keep rfl rfl (fun _ => rfl) rfl rfl rfl rfl
theorem Wide.state {s : State} (h : Wide s) (n k : Nat) (t : Task) (e : rdN s.dmem 0x201CC 4 = List.replicate 4 0#8) : readState.run ({ s with nextId := n }.setTask k t) = .ok (List.replicate 4 0#8, { s with nextId := n }.setTask k t) :=
  (h.task n k t).reads (va := 0x201CC#64) (by decide) (by decide) (by decide) e
theorem rd3 (m : Mem) (a b c : List W8) (ha : a.length = 64) (hb : b.length = 64) : let n := wrN (wrN (wrN m 0x20000 a) 0x20040 b) 0x20100 c
    rdN n 0x20000 64 = a ∧ rdN n 0x20040 64 = b ∧ rdN n 0x20100 c.length = c := by
  refine ⟨?_, ?_, rdN_wrN _ _ _⟩
  · rw [rdN_below _ _ _ _ _ (by decide), rdN_below _ _ _ _ _ (by decide)]
    exact ha ▸ rdN_wrN a m 0x20000
  · rw [rdN_below _ _ _ _ _ (by decide)]
    exact hb ▸ rdN_wrN b _ 0x20040
theorem Wide.reads3 {s : State} (h : Wide s) (a b c : List W8) (ha : a.length = 64) (hb : b.length = 64) (hc : c.length = 256) : let t : State := { s with dmem := wrN (wrN (wrN s.dmem 0x20000 a) 0x20040 b) 0x20100 c }
    readDesc.run t = .ok (a, t) ∧ readSlot.run t = .ok (b, t) ∧ readTcb.run t = .ok (c, t) :=
  ⟨(h.put3 a b c).reads (va := 0x20000#64) (by decide) (by decide) (by decide) (rd3 s.dmem a b c ha hb).1, (h.put3 a b c).reads (va := 0x20040#64) (by decide) (by decide) (by decide) (rd3 s.dmem a b c ha hb).2.1,
    (h.put3 a b c).reads (va := 0x20100#64) (by decide) (by decide) (by decide) (hc ▸ (rd3 s.dmem a b c ha hb).2.2)⟩
theorem queue_reads (k : W8) (preds : Nat) : readDesc.run (stQueue k preds) = .ok (desc0, stQueue k preds) ∧ readSlot.run (stQueue k preds) = .ok (slot0 k, stQueue k preds) ∧ readTcb.run (stQueue k preds) = .ok (tcb0 preds, stQueue k preds) :=
  wide_queue0.reads3 desc0 (slot0 k) (tcb0 preds) rfl (by simp [slot0, gen]) (by simp [tcb0, gen])

theorem run_unit (x : M Unit) (s : State) (h : (x.run s).toBool = true) : x.run s = .ok ((), endOf x s) := run_end () x s h
/-- What follows the reads of the descriptor and the slot, the states between left open. -/
theorem packet_empty (h : Obligations.TasksAndTeams) {s s1 s2 : State} (hq : look s.queues 5 = some queue0) (hs : queueServed s queue0 = true) (h1 : readDesc.run s = .ok (desc0, s1)) (h2 : readSlot.run s1 = .ok (slot0 0#8, s2)) : Runs (.launchPacketConsume 5) s :=
  runs_becomes ((h.1 5 queue0 s s1 s2 desc0 (slot0 0#8) hq hs rfl h1 h2).1 (by decide) (by decide))
theorem packet_bad (h : Obligations.TasksAndTeams) {s s1 s2 t : State} (hq : look s.queues 5 = some queue0) (hs : queueServed s queue0 = true) (h1 : readDesc.run s = .ok (desc0, s1)) (h2 : readSlot.run s1 = .ok (slot0 2#8, s2))
    (h3 : (writes ([(0x20020#64, toLe 4 1), (0x20028#64, toLe 8 1)] ++ consumed0)).run s2 = .ok ((), t)) : Runs (.launchPacketConsume 5) s :=
  runs_becomes ((h.1 5 queue0 s s1 s2 desc0 (slot0 2#8) hq hs rfl h1 h2).2.1 t (by decide) (by decide) (.inl (by decide)) h3)
/-- An empty slot; the least malformed kind. -/
theorem witness_packets (h : Obligations.TasksAndTeams) : Runs (.launchPacketConsume 5) (stQueue 0#8 0) ∧ Runs (.launchPacketConsume 5) (stQueue 2#8 0) := by
  refine ⟨packet_empty h rfl rfl (queue_reads 0#8 0).1 (queue_reads 0#8 0).2.1, ?_⟩
  obtain ⟨t, ht, _⟩ := (wide_queue 2#8 0).recorded ([(0x20020#64, toLe 4 1), (0x20028#64, toLe 8 1)] ++ consumed0) (by decide)
  exact packet_bad h rfl rfl (queue_reads 2#8 0).1 (queue_reads 2#8 0).2.1 ht

/-- The task that the packet launches. -/
def task0 (preds : Nat) : Task := { Task.blank with ld := 0, dom := 0#16, tcbva := 0x20100#64, tcb := Tcb.ofBytes (tcb0 preds), state := 1, prio := 0, ended := false, site := 0#64, seq := 0#64 }
theorem tcb_facts : tcbFaults (tcb0 0) 0#16 = [] ∧ tcbFaults (tcb0 1) 0#16 = [] := by decide +kernel
theorem slot_good : ¬ (leNat ((slot0 1#8).take 1) ≠ 1 ∨ (∃ x ∈ ((slot0 1#8).drop 1).take 7, x ≠ 0#8) ∨ (∃ x ∈ ((slot0 1#8).drop 16).take 48, x ≠ 0#8)) := by decide

/-- What follows the reads of the descriptor and the slot, the states between left open. -/
theorem launch_ready (h : Obligations.TasksAndTeams) {s s1 s2 s3 s4 s5 t : State} (hq : look s.queues 5 = some queue0) (hs : queueServed s queue0 = true) (h1 : readDesc.run s = .ok (desc0, s1)) (h2 : readSlot.run s1 = .ok (slot0 1#8, s2))
    (h3 : readTcb.run s2 = .ok (tcb0 0, s3)) (h4 : readState.run ({ s3 with nextId := s3.nextId + 2 }.setTask s3.nextId { task0 0 with state := 2, arrival := s3.nextId + 1, readyAt := s3.past.length }) = .ok (List.replicate 4 0#8, s4))
    (h5 : (writes [(0x201CC#64, toLe 4 2)]).run s4 = .ok ((), s5)) (h6 : (writes consumed0).run s5 = .ok ((), t)) : Runs (.launchPacketConsume 5) s :=
  runs_becomes ((h.1 5 queue0 s s1 s2 desc0 (slot0 1#8) hq hs rfl h1 h2).2.2 (tcb0 0) (List.replicate 4 0#8) s3 s4 s5 t (by decide) slot_good h3 (by decide) (by decide) tcb_facts.1 h4 h5 rfl h6)
theorem launch_waiting (h : Obligations.TasksAndTeams) {s s1 s2 s3 s4 s5 t : State} (hq : look s.queues 5 = some queue0) (hs : queueServed s queue0 = true) (h1 : readDesc.run s = .ok (desc0, s1)) (h2 : readSlot.run s1 = .ok (slot0 1#8, s2))
    (h3 : readTcb.run s2 = .ok (tcb0 1, s3)) (h4 : readState.run ({ s3 with nextId := s3.nextId + 1 }.setTask s3.nextId (task0 1)) = .ok (List.replicate 4 0#8, s4))
    (h5 : (writes [(0x201CC#64, toLe 4 1)]).run s4 = .ok ((), s5)) (h6 : (writes consumed0).run s5 = .ok ((), t)) : Runs (.launchPacketConsume 5) s :=
  runs_becomes ((h.1 5 queue0 s s1 s2 desc0 (slot0 1#8) hq hs rfl h1 h2).2.2 (tcb0 1) (List.replicate 4 0#8) s3 s4 s5 t (by decide) slot_good h3 (by decide) (by decide) tcb_facts.2 h4 h5 rfl h6)

/-- PREDS 0, and 1. -/
theorem witness_launches (h : Obligations.TasksAndTeams) : Runs (.launchPacketConsume 5) (stQueue 1#8 0) ∧ Runs (.launchPacketConsume 5) (stQueue 1#8 1) := by
  have w (preds n : Nat) (tk : Task) : Wide ({ stQueue 1#8 preds with nextId := n }.setTask 100 tk) := (wide_queue 1#8 preds).task n 100 tk
  constructor
  · obtain ⟨s5, h5, w5⟩ := (w 0 102 { task0 0 with state := 2, arrival := 101, readyAt := 0 }).recorded [(0x201CC#64, toLe 4 2)] (by decide)
    obtain ⟨t, h6, _⟩ := w5.recorded consumed0 (by decide)
    exact launch_ready h rfl rfl (queue_reads _ _).1 (queue_reads _ _).2.1 (queue_reads _ 0).2.2 ((wide_queue 1#8 0).state 102 100 _ (by decide +kernel)) h5 h6
  · obtain ⟨s5, h5, w5⟩ := (w 1 101 (task0 1)).recorded [(0x201CC#64, toLe 4 1)] (by decide)
    obtain ⟨t, h6, _⟩ := w5.recorded consumed0 (by decide)
    exact launch_waiting h rfl rfl (queue_reads _ _).1 (queue_reads _ _).2.1 (queue_reads _ 1).2.2 ((wide_queue 1#8 1).state 101 100 _ (by decide +kernel)) h5 h6

/-- A team of one ended group, alone on its felt and beside another; a task whose one team has retired. -/
def stEnd (more : Bool) : State :=
  { stOf { grp0 with place := .exited } {} with
    teams := [(0, { Team.blank with resident := true, retired := false, gids := [0] }), (1, { Team.blank with retired := false })]
    felts := [(0, { Felt.blank with teams := if more then [0, 1] else [0] })], tasks := [(0, { task0 0 with state := 3 })] }
def stRetire : State := let s := stQueue 1#8 0; { s with tasks := [(7, { task0 0 with state := 3, retired := 1 })] }
def atRetire : State := stRetire.setTask 7 { task0 0 with retired := 1, state := 4, ended := true }
def readSucc : M (List W8) := agentRead 0#16 kernelR 2 0x20180#64 72

/-- What follows the task's retirement, the states between left open. -/
theorem retires (h : Obligations.TasksAndTeams) {s s1 s2 s4 : State} (hk : look s.tasks 7 = some { task0 0 with state := 3, retired := 1 }) (ht : ∀ u ∈ [s, s4], (u.ldev 0).trace = none)
    (o : readState.run (s.setTask 7 { task0 0 with retired := 1, state := 4, ended := true }) = .ok (List.replicate 4 0#8, s1)) (a : Recorded s1 0#16 [(0x201CC#64, toLe 4 4)] s2)
    (e : readSucc.run s2 = .ok (List.replicate 72 0#8, s4)) : Runs (.taskRetire 7) s :=
  runs_becomes (h.2.2 7 { task0 0 with state := 3, retired := 1 } s s1 s2 s2 s4 (List.replicate 4 0#8) _ hk (.inr rfl) rfl (by decide) rfl rfl ht o rfl a rfl e rfl)

theorem witness_teamEnd (h : Obligations.TasksAndTeams) : (∀ b, Runs (.teamRetire 0) (stEnd b)) ∧ Runs (.taskRetire 7) stRetire := by
  constructor
  · intro b
    have q := h.2.1 0 { Team.blank with resident := true, retired := false, gids := [0] } (stEnd b) rfl rfl (fun e => by cases e) rfl rfl (fun g hg => by
      rcases List.mem_cons.1 hg with rfl | hg
      · exact ⟨rfl, rfl, fun e he => by cases he⟩
      cases hg) (fun c hc => by cases hc)
    cases b with
    | false => exact runs_becomes (q.1 (fun t ht => by
        rcases List.mem_cons.1 ht with rfl | ht
        · exact .inl rfl
        cases ht))
    | true => exact runs_becomes (q.2 ⟨1, .tail _ (.head _), by decide, rfl⟩)
  · have w : Wide atRetire := (wide_queue 1#8 0).keep rfl rfl (fun _ => rfl) rfl rfl rfl rfl
    have o : readState.run atRetire = .ok (List.replicate 4 0#8, atRetire) := w.reads (va := 0x201CC#64) (by decide) (by decide) (by decide) (by decide +kernel)
    obtain ⟨a, wu⟩ := w.puts1 0x201CC#64 (toLe 4 4) (by decide) (by decide) (by decide) (by decide)
    have e := wu.reads (need := kernelR) (f := 0) (n := 72) (bs := List.replicate 72 0#8) (va := 0x20180#64) (by decide) (by decide) (by decide) (by decide +kernel)
    exact retires h rfl (fun v hv => by
      rcases List.mem_cons.1 hv with rfl | hv
      · rfl
      rcases List.mem_cons.1 hv with rfl | hv
      · rfl
      cases hv) o a e

/-! ### Placement: records of any length -/

theorem recordSize_le (x : Group) : recordSize x ≤ 262144 := by
  have h1 := Nat.mod_lt (Config.recordUnits x.w x.trees.length) (show 0 < 1021 by omega)
  have h2 := Nat.mod_lt (Config.recordUnits x.w x.trees.length) (show 0 < 4093 by omega)
  unfold recordSize
  cases (x.w == 16 && x.trees.isEmpty)
  · change 256 + 64 * (Config.recordUnits x.w x.trees.length % 4093) ≤ _; omega
  · change 256 + 64 * (Config.recordUnits x.w x.trees.length % 1021) ≤ _; omega

/-- A computation that ends. -/
def Ends {α : Type} (x : M α) (s : State) : Prop := ∃ a t, x.run s = .ok (a, t)
theorem ends_bind {α β : Type} {x : M α} {k : α → M β} {s : State} (h : ∃ a t, x.run s = .ok (a, t) ∧ Ends (k a) t) : Ends (x >>= k) s := by
  obtain ⟨a, t, hx, b, u, hk⟩ := h
  exact ⟨b, u, by rw [StateT.run_bind, hx]; exact hk⟩

theorem ends_bind_of {α β : Type} {x : M α} {k : α → M β} {s : State} (h : Ends x s) (hk : ∀ a t, Ends (k a) t) : Ends (x >>= k) s :=
  h.elim fun a h => h.elim fun t h => ends_bind ⟨a, t, h, hk a t⟩

theorem ends_writeRecord {s : State} (h : Wide s) (g : Nat) (hl : (s.grp g).ld = 0) (hc : (s.grp g).ctxrec.toNat + 262144 ≤ 0x200000) (ha : 0x10008 ≤ (s.grp g).ctxrec.toNat) : Ends (writeRecord g) s := by
  unfold writeRecord
  refine ends_bind ⟨s, s, rfl, ends_bind ⟨(), _, rfl, ?_⟩⟩
  have hd : domBase (s.grp g).ld = 0#16 := by rw [hl]; rfl
  rw [hd]
  have hw : Wide { s with fresh := s.fresh + recordSize (s.grp g) } := ⟨h.dom, h.p0, h.p1, h.p2, h.f0, h.f1, h.f2, h.f3, h.tlb, h.walks, h.names, h.pend⟩
  have hr := recordSize_le (s.grp g)
  obtain ⟨t, ht, _⟩ := hw.write (s.grp g).ctxrec (recordHead s (s.grp g) ++ gen (recordSize (s.grp g) - 256) (fun i => (Config.freeWord (s.fresh + i)).setWidth 8)) (by
    rw [List.length_append]
    have : (recordHead s (s.grp g)).length = 256 := by
      have h8 (w : W64) : (bytes8 w).length = 8 := rfl
      have hg : ((List.range 16).flatMap (fun n => bytes8 ((look (s.grp g).sval (144 + n)).getD 0#64))).length = 128 := by
        simp only [List.length_flatMap, h8]
        rfl
      unfold recordHead
      simp only [List.length_append, List.length_replicate, h8, hg]
      rfl
    have : (gen (recordSize (s.grp g) - 256) (fun i => ((Config.freeWord (s.fresh + i)).setWidth 8 : W8))).length = recordSize (s.grp g) - 256 := by simp [gen]
    omega) ha
  exact ends_bind ⟨(), t, ht, (), _, rfl⟩

/-- A group that stops while another of its team stays. -/
def stSave : State :=
  let x : Group := { grp0 with stopping := true, ctxrec := 0x30000#64 }
  { stOf x {} with groups := [(0, x), (1, { grp0 with slot := 1 })], teams := [(0, { Team.blank with resident := true, retired := false, gids := [1, 0] })], tlb := [widePage], walks := wideWalks }
theorem wide_save : Wide stSave := ⟨⟨_, rfl, rfl⟩, by decide, by decide, by decide, by decide, by decide, by decide, by decide, rfl, rfl, by decide, rfl⟩

theorem ends_save : Ends (saveNow 0) stSave := by
  unfold saveNow
  refine ends_bind ⟨(), _, rfl, ends_bind ⟨_, _, rfl, ends_bind ⟨_, _, rfl, ends_bind ⟨(), _, rfl, ends_bind ⟨_, _, rfl, ?_⟩⟩⟩⟩⟩
  extract_lets m last
  have hl : last = false := rfl
  rw [hl, if_neg (by decide)]
  refine ends_bind ⟨(), _, rfl, ends_bind_of ?_ (fun _ _ => ⟨(), _, rfl⟩)⟩
  refine ends_writeRecord ?_ 0 ?_ ?_ ?_
  · refine wide_save.keep ?_ ?_ ?_ ?_ ?_ ?_ ?_
    · rfl
    · rfl
    · exact fun _ => rfl
    · rfl
    · rfl
    · rfl
    · rfl
  · rfl
  · decide
  · decide

/-! ### Placement -/

/-- One task of state `st` that waits for its felt on the three cores of its device, their die joined or not. -/
def stPlace (st : Nat) (up : Bool) : State :=
  let s := stQueue 1#8 0
  let s := s.modLd 0 (fun l => { l with slice := [0, 1, 2] })
  let s := s.setDie 0 { s.die 0 with up := up }
  { s with groups := [], runs := [], focus := none, tasks := [(9, { task0 0 with state := st })], teams := [(5, { Team.blank with task := 9 })] }
def placed (st : Nat) : State := ((stPlace st true).nextFeltPlaced 9).getD State.reset
theorem placed_ok (st : Nat) (h : ((stPlace st true).nextFeltPlaced 9).isSome = true) : (stPlace st true).nextFeltPlaced 9 = some (placed st) := by
  unfold placed
  cases e : (stPlace st true).nextFeltPlaced 9 with
  | none => rw [e] at h; cases h
  | some u => rfl
/-- The state in which a task that was READY is marked RUNNING. -/
def atRunning : State :=
  { placed 2 with nextId := (placed 2).nextId + 1 }.setTask 9 { (placed 2).task 9 with arrival := (placed 2).nextId }

theorem still_ready : ((placed 2).task 9).state = 2 ∧ ((placed 2).task 9).placed = true := by decide
theorem still_running : ((placed 3).task 9).state = 3 := by decide

/-- What follows the placement, the states between left open. -/
theorem felt_of_ready (h : Obligations.Placement) {s u s1 t : State} (hp : s.placing 0 = true) (hw : ∀ e ∈ s.tasks, e.2.ld = 0 → e.2.state ≠ 1 ∨ e.2.ended = true) (hd : s.drainers = []) (he : ∀ e ∈ s.groups, eligible s e.2 = false)
    (ht : s.waitingTasks 0 = [9]) (ha : (s.task 9).again = []) (hf : feltLeft (s.task 9) = true) (hu : s.nextFeltPlaced 9 = some u) (hv : u.drainers = []) (hx : u.reclaims = []) (h2 : (u.task 9).state = 2) (h3 : (u.task 9).placed = true)
    (ho : (agentRead (u.task 9).dom kernelRW 2 ((u.task 9).tcbva + 204#64) 4).run (({ u with nextId := u.nextId + 1 }.setTask 9 { u.task 9 with arrival := u.nextId }).setTask 9 { u.task 9 with arrival := u.nextId, state := 3 }) = .ok (List.replicate 4 0#8, s1))
    (hr : Recorded s1 (u.task 9).dom [((u.task 9).tcbva + 204#64, toLe 4 3)] t) : Runs (.feltPlacement 0) s :=
  runs_becomes ((h.1 0 9 s u hp hw hd he ht ha hf hu hv hx).2 (List.replicate 4 0#8) s1 t h2 h3 rfl ho hr)

theorem witness_feltPlacement (h : Obligations.Placement) : Runs (.feltPlacement 0) (stPlace 3 true) ∧ Runs (.feltPlacement 0) (stPlace 2 true) := by
  have w (st : Nat) (hs : st ≠ 1) : ∀ e ∈ (stPlace st true).tasks, e.2.ld = 0 → e.2.state ≠ 1 ∨ e.2.ended = true := by
    intro e he _
    rcases List.mem_cons.1 he with rfl | he
    · exact .inl hs
    cases he
  constructor
  · exact runs_becomes ((h.1 0 9 (stPlace 3 true) (placed 3) (by decide) (w 3 (by decide)) rfl (fun e he => by cases he) (by decide) rfl (by decide) (placed_ok 3 (by decide +kernel)) (by decide +kernel) (by decide +kernel)).1 still_running)
  · exact felt_of_ready h (by decide) (w 2 (by decide)) rfl (fun e he => by cases he) (by decide) rfl (by decide) (placed_ok 2 (by decide +kernel)) (by decide +kernel) (by decide +kernel) still_ready.1 still_ready.2
      (run_val [] _ _ _ (by decide +kernel) (by decide +kernel)) (run_unit _ _ (by decide +kernel))

def opened : State := ((stPlace 3 true).openTeam 9 5 0).getD State.reset
theorem opened_ok : (stPlace 3 true).openTeam 9 5 0 = some opened := by
  have h : ((stPlace 3 true).openTeam 9 5 0).isSome = true := by decide
  unfold opened
  cases e : (stPlace 3 true).openTeam 9 5 0 with
  | none => rw [e] at h; cases h
  | some u => rfl

/-- The one group of a team that opens; a drain limit with a core to clear, and with none. -/
theorem witness_openAndDrain (h : Obligations.Placement) : (opened.grp 100).floor = 4 ∧ (opened.grp 100).pcs = List.replicate 16 0#64 ∧ Runs (.drainLimit 9) (stPlace 3 true) ∧ Runs (.drainLimit 9) (stPlace 3 false) := by
  have q := h.2.1 (stPlace 3 true) opened 9 5 0 opened_ok 0 (by decide)
  have d (b : Bool) := h.2.2.1 (stPlace 3 b) 9 rfl (by cases b <;> decide) rfl
  exact ⟨q.2.2.2.2.1, q.2.2.2.2.2.2.2.2.1, runs_becomes ((d true).2 0 0 (by decide)), runs_becomes ((d false).1 (by decide))⟩

/-- A saved group of a team that holds its core, its record empty. -/
def stBack : State :=
  let x : Group := { grp0 with place := .saved, team := 0, task := 9, floor := 4 }
  { stPlace 3 true with groups := [(0, x)], teams := [(0, { Team.blank with resident := true, retired := false, gids := [0], task := 9 })], felts := [(0, { Felt.blank with teams := [0] })] }
def returned : State × List Nat := (stBack.returnGroup 0).getD (State.reset, [])
theorem returned_ok : stBack.returnGroup 0 = some returned := by
  have h : (stBack.returnGroup 0).isSome = true := by decide
  unfold returned
  cases e : stBack.returnGroup 0 with
  | none => rw [e] at h; cases h
  | some u => rfl

/-- A group of name 1 suspended for the host, its name's entry as given; the pool holds nothing, or `n` bytes. -/
def stPark (n : Nat) (e : NameEnt) : State :=
  let x : Group := grpWait (.xlat [missR] 0)
  let s := (stNames x e).modLd 0 (fun l => { l with ctxBase := 0x30000#64, ctxLen := n })
  { s with stage := 2, groups := [(0, { x with name := 1#64 }), (1, { grp0 with slot := 1 })], teams := [(0, { Team.blank with resident := true, retired := false, gids := [1, 0] })] }

theorem recordSize_pos (x : Group) : 256 ≤ recordSize x := by unfold recordSize; exact Nat.le_add_right _ _
theorem gap_none {n : Nat} (h : 256 ≤ n) : gap n 0 [] = none := by
  have h0 : (n == 0) = false := by simp; omega
  have : sortN [0] = [0] := rfl
  simp only [gap, h0, List.map_nil, this, List.find?, Bool.false_eq_true, if_false]
  have : decide (0 + n ≤ 0) = false := by simp; omega
  rw [this]
  rfl
theorem gap_first {n lim : Nat} (h : n ≤ lim) : gap n lim [] = some 0 := by
  unfold gap
  split
  · rfl
  · have : sortN [0] = [0] := rfl
    simp only [List.map_nil, this, List.find?, List.all_nil, Bool.and_true, Nat.zero_add]
    rw [decide_eq_true h]

theorem park_none : (stPark 0 entHome).preemptGroups [0] = none := by
  have hr : (stPark 0 entHome).reserve 0 (recordSize ((stPark 0 entHome).grp 0)) = none := by
    unfold State.reserve
    have : gap (recordSize ((stPark 0 entHome).grp 0)) ((stPark 0 entHome).ldev 0).ctxLen ((stPark 0 entHome).ldev 0).ctxUsed = none := gap_none (recordSize_pos _)
    simp only [this]
  have hg : (stPark 0 entHome).reserveGroups [0] = none := by
    unfold State.reserveGroups
    have e : ((stPark 0 entHome).grp 0).ld = 0 := rfl
    simp only [e, hr]
  unfold State.preemptGroups
  have hs : (([0] : List Nat).filter (fun g => resident ((stPark 0 entHome).grp g) && !((stPark 0 entHome).grp g).stopping && ((stPark 0 entHome).grp g).mill.isNone)).dedup = [0] := by decide
  simp only [hs, hg]

theorem park_some : ∃ u, (stPark 262144 entHome).preemptGroups [0] = some u ∧ alive (u.grp 0) = true ∧ u.pend = [] := by
  have hr : (stPark 262144 entHome).reserve 0 (recordSize ((stPark 262144 entHome).grp 0))
      = some (0x30000#64, (stPark 262144 entHome).modLd 0 (fun l => { l with ctxUsed := l.ctxUsed ++ [(0, recordSize ((stPark 262144 entHome).grp 0))] })) := by
    unfold State.reserve
    have : gap (recordSize ((stPark 262144 entHome).grp 0)) ((stPark 262144 entHome).ldev 0).ctxLen ((stPark 262144 entHome).ldev 0).ctxUsed = some 0 := gap_first (recordSize_le _)
    simp only [this]
    rfl
  have e : ((stPark 262144 entHome).grp 0).ld = 0 := rfl
  have hs : (([0] : List Nat).filter (fun g => resident ((stPark 262144 entHome).grp g) && !((stPark 262144 entHome).grp g).stopping && ((stPark 262144 entHome).grp g).mill.isNone)).dedup = [0] := by decide
  unfold State.preemptGroups
  simp only [hs]
  unfold State.reserveGroups
  simp only [e, hr]
  generalize recordSize ((stPark 262144 entHome).grp 0) = n
  exact ⟨_, rfl, rfl, rfl⟩

theorem witness_savesAndReturns (h : Obligations.Placement) : Runs (.saveGroup 0) stSave ∧ Runs (.placeSavedGroup 0) stBack ∧ Runs (.parkTimeout 0) (stPark 0 entHome) ∧ Runs (.parkTimeout 0) (stPark 262144 entHome) := by
  refine ⟨?_, ?_, ?_, ?_⟩
  · obtain ⟨_, t, ht⟩ := ends_save
    exact runs_becomes ((h.2.2.2 stSave t 0).1 rfl rfl rfl ht).1
  · exact runs_becomes ((h.2.2.2 stBack (endOf (returned.2.forM comeBack) returned.1) 0).2.1 returned.1 returned.2 (by decide) (by decide) (by decide) returned_ok (by decide +kernel) (run_unit _ _ (by decide +kernel)))
  · exact runs_becomes (((h.2.2.2 (stPark 0 entHome) (stPark 0 entHome) 0).2.2 missR [] 0 rfl rfl rfl rfl rfl).1 park_none)
  · obtain ⟨u, hu, _⟩ := park_some
    exact runs_becomes ((((h.2.2.2 (stPark 262144 entHome) (stPark 0 entHome) 0).2.2 missR [] 0 rfl rfl rfl rfl rfl).2 u hu).1)

/-! ### Management commands -/

def cmd (a0 a1 a2 a3 a4 done rsv : W64) : MgmtCmd := { ld := 0, a0 := a0, a1 := a1, a2 := a2, a3 := a3, a4 := a4, a5 := 0#64, done := done, rsv := rsv }
theorem runs_replies {i : Instr} {s u : State} {c : MgmtCmd} {st : Nat} {v : W64} (h : Replies i s c u st v) (hc : c.done = 0#64) (hp : u.pend = [] := by first | decide +kernel | rfl) : Runs i s := ⟨_, h u hp (by unfold answers; rw [if_pos hc])⟩
theorem runs_recorded {i : Instr} {s u : State} {c : MgmtCmd} {st : Nat} {v : W64} (h : Replies i s c u st v) (hc : c.done ≠ 0#64)
    (hw : (([(c.done, bytes8 v ++ toLe 8 st)].forM (fun w => kwrite (BitVec.ofNat 16 (c.ld.val * 256)) w.1 w.2)).run u).toBool = true) (hp : u.pend = [] := by first | decide +kernel | rfl) : Runs i s :=
  ⟨_, h _ hp (by unfold answers; rw [if_neg hc]; exact run_end () _ _ hw)⟩

/-- A module in stage 2 with a launch queue at 0x20000, a sound descriptor at 0x20400, a malformed one at 0x20440 and a fault ring's at 0x20480. -/
def stMgmt : State :=
  let s := stQueue 0#8 0
  { s with groups := [], runs := [], focus := none
           dmem := wrN (wrN (wrN s.dmem 0x20400 (gen 64 (fun i => if i = 8 then 20#8 else 0#8))) 0x20440 (gen 64 (fun i => if i = 8 then 21#8 else 0#8))) 0x20480 (gen 64 (fun i => if i = 32 then 16#8 else 0#8)) }
theorem Wide.mgmt {s : State} (h : Wide s) (a b c : List W8) : Wide { s with groups := [], runs := [], focus := none, dmem := wrN (wrN (wrN s.dmem 0x20400 a) 0x20440 b) 0x20480 c } :=
  (((h.put 0x20400 a (by decide)).put 0x20440 b (by decide)).put 0x20480 c (by decide)).keep rfl rfl (fun _ => rfl) rfl rfl rfl rfl
theorem wide_mgmt : Wide stMgmt := (wide_queue 0#8 0).mgmt _ _ _
/-- The descriptors of 64 bytes that lie there. -/
theorem mgmt_reads : rdN stMgmt.dmem 0x20000 64 = desc0 ∧ rdN stMgmt.dmem 0x20400 64 = gen 64 (fun i => if i = 8 then 20#8 else 0#8) ∧ rdN stMgmt.dmem 0x20440 64 = gen 64 (fun i => if i = 8 then 21#8 else 0#8)
    ∧ rdN stMgmt.dmem 0x20480 64 = gen 64 (fun i => if i = 32 then 16#8 else 0#8) := by decide +kernel
theorem mgmt_read {a : W64} {v : List W8} (ha : a.toNat < 134217728 ∧ a.toNat % 4096 + 64 ≤ 4096) (e : rdN stMgmt.dmem a.toNat 64 = v) : (agentRead 0#16 kernelRW 2 a 64).run stMgmt = .ok (v, stMgmt) :=
  wide_mgmt.reads ha.1 (by decide) ha.2 e
def ringDesc (n : Nat) : List W8 := gen 64 (fun i => if i = n then 20#8 else 0#8)

theorem port_ok (c : MgmtCmd) (hl : c.ld = 0) (hr : c.rsv = 0#64) (hd : c.done.toNat % 16 = 0) : PortOk stMgmt c := by
  refine ⟨.inr rfl, ?_, rfl, hr, hd⟩
  rw [hl]; decide

/-- A record at a misaligned address, reserved bytes; each status of each command. -/
theorem witness_managementQueues (h : Obligations.ManagementQueues) :
    Runs (.regq (cmd 0 0 0 0 0 15#64 0)) stMgmt ∧ Runs (.pagereq (cmd 0 0 0 0 0 8#64 0)) stMgmt ∧ Runs (.regq (cmd 0 0 0 0 0 0 1#64)) stMgmt ∧ Runs (.pagereq (cmd 0 0 0 0 0 0x20500#64 1#64)) stMgmt
    ∧ Runs (.regq (cmd 0x20440#64 0 0 0 0 0 0)) stMgmt ∧ Runs (.regq (cmd 0x20000#64 0 0 0 0 0 0)) stMgmt ∧ Runs (.regq (cmd 0x20400#64 0 0 0 0 0 0)) stMgmt
    ∧ Runs (.resetq (cmd 0x20400#64 0 0 0 0 0 0)) stMgmt ∧ Runs (.resetq (cmd 0x20000#64 0 0 0 0 0 0)) stMgmt := by
  have a (c : MgmtCmd) (hc : c.ld = 0) := (h c stMgmt).1 (.inr rfl) (by rw [hc]; decide) rfl
  have p (c : MgmtCmd) (hl : c.ld = 0) (hr : c.rsv = 0#64) (hd : c.done.toNat % 16 = 0) := (h c stMgmt).2 (port_ok c hl hr hd)
  refine ⟨runs_becomes ((a (cmd 0 0 0 0 0 15#64 0) rfl (1, .regq) (.head _)).1 (by decide)), runs_becomes ((a (cmd 0 0 0 0 0 8#64 0) rfl (14, .pagereq) (by repeat constructor)).1 (by decide)),
    runs_replies ((a (cmd 0 0 0 0 0 0 1#64) rfl (1, .regq) (.head _)).2 (by decide) (by decide)) rfl, runs_recorded ((a (cmd 0 0 0 0 0 0x20500#64 1#64) rfl (14, .pagereq) (by repeat constructor)).2 (by decide) (by decide)) (by decide) (by decide), ?_, ?_, ?_, ?_, ?_⟩
  · exact runs_replies (((p (cmd 0x20440#64 0 0 0 0 0 0) rfl rfl rfl).1 (gen 64 (fun i => if i = 8 then 21#8 else 0#8)) _ (by decide) (by decide) (by decide) (by decide) (by decide) (mgmt_read (a := 0x20440#64) (by decide) mgmt_reads.2.2.1) rfl).1 (by decide)) rfl
  · exact runs_replies (((p (cmd 0x20000#64 0 0 0 0 0 0) rfl rfl rfl).1 desc0 _ (by decide) (by decide) (by decide) (by decide) (by decide) (mgmt_read (a := 0x20000#64) (by decide) mgmt_reads.1) rfl).2.1 (by decide) (by decide) (by decide)) rfl
  · exact runs_replies (((p (cmd 0x20400#64 0 0 0 0 0 0) rfl rfl rfl).1 (ringDesc 8) _ (by decide) (by decide) (by decide) (by decide) (by decide) (mgmt_read (a := 0x20400#64) (by decide) mgmt_reads.2.1) rfl).2.2 (by decide) (by decide) (by decide) (by decide)) rfl
  · exact runs_replies ((p (cmd 0x20400#64 0 0 0 0 0 0) rfl rfl rfl).2.1 (fun e he => by
      rcases List.mem_cons.1 he with rfl | he
      · decide
      cases he)) rfl
  · obtain ⟨t, ht, hw⟩ := wide_mgmt.recorded [(0x20018#64, toLe 8 0)] (by decide)
    exact runs_replies ((p (cmd 0x20000#64 0 0 0 0 0 0) rfl rfl rfl).2.2.1 5 queue0 desc0 stMgmt t (by decide) (fun x hx => by cases hx) (mgmt_read (a := 0x20000#64) (by decide) mgmt_reads.1) ht) rfl hw.pend

theorem witness_managementPools (h : Obligations.ManagementQueues) :
    Runs (.faultring (cmd 0x20020#64 0 0 0 0 0 0)) stMgmt ∧ Runs (.ctxpool (cmd 0x20020#64 0 0 0 0 0 0)) stMgmt ∧ Runs (.faultring (cmd 0x20440#64 0 0 0 0 0 0)) stMgmt ∧ Runs (.faultring (cmd 0x20480#64 0 0 0 0 0 0)) stMgmt
    ∧ Runs (.ctxpool (cmd 0x20000#64 0 0 0 0 0 0)) { stMgmt with groups := [(0, { grp0 with stopping := true })] } ∧ Runs (.ctxpool (cmd 0x20000#64 0 0 0 0 0 0)) stMgmt ∧ Runs (.ctxpool (cmd 0x30000#64 1#64 0 0 0 0 0)) stMgmt
    ∧ Runs (.pagereq (cmd 0 2#64 0 0 0 0 0)) stMgmt ∧ Runs (.pagereq (cmd 0 1#64 0 0 0 0 0)) stMgmt := by
  have p (c : MgmtCmd) (hl : c.ld = 0) (hr : c.rsv = 0#64) (hd : c.done.toNat % 16 = 0) := (h c stMgmt).2 (port_ok c hl hr hd)
  have f := (p (cmd 0x20020#64 0 0 0 0 0 0) rfl rfl rfl).2.2.2.1 (by decide)
  refine ⟨?_, ?_, ?_, ?_, ?_, ?_, ?_, ?_, ?_⟩
  · exact runs_replies f.1 rfl
  · exact runs_replies f.2 rfl
  · exact runs_replies (((p (cmd 0x20440#64 0 0 0 0 0 0) rfl rfl rfl).2.2.2.2.1 (gen 64 (fun i => if i = 8 then 21#8 else 0#8)) _ (by decide) (mgmt_read (a := 0x20440#64) (by decide) mgmt_reads.2.2.1) rfl).1 (by decide)) rfl
  · exact runs_replies (((p (cmd 0x20480#64 0 0 0 0 0 0) rfl rfl rfl).2.2.2.2.1 (gen 64 (fun i => if i = 32 then 16#8 else 0#8)) _ (by decide) (mgmt_read (a := 0x20480#64) (by decide) mgmt_reads.2.2.2) rfl).2 (by decide) (by decide) (by decide)) rfl
  · exact runs_replies (((h (cmd 0x20000#64 0 0 0 0 0 0) { stMgmt with groups := [(0, { grp0 with stopping := true })] }).2 ⟨.inr rfl, by decide, rfl, rfl, rfl⟩).2.2.2.2.2.1 (by decide) rfl |>.1 ⟨_, .head _, rfl, .inr (.inr rfl)⟩) rfl
  · exact runs_replies ((p (cmd 0x20000#64 0 0 0 0 0 0) rfl rfl rfl).2.2.2.2.2.1 (by decide) rfl |>.2 (fun e he => by cases he)) rfl
  · exact runs_replies ((p (cmd 0x30000#64 1#64 0 0 0 0 0) rfl rfl rfl).2.2.2.2.2.2.1 _ stMgmt (by decide) (by decide) (wide_mgmt.target (va := 0x30000#64) (by decide) (by decide) (by decide)) (fun e he => by cases he)) rfl
  · exact runs_replies ((p (cmd 0 2#64 0 0 0 0 0) rfl rfl rfl).2.2.2.2.2.2.2.1 (by decide)) rfl
  · exact runs_replies ((p (cmd 0 1#64 0 0 0 0 0) rfl rfl rfl).2.2.2.2.2.2.2.2 (by decide)) rfl

/-! ### Names under management -/

theorem park_ok (n : Nat) (e : NameEnt) (c : MgmtCmd) (hl : c.ld = 0) (hr : c.rsv = 0#64) (hd : c.done.toNat % 16 = 0) : PortOk (stPark n e) c := by
  refine ⟨.inr rfl, ?_, rfl, hr, hd⟩
  rw [hl]
  have : ((stPark n e).ldev 0).tdisp = .unlocked := rfl
  intro x
  rw [show ((stPark n e).ldev ((0 : Fin 16) : Nat)).tdisp = .unlocked from this] at x
  cases x
/-- A name of another device; PREEMPT of a saved name, with no room, with room and hold; RELEASE and PREEMPT with and without a holder. -/
theorem witness_managementPreempt (h : Obligations.ManagementNames) : Runs (.preempt (cmd 0 0x100000000000000#64 0 0 0 0 0)) (stPark 0 entHome) ∧ Runs (.namefree (cmd 0 0x1FFFFFFFFFFFFFF#64 0 0 0 0 0)) (stPark 0 entHome)
    ∧ Runs (.preempt (cmd 0 1#64 0 0 0 0 0)) (stPark 0 { entHome with st := 2 }) ∧ Runs (.preempt (cmd 256#64 1#64 0 0 0 0 0)) (stPark 0 entHome) ∧ Runs (.release (cmd 0 1#64 0 0 0 0 0)) (stPark 0 entHome)
    ∧ Runs (.release (cmd 0 2#64 0 0 0 0 0)) (stPark 0 entHome) ∧ Runs (.preempt (cmd 2#64 2#64 0 0 0 0 0)) (stPark 0 entHome) := by
  have a (n : Nat) (e : NameEnt) (c : MgmtCmd) (hl : c.ld = 0) (hr : c.rsv = 0#64) (hd : c.done.toNat % 16 = 0) := h c (stPark n e) (park_ok n e c hl hr hd)
  refine ⟨runs_replies ((a 0 entHome (cmd 0 0x100000000000000#64 0 0 0 0 0) rfl rfl rfl).1 (by unfold ofDevice; decide) rfl _ (.head _)) rfl,
    runs_replies ((a 0 entHome (cmd 0 0x1FFFFFFFFFFFFFF#64 0 0 0 0 0) rfl rfl rfl).1 (by unfold ofDevice; decide) rfl _ (by repeat constructor)) rfl, ?_, ?_, ?_, ?_, ?_⟩
  · exact runs_replies (((a 0 { entHome with st := 2 } (cmd 0 1#64 0 0 0 0 0) rfl rfl rfl).2.1 (by unfold ofDevice; decide)).1 0 false rfl rfl rfl rfl |>.1 (by decide)) rfl
  · exact runs_replies (((a 0 entHome (cmd 256#64 1#64 0 0 0 0 0) rfl rfl rfl).2.1 (by unfold ofDevice; decide)).1 0 true rfl rfl rfl rfl |>.2.1 (by decide) park_none) rfl
  · exact runs_replies (((a 0 entHome (cmd 0 1#64 0 0 0 0 0) rfl rfl rfl).2.1 (by unfold ofDevice; decide)).2.1 0 rfl) rfl
  · exact runs_replies (((a 0 entHome (cmd 0 2#64 0 0 0 0 0) rfl rfl rfl).2.1 (by unfold ofDevice; decide)).2.2.1 rfl).1 rfl
  · exact runs_replies ((((a 0 entHome (cmd 2#64 2#64 0 0 0 0 0) rfl rfl rfl).2.1 (by unfold ofDevice; decide)).2.2.1 rfl).2 (by decide)) rfl

/-- PREEMPT with room for the record. -/
theorem witness_preemptHold (h : Obligations.ManagementNames) : Runs (.preempt (cmd 256#64 1#64 0 0 0 0 0)) (stPark 262144 entHome) := by
  obtain ⟨u, hu, hv, hp⟩ := park_some
  exact runs_replies (((h (cmd 256#64 1#64 0 0 0 0 0) (stPark 262144 entHome) (park_ok _ _ _ rfl rfl rfl)).2.1 (by unfold ofDevice; decide)).1 0 true rfl rfl rfl rfl |>.2.2 u (by decide) hu hv) rfl hp

/-- Name 1 is swapped out; its record in memory is not what was written. -/
def stSwapped : State :=
  let e : NameEnt := { entHome with st := 4 }
  let s := stPark 0 e
  { s with groups := [(0, { s.grp 0 with place := .swapped, ctximg := [1#8] })] }
theorem swapped_ent : stSwapped.nameEnt 1#64 = { entHome with st := 4 } := by decide

/-- The records of swaps: a misplaced state each, and one that goes; a swapped record that another party changed. -/
theorem witness_swaps (h : Obligations.ManagementNames) : Runs (.swapout (cmd 0 1#64 0x30000#64 0 0 0 0)) (stPark 0 entHome) ∧ Runs (.swapout (cmd 0 1#64 0x30000#64 0 0 0 0)) (stPark 0 { entHome with st := 2 })
    ∧ Runs (.swapin (cmd 0 1#64 0x30040#64 0 0 0 0)) (stPark 0 entHome) ∧ Runs (.swapin (cmd 0 1#64 0x30040#64 0 0 0 0)) (stSwapped) := by
  have a (s : State) (c : MgmtCmd) (hs : PortOk s c) (hd : ofDevice c.a1 c.ld.val) := (h c s hs).2.1 hd
  refine ⟨?_, ?_, ?_, ?_⟩
  · exact runs_replies ((a (stPark 0 entHome) (cmd 0 1#64 0x30000#64 0 0 0 0) (park_ok _ _ _ rfl rfl rfl) (by unfold ofDevice; decide)).2.2.2.1 (by decide) (by decide)) rfl
  · let q := agentTargets 0#16 kernelRW 2 0x30000#64 (List.replicate 1024 0#8)
    exact runs_replies ((a (stPark 0 { entHome with st := 2 }) (cmd 0 1#64 0x30000#64 0 0 0 0) (park_ok _ _ _ rfl rfl rfl) (by unfold ofDevice; decide)).2.2.2.2.1 0 (valOf [] q (stPark 0 { entHome with st := 2 })) (endOf q (stPark 0 { entHome with st := 2 })) (by decide) (by decide) rfl
      (run_end [] q _ (by decide))) rfl
  · exact runs_replies ((a (stPark 0 entHome) (cmd 0 1#64 0x30040#64 0 0 0 0) (park_ok _ _ _ rfl rfl rfl) (by unfold ofDevice; decide)).2.2.2.2.2.1 (by decide) (by decide)) rfl
  · let q := agentRead 0#16 kernelRW 2 0x30040#64 1
    let s1 := endOf q stSwapped
    let q2 := kread 0#16 (stSwapped.nameEnt 1#64).loc (16 * (stSwapped.nameEnt 1#64).aux)
    exact runs_replies ((a stSwapped (cmd 0 1#64 0x30040#64 0 0 0 0) ⟨.inr rfl, by decide, rfl, rfl, rfl⟩ (by unfold ofDevice; decide)).2.2.2.2.2.2.1 0 [0#8] [] s1 (endOf q2 s1) _ (by decide) (by decide) rfl
      (run_val [] _ q _ (by decide) (by decide)) (run_val [] _ q2 s1 (by decide) (by decide)) (by rw [if_neg (by decide)]) (by decide)) rfl

/-- NAMEHOST at the greatest size and port, and past each; NAMEDROP, NAMERIGHTS and NAMEFREE of a name in the state they need, and of another. -/
theorem witness_hostNames (h : Obligations.ManagementNames) : Runs (.namehost (cmd 0 2#64 0x30000#64 2048#64 4095#64 0 0)) (stPark 0 entHome) ∧ Runs (.namehost (cmd 0 2#64 0x30000#64 2049#64 0 0 0)) (stPark 0 entHome)
    ∧ Runs (.namehost (cmd 0 2#64 0x30000#64 0 4096#64 0 0)) (stPark 0 entHome) ∧ Runs (.namehost (cmd 0 2#64 0x30080#64 0 0 0 0)) (stPark 0 entHome)
    ∧ Runs (.namedrop (cmd 0 1#64 0 0 0 0 0)) (stPark 0 entHome) ∧ Runs (.namedrop (cmd 0 1#64 0 0 0 0 0)) (stPark 0 { entHome with st := 5 })
    ∧ Runs (.namerights (cmd 0 1#64 16#64 0 0 0 0)) (stPark 0 entHome) ∧ Runs (.namerights (cmd 0 2#64 15#64 0 0 0 0)) (stPark 0 entHome) ∧ Runs (.namerights (cmd 0 1#64 15#64 0 0 0 0)) (stPark 0 entHome)
    ∧ Runs (.namefree (cmd 0 1#64 0 0 0 0 0)) (stPark 0 entHome) ∧ Runs (.namefree (cmd 0 1#64 0 0 0 0 0)) (stPark 0 { entHome with st := 6 }) := by
  have a (e : NameEnt) (c : MgmtCmd) (hl : c.ld = 0) (hr : c.rsv = 0#64) (hd : c.done.toNat % 16 = 0) (ho : ofDevice c.a1 c.ld.val) := ((h c (stPark 0 e) (park_ok 0 e c hl hr hd)).2.1 ho).2.2.2.2.2.2.2
  have o (n : W64) (hn : n.toNat / 2 ^ 56 = 0) : ofDevice n ((0 : Fin 16) : Nat) := hn
  refine ⟨?_, ?_, ?_, ?_, ?_, ?_, ?_, ?_, ?_, ?_, ?_⟩
  · let q := agentRead 0#16 kernelRW 2 0x30000#64 256
    exact runs_replies ((a entHome (cmd 0 2#64 0x30000#64 2048#64 4095#64 0 0) rfl rfl rfl (o _ (by decide))).1 (valOf [] q (stPark 0 entHome)) (endOf q (stPark 0 entHome)) (by decide) (by decide) (by decide) (run_end [] q _ (by decide)) (by decide) (by decide) (by decide)) rfl
  · exact runs_replies ((a entHome (cmd 0 2#64 0x30000#64 2049#64 0 0 0) rfl rfl rfl (o _ (by decide))).2.1 (.inl (by decide))) rfl
  · exact runs_replies ((a entHome (cmd 0 2#64 0x30000#64 0 4096#64 0 0) rfl rfl rfl (o _ (by decide))).2.1 (.inr (.inl (by decide)))) rfl
  · exact runs_replies ((a entHome (cmd 0 2#64 0x30080#64 0 0 0 0) rfl rfl rfl (o _ (by decide))).2.1 (.inr (.inr (by decide)))) rfl
  · exact runs_replies ((a entHome (cmd 0 1#64 0 0 0 0 0) rfl rfl rfl (o _ (by decide))).2.2.1 (by decide)) rfl
  · exact runs_replies ((a { entHome with st := 5 } (cmd 0 1#64 0 0 0 0 0) rfl rfl rfl (o _ (by decide))).2.2.2.1 (by decide) (fun j hj => by cases hj)) rfl
  · exact runs_replies ((a entHome (cmd 0 1#64 16#64 0 0 0 0) rfl rfl rfl (o _ (by decide))).2.2.2.2.1 (by decide)) rfl
  · exact runs_replies ((a entHome (cmd 0 2#64 15#64 0 0 0 0) rfl rfl rfl (o _ (by decide))).2.2.2.2.2.1 (by decide) (by decide)) rfl
  · exact runs_replies ((a entHome (cmd 0 1#64 15#64 0 0 0 0) rfl rfl rfl (o _ (by decide))).2.2.2.2.2.2.1 (by decide) (by decide)) rfl
  · exact runs_replies ((a entHome (cmd 0 1#64 0 0 0 0 0) rfl rfl rfl (o _ (by decide))).2.2.2.2.2.2.2.1 (by decide)) rfl
  · exact runs_replies ((a { entHome with st := 6 } (cmd 0 1#64 0 0 0 0 0) rfl rfl rfl (o _ (by decide))).2.2.2.2.2.2.2.2 (by decide)) rfl

/-- A task to end, and one that has ended; none at the address. -/
def stTask (ended : Bool) : State := { stPlace 3 true with tasks := [(9, { task0 0 with state := 3, ended := ended })] }
theorem task_idle (b : Bool) : ((stTask b).ldev 0).tdisp ≠ .error := by cases b <;> decide
theorem witness_endTask (h : Obligations.ManagementNames) : Runs (.endtask (cmd 0 0x20000#64 0 0 0 0 0)) (stTask false) ∧ Runs (.endtask (cmd 0 0x20100#64 0 0 0 0 0)) (stTask true) ∧ Runs (.endtask (cmd 0 0x20100#64 0 0 0 0 0)) (stTask false) := by
  have a (b : Bool) (t : W64) := (h (cmd 0 t 0 0 0 0 0) (stTask b) ⟨.inr rfl, task_idle b, rfl, rfl, rfl⟩).2.2
  refine ⟨?_, runs_replies ((a true 0x20100#64).2.1 9 (by decide) rfl) rfl, ?_⟩
  · exact runs_replies ((a false 0x20000#64).1 (fun t ht => by
      rcases List.mem_cons.1 ht with rfl | ht
      · decide
      cases ht)) rfl
  · exact runs_replies ((a false 0x20100#64).2.2 9 (endOf (endTask 9) (stTask false)) (by decide) rfl (run_end () _ _ (by decide))).2.2.2 rfl

/-! ### The debug mailbox -/

def dbg (l : Level) (c : MgmtCmd) : DbgCmd := { level := l, c := c }
/-- A group of name 1 whose task a debugger is attached to; `x` changes the group. -/
def stDebug (f : Group → Group) : State :=
  let s := stNames grp0 entHome
  let s := { s with stage := 2, runs := [], focus := none, groups := [(0, f { grp0 with name := 1#64, task := 9 })], tasks := [(9, { task0 0 with state := 3, attached := true })], tlb := [widePage], walks := wideWalks, dmem := wrN s.dmem 0x204A0 [16#8] }
  s.setDie 0 { s.die 0 with up := true }
theorem boxOk (s : State) (l : Level) (c : MgmtCmd) (least : Nat) (hs : s.shut = false) (hp : s.pend = []) (hr : c.rsv = 0#64) (hd : c.done.toNat % 16 = 0)
    (hl : least ≤ (match l with | .user => 0 | .guest => 1 | .hypervisor => 2 | .maker => if (s.ldev c.ld.val).maker then 3 else 2)) : BoxOk s (dbg l c) least := ⟨hs, hp, hr, hd, hl⟩

/-- A misaligned record, reserved bytes, too low a level; the greatest ATTACH word and one past it. -/
theorem witness_debugAttach (h : Obligations.DebugStops) : Runs (.attach (dbg .guest (cmd 0 0 0 0 0 8#64 0))) (stDebug id) ∧ Runs (.cfgread (dbg .hypervisor (cmd 0 0 0 0 0 0 1#64))) (stDebug id) ∧ Runs (.attach (dbg .user (cmd 0 0 0 0 0 0 0))) (stDebug id)
    ∧ Runs (.attach (dbg .guest (cmd 0 0x20100#64 4#64 0 0 0 0))) (stDebug id) ∧ Runs (.attach (dbg .guest (cmd 0 0x20200#64 3#64 0 0 0 0))) (stDebug id) ∧ Runs (.attach (dbg .guest (cmd 0 0x20100#64 3#64 0 0 0 0))) (stDebug id)
    ∧ Runs (.attach (dbg .guest (cmd 0 0x20100#64 0 0 0 0 0))) (stDebug id) := by
  have a (l : Level) (c : MgmtCmd) := (h (dbg l c) (stDebug id)).1 rfl rfl
  have b (c : MgmtCmd) (hr : c.rsv = 0#64) (hd : c.done.toNat % 16 = 0) := (h (dbg .guest c) (stDebug id)).2 (boxOk (stDebug id) .guest c 1 rfl rfl hr hd (Nat.le_refl 1))
  refine ⟨runs_becomes ((a .guest (cmd 0 0 0 0 0 8#64 0) (1, .attach) (.head _)).1 (by decide)), runs_replies ((a .hypervisor (cmd 0 0 0 0 0 0 1#64) (2, .cfgread) (by repeat constructor)).2.1 (by decide) (by decide)) rfl,
    runs_replies ((a .user (cmd 0 0 0 0 0 0 0) (1, .attach) (.head _)).2.2 (by decide) rfl (fun k => absurd k.2.2.2.2 (by decide))) rfl, runs_replies ((b (cmd 0 0x20100#64 4#64 0 0 0 0) rfl rfl).1 (by decide)) rfl, ?_, ?_, ?_⟩
  · exact runs_replies ((b (cmd 0 0x20200#64 3#64 0 0 0 0) rfl rfl).2.1 (by decide) (fun t ht => by
      rcases List.mem_cons.1 ht with rfl | ht
      · decide
      cases ht)) rfl
  · exact runs_replies (((b (cmd 0 0x20100#64 3#64 0 0 0 0) rfl rfl).2.2.1 9 (by decide) (by decide) rfl).1 (by decide)) rfl
  · exact runs_replies (((b (cmd 0 0x20100#64 0 0 0 0 0) rfl rfl).2.2.1 9 (by decide) (by decide) rfl).2 (by decide)) rfl

theorem debugged (f : Group → Group) (hn : (f { grp0 with name := 1#64, task := 9 }).name = 1#64) (hm : (f { grp0 with name := 1#64, task := 9 }).mill = none) (hp : (f { grp0 with name := 1#64, task := 9 }).place = .resident)
    (ht : (f { grp0 with name := 1#64, task := 9 }).task = 9) : Debugged (stDebug f) 1#64 0 := by
  have e : (stDebug f).grp 0 = f { grp0 with name := 1#64, task := 9 } := rfl
  refine ⟨?_, by rw [e]; exact hm, by rw [e]; simp [alive, hp], by rw [e, ht]; rfl⟩
  change (([(0, f { grp0 with name := 1#64, task := 9 })].filter (fun (e : Nat × Group) => e.2.name == 1#64 && e.2.place != .ended)).getLast?).map (·.1) = some 0
  simp [hn, hp]

def stopped (x : Group) : Group := { x with dstop := true }
/-- HALT of a stopped and of a going group, RESUME, STEP of both; the last breakpoint and one past each field; a name of another device and one nobody holds. -/
theorem witness_debugStops (h : Obligations.DebugStops) : Runs (.halt (dbg .guest (cmd 0 1#64 0 0 0 0 0))) (stDebug stopped) ∧ Runs (.halt (dbg .guest (cmd 0 1#64 0 0 0 0 0))) (stDebug id) ∧ Runs (.resume (dbg .guest (cmd 0 1#64 0 0 0 0 0))) (stDebug stopped)
    ∧ Runs (.step (dbg .guest (cmd 0 1#64 0 0 0 0 0))) (stDebug stopped) ∧ Runs (.step (dbg .guest (cmd 0 1#64 0 0 0 0 0))) (stDebug id)
    ∧ Runs (.brk (dbg .guest (cmd 0 1#64 3#64 0x20004#64 1#64 0 0))) (stDebug id) ∧ Runs (.brk (dbg .guest (cmd 0 1#64 4#64 0 0 0 0))) (stDebug id) ∧ Runs (.brk (dbg .guest (cmd 0 1#64 0 1#64 0 0 0))) (stDebug id) ∧ Runs (.brk (dbg .guest (cmd 0 1#64 0 0 2#64 0 0))) (stDebug id)
    ∧ Runs (.brk (dbg .guest (cmd 0 0x100000000000000#64 0 0 0 0 0))) (stDebug id) ∧ Runs (.halt (dbg .guest (cmd 0 2#64 0 0 0 0 0))) (stDebug id) := by
  have ds : Debugged (stDebug stopped) 1#64 0 := debugged stopped rfl rfl rfl rfl
  have di : Debugged (stDebug id) 1#64 0 := debugged id rfl rfl rfl rfl
  have b (f : Group → Group) (c : MgmtCmd) (hr : c.rsv = 0#64) (hd : c.done.toNat % 16 = 0) (hs : (stDebug f).shut = false) := (h (dbg .guest c) (stDebug f)).2 (boxOk (stDebug f) .guest c 1 hs rfl hr hd (Nat.le_refl 1))
  have s := ((b stopped (cmd 0 1#64 0 0 0 0 0) rfl rfl rfl).2.2.2.1 0 (by unfold ofDevice; decide) ds)
  have i (k a ad on : W64) := ((b id (cmd 0 1#64 k ad on 0 0) rfl rfl rfl).2.2.2.1 0 (by unfold ofDevice; change (1#64).toNat / 2 ^ 56 = 0; decide) di)
  have z := (b id (cmd 0 0x100000000000000#64 0 0 0 0 0) rfl rfl rfl).2.2.2.2.1
  have y := (b id (cmd 0 2#64 0 0 0 0 0) rfl rfl rfl).2.2.2.2.1
  refine ⟨runs_replies (s.1 rfl (.inr rfl)) rfl, runs_replies ((i 0 0 0 0).2.1 rfl rfl rfl rfl rfl rfl) rfl, runs_replies (s.2.2.1 rfl) rfl, runs_replies (s.2.2.2.1 rfl) rfl, runs_replies ((i 0 0 0 0).2.2.2.2.1 rfl) rfl,
    runs_replies ((i 3#64 0 0x20004#64 1#64).2.2.2.2.2.1 (by decide) (by decide) (by decide)) rfl, runs_replies ((i 4#64 0 0 0).2.2.2.2.2.2 (.inl (by decide))) rfl, runs_replies ((i 0 0 1#64 0).2.2.2.2.2.2 (.inr (.inl (by decide)))) rfl,
    runs_replies ((i 0 0 0 2#64).2.2.2.2.2.2 (.inr (.inr (by decide)))) rfl, runs_replies ((z (.brk (dbg .guest (cmd 0 0x100000000000000#64 0 0 0 0 0))) (by repeat constructor)).1 rfl (by unfold ofDevice; decide)) rfl,
    runs_replies ((y (.halt (dbg .guest (cmd 0 2#64 0 0 0 0 0))) (.head _)).2 rfl (by unfold ofDevice; decide) rfl rfl rfl (fun g hg => by
      have k : (stDebug id).holder 2#64 = none := rfl
      have := hg.1
      rw [show (dbg .guest (cmd 0 2#64 0 0 0 0 0)).c.a1 = 2#64 from rfl, k] at this
      cases this)) rfl⟩

/-- The last watchpoint of a die, at the greatest length; one past each field. -/
theorem witness_debugWatches (h : Obligations.DebugStops) : Runs (.watch (dbg .guest (cmd 7#64 7#64 0 0x1000000000000#64 0xF0000#64 0 0))) (stDebug id) ∧ Runs (.watch (dbg .guest (cmd 8#64 0 0 1#64 0 0 0))) (stDebug id) ∧ Runs (.watch (dbg .guest (cmd 0 8#64 0 1#64 0 0 0))) (stDebug id)
    ∧ Runs (.watch (dbg .guest (cmd 0 0 0 0 0 0 0))) (stDebug id) ∧ Runs (.watch (dbg .guest (cmd 0 0 0 0x1000000000001#64 0 0 0))) (stDebug id) ∧ Runs (.watch (dbg .guest (cmd 0 0 0 1#64 0x100000#64 0 0))) (stDebug id) := by
  have b (c : MgmtCmd) (hr : c.rsv = 0#64) (hd : c.done.toNat % 16 = 0) := ((h (dbg .guest c) (stDebug id)).2 (boxOk (stDebug id) .guest c 1 rfl rfl hr hd (Nat.le_refl 1))).2.2.2.2.2
  exact ⟨runs_replies ((b (cmd 7#64 7#64 0 0x1000000000000#64 0xF0000#64 0 0) rfl rfl).1 (by decide) (by decide) (by decide) (by decide) (by decide) (by decide) (by decide) (fun w hw => by cases hw)) rfl,
    runs_replies ((b (cmd 8#64 0 0 1#64 0 0 0) rfl rfl).2 (.inl (by decide))) rfl, runs_replies ((b (cmd 0 8#64 0 1#64 0 0 0) rfl rfl).2 (.inr (.inl (by decide)))) rfl, runs_replies ((b (cmd 0 0 0 0 0 0 0) rfl rfl).2 (.inr (.inr (.inl rfl)))) rfl,
    runs_replies ((b (cmd 0 0 0 0x1000000000001#64 0 0 0) rfl rfl).2 (.inr (.inr (.inr (.inl (by decide)))))) rfl, runs_replies ((b (cmd 0 0 0 1#64 0x100000#64 0 0) rfl rfl).2 (.inr (.inr (.inr (.inr (by decide)))))) rfl⟩

/-- The last register of each class, read and written; a PC that is no multiple of 4; the state of a register that waits. -/
theorem witness_debugRegisters (h : Obligations.DebugReads) : (∀ z ∈ [(0, 79, 15), (1, 31, 0), (2, 7, 15), (3, 0, 15), (3, 1, 15), (4, 7, 15), (5, 2, 0), (7, 0, 15), (9, 79, 0)], Runs (.readreg (dbg .guest (cmd 0 1#64 (selOf z.1 z.2.1 z.2.2) 0 0 0 0))) (stDebug stopped))
    ∧ (∀ z ∈ [(1, 31, 0), (3, 0, 15), (3, 1, 15), (4, 7, 15), (5, 2, 0), (7, 0, 15), (9, 79, 0)], Runs (.writereg (dbg .guest (cmd 0 1#64 (selOf z.1 z.2.1 z.2.2) 0 0 0 0))) (stDebug stopped))
    ∧ Runs (.writereg (dbg .guest (cmd 0 1#64 (selOf 7 0 15) 2#64 0 0 0))) (stDebug stopped) ∧ Runs (.readreg (dbg .guest (cmd 0 1#64 (selOf 0 0 0) 0 0 0 0))) (stDebug id) := by
  have ds : Debugged (stDebug stopped) 1#64 0 := debugged stopped rfl rfl rfl rfl
  have di : Debugged (stDebug id) 1#64 0 := debugged id rfl rfl rfl rfl
  have b (f : Group → Group) (c : MgmtCmd) (hr : c.rsv = 0#64) (hd : c.done.toNat % 16 = 0) (hs : (stDebug f).shut = false) := (h (dbg .guest c) (stDebug f)).1 (boxOk (stDebug f) .guest c 1 hs rfl hr hd (Nat.le_refl 1))
  have r (n t : Nat) (sel v : W64) := (b stopped (cmd 0 1#64 sel v 0 0 0) rfl rfl rfl).1 0 n t (by unfold ofDevice; change (1#64).toNat / 2 ^ 56 = 0; decide) ds rfl
  have w : (16 : Nat) ≤ 64 := by decide
  have d9 (x : Group) (ho : x.ops = []) (n : Nat) : ∀ o d, pendingReg x n = some (o, d) → o.ready = true := fun o d e => by
    have : pendingReg x n = none := by simp [pendingReg, ho]
    rw [this] at e; cases e
  refine ⟨?_, ?_, ?_, ?_⟩
  · intro z hz
    rcases List.mem_cons.1 hz with rfl | hz
    · exact runs_replies ((r 79 15 (selOf 0 79 15) 0).1 rfl (by decide) (by decide) w (inPlace0.source (.inl (by decide)))) rfl
    rcases List.mem_cons.1 hz with rfl | hz
    · exact runs_replies ((r 31 0 (selOf 1 31 0) 0).2.1 (sAt 31) rfl (by decide) (inPlace0.scalar (by decide))).1 rfl
    rcases List.mem_cons.1 hz with rfl | hz
    · exact runs_replies ((r 7 15 (selOf 2 7 15) 0).2.2.1 rfl (by decide) (by decide) w rfl rfl rfl) rfl
    rcases List.mem_cons.1 hz with rfl | hz
    · exact runs_replies ((r 0 15 (selOf 3 0 15) 0).2.2.2.1 rfl (by decide) w).1 rfl
    rcases List.mem_cons.1 hz with rfl | hz
    · exact runs_replies ((r 0 15 (selOf 3 1 15) 0).2.2.2.2.1 rfl (by decide) w).1 rfl
    rcases List.mem_cons.1 hz with rfl | hz
    · exact runs_replies ((r 7 15 (selOf 4 7 15) 0).2.2.2.2.2.1 0x00FF#64 rfl (by decide) (by decide) w rfl).1 rfl
    rcases List.mem_cons.1 hz with rfl | hz
    · exact runs_replies ((r 2 0 (selOf 5 2 0) 0).2.2.2.2.2.2.1 rfl (by decide)).1 rfl
    rcases List.mem_cons.1 hz with rfl | hz
    · exact runs_replies ((r 0 15 (selOf 7 0 15) 0).2.2.2.2.2.2.2.1 rfl (by decide) w).1 rfl
    rcases List.mem_cons.1 hz with rfl | hz
    · exact runs_replies ((r 79 0 (selOf 9 79 0) 0).2.2.2.2.2.2.2.2.1 rfl (by decide) (d9 _ rfl _)).1 rfl
    cases hz
  · intro z hz
    rcases List.mem_cons.1 hz with rfl | hz
    · exact runs_replies ((r 31 0 (selOf 1 31 0) 0).2.1 (sAt 31) rfl (by decide) (inPlace0.scalar (by decide))).2 rfl
    rcases List.mem_cons.1 hz with rfl | hz
    · exact runs_replies ((r 0 15 (selOf 3 0 15) 0).2.2.2.1 rfl (by decide) w).2 rfl
    rcases List.mem_cons.1 hz with rfl | hz
    · exact runs_replies ((r 0 15 (selOf 3 1 15) 0).2.2.2.2.1 rfl (by decide) w).2 rfl
    rcases List.mem_cons.1 hz with rfl | hz
    · exact runs_replies ((r 7 15 (selOf 4 7 15) 0).2.2.2.2.2.1 0x00FF#64 rfl (by decide) (by decide) w rfl).2 rfl
    rcases List.mem_cons.1 hz with rfl | hz
    · exact runs_replies ((r 2 0 (selOf 5 2 0) 0).2.2.2.2.2.2.1 rfl (by decide)).2 rfl
    rcases List.mem_cons.1 hz with rfl | hz
    · exact runs_replies (((r 0 15 (selOf 7 0 15) 0).2.2.2.2.2.2.2.1 rfl (by decide) w).2.1 (by decide)) rfl
    rcases List.mem_cons.1 hz with rfl | hz
    · exact runs_replies ((r 79 0 (selOf 9 79 0) 0).2.2.2.2.2.2.2.2.1 rfl (by decide) (d9 _ rfl _)).2 rfl
    cases hz
  · exact runs_replies (((r 0 15 (selOf 7 0 15) 2#64).2.2.2.2.2.2.2.1 rfl (by decide) w).2.2 (by decide)) rfl
  · exact runs_replies ((b id (cmd 0 1#64 (selOf 0 0 0) 0 0 0 0) rfl rfl rfl).2 _ (.head _) (by unfold ofDevice; decide) (by decide) (fun g hg => by
      have k : (stDebug id).holder 1#64 = some 0 := di.1
      have := hg.1
      rw [show (dbg .guest (cmd 0 1#64 (selOf 0 0 0) 0 0 0 0)).c.a1 = 1#64 from rfl, k] at this
      cases this; rfl)) rfl
def waiting (x : Group) : Group := { x with dstop := true, ops := [oneOp .load 4 [4] .done] }
theorem witness_debugWaiting (h : Obligations.DebugReads) : Runs (.readreg (dbg .guest (cmd 0 1#64 (selOf 9 4 0) 0 0 0 0))) (stDebug waiting) :=
  runs_replies (((h (dbg .guest (cmd 0 1#64 (selOf 9 4 0) 0 0 0 0)) (stDebug waiting)).1 (boxOk (stDebug waiting) .guest _ 1 rfl rfl rfl rfl (Nat.le_refl 1))).1 0 4 0 (by unfold ofDevice; decide) (debugged waiting rfl rfl rfl rfl) rfl
    |>.2.2.2.2.2.2.2.2.2 _ _ rfl (by decide) rfl rfl) rfl

/-- Sampling switched off, at the least and the greatest exponent and one beside each; tracing switched off and on. -/
theorem witness_debugRings (h : Obligations.DebugReads) : Runs (.sample (dbg .guest (cmd 0x7FF#64 0 0 0 0 0 0))) (stDebug id) ∧ (∀ k ∈ [4#64, 24#64], Runs (.sample (dbg .guest (cmd 0x0FF#64 0x20480#64 k 0 0 0 0))) (stDebug id))
    ∧ (∀ k ∈ [1#64, 3#64, 25#64], Runs (.sample (dbg .guest (cmd 0 0 k 0 0 0 0))) (stDebug id)) ∧ Runs (.trace (dbg .guest (cmd 0 0 0x3FFE#64 0 0 0 0))) (stDebug id) ∧ Runs (.trace (dbg .guest (cmd 0 0x20480#64 0x3FFE#64 0 0 0 0))) (stDebug id) := by
  have b (c : MgmtCmd) (hr : c.rsv = 0#64) (hd : c.done.toNat % 16 = 0) := (h (dbg .guest c) (stDebug id)).2.1 (boxOk (stDebug id) .guest c 0 rfl rfl hr hd (Nat.zero_le _))
  let ring (m : W64) : Ring := { desc := 0x20480#64, mask := m, dom0 := 0, domn := 0 }
  let d : List W8 := gen 64 (fun i => if i = 32 then 16#8 else 0#8)
  refine ⟨?_, ?_, ?_, ?_, ?_⟩
  · obtain ⟨u, _, e, hu⟩ := ((b (cmd 0x7FF#64 0 0 0 0 0 0) rfl rfl).1 (by decide) (by decide) (by decide) (by decide)).1 rfl
    exact runs_replies hu rfl (congrArg State.pend e)
  · intro k hk
    have hr : (dbgRing 0 0x20480#64 0#64 0#64).run (stDebug id) = .ok (some (ring 0, d), endOf (dbgRing 0 0x20480#64 0#64 0#64) (stDebug id)) := run_val none _ _ _ (by decide) (by decide)
    have go (k : W64) (h4 : 4 ≤ k.toNat) (h24 : k.toNat ≤ 24) : Runs (.sample (dbg .guest (cmd 0x0FF#64 0x20480#64 k 0 0 0 0))) (stDebug id) := by
      obtain ⟨u, e, _, _, hu⟩ := ((b (cmd 0x0FF#64 0x20480#64 k 0 0 0 0) rfl rfl).1 (by change (0x0FF#64).toNat < 2 ^ 11; decide) (by change (0x20480#64).toNat % 64 = 0; decide) (by change (0#64).toNat < 2 ^ 32; decide) (by change (0#64).toNat < 2 ^ 32; decide)).2.1 (ring 0) d (endOf (dbgRing 0 0x20480#64 0#64 0#64) (stDebug id)) h4 h24
        hr (by decide)
      exact runs_replies hu rfl ((congrArg State.pend e).trans (by decide))
    rcases List.mem_cons.1 hk with rfl | hk
    · exact go 4#64 (by decide) (by decide)
    rcases List.mem_cons.1 hk with rfl | hk
    · exact go 24#64 (by decide) (by decide)
    cases hk
  · intro k hk
    rcases List.mem_cons.1 hk with rfl | hk
    · exact runs_replies (((b (cmd 0 0 1#64 0 0 0 0) rfl rfl).1 (by decide) (by decide) (by decide) (by decide)).2.2 (by decide) (.inl (by decide))) rfl
    rcases List.mem_cons.1 hk with rfl | hk
    · exact runs_replies (((b (cmd 0 0 3#64 0 0 0 0) rfl rfl).1 (by decide) (by decide) (by decide) (by decide)).2.2 (by decide) (.inl (by decide))) rfl
    rcases List.mem_cons.1 hk with rfl | hk
    · exact runs_replies (((b (cmd 0 0 25#64 0 0 0 0) rfl rfl).1 (by decide) (by decide) (by decide) (by decide)).2.2 (by decide) (.inr (by decide))) rfl
    cases hk
  · exact runs_replies (((b (cmd 0 0 0x3FFE#64 0 0 0 0) rfl rfl).2 (by decide) (by decide) (by decide) (by decide)).1 rfl) rfl
  · exact runs_replies (((b (cmd 0 0x20480#64 0x3FFE#64 0 0 0 0) rfl rfl).2 (by decide) (by decide) (by decide) (by decide)).2 (ring 0x3FFE#64) d (endOf (dbgRing 0 0x20480#64 0x3FFE#64 0#64) (stDebug id)) (by decide) (run_val none _ _ _ (by decide) (by decide)) (by decide) (by decide)).2 rfl

theorem wide_debug : Wide (stDebug id) := ⟨⟨_, rfl, rfl⟩, by decide, by decide, by decide, by decide, by decide, by decide, by decide, rfl, rfl, by decide, rfl⟩

/-- Each class of counter, at the least level that reads it and below; the first undefined numbers; MHALT's words. -/
theorem witness_debugCounters (h : Obligations.DebugReads) : (∀ k ∈ [0#64, 17#64], Runs (.readctr (dbg .user (cmd k 0x20100#64 0 0 0 0 0))) (stDebug id)) ∧ Runs (.readctr (dbg .user (cmd 17#64 0x20200#64 0 0 0 0 0))) (stDebug id)
    ∧ Runs (.readctr (dbg .user (cmd 0x20#64 1#64 0 0 0 0 0))) (stDebug id) ∧ Runs (.readctr (dbg .user (cmd 0x38#64 1#64 0 0 0 0 0))) (stDebug id) ∧ (∀ k ∈ [0x12#64, 0x1FF#64, 0x3E0#64], Runs (.readctr (dbg .user (cmd k 0 0 0 0 0 0))) (stDebug id))
    ∧ Runs (.readctr (dbg .hypervisor (cmd 0x107#64 0 0 0 0 0 0))) (stDebug id) ∧ Runs (.readctr (dbg .guest (cmd 0x13F#64 0 0 0 0 0 0))) (stDebug id)
    ∧ (∀ k ∈ [0x104#64, 0x13D#64, 0x35F#64, 0x380#64, 0x103#64], Runs (.readctr (dbg .hypervisor (cmd k 0 0 0 0 0 0))) (stDebug id))
    ∧ Runs (.mhalt (dbg .hypervisor (cmd 0 1#64 0 0 0 0 0))) (stDebug id) ∧ Runs (.mhalt (dbg .hypervisor (cmd 0 2#64 0 0 0 0 0))) (stDebug id) := by
  have b (l : Level) (c : MgmtCmd) (hr : c.rsv = 0#64) (hd : c.done.toNat % 16 = 0) := (h (dbg l c) (stDebug id)).2.2.1 (boxOk (stDebug id) l c 0 rfl rfl hr hd (Nat.zero_le _))
  have m (c : MgmtCmd) (hr : c.rsv = 0#64) (hd : c.done.toNat % 16 = 0) := (h (dbg .hypervisor c) (stDebug id)).2.2.2 (boxOk (stDebug id) .hypervisor c 2 rfl rfl hr hd (Nat.le_refl 2)) |>.2.2.2
  refine ⟨?_, ?_, ?_, ?_, ?_, ?_, ?_, ?_, runs_replies ((m (cmd 0 1#64 0 0 0 0 0) rfl rfl).2 (by decide)) rfl, runs_replies ((m (cmd 0 2#64 0 0 0 0 0) rfl rfl).1 (by decide)) rfl⟩
  · intro k hk
    rcases List.mem_cons.1 hk with rfl | hk
    · exact runs_replies ((b .user (cmd 0#64 0x20100#64 0 0 0 0 0) rfl rfl).1 9 (by decide) (by decide)) rfl
    rcases List.mem_cons.1 hk with rfl | hk
    · exact runs_replies ((b .user (cmd 17#64 0x20100#64 0 0 0 0 0) rfl rfl).1 9 (by decide) (by decide)) rfl
    cases hk
  · exact runs_replies ((b .user (cmd 17#64 0x20200#64 0 0 0 0 0) rfl rfl).2.1 (by decide) (fun t ht => by
      rcases List.mem_cons.1 ht with rfl | ht
      · decide
      cases ht)) rfl
  · exact runs_replies ((b .user (cmd 0x20#64 1#64 0 0 0 0 0) rfl rfl).2.2.1 0 (by decide) (0x20, _) (.head _) rfl) rfl
  · exact runs_replies ((b .user (cmd 0x38#64 1#64 0 0 0 0 0) rfl rfl).2.2.1 0 (by decide) (0x38, _) (.tail _ (.tail _ (.tail _ (.tail _ (.tail _ (.tail _ (.tail _ (.tail _ (.tail _ (.head _)))))))))) rfl) rfl
  · intro k hk
    rcases List.mem_cons.1 hk with rfl | hk
    · exact runs_replies ((b .user (cmd 0x12#64 0 0 0 0 0 0) rfl rfl).2.2.2.1 (.inl rfl)) rfl
    rcases List.mem_cons.1 hk with rfl | hk
    · exact runs_replies ((b .user (cmd 0x1FF#64 0 0 0 0 0 0) rfl rfl).2.2.2.1 (.inr (.inl rfl))) rfl
    rcases List.mem_cons.1 hk with rfl | hk
    · exact runs_replies ((b .user (cmd 0x3E0#64 0 0 0 0 0 0) rfl rfl).2.2.2.1 (.inr (.inr (by decide)))) rfl
    cases hk
  · exact runs_replies (((b .hypervisor (cmd 0x107#64 0 0 0 0 0 0) rfl rfl).2.2.2.2.1 0 (by decide) rfl rfl).1 (boxOk (stDebug id) .hypervisor _ 2 rfl rfl rfl rfl (Nat.le_refl 2))) rfl
  · exact runs_replies (((b .guest (cmd 0x13F#64 0 0 0 0 0 0) rfl rfl).2.2.2.2.1 7 (by decide) rfl rfl).2 (fun k => absurd k.2.2.2.2 (by decide))) rfl
  · have q (k : W64) := (b .hypervisor (cmd k 0 0 0 0 0 0) rfl rfl).2.2.2.2.2
    have c (k : W64) := (q k).1 (boxOk (stDebug id) .hypervisor _ 2 rfl rfl rfl rfl (Nat.le_refl 2)) rfl
    intro k hk
    rcases List.mem_cons.1 hk with rfl | hk
    · exact runs_replies ((c 0x104#64 0 (by decide)).1 rfl) rfl
    rcases List.mem_cons.1 hk with rfl | hk
    · exact runs_replies ((c 0x13D#64 7 (by decide)).2.1 rfl) rfl
    rcases List.mem_cons.1 hk with rfl | hk
    · exact runs_replies ((c 0x35F#64 7 (by decide)).2.2 11 (by decide) |>.1 rfl) rfl
    rcases List.mem_cons.1 hk with rfl | hk
    · exact runs_replies ((c 0x380#64 0 (by decide)).2.2 0 (by decide) |>.2 rfl) rfl
    rcases List.mem_cons.1 hk with rfl | hk
    · obtain ⟨u, v, e, _, _, hu⟩ := (q 0x103#64).2.1 0x103 (by decide) (by decide) rfl rfl (boxOk (stDebug id) .hypervisor _ 2 rfl rfl rfl rfl (Nat.le_refl 2)) (by decide)
      exact runs_replies hu rfl (congrArg State.pend e)
    cases hk

/-- The same in a maker session. -/
def stMaker : State := (stDebug id).modLd 0 (fun l => { l with maker := true })
theorem wide_maker : Wide stMaker := ⟨⟨_, rfl, rfl⟩, by decide, by decide, by decide, by decide, by decide, by decide, by decide, rfl, rfl, by decide, rfl⟩
/-- The clocks and the lifetime counters, at an aligned and a misaligned address; the counters cleared in and outside a maker session. -/
theorem witness_debugImages (h : Obligations.DebugReads) : Runs (.timesnap (dbg .user (cmd 0 0x20804#64 0 0 0 0 0))) (stDebug id) ∧ Runs (.timesnap (dbg .user (cmd 0 0x20808#64 0 0 0 0 0))) (stDebug id)
    ∧ Runs (.lifetime (dbg .hypervisor (cmd 0 0x21020#64 0 0 0 0 0))) (stDebug id) ∧ Runs (.lifetime (dbg .hypervisor (cmd 0 0x21040#64 0 0 0 0 0))) (stDebug id) ∧ Runs (.lifetime (dbg .hypervisor (cmd 0 0x21040#64 1#64 0 0 0 0))) (stDebug id)
    ∧ Runs (.lifetime (dbg .maker (cmd 0 0x21040#64 1#64 0 0 0 0))) stMaker := by
  have b (c : MgmtCmd) (hr : c.rsv = 0#64) (hd : c.done.toNat % 16 = 0) := ((h (dbg .user c) (stDebug id)).2.2.1 (boxOk (stDebug id) .user c 0 rfl rfl hr hd (Nat.zero_le _))).2.2.2.2.2.2.2
  have m (c : MgmtCmd) (hr : c.rsv = 0#64) (hd : c.done.toNat % 16 = 0) := (h (dbg .hypervisor c) (stDebug id)).2.2.2 (boxOk (stDebug id) .hypervisor c 2 rfl rfl hr hd (Nat.le_refl 2))
  have len (s : State) : s.lifeImage.length = 4096 := by
    have (n a : Nat) (mm : Mem) : (rdN mm a n).length = n := by
      induction n generalizing a with
      | zero => rfl
      | succ n ih => simp [rdN, ih]
    exact this _ _ _
  have img (s : State) (hw : Wide s) : ∃ u, Recorded s 0#16 [(0x21040#64, s.lifeImage)] u ∧ Wide u := by
    exact hw.recorded [(0x21040#64, s.lifeImage)] (fun w hm => by
      rcases List.mem_cons.1 hm with rfl | hm
      · exact ⟨by rw [len]; change (0x21040#64).toNat + 4096 ≤ 0x200000; decide, by change 0x10008 ≤ (0x21040#64).toNat; decide⟩
      cases hm)
  refine ⟨runs_replies ((b (cmd 0 0x20804#64 0 0 0 0 0) rfl rfl).1 (by decide)) rfl, ?_, runs_replies ((m (cmd 0 0x21020#64 0 0 0 0 0) rfl rfl).1 (by decide)) rfl, ?_, ?_, ?_⟩
  · obtain ⟨bs, s1, hl, _, _, e, hd, k⟩ := (b (cmd 0 0x20808#64 0 0 0 0 0) rfl rfl).2 (by decide)
    have e1 := congrArg State.dmem e
    have e2 := congrArg State.lds e
    have e3 := congrArg State.tlb e
    have e5 := congrArg State.walks e
    have e6 := congrArg State.nameMirror e
    have e7 := congrArg State.pend e
    have e4 := fun d => congrArg Die.fwctl (hd d)
    have hw : Wide s1 := wide_debug.keep e1 e2 e4 e3 e5 e6 e7
    obtain ⟨u, hu, hv⟩ := hw.recorded [(0x20808#64, bs)] (fun w hm => by
      rcases List.mem_cons.1 hm with rfl | hm
      · exact ⟨by rw [hl]; change (0x20808#64).toNat + 72 ≤ 0x200000; decide, by change 0x10008 ≤ (0x20808#64).toNat; decide⟩
      cases hm)
    exact runs_replies (k u hu) rfl hv.pend
  · obtain ⟨u, hu, hv⟩ := img _ wide_debug
    exact runs_replies (((m (cmd 0 0x21040#64 0 0 0 0 0) rfl rfl).2.1 u (by decide) hu).1 rfl) rfl hv.pend
  · exact runs_replies ((m (cmd 0 0x21040#64 1#64 0 0 0 0) rfl rfl).2.2.1 (by decide) rfl (fun k => absurd k.2.2.2.2 (by decide))) rfl
  · obtain ⟨u, hu, hv⟩ := img _ wide_maker
    exact runs_replies ((((h (dbg .maker (cmd 0 0x21040#64 1#64 0 0 0 0)) stMaker).2.2.2 (boxOk stMaker .maker _ 2 rfl rfl rfl rfl (by decide))).2.1 u (by decide) hu).2 rfl (boxOk stMaker .maker _ 3 rfl rfl rfl rfl (by decide))) rfl hv.pend

/-! ### Configuration and the trusted interface -/

/-- Die 1 in partition 1, die 2's register locked. -/
def stPart : State := let s := stMgmt; (s.setDie 1 { s.die 1 with fwctl := 0x100#64 }).setDie 2 { s.die 2 with fwctl := 0x8000000000000000#64 }

/-- FWSET of a reserved bit, of a locked register and of the last die; the last budget; the first and last partition; the last port mode; the rows to avoid from a frame and from outside. -/
theorem witness_configuration (h : Obligations.Configuration) : Runs (.fwset (dbg .hypervisor (cmd 0 8#64 0 0 0 0 0))) stPart ∧ Runs (.fwset (dbg .hypervisor (cmd 2#64 0 0 0 0 0 0))) stPart ∧ Runs (.fwset (dbg .hypervisor (cmd 7#64 0x80000000FF080707#64 0 0 0 0 0))) stPart
    ∧ Runs (.budgetset (dbg .hypervisor (cmd 127#64 0xFFFF0000FFFF#64 0 0 0 0 0))) stPart ∧ (∀ p ∈ [0#64, 7#64], Runs (.preset (dbg .hypervisor (cmd p 0 0 0 0 0 0))) stPart)
    ∧ Runs (.avoidset (dbg .hypervisor (cmd 0 0x20000#64 0 0 0 0 0))) stPart ∧ Runs (.avoidset (dbg .hypervisor (cmd 0 0x10000000000#64 0 0 0 0 0))) stPart ∧ Runs (.portmode (dbg .hypervisor (cmd 7#64 3#64 0 0 0 0 0))) stPart := by
  have b (c : MgmtCmd) (hr : c.rsv = 0#64) (hd : c.done.toNat % 16 = 0) := h (dbg .hypervisor c) stPart (boxOk stPart .hypervisor c 2 rfl rfl hr hd (Nat.le_refl 2))
  have z2 (a0 a1 : W64) : restZero (cmd a0 a1 0 0 0 0 0) 2 := ⟨fun h => absurd h (by decide), fun _ => rfl, fun _ => rfl, rfl, rfl⟩
  have z1 (a0 : W64) : restZero (cmd a0 0 0 0 0 0 0) 1 := ⟨fun _ => rfl, fun _ => rfl, fun _ => rfl, rfl, rfl⟩
  refine ⟨?_, ?_, ?_, ?_, ?_, ?_, ?_, ?_⟩
  · exact runs_replies (((b (cmd 0 8#64 0 0 0 0 0) rfl rfl).1 (by decide) (z2 _ _)).1 (by unfold FwOk; decide)) rfl
  · exact runs_replies (((b (cmd 2#64 0 0 0 0 0 0) rfl rfl).1 (by decide) (z2 _ _)).2.1 (by unfold FwOk; decide) (by decide)) rfl
  · obtain ⟨v, _, hv⟩ := ((b (cmd 7#64 0x80000000FF080707#64 0 0 0 0 0) rfl rfl).1 (by decide) (z2 _ _)).2.2 (by unfold FwOk; decide) (by decide) (fun l hl => by
      rcases hl with rfl | rfl
      · decide
      · decide)
    exact runs_replies hv rfl
  · exact runs_replies ((b (cmd 127#64 0xFFFF0000FFFF#64 0 0 0 0 0) rfl rfl).2.1 (z2 _ _) (by decide) (by decide) (by decide)) rfl
  · intro p hp
    rcases List.mem_cons.1 hp with rfl | hp
    · obtain ⟨u, _, _, hu⟩ := (b (cmd 0#64 0 0 0 0 0 0) rfl rfl).2.2.1 (z1 _) (by decide)
      exact runs_becomes (hu.1 rfl)
    rcases List.mem_cons.1 hp with rfl | hp
    · obtain ⟨u, _, _, hu⟩ := (b (cmd 7#64 0 0 0 0 0 0) rfl rfl).2.2.1 (z1 _) (by decide)
      exact runs_becomes (hu.1 rfl)
    cases hp
  · exact runs_replies ((b (cmd 0 0x20000#64 0 0 0 0 0) rfl rfl).2.2.2.1 (z2 _ _) rfl (by decide) (by decide)) rfl
  · exact runs_replies ((b (cmd 0 0x10000000000#64 0 0 0 0 0) rfl rfl).2.2.2.2.1 (z2 _ _) rfl (by decide)) rfl
  · exact runs_replies ((b (cmd 7#64 3#64 0 0 0 0 0) rfl rfl).2.2.2.2.2.1 (z2 _ _) (by decide) (by decide)) rfl

/-- A slice with a core of another partition, and one without; each register read back, of the first and the last die and device. -/
theorem witness_slices (h : Obligations.Configuration) : Runs (.sliceset (dbg .hypervisor (cmd 0 0x1000000#64 0 0 0 0 0))) stPart ∧ Runs (.sliceset (dbg .hypervisor (cmd 31#64 0 0 0 0 0 0))) stPart
    ∧ Runs (.cfgread (dbg .hypervisor (cmd 112#64 0 0 0 0 0 0))) stPart ∧ Runs (.cfgread (dbg .hypervisor (cmd 0xF71#64 0 0 0 0 0 0))) stPart ∧ Runs (.cfgread (dbg .hypervisor (cmd 2#64 0 0 0 0 0 0))) stPart
    ∧ Runs (.cfgread (dbg .hypervisor (cmd 3#64 0x20000#64 0 0 0 0 0))) stPart := by
  have b (c : MgmtCmd) (hr : c.rsv = 0#64) (hd : c.done.toNat % 16 = 0) := (h (dbg .hypervisor c) stPart (boxOk stPart .hypervisor c 2 rfl rfl hr hd (Nat.le_refl 2))).2.2.2.2.2.2
  have z1 (a0 : W64) : restZero (cmd a0 0 0 0 0 0 0) 1 := ⟨fun _ => rfl, fun _ => rfl, fun _ => rfl, rfl, rfl⟩
  refine ⟨?_, ?_, runs_replies ((b (cmd 112#64 0 0 0 0 0 0) rfl rfl).2.1 7 0 (by decide) (by decide) (z1 _) |>.1 rfl) rfl, runs_replies ((b (cmd 0xF71#64 0 0 0 0 0 0) rfl rfl).2.1 7 15 (by decide) (by decide) (z1 _) |>.2.1 rfl) rfl,
    runs_replies ((b (cmd 2#64 0 0 0 0 0 0) rfl rfl).2.1 0 0 (by decide) (by decide) (z1 _) |>.2.2 rfl) rfl,
    runs_replies ((b (cmd 3#64 0x20000#64 0 0 0 0 0) rfl rfl).2.2 ⟨fun h => absurd h (by decide), fun _ => rfl, fun _ => rfl, rfl, rfl⟩ rfl (by decide) (by decide) (by decide)) rfl⟩
  · exact runs_replies (((b (cmd 0 0x1000000#64 0 0 0 0 0) rfl rfl).1 rfl rfl (by decide)).1 ⟨24, by decide, by decide, by decide⟩) rfl
  · obtain ⟨l, _, hl⟩ := ((b (cmd 31#64 0 0 0 0 0 0) rfl rfl).1 rfl rfl (by decide)).2 (fun i hi e => by
      have : (if i < 64 then (0 : W64) else if i < 128 then 0 else 0).getLsbD (i % 64) = false := by split <;> simp
      exact absurd (this.symm.trans e) (by decide)) (fun e he => by cases he)
    exact runs_replies hl rfl

def stTd (t : Tdisp) : State := stMgmt.modLd 0 (fun l => { l with tdisp := t })
/-- The device in each of its four states, busy and not, with queues and without. -/
theorem witness_trusted (h : Obligations.TrustedInterface) : Runs (.lockInterfaceRequest 0) (stTd .run) ∧ Runs (.lockInterfaceRequest 0) { stTd .unlocked with groups := [(0, grp0)] } ∧ Runs (.lockInterfaceRequest 0) (stTd .unlocked) ∧ Runs (.lockInterfaceRequest 0) { stTd .unlocked with queues := [] }
    ∧ Runs (.startInterfaceRequest 0) (stTd .run) ∧ Runs (.startInterfaceRequest 0) (stTd .locked) ∧ (∀ t, Runs (.stopInterfaceRequest 0) (stTd t)) ∧ (∀ t, Runs (.functionLevelReset 0) (stTd t)) ∧ (∀ t, Runs (.ideIntegrityFailure 0) (stTd t)) ∧ (∀ t, Runs (.interfaceReport 0) (stTd t))
    ∧ Runs (.interfaceReport 0) { stTd .run with stage := 0 } := by
  have q (t : Tdisp) := (h 0 (stTd t)).2 rfl
  have e (t : Tdisp) : ((stTd t).ldev 0).tdisp = t := rfl
  have quiet (t : Tdisp) : ¬ ∃ e ∈ (stTd t).groups, e.2.ld = 0 ∧ e.2.mill = none ∧ alive e.2 = true := fun ⟨e, he, _⟩ => by cases he
  refine ⟨runs_becomes ((q .run).1 (.inl (by rw [show ((stTd .run).ldev ((0 : Fin 16) : Nat)).tdisp = .run from rfl]; decide))), runs_becomes (((h 0 { stTd .unlocked with groups := [(0, grp0)] }).2 rfl).1 (.inr ⟨_, .head _, rfl, rfl, rfl⟩)), ?_, ?_, ?_, ?_, ?_, ?_, ?_, ?_, ?_⟩
  · cases hb : valOf false (queuesEmpty 0) (stTd .unlocked) with
    | true => exact runs_becomes (((q .unlocked).2.1 true (endOf (queuesEmpty 0) (stTd .unlocked)) (e .unlocked) (quiet _) (run_val false _ _ _ (by decide) hb)).1 rfl)
    | false => exact runs_becomes (((q .unlocked).2.1 false (endOf (queuesEmpty 0) (stTd .unlocked)) (e .unlocked) (quiet _) (run_val false _ _ _ (by decide) hb)).2 rfl)
  · exact runs_becomes ((((h 0 { stTd .unlocked with queues := [] }).2 rfl).2.1 true { stTd .unlocked with queues := [] } (e .unlocked) (quiet .unlocked) (((h 0 { stTd .unlocked with queues := [] }).2 rfl).2.2.1 (fun e he => by cases he))).1 rfl)
  · exact runs_becomes ((q .run).2.2.2.1 (by rw [show ((stTd .run).ldev ((0 : Fin 16) : Nat)).tdisp = .run from rfl]; decide))
  · exact runs_becomes ((q .locked).2.2.2.2.1 (e .locked) rfl)
  · intro t
    by_cases ht : t = .unlocked
    · subst ht; exact runs_becomes ((q .unlocked).2.2.2.2.2.1 (e .unlocked))
    · obtain ⟨u, _, _, _, _, _, hu⟩ := (q t).2.2.2.2.2.2.1
      exact runs_becomes (hu ht)
  · intro t
    obtain ⟨u, _, _, _, _, hu, _⟩ := (q t).2.2.2.2.2.2.1
    exact runs_becomes hu
  · intro t
    have idle := (q t).2.2.2.2.2.2.2.1
    have act := (q t).2.2.2.2.2.2.2.2.1
    cases t with
    | unlocked => exact runs_becomes (idle (.inl rfl))
    | error => exact runs_becomes (idle (.inr rfl))
    | locked => obtain ⟨u, hu, _⟩ := act (.inl rfl) rfl; exact runs_becomes hu
    | run => obtain ⟨u, hu, _⟩ := act (.inr rfl) rfl; exact runs_becomes hu
  · intro t
    obtain ⟨i, o, hu, _⟩ := (q t).2.2.2.2.2.2.2.2.2
    exact runs_becomes hu
  · exact runs_becomes ((h 0 { stTd .run with stage := 0 }).1 rfl _ (by repeat constructor))

/-! ### A host's and a peer's accesses -/

/-- Die 0 has joined; a keep cell at 0x20800 with one sibling. -/
def stHost (t : Tdisp) : State := let s := stTd t; { s.setDie 0 { s.die 0 with up := true } with keeps := [(0x20800, { g := 0#16, writer := [], c := [], sibs := [(5#64, none)] })] }
theorem bar_ok (t : Tdisp) (ht : t ≠ .error) (a n : Nat) (hn : 1 ≤ n) (ha : (stHost .unlocked).frameOk 0 a n = true) (hd : a / 2 ^ 37 = 0) : BarOk (stHost t) 0 a n :=
  ⟨rfl, .inr rfl, ht, hn, ha, by rw [hd]; rfl⟩

/-- Outside the stacks, of no bytes, the last bytes before a held cell, the cell; the widths and alignments of atomics. -/
theorem witness_hostAccesses (h : hostAccessesRule) : let s := stHost .unlocked
    Runs (.hostMemoryRead 0 0x10000000000#64 4) s ∧ Runs (.hostMemoryWrite 0 0#64 []) s ∧ Runs (.hostMemoryRead 0 0x207F8#64 8) s ∧ Runs (.hostMemoryRead 0 0x20800#64 8) s ∧ Runs (.hostMemoryWrite 0 0x207FF#64 [1#8, 2#8]) s
    ∧ Runs (.hostMemoryWrite 0 0x20800#64 (List.replicate 8 1#8)) s ∧ Runs (.hostAtomicop 0 .cas128 0x20000#64 8 0 0) s ∧ Runs (.hostAtomicop 0 .swap 0x20000#64 2 0 0) s ∧ Runs (.hostAtomicop 0 .swap 0x20002#64 4 0 0) s ∧ Runs (.hostAtomicop 0 .swap 0x20800#64 8 0 0) s
    ∧ Runs (.hostAtomicop 0 .fetchAdd 0x20000#64 4 1 0) s ∧ Runs (.hostAtomicop 0 .swap 0x20000#64 8 1 0) s ∧ Runs (.hostAtomicop 0 .cas 0x20004#64 4 0 1) s ∧ Runs (.hostAtomicop 0 .cas 0x20004#64 4 7 1) s := by
  intro s
  have q (a : W64) (n : Nat) (bs : List W8) := (h 0 s).1 a n bs
  have ok (a n : Nat) (hn : 1 ≤ n) (ha : s.frameOk 0 a n = true) (hd : a / 2 ^ 37 = 0) : BarOk s 0 a n := bar_ok .unlocked (by decide) a n hn ha hd
  refine ⟨runs_becomes ((q 0x10000000000#64 4 []).1 (fun k => absurd k.2.2.2.2.1 (by decide)) rfl (by decide)).1, runs_becomes (((q 0#64 0 []).1 (fun k => absurd k.2.2.2.1 (by decide)) rfl (by decide)).2 rfl), ?_, ?_, ?_, ?_, ?_, ?_, ?_, ?_, ?_, ?_, ?_, ?_⟩
  · exact runs_becomes ((q 0x207F8#64 8 []).2.1 (ok _ _ (by decide) (by decide) (by decide)) (by decide))
  · exact runs_becomes ((q 0x20800#64 8 []).2.2.1 _ (ok _ _ (by decide) (by decide) (by decide)) (by decide) rfl rfl)
  · obtain ⟨m, _, hm⟩ := (q 0x207FF#64 0 [1#8, 2#8]).2.2.2.1 (ok _ _ (by decide) (by decide) (by decide)) rfl (by decide)
    exact runs_becomes hm
  · exact runs_becomes ((q 0x20800#64 0 (List.replicate 8 1#8)).2.2.2.2.1 (ok _ _ (by decide) (by decide) (by decide)) (by decide) (by decide) (by decide))
  · exact runs_becomes (((q 0x20000#64 8 []).2.2.2.2.2 .cas128 0 0).1 (.inl rfl) rfl)
  · exact runs_becomes (((q 0x20000#64 2 []).2.2.2.2.2 .swap 0 0).1 (.inr (.inl (by decide))) rfl)
  · exact runs_becomes (((q 0x20002#64 4 []).2.2.2.2.2 .swap 0 0).1 (.inr (.inr (.inl (by decide)))) rfl)
  · exact runs_becomes (((q 0x20800#64 8 []).2.2.2.2.2 .swap 0 0).1 (.inr (.inr (.inr (.inr (by decide))))) rfl)
  · exact runs_becomes ((((q 0x20000#64 4 []).2.2.2.2.2 .fetchAdd 1 0).2 (.inl rfl) (by decide) (ok _ _ (by decide) (by decide) (by decide)) (by decide) rfl).1 rfl)
  · exact runs_becomes ((((q 0x20000#64 8 []).2.2.2.2.2 .swap 1 0).2 (.inr rfl) (by decide) (ok _ _ (by decide) (by decide) (by decide)) (by decide) rfl).2.1 rfl)
  · exact runs_becomes ((((q 0x20004#64 4 []).2.2.2.2.2 .cas 0 1).2 (.inl rfl) (by decide) (ok _ _ (by decide) (by decide) (by decide)) (by decide) rfl).2.2 rfl)
  · exact runs_becomes ((((q 0x20004#64 4 []).2.2.2.2.2 .cas 7 1).2 (.inl rfl) (by decide) (ok _ _ (by decide) (by decide) (by decide)) (by decide) rfl).2.2 rfl)

/-- No MSI-X entry is set. -/
theorem no_msix : ∀ b, 0x3000 ≤ b → b < 0x3100 → rd ((stHost .unlocked).ldev 0).bar0 b = 0#8 := by
  have h : ∀ k : Fin 256, rd ((stHost .unlocked).ldev 0).bar0 (0x3000 + k.val) = 0#8 := by decide +kernel
  intro b h1 h2
  have := h ⟨b - 0x3000, by omega⟩
  rwa [show 0x3000 + (b - 0x3000) = b by omega] at this

/-- A PAGEREQ block. -/
def pageReqBlock : List W8 := gen 64 (fun i => if i = 0 then 14#8 else if i = 16 then 1#8 else 0#8)
/-- The first frozen byte and the last, of a locked, a failed and an unlocked device; the window table; a management command, first block and last. -/
theorem witness_registerWrites (h : hostAccessesRule) : Runs (.registerWrite 0 0x8000 [1#8]) (stHost .locked) ∧ Runs (.registerWrite 0 0x11FFF [1#8]) (stHost .run) ∧ Runs (.registerWrite 0 0x8000 [1#8]) (stHost .error) ∧ Runs (.registerWrite 0 0x3000 [1#8]) (stHost .unlocked)
    ∧ Runs (.registerWrite 0 0x1FFFF [1#8]) (stHost .unlocked) ∧ Runs (.registerWrite 0 0x20000 [1#8]) (stHost .unlocked) ∧ Runs (.registerWrite 0 0x207FF [1#8]) (stHost .unlocked)
    ∧ exec (.registerWrite 0 0x2000 pageReqBlock) (stHost .unlocked) = exec (.pagereq (blockCmd 0 pageReqBlock)) (stHost .unlocked) ∧ exec (.registerWrite 0 0x2FC0 pageReqBlock) (stHost .unlocked) = exec (.pagereq (blockCmd 0 pageReqBlock)) (stHost .unlocked) := by
  have q (t : Tdisp) (o : Nat) (bs : List W8) (hb : bs ≠ []) (ho : o + bs.length ≤ 2 ^ 24) := (h 0 (stHost t)).2.1 o bs rfl (.inr rfl) hb ho
  refine ⟨runs_becomes ((q .locked 0x8000 [1#8] (by decide) (by decide)).1 ⟨0, by decide, by decide, by decide⟩ (.inl rfl)).1, runs_becomes ((q .run 0x11FFF [1#8] (by decide) (by decide)).1 ⟨0, by decide, by decide, by decide⟩ (.inr rfl)).1,
    runs_becomes ((q .error 0x8000 [1#8] (by decide) (by decide)).2.1 ⟨0, by decide, by decide, by decide⟩ rfl), ?_, ?_, ?_, ?_, ?_, ?_⟩
  · obtain ⟨m, _, hm⟩ := (q .unlocked 0x3000 [1#8] (by decide) (by decide)).2.2.1 rfl ⟨by decide, by decide⟩ no_msix
    exact runs_becomes hm
  · obtain ⟨m, _, hm⟩ := (q .unlocked 0x1FFFF [1#8] (by decide) (by decide)).2.2.1 rfl ⟨by decide, by decide⟩ no_msix
    exact runs_becomes hm
  · exact runs_becomes ((q .unlocked 0x20000 [1#8] (by decide) (by decide)).2.2.2.1 (by decide) (by decide))
  · exact runs_becomes ((q .unlocked 0x207FF [1#8] (by decide) (by decide)).2.2.2.1 (by decide) (by decide))
  · exact (q .unlocked 0x2000 pageReqBlock (by decide) (by decide)).2.2.2.2 (14, .pagereq) (by repeat constructor) rfl (by decide) (by decide) (by decide) (by decide)
  · exact (q .unlocked 0x2FC0 pageReqBlock (by decide) (by decide)).2.2.2.2 (14, .pagereq) (by repeat constructor) rfl (by decide) (by decide) (by decide) (by decide)

/-- Registers read: the start status, of a module that serves and of one that does not; the device's own; the last port's; a frozen byte and one that is none; and a read while dark. -/
theorem witness_registerReads (h : hostAccessesRule) : Runs (.hostMemoryRead 0 0x8000000000000010#64 8) (stHost .run) ∧ Runs (.hostMemoryRead 0 0x8000000000000000#64 16) { stHost .run with stage := 0 } ∧ Runs (.hostMemoryRead 0 0x8000000000000000#64 8) (stHost .run)
    ∧ Runs (.hostMemoryRead 0 0x8000000000000008#64 8) (stHost .run) ∧ Runs (.hostMemoryRead 0 0x80000000000006F8#64 8) (stHost .run) ∧ Runs (.hostMemoryRead 0 0x8000000000008000#64 1) (stHost .run) ∧ Runs (.hostMemoryRead 0 0x8000000000FFFFFF#64 1) (stHost .run) := by
  have q := (h 0 (stHost .run)).2.2
  refine ⟨runs_becomes ((q 0x10 8).1 rfl rfl rfl), runs_becomes (((h 0 { stHost .run with stage := 0 }).2.2 0 16).2.1 rfl rfl (by decide)), runs_becomes ((q 0 8).2.2.1 rfl rfl rfl), runs_becomes ((q 8 8).2.2.2.1 rfl rfl rfl),
    runs_becomes ((q 0x6F8 8).2.2.2.2.1 95 (by decide) rfl rfl rfl), ?_, ?_⟩
  · obtain ⟨b, _, hb, _⟩ := (q 0x8000 1).2.2.2.2.2 rfl (by decide)
    exact runs_becomes hb
  · obtain ⟨b, _, hb, _⟩ := (q 0xFFFFFF 1).2.2.2.2.2 rfl (by decide)
    exact runs_becomes hb

/-- Window 0 lies at 0x20000 with 64 bytes and lets every access in; port 0 is in state `st`; the queue at 0x20000 takes appends from peers. -/
def stWindow (st : Nat) : State :=
  let s := stHost .unlocked
  let s := s.modLd 0 (fun l => { l with bar0 := wrN l.bar0 0x20000 (gen 32 (fun i => if i = 2 then 2#8 else if i = 16 then 64#8 else if i = 24 then 15#8 else if 30 ≤ i then 255#8 else 0#8)) })
  { s.setPort 0 { s.port 0 with state := st } with queues := [(5, { queue0 with peerAppend := true })] }
theorem wide_host : Wide (stHost .unlocked) := ⟨⟨_, rfl, rfl⟩, wide_mgmt.p0, wide_mgmt.p1, wide_mgmt.p2, by decide, by decide, by decide, by decide, rfl, rfl, (fun e he => by cases he), rfl⟩
theorem wide_window0 : Wide (stWindow 0) := ⟨⟨_, rfl, by decide⟩, wide_mgmt.p0, wide_mgmt.p1, wide_mgmt.p2, wide_host.f0, wide_host.f1, wide_host.f2, wide_host.f3, rfl, rfl, (fun e he => by cases he), rfl⟩
theorem wide_window (st : Nat) : Wide (stWindow st) := wide_window0.keep rfl rfl (fun _ => rfl) rfl rfl rfl rfl
/-- The same with two slots in use. -/
def stWindowFull : State := { stWindow 2 with dmem := wrN (stWindow 2).dmem 0x20010 (toLe 8 2) }
theorem wide_full : Wide stWindowFull := (wide_window 2).put _ _ (by decide)
def peerAt (w : Fin 64) (write append : Bool) (off size : Nat) : PeerAccess := { window := w, peer := 7#16, write := write, append := append, offset := off, size := size, data := [1#8] }

/-- A port that is down; a window that is not valid, an access one byte past its end, of the last bytes; a read and a write; an append of another size, to a full queue and to one with room. -/
theorem witness_fabricWindows (h : fabricWindowsRule) : (∀ st ∈ [0, 1, 5], Runs (.fileskWindowAccess 0 0 (peerAt 0 false false 0 8)) (stWindow st)) ∧ Runs (.fileskWindowAccess 0 0 (peerAt 63 false false 0 8)) (stWindow 2) ∧ Runs (.fileskWindowAccess 0 0 (peerAt 0 false false 57 8)) (stWindow 2)
    ∧ Runs (.fileskWindowAccess 0 0 (peerAt 0 false false 56 8)) (stWindow 4) ∧ Runs (.fileskWindowAccess 0 0 (peerAt 0 true false 56 8)) (stWindow 3) ∧ Runs (.fileskWindowAccess 0 0 (peerAt 0 true true 0 8)) (stWindow 2) ∧ Runs (.fileskWindowAccess 0 0 (peerAt 0 true true 0 64)) stWindowFull
    ∧ Runs (.fileskWindowAccess 0 0 (peerAt 0 true true 0 64)) (stWindow 2) := by
  have q (st : Nat) (a : PeerAccess) (hs : st = 2 ∨ st = 3 ∨ st = 4) := (h 0 0 a (stWindow st)).2 hs (.inr rfl) (fun e => by cases (show Tdisp.unlocked = .error from e)) rfl rfl
  have r (a : PeerAccess) := (h 0 0 a stWindowFull).2 (.inl rfl) (.inr rfl) (by decide) rfl (by decide)
  refine ⟨fun st hst => ?_, runs_becomes ((q 2 (peerAt 63 false false 0 8) (.inl rfl)).1 (by decide)), runs_becomes ((q 2 (peerAt 0 false false 57 8) (.inl rfl)).1 (by decide)), ?_, ?_, ?_, ?_, ?_⟩
  · rcases List.mem_cons.1 hst with rfl | hst
    · exact runs_becomes ((h 0 0 (peerAt 0 false false 0 8) (stWindow 0)).1 (.inl rfl))
    rcases List.mem_cons.1 hst with rfl | hst
    · exact runs_becomes ((h 0 0 (peerAt 0 false false 0 8) (stWindow 1)).1 (.inr (.inl rfl)))
    rcases List.mem_cons.1 hst with rfl | hst
    · exact runs_becomes ((h 0 0 (peerAt 0 false false 0 8) (stWindow 5)).1 (.inr (.inr rfl)))
    cases hst
  · exact runs_becomes (((q 4 (peerAt 0 false false 56 8) (.inr (.inr rfl))).2.1 [(.dev 0x20038, List.replicate 8 0#8)] (stWindow 4) (by decide) rfl ((wide_window 4).target (va := 0x20038#64) (by decide) (by decide) (by decide)) (fun t ht => by
      rcases List.mem_cons.1 ht with rfl | ht
      · exact ⟨_, rfl⟩
      cases ht) rfl).1 rfl)
  · exact runs_becomes (((q 3 (peerAt 0 true false 56 8) (.inr (.inl rfl))).2.1 [(.dev 0x20038, [1#8, 0#8, 0#8, 0#8, 0#8, 0#8, 0#8, 0#8])] (stWindow 3) (by decide) rfl ((wide_window 3).target (va := 0x20038#64) (by decide) (by decide) (by decide)) (fun t ht => by
      rcases List.mem_cons.1 ht with rfl | ht
      · exact ⟨_, rfl⟩
      cases ht) rfl).2 rfl)
  · exact runs_becomes ((q 2 (peerAt 0 true true 0 8) (.inl rfl)).2.2.1 (by decide) rfl (.inl (by decide)))
  · exact runs_becomes ((((r (peerAt 0 true true 0 64)).2.2.2 5 { queue0 with peerAppend := true } (gen 64 (fun i => if i = 0 then 0x40#8 else if i = 2 then 2#8 else if i = 8 then 1#8 else if i = 16 then 2#8 else 0#8)) [] [] stWindowFull State.reset State.reset (by decide) rfl rfl (by decide) (by decide) rfl
      (wide_full.reads (va := 0x20000#64) (by decide) (by decide) (by decide) (by decide +kernel)))).1 (by decide))
  · have w := wide_window 2
    exact runs_becomes ((((q 2 (peerAt 0 true true 0 64) (.inl rfl)).2.2.2 5 { queue0 with peerAppend := true } desc0 _ _ (stWindow 2) (stWindow 2) (stWindow 2) (by decide) rfl rfl (by decide) (by decide) rfl
      (w.reads (va := 0x20000#64) (by decide) (by decide) (by decide) mgmt_reads.1))).2 (by decide) (w.target (va := 0x20040#64) (by decide) (by decide) (by decide)) rfl (w.target (va := 0x20010#64) (by decide) (by decide) (by decide)))

/-! ### Copy engines -/

/-- A command of the packet, in service for the group; the chunks it lacks as given. -/
def copy0 (started : Bool) (left : List Nat) : Copy :=
  { id := 1, queue := none, slot := 0, gid := 0, name := 0#64, ld := 0, dom := 0#16, core := 0, die := 0, site := 0#64, seq := 0#64, pk := packet0, pkva := 0x20040#64, team := 0, receivers := [0], started := started, cleared := true, index := []
    left := [(0, left)], heldData := [], sparse := none, cancel := false, fault := none, susp := 0, prio := 0, turn := 0, fabric := false, awaiting := [], spoilt := [] }
def stCopy (c : Copy) : State := { stPacket 0 0 0 with copies := [c] }

/-- A command that starts, and none; a copy unit with nothing, with a command that is over, with the last chunk and with one of two. -/
theorem witness_copyUnit (h : Obligations.CopyEngines) : Runs (.copyCommandStart 1) (stCopy (copy0 false [0])) ∧ Runs (.copyCommandStart 2) (stCopy (copy0 false [0])) ∧ Runs (.copyUnitChunk 191 0) (stCopy (copy0 true [0])) ∧ Runs (.copyUnitChunk 0 0) (stCopy { copy0 true [] with left := [] })
    ∧ Runs (.copyUnitChunk 0 0) (stCopy (copy0 true [0])) ∧ Runs (.copyUnitChunk 0 1) (stCopy (copy0 true [0, 1])) := by
  have only (c : Copy) : ∀ d ∈ (stCopy c).copies, d.id = c.id → d = c := by
    intro d hd _
    rcases List.mem_cons.1 hd with rfl | hd
    · rfl
    cases hd
  refine ⟨runs_becomes ((h (stCopy (copy0 false [0]))).1 1 _ rfl rfl rfl rfl rfl (by decide) rfl (fun _ => rfl)), runs_becomes ((h (stCopy (copy0 false [0]))).2.1 2 rfl).1, runs_becomes (((h (stCopy (copy0 true [0]))).2.2.1 191 0).1 (by decide)),
    runs_becomes ((((h (stCopy { copy0 true [] with left := [] })).2.2.1 0 0).2 _ rfl).1 rfl), ?_, ?_⟩
  · let c := copy0 true [0]
    let m := readPieces 0 { c with turn := (stCopy c).nextId } (copyPieces c.pk 0)
    let s := { stCopy c with nextId := (stCopy c).nextId + 1 }
    exact runs_becomes ((((h (stCopy c)).2.2.1 0 0).2 c rfl).2 0 0 [0] (List.replicate 4 0#8) [(0x20000#64, 4)] (endOf m s) rfl (by decide) (by decide) rfl (by decide) (by decide) rfl rfl rfl rfl rfl rfl rfl (only c) (.head _) (run_val ([], [], false) _ m s (by decide +kernel) (by decide +kernel)))
  · let c := copy0 true [0, 1]
    let m := readPieces 0 { c with turn := (stCopy c).nextId } (copyPieces c.pk 1)
    let s := { stCopy c with nextId := (stCopy c).nextId + 1 }
    exact runs_becomes ((((h (stCopy c)).2.2.1 0 1).2 c rfl).2 0 1 [0, 1] (valOf ([], [], false) m s).1 (valOf ([], [], false) m s).2.1 (endOf m s) rfl (by decide) (by decide) rfl (by decide) (by decide) rfl rfl rfl rfl rfl rfl rfl (only c) (.head _)
      ((run_end ([], [], false) m s (by decide +kernel)).trans (by rw [show valOf ([], [], false) m s = ((valOf ([], [], false) m s).1, (valOf ([], [], false) m s).2.1, false) from by decide +kernel])))

/-- A queued packet that names the group, its kind byte as given. -/
def qpacket (k : W8) : List W8 := gen 64 (fun i => if i = 0 then k else if i = 56 then 1#8 else packet0.getD i 0#8)
def queueC : Queue := { queue0 with kind := 1 }
/-- A copy queue at 0x20400 whose ring starts at 0x20440, the slot's first byte as given. -/
def stCopyQueue (k : W8) (mhalt : Bool) : State :=
  let s := stNames { grp0 with w := 16 } entHome
  let t := stPacket 0 0 0
  { s with
    stage := 2, mhalt := mhalt, queues := [(5, { queueC with desc := 0x20400#64 })], teams := t.teams, felts := t.felts, tasks := t.tasks
    dies := ins s.dies 0 { s.die 0 with up := true }
    dmem := wrN (wrN s.dmem 0x20400 (gen 64 (fun i => if i = 0 then 0x40#8 else if i = 1 then 4#8 else if i = 2 then 2#8 else if i = 8 then 1#8 else 0#8))) 0x20440 (qpacket k) }
def copyDesc : List W8 := gen 64 (fun i => if i = 0 then 0x40#8 else if i = 1 then 4#8 else if i = 2 then 2#8 else if i = 8 then 1#8 else 0#8)
def headOf (k : W8) : M (Option (Nat × List W8 × W64 × List W8)) := headSlot 5 { queueC with desc := 0x20400#64 }
def consumedC : List (W64 × List W8) := [(0x20440#64, [0#8]), (0x20418#64, toLe 8 1)]
/-- The command as it is taken into service. -/
def takenCopy (id : Nat) : Copy :=
  { copy0 false [0] with id := id, queue := some 5, name := 1#64, pk := qpacket 1#8, pkva := 0x20440#64, cleared := false }

theorem queue_head (k : W8) (h : ((headOf k).run (stCopyQueue k false)).toBool = true) (v : valOf none (headOf k) (stCopyQueue k false) = some (0, copyDesc, 0x20440#64, qpacket k)) :
    (headOf k).run (stCopyQueue k false) = .ok (some (0, copyDesc, 0x20440#64, qpacket k), endOf (headOf k) (stCopyQueue k false)) := run_val none _ _ _ h v

/-- A sound packet taken into service, the states between left open. -/
theorem takes (h : Obligations.CopyEngines) {s s1 t : State} {e : NameEnt} (hq : look s.queues 5 = some { queueC with desc := 0x20400#64 }) (hv : queueServed s { queueC with desc := 0x20400#64 } = true) (hm : s.mhalt = false)
    (hc : s.copies.countP (fun c => c.queue.isSome && c.die == 0) < 64) (hu : (s.die 0).up = true) (hh : (headOf 1#8).run s = .ok (some (0, copyDesc, 0x20440#64, qpacket 1#8), s1))
    (hr : s1.resolve 0#16 1#64 0 2 = .ok e) (h6 : e.st ≠ 6) (h5 : e.st ≠ 5) (hg : s1.holder 1#64 = some 0) (hmill : (s1.grp 0).mill = none) (ht : (s1.grp 0).team = 0)
    (hf : pkFaults (qpacket 1#8) true (s1.task (s1.grp 0).task).tcb.rows (s1.task (s1.grp 0).task).tcb.cols = []) (ho : pkOutside (qpacket 1#8) (s1.scratchSize (s1.grp 0).team) = false)
    (hw : (writes consumedC).run { s1 with nextId := s1.nextId + 1, copies := s1.copies ++ [{ takenCopy s1.nextId with team := (s1.grp 0).team, receivers := [(s1.grp 0).team], left := [((s1.grp 0).team, [0])] }] } = .ok ((), t)) : Runs (.copyQueueConsume 5) s :=
  runs_becomes (((((h s).2.2.2.1 5 _ hq).2 hv rfl hm hc hu 0 copyDesc (qpacket 1#8) 0x20440#64 s1).2 hh).2 e 0 t rfl rfl hr h6 h5 hg hmill (by decide) hf rfl ho hw)

/-- MHALT; an empty slot; the least malformed kind; a sound packet. -/
theorem witness_copyQueue (h : Obligations.CopyEngines) : Runs (.copyQueueConsume 5) (stCopyQueue 1#8 true) ∧ Runs (.copyQueueConsume 5) (stCopyQueue 0#8 false) ∧ Runs (.copyQueueConsume 5) (stCopyQueue 2#8 false) ∧ Runs (.copyQueueConsume 5) (stCopyQueue 1#8 false) := by
  have q (k : W8) := ((h (stCopyQueue k false)).2.2.2.1 5 { queueC with desc := 0x20400#64 } rfl).2 rfl rfl rfl (show (0 : Nat) < 64 by decide) rfl 0 copyDesc (qpacket k) 0x20440#64
  refine ⟨runs_becomes (((h (stCopyQueue 1#8 true)).2.2.2.1 5 _ rfl).1 rfl), ?_, ?_, ?_⟩
  · exact runs_becomes ((q 0#8 (endOf (headOf 0#8) (stCopyQueue 0#8 false))).1 (run_val none none (headOf 0#8) (stCopyQueue 0#8 false) (by decide +kernel) (by decide +kernel)))
  · let w := writes ([(0x20420#64, toLe 4 1), (0x20428#64, toLe 8 1)] ++ consumedC)
    let s1 := endOf (headOf 2#8) (stCopyQueue 2#8 false)
    exact runs_becomes (((q 2#8 s1).2 (queue_head 2#8 (by decide +kernel) (by decide +kernel))).1 (endOf w s1) (.inl (by decide)) (run_unit w s1 (by decide +kernel)))
  · exact takes h (e := entHome) rfl rfl rfl (by decide) rfl (queue_head 1#8 (by decide +kernel) (by decide +kernel)) (resolve_ok (by decide)) (by decide) (by decide) (by decide) (by decide) (by decide) (by decide) (by decide) (run_unit _ _ (by decide +kernel))

/-- A queued command in service on die 0; the chunks it lacks as given. -/
def queued0 (left : List Nat) : Copy := { takenCopy 1 with cleared := true, started := true, left := if left = [] then [] else [(0, left)] }
def stShared (c : Copy) : State := { stCopyQueue 1#8 false with copies := [c] }
/-- An unanswered request, the states left open. -/
theorem unanswered (h : Obligations.CopyEngines) {s t : State} {c : Copy} {q : Queue} (hc : s.copy 1 = some c) (hs : 0 < c.susp) (hq : look s.queues (c.queue.getD 0) = some q) (hp : ∀ e ∈ s.ports, ¬ (e.2.partnerHalted = true ∧ some e.2.peer.toNat = q.peer))
    (hi : q.peer.isSome = true) (ho : ∀ d ∈ s.copies, d.id = 1 → d = c)
    (hf : (finishQueued { c with left := [], susp := 0, fault := some (c.fault.getD (c.susp - 1, 2, 8#64)), lost := false }).run ((s.setDie 8 { s.die 8 with clk := (s.die 8).clk + BitVec.ofNat 64 (1000000 * q.ftime) }).setCopy { c with left := [], susp := 0, fault := some (c.fault.getD (c.susp - 1, 2, 8#64)), lost := false }) = .ok ((), t)) :
    Runs (.fabricRequestTimeout 1) s := runs_becomes (((h s).2.2.2.2.2 1 c hc).2 q t hs hq hp hi ho hf)

/-- The last chunk's command, one of two chunks; no request to a peer outstanding, and one unanswered. -/
theorem witness_sharedEngine (h : Obligations.CopyEngines) : Runs (.sharedEngineChunk 0 0) (stShared (queued0 [])) ∧ Runs (.sharedEngineChunk 0 3) (stShared (queued0 [0, 1])) ∧ Runs (.fabricRequestTimeout 1) (stShared (queued0 [0])) ∧ Runs (.fabricRequestTimeout 2) (stShared (queued0 [0]))
    ∧ Runs (.fabricRequestTimeout 1) { stShared { queued0 [0] with susp := 1 } with queues := [(5, { queueC with peer := some 7 })] } := by
  refine ⟨?_, ?_, ?_, runs_becomes ((h (stShared (queued0 [0]))).2.1 2 rfl).2, ?_⟩
  · exact runs_becomes (((h (stShared (queued0 []))).2.2.2.2.1 0 0 _ rfl rfl rfl (by decide) rfl).1 (endOf (finishQueued (queued0 [])) (stShared (queued0 []))) rfl (run_unit _ _ (by decide +kernel)))
  · let c := queued0 [0, 1]
    let s := stShared c
    let d := s.die 0
    let s0 := { s with nextId := s.nextId + 1 }.setDie 0 { d with ceu := ins d.ceu c.ld ((look d.ceu c.ld).getD 0 + 1), counters := ins d.counters 4 (satAdd ((look d.counters 4).getD 0) 1) }
    let m := readPieces 0 { c with turn := s.nextId, paid := [1] } (copyPieces c.pk 1)
    exact runs_becomes (((h s).2.2.2.2.1 0 3 c rfl rfl rfl (by decide) rfl).2 0 1 [0, 1] (valOf ([], [], false) m s0).1 (valOf ([], [], false) m s0).2.1 (endOf m s0) rfl (by decide) (by decide) (by decide) rfl rfl rfl (by decide) (by decide) rfl rfl rfl rfl rfl rfl rfl
      ((run_end ([], [], false) m s0 (by decide +kernel)).trans (by rw [show valOf ([], [], false) m s0 = ((valOf ([], [], false) m s0).1, (valOf ([], [], false) m s0).2.1, false) from by decide +kernel])))
  · exact runs_becomes (((h (stShared (queued0 [0]))).2.2.2.2.2 1 _ rfl).1 rfl)
  · exact unanswered h rfl (by decide) rfl (fun e he => by cases he) rfl (fun d hd _ => by
      rcases List.mem_cons.1 hd with rfl | hd
      · rfl
      cases hd) (run_unit _ _ (by decide +kernel))

/-! ### The matrix engine -/

/-- A packet of one slab and 64 columns in format `f`, its tile at offset 256; byte 2 as given. -/
def mpacket (f b2 : Nat) : List W8 := gen 64 (fun i => if i = 0 then BitVec.ofNat 8 f else if i = 2 then BitVec.ofNat 8 b2 else if i = 14 then 1#8 else 0#8)

/-- The greatest product of each format and a clamp at either end; slab after slab. -/
theorem witness_matrixSums (h : Obligations.MatrixSums) : let l (b : W8) : List W8 := List.replicate 64 b
    (element (mpacket 4 0) [l 0x80#8] [l 0x80#8] (bytes4 0x7FFFFFFF#32)).2.1 = true ∧ (element (mpacket 5 0) [l 0x88#8] [l 0x77#8] (bytes4 0x80000000#32)).2.1 = true
    ∧ (element (mpacket 6 0) [l 0x80#8] [l 0x80#8] (bytes4 0#32 ++ bytes4 0x7FFFFFFF#32)).2.1 = true ∧ (element (mpacket 7 0) [l 0x11#8] [l 0x11#8] (bytes4 0#32 ++ bytes4 0#32)).2.1 = false
    ∧ element (mpacket 4 0) ([l 1#8] ++ [l 1#8]) ([l 2#8] ++ [l 2#8]) (bytes4 0#32) = (bytes4 256#32, false, false, false) := by
  intro l
  have n (b : W8) : (l b).length = 64 := List.length_replicate
  refine ⟨?_, ?_, ?_, ?_, ?_⟩
  · rw [((h (mpacket 4 0)).2.1 (l 0x80#8) (l 0x80#8) 0x7FFFFFFF#32 (n _) (n _)).1 rfl]; decide
  · rw [((h (mpacket 5 0)).2.1 (l 0x88#8) (l 0x77#8) 0x80000000#32 (n _) (n _)).2 rfl]; decide
  · rw [(h (mpacket 6 0)).2.2 (l 0x80#8) (l 0x80#8) 0#32 0x7FFFFFFF#32 (n _) (n _) _ (.head _) rfl]; decide
  · rw [(h (mpacket 7 0)).2.2 (l 0x11#8) (l 0x11#8) 0#32 0#32 (n _) (n _) _ (.tail _ (.head _)) rfl]; decide
  · rw [(h (mpacket 4 0)).1 (by decide) [l 1#8] [l 2#8] (l 1#8) (l 2#8) (bytes4 0#32) rfl (by
      intro x hx
      rcases List.mem_cons.1 hx with rfl | hx
      · exact n _
      rcases List.mem_cons.1 hx with rfl | hx
      · exact n _
      rcases List.mem_cons.1 hx with rfl | hx
      · exact n _
      rcases List.mem_cons.1 hx with rfl | hx
      · exact n _
      cases hx) rfl]
    rw [((h (mpacket 4 0)).2.1 (l 1#8) (l 2#8) 0#32 (n _) (n _)).1 rfl]
    decide

def mcmd0 (f b2 : Nat) (started : Bool) : MCmd := { MCmd.blank with id := 1, opid := 0, pb := mpacket f b2, started := started, token := false, act := 0xFFFF#64 }
def stMq (q : List MCmd) : State :=
  let s := stMatrix 0 0 1
  { s with teams := [(0, { s.team 0 with mq := q, mdone := [] })] }
/-- Contributor 1 of operation 0. -/
def mrdy0 : MCmd := { MCmd.blank with id := 2, kind := 1, opid := 0, slot := 1, token := false }
def rows0 (ns : Nat) : ARows := { gid := 0, base := 0, ns := ns, rows := gen 16 (fun k => gen 16 (vAt k)), dirty := 0#64 }
def macc0 (opk : Nat) : MCmd := { MCmd.blank with id := 1, kind := 2, ctl := BitVec.ofNat 64 (opk * 2 ^ 24), opw := BitVec.ofNat 64 (64 * 2 ^ 24), srcs := [gen 16 (vAt 0)], act := 0xFFFF#64, token := false }

theorem element_exact {pb : List W8} (h : 4 ≤ pbFmt pb) (a b : List (List W8)) (c : List W8) : (element pb a b c).2.2.1 = false ∧ (element pb a b c).2.2.2 = false := by
  unfold element
  simp only [show ¬ pbFmt pb < 4 by omega, if_false]
  split
  · exact ⟨rfl, rfl⟩
  · split <;> exact ⟨rfl, rfl⟩

/-- Operations of one and of two contributors start; one completes, and one of another depth; each kind of MACC. -/
theorem witness_matrixSteps (h : Obligations.MatrixSteps) : Runs (.matrixOperationStart 0) (stMq [mcmd0 4 0 false]) ∧ Runs (.matrixOperationStart 0) (stMq [mcmd0 4 0x10 false]) ∧ Runs (.matrixOperationStart 0) (stMq [mcmd0 4 0x10 false, mrdy0])
    ∧ Runs (.matrixOperationComplete 0 false) (stMq [mcmd0 4 0 false]) ∧ Runs (.matrixOperationComplete 0 true) (stMq [{ mcmd0 4 0 true with a := some (rows0 1) }]) ∧ Runs (.matrixOperationComplete 0 false) (stMq [{ mcmd0 4 0 true with a := some (rows0 2) }])
    ∧ Runs (.maccPerform 0) (stMq [mcmd0 4 0 false]) ∧ (∀ k : Fin 4, Runs (.maccPerform 0) (stMq [macc0 k])) := by
  have none (c : MCmd) : ∀ d ∈ ([] : List MCmd), d.id ≠ c.id ∧ d.taken ≠ some c.id ∧ ¬ (d.token = true ∧ d.closing = true) := fun d hd => by cases hd
  have stay (c : MCmd) : ∀ e ∈ (stMq [c]).groups, e.2.team = 0 → e.2.place ≠ .saved ∧ e.2.place ≠ .moving := fun e he _ => by
    rcases List.mem_cons.1 he with rfl | he
    · exact ⟨by decide, by decide⟩
    cases he
  have q (c : MCmd) (b : Bool) (ht : c.token = false) (hc : c.chain = Option.none) (hg : c.gid = 0) := h (stMq [c]) 0 c [] b rfl ht hc (none c) rfl (by rw [hg]; rfl)
  have two := h (stMq [mcmd0 4 0x10 false, mrdy0]) 0 (mcmd0 4 0x10 false) [mrdy0] false rfl rfl rfl (fun d hd => by
    rcases List.mem_cons.1 hd with rfl | hd
    · exact ⟨by decide, by decide, by decide⟩
    cases hd) rfl rfl
  refine ⟨runs_becomes ((q (mcmd0 4 0 false) false rfl rfl rfl).1 rfl rfl (by decide)), runs_becomes ((q (mcmd0 4 0x10 false) false rfl rfl rfl).2.1 rfl rfl (by decide) (fun d hd => by cases hd)), runs_becomes (two.2.2.1 mrdy0 rfl rfl (by decide) rfl rfl rfl rfl rfl rfl),
    runs_becomes ((q (mcmd0 4 0 false) false rfl rfl rfl).2.2.2.1 (by decide) rfl), ?_, ?_, runs_becomes ((q (mcmd0 4 0 false) false rfl rfl rfl).2.2.2.2.2.2.1 rfl), ?_⟩
  · have quiet (f : List W8 × Bool × Bool × Bool → Bool) (hf : ∀ a b c, f (element (mpacket 4 0) a b c) = false) (g : Nat → Nat → List W8 × Bool × Bool × Bool) (hg : ∀ r n, ∃ a b c, g r n = element (mpacket 4 0) a b c) (w k : Nat) :
        ((List.range w).flatMap (fun r => (List.range k).map (g r))).countP f = 0 := by
      refine List.countP_eq_zero.2 (fun e he => ?_)
      obtain ⟨r, _, he⟩ := List.mem_flatMap.1 he
      obtain ⟨n, _, rfl⟩ := List.mem_map.1 he
      obtain ⟨a, b, c, hg⟩ := hg r n
      rw [hg, hf]
      decide
    have k : 4 ≤ pbFmt (mpacket 4 0) := by decide
    obtain ⟨u, hu, _⟩ := (q { mcmd0 4 0 true with a := some (rows0 1) } true rfl rfl rfl).2.2.2.2.1 (rows0 1) rfl rfl rfl rfl rfl rfl (by decide) (fun e he => by
        rcases List.mem_cons.1 he with rfl | he
        · exact fun _ _ _ _ _ x => by cases x
        cases he) (fun d hd => by cases hd) (by decide) (by decide) rfl rfl (quiet _ (fun a b c => (element_exact k a b c).1) _ (fun r n => ⟨_, _, _, rfl⟩) _ _) (quiet _ (fun a b c => (element_exact k a b c).2) _ (fun r n => ⟨_, _, _, rfl⟩) _ _) (by decide)
    exact runs_becomes hu
  · obtain ⟨u, hu, _⟩ := (q { mcmd0 4 0 true with a := some (rows0 2) } false rfl rfl rfl).2.2.2.2.2.1 (rows0 2) rfl rfl rfl (by decide) (stay _) rfl
    exact runs_becomes hu
  · have m (c : MCmd) (ht : c.token = false) (hc : c.chain = Option.none) (hg : c.gid = 0) (hk : c.kind = 2) (hl : look (stMq [c]).teams 0 = some ((stMq [c]).team 0)) := (q c false ht hc hg).2.2.2.2.2.2.2 hk (stay c) hl
    rintro ⟨k, hk⟩
    match k, hk with
    | 0, _ => obtain ⟨u, hu, _⟩ := (m (macc0 0) rfl rfl rfl rfl rfl).2.2.2 (by decide) (by decide); exact runs_becomes hu
    | 1, _ => obtain ⟨u, hu, _⟩ := (m (macc0 1) rfl rfl rfl rfl rfl).2.2.1 (by decide) rfl; exact runs_becomes hu
    | 2, _ => obtain ⟨u, hu, _⟩ := (m (macc0 2) rfl rfl rfl rfl rfl).1 (by decide); exact runs_becomes hu
    | 3, _ => obtain ⟨u, hu, _⟩ := (m (macc0 3) rfl rfl rfl rfl rfl).2.1 (by decide) rfl; exact runs_becomes hu

/-! ### Ethernet ingest -/

def ing0 : Ingest := { held := [], xoff := 0#8, stopped := [], counts := [], frames := 0, dropped := 0 }
def frame0 : EthFrame := { fcsOk := true, ipOk := true, udp := true, fragment := false, size := 9216, ipv6 := false, vlan := false, pcp := 0#3, dport := 7#16, sport := 9#16, payload := [1#8] }
def held0 : HeldFrame := { win := 15, pcp := 0#3, frame := frame0, time := 0#64 }
def ingHeld : Ingest := { ing0 with held := [held0], xoff := 1#8 }
/-- An ingest port with a flow entry for port 7 and window 15, 4096 bytes at 0x22000; the window full or empty, with or without pause. -/
def stEth (full pause held : Bool) : State :=
  let s := stDebug id
  let d := toLe 8 0x22000 ++ toLe 8 0 ++ toLe 8 0x23000 ++ toLe 8 0 ++ toLe 8 ((if pause then 3 else 1) + 12 * 32) ++ toLe 24 0
  let s := s.modLd 0 (fun l => { l with bar0 := wrN (wrN l.bar0 0x30008 (toLe 8 0x80000000000F0007)) 0x305C0 d })
  let s := { s with dmem := wrN s.dmem 0x23000 (toLe 8 (if full then 4096 else 0)), ingest := [(10, if held then ingHeld else ing0)] }
  s.setDie 0 { s.die 0 with portMode := 1#2 }
theorem wide_eth (a b c : Bool) : Wide (stEth a b c) := by
  refine ⟨⟨(stEth a b c).domEntry 0#16, ?_, ?_⟩, ?_, ?_, ?_, ?_, ?_, ?_, ?_, rfl, rfl, ?_, rfl⟩ <;> cases a <;> cases b <;> cases c <;> decide

theorem Wide.tick {s : State} (hw : Wide s) (x : Die) (g : FMap Ingest) (f : Nat) (hx : x.fwctl = (s.die 0).fwctl) : Wide { { s with fresh := f }.setDie 0 x with ingest := g } := by
  refine Wide.keep hw rfl rfl (fun d => ?_) rfl rfl rfl rfl
  by_cases k : d = 0
  · subst k; simpa [State.die, State.setDie] using hx
  · simp [State.die, State.setDie, look_ins_ne _ _ (Ne.symm k)]

/-- That state with the clock read and the frame counted. -/
noncomputable def clocked (s : State) : State :=
  let v := { s with fresh := s.fresh + 1 }.setDie 0 { s.die 0 with clk := (s.die 0).clk + BitVec.ofNat 64 (Config.clockStep s.fresh) }
  { v with ingest := ins s.ingest 10 { s.ing 10 with frames := satAdd (s.ing 10).frames 1 } }
theorem Wide.clocked {s : State} (h : Wide s) : Wide (clocked s) := h.tick _ _ _ rfl
theorem eth_status (a b c : Bool) : (kread 0#16 0x23000#64 40).run (clocked (stEth a b c)) = .ok (rdN (stEth a b c).dmem 0x23000 40, clocked (stEth a b c)) :=
  (wide_eth a b c).clocked.read (by decide) (by decide) (by decide)

theorem Wide.done {i : Instr} {s s1 : State} {ws : List (W64 × List W8)} (h : Wide s1) (hk : ∀ t, Recorded s1 0#16 ws t → Runs i s) (hv : ∀ w ∈ ws, w.1.toNat + w.2.length ≤ 0x200000 ∧ 0x10008 ≤ w.1.toNat) : Runs i s :=
  (h.recorded ws hv).elim fun t ht => hk t ht.1

/-- A frame for nobody, a bad one; the window with room, full without pause, full with pause; a frame held while there is room; the idle cases. -/
theorem witness_ingest (h : Obligations.Ingest) : Runs (.ethernetFrameReceive 0 0 frame0) (stDebug id) ∧ Runs (.ingestRoffPoll 0 0) (stEth false false false) ∧ Runs (.ethernetFrameReceive 0 0 { frame0 with size := 9217 }) (stEth false false false)
    ∧ Runs (.ethernetFrameReceive 0 0 { frame0 with dport := 8#16 }) (stEth false false false) ∧ Runs (.ethernetFrameReceive 0 0 frame0) (stEth false false false) ∧ Runs (.ethernetFrameReceive 0 0 frame0) (stEth true false false)
    ∧ Runs (.ethernetFrameReceive 0 0 frame0) (stEth true true false) ∧ Runs (.ingestRoffPoll 0 0) (stEth false true true) := by
  refine ⟨runs_becomes ((h 0 0 frame0 (stDebug id)).1 rfl), runs_becomes ((h 0 0 frame0 (stEth false false false)).2.1 rfl), ?_, ?_, ?_, ?_, ?_, ?_⟩
  · exact runs_becomes (((h 0 0 { frame0 with size := 9217 } (stEth false false false)).2.2.1 rfl (.inr rfl) (by decide) rfl).1 (by decide))
  · exact runs_becomes ((((h 0 0 { frame0 with dport := 8#16 } (stEth false false false)).2.2.1 rfl (.inr rfl) (by decide) rfl).2.1 rfl rfl rfl rfl (by decide)).1 (by decide))
  · have w := ((((h 0 0 frame0 (stEth false false false)).2.2.1 rfl (.inr rfl) (by decide) rfl).2.1 rfl rfl rfl rfl (by decide)).2 1 (by decide) (by decide) (by decide)).2 _ _ (by decide) rfl rfl (by decide) (eth_status false false false)
    exact (wide_eth false false false).clocked.done (fun t ht => runs_becomes (w.1 t (by decide) (by decide) (by decide) rfl ht)) (by decide)
  · have w := (((((h 0 0 frame0 (stEth true false false)).2.2.1 rfl (.inr rfl) (by decide) rfl).2.1 rfl rfl rfl rfl (by decide)).2 1 (by decide) (by decide) (by decide)).2 _ _ (by decide) rfl rfl (by decide) (eth_status true false false)).2.1
    exact (wide_eth true false false).clocked.done (fun t ht => runs_becomes (w _ _ t (by decide) (by decide) (by decide) (by decide) ((wide_eth true false false).clocked.read (by decide) (by decide) (by decide)) ht)) (by decide)
  · exact runs_becomes ((((((h 0 0 frame0 (stEth true true false)).2.2.1 rfl (.inr rfl) (by decide) rfl).2.1 rfl rfl rfl rfl (by decide)).2 1 (by decide) (by decide) (by decide)).2 _ _ (by decide) rfl rfl (by decide) (eth_status true true false)).2.2 (by decide) (by decide) (by decide) (by decide) rfl)
  · have w := fun t => (h 0 0 frame0 (stEth false true true)).2.2.1 rfl (.inr rfl) (by decide) rfl |>.2.2 held0 _ _ t rfl rfl (by decide) rfl (by decide) ((wide_eth false true true).read (by decide) (by decide) (by decide)) (by decide) (by decide) (by decide)
    exact (wide_eth false true true).done (fun t ht => (w t ht).elim fun u hu => runs_becomes hu.1) (by decide)

/-- A team of a task that has been placed again `n` times, a threshold's crossing waiting to be told. -/
def stAgain (n : Nat) (fired : Bool) : State :=
  let s := stTeam grp0 {}
  { s with runs := [], focus := none, tasks := s.tasks.map (fun e => (e.1, { e.2 with relaunches := n, fpfired := fired, fpcross := some (0, 0x20000#64, 1#64, 2#64) })) }
/-- A team that has retired. -/
def stRetired : State := let s := stTeam grp0 {}; { s with teams := s.teams.map (fun e => (e.1, { e.2 with retired := true })) }
def sample0 (left : Nat) : Sample := { k := 16, lfsr := 1#32, left := left, tag := false, ring := { desc := 0#64, mask := 0, dom0 := 0, domn := 0 }, ld := 0 }

/-- A crossing told of and not; the budget's period; samples absent, unripe and due, at the last site; a keep cell absent and present at its greatest generation; a team's stores wrong the first, the
fourth and a third time; a team that has retired. -/
theorem witness_faultsAndPeriods (h : Obligations.FaultsAndPeriods) : Runs (.fpThreshold 1) (stAgain 0 false) ∧ Runs (.fpThreshold 0) (stAgain 0 true) ∧ Runs (.fpThreshold 0) (stAgain 0 false) ∧ Runs (.budgetPeriod 7) (stAgain 0 false)
    ∧ Runs (.sampleTag 191 7) (stAgain 0 false) ∧ Runs (.sampleTag 191 7) { stAgain 0 false with samples := [(1535, sample0 1)] } ∧ Runs (.sampleTag 191 7) { stAgain 0 false with samples := [(1535, sample0 0)] }
    ∧ Runs (.storageError (.keepState 15)) (stAgain 0 false) ∧ Runs (.storageError (.keepState 15)) { stAgain 0 false with keeps := [(8, { g := 0xFFFF#16, writer := [], c := [], sibs := [(5#64, none)] })] }
    ∧ (∀ i ∈ ([.teamStore 0, .syncState 0, .readData 0] : List StorageSite), Runs (.storageError i) (stAgain 0 false) ∧ Runs (.storageError i) (stAgain 2 false) ∧ Runs (.storageError i) (stAgain 3 false))
    ∧ Runs (.storageError (.registers 0)) stRetired ∧ Runs (.storageError (.treeStore 0)) stRetired := by
  have a (n : Nat) (f : Bool) := h (stAgain n f)
  have site (samples : FMap Sample) := ((h { stAgain 0 false with samples := samples }).2.2.1 191 7)
  refine ⟨runs_becomes (((a 0 false).1 1).1 (.inl rfl)), runs_becomes (((a 0 true).1 0).1 (.inr rfl)), runs_becomes (((a 0 false).1 0).2 _ _ _ _ rfl rfl rfl rfl (by decide)), ?_, runs_becomes ((site []).1 rfl),
    runs_becomes ((site [(1535, sample0 1)]).2.1 _ rfl (.inl (by decide))), ?_, runs_becomes (((a 0 false).2.2.2.2.1 15).1 rfl), ?_, ?_,
    runs_becomes ((h stRetired).2.2.2.2.2.2 0 0 _ rfl rfl rfl).1, runs_becomes ((h stRetired).2.2.2.2.2.2 0 0 _ rfl rfl rfl).2⟩
  · exact ((a 0 false).2.1 7 rfl).elim fun _ k => runs_becomes k.2
  · exact ((site [(1535, sample0 0)]).2.2 _ rfl rfl rfl).elim fun _ k => runs_becomes k.2.2
  · exact (((h { stAgain 0 false with keeps := [(8, { g := 0xFFFF#16, writer := [], c := [], sibs := [(5#64, none)] })] }).2.2.2.2.1 15).2 _ rfl (by decide) rfl (by decide)).elim fun _ k => runs_becomes k.1
  · intro i hi
    have e (n : Nat) := (a n false).2.2.2.2.2.1 0 _ rfl rfl (show (0 : Nat) ∉ [] from List.not_mem_nil) rfl i hi
    exact ⟨((e 0).1 (by decide) rfl).elim fun _ k => runs_becomes k.1, ((e 2).1 (by decide) rfl).elim fun _ k => runs_becomes k.1, runs_becomes ((e 3).2 _ (by decide) (run_end () _ _ (by decide))).2⟩

/-- A module with link 0 in a state. -/
def stLink (st : Nat) (lane : Bool) : State := { State.reset with stage := 1, ports := [(0, { state := st, laneLost := lane })] }
/-- A milliner of number 0, halted. -/
def stHalted (halted : Bool) : State := { State.reset with groups := [(1, { Group.blank with mill := some 0, started := true, halted := halted })] }
def img (a b : Bool) : ImageCheck := { preutA := a, preutB := true, millinerA := b, millinerB := b }

/-- A milliner of number 0 that holds name 1, whose entry lives. -/
def stNamed : State := { stNames grp0 entHome with groups := [(1, { Group.blank with mill := some 0, started := true, halted := true, name := 1#64 })] }

/-- Images good and not; a die that joins, one that has, one that failed, one whose cores have no microcode, one whose wait ends; each state of a link; who may set the peer number; the start status. -/
theorem witness_startAndLinks (h : Obligations.StartAndLinks) : Runs (.moduleReset (img false true)) State.reset ∧ Runs (.moduleReset (img true false)) State.reset
    ∧ Runs (.dieJoin 7) (stLink 0 false) ∧ Runs (.dieJoin 0) ((stLink 0 false).setDie 0 { up := true }) ∧ Runs (.dieJoin 0) ((stLink 0 false).setDie 0 { failed := true }) ∧ Runs (.dieJoin 0) { stLink 0 false with images := { noMicro := true } }
    ∧ Runs (.dieJoinTimeout 7) (stLink 0 false) ∧ Runs (.dieJoinTimeout 0) ((stLink 0 false).setDie 0 { up := true })
    ∧ Runs (.fileskLinkTrain 0 5#16) (stLink 0 true) ∧ (∀ b, Runs (.fileskLinkTrain 0 5#16) (stLink 1 b)) ∧ Runs (.fileskLinkTrain 0 5#16) (stLink 2 false) ∧ Runs (.fileskPartnerTimeout 0) (stLink 1 false) ∧ Runs (.fileskPartnerTimeout 0) (stLink 0 false)
    ∧ Runs (.fileskPartnerHalt 0 true) (stLink 2 false) ∧ Runs (.fileskPartnerHalt 0 false) (stLink 3 false) ∧ Runs (.fileskPartnerHalt 0 false) (stLink 4 false) ∧ Runs (.fileskPartnerHalt 0 true) (stLink 4 false)
    ∧ Runs (.peerNumberAssign .maker 0xFFFE#16) State.reset ∧ Runs (.peerNumberAssign .hypervisor 0#16) State.reset ∧ Runs (.peerNumberAssign .maker 0xFFFF#16) State.reset ∧ Runs (.peerNumberAssign .guest 0#16) State.reset
    ∧ Runs (.makerSessionOpen 15 true true) State.reset ∧ ((stLink 0 false).startst.extractLsb' 0 8).toNat = 1 := by
  have r := h State.reset
  have d (s : State) (k : Fin 8) := (h s).2.1 k
  have l (st : Nat) (b : Bool) := (d (stLink st b) 0).2.2.2.2 0 5#16
  exact ⟨(r.1 (img false true)).elim fun _ k => runs_becomes k.1, (r.1 (img true false)).elim fun _ k => runs_becomes k.1,
    runs_becomes ((d (stLink 0 false) 7).1 (.inl rfl) rfl rfl rfl), runs_becomes ((d _ 0).2.1 (.inl rfl)), runs_becomes ((d _ 0).2.1 (.inr (.inl rfl))), runs_becomes ((d _ 0).2.1 (.inr (.inr rfl))),
    runs_becomes ((d (stLink 0 false) 7).2.2.1 (.inl rfl) rfl), runs_becomes ((d _ 0).2.2.2.1 rfl),
    runs_becomes ((l 0 true).1 rfl (.inl rfl)), fun b => runs_becomes ((l 1 b).2.1 rfl (.inl rfl)), runs_becomes (((l 2 false).2.2.1 (by decide)).1 (by decide)), runs_becomes ((l 1 false).2.2.1 (by decide)).2, runs_becomes ((l 0 false).2.2.2.1 rfl),
    runs_becomes ((l 2 false).2.2.2.2.1 (.inl rfl)).1, runs_becomes ((l 3 false).2.2.2.2.1 (.inr rfl)).2, runs_becomes ((l 4 false).2.2.2.2.2 rfl).1, runs_becomes ((l 4 false).2.2.2.2.2 rfl).2,
    runs_becomes ((r.2.2.2.1 0xFFFE#16).1 (by decide) .maker (by decide)), runs_becomes ((r.2.2.2.1 0#16).1 (by decide) .hypervisor (by decide)), runs_becomes ((r.2.2.2.1 0xFFFF#16).2.1 rfl .maker), runs_becomes ((r.2.2.2.1 0#16).2.2 .guest (by decide)),
    runs_becomes (r.2.2.2.2.1 15 true true), ((h (stLink 0 false)).2.2.2.2.2 (by decide) (by decide)).1⟩

/-- A milliner absent, running and halted, with no name and with one it holds. -/
theorem witness_millinerRestart (h : Obligations.StartAndLinks) : Runs (.millinerRestart 0 0#64) State.reset ∧ Runs (.millinerRestart 0 0#64) (stHalted false) ∧ Runs (.millinerRestart 0 3#64) (stHalted true) ∧ Runs (.millinerRestart 0 3#64) stNamed := by
  have m (s : State) := (h s).2.2.1 0
  exact ⟨runs_becomes ((m State.reset 0#64).1 (fun e k => by cases k)), runs_becomes (((m (stHalted false) 0#64).2 1 _ rfl rfl).1 ⟨rfl, rfl⟩), runs_becomes (((m (stHalted true) 3#64).2 1 _ rfl rfl).2 (.inr rfl)),
    runs_becomes (((m stNamed 3#64).2 1 _ rfl rfl).2 (.inr rfl))⟩

/-- A module whose spare core is there or not, its die 7 as given. -/
def stDie (d : Die) : State := { State.reset with stage := 1, dies := [(7, d)] }
/-- A group on core 168, which is die 7's first. -/
def stOn : State := { stDie { up := true } with groups := [(0, { grp0 with core := 168 })] }

/-- Each limit, with and without another in force; every unit's corrections; die 7's update, with and without a group there; a core with and without a spare; a link's lanes, retrained and not; either image; an empty histogram and its first and last cells. -/
theorem witness_powerAndService (h : Obligations.PowerAndService) : (∀ b, Runs (.powerLimit b) State.reset ∧ Runs (.coolantExcursion b) State.reset ∧ Runs (.thermalThrottle 7 b) State.reset) ∧ Runs (.thermalShutdown 7) State.reset
    ∧ (∀ ch, Runs (.hbmChannelSpare 7 ch) State.reset ∧ Runs (.hbmCalibration 7 ch) State.reset) ∧ Runs (.correctedError 7 .l2) State.reset ∧ Runs (.correctedError 7 (.stack 1)) State.reset
    ∧ (∀ b, Runs (.microcodeUpdate 7 b) (stDie { up := true }) ∧ Runs (.microcodeUpdate 7 b) (stDie { up := false, updating := true })) ∧ Runs (.microcodeUpdate 7 true) stOn
    ∧ Runs (.coreRetire 191) (stDie { spareCores := 1 }) ∧ Runs (.coreRetire 191) (stDie { spareCores := 0 })
    ∧ Runs (.fileskLaneLoss 0) (stLink 2 false) ∧ Runs (.fileskLaneLoss 0) (stLink 4 false) ∧ Runs (.fileskLaneLoss 0) (stLink 3 true) ∧ (∀ b, Runs (.fileskRetraining 0 b) (stLink 4 true) ∧ Runs (.fileskRetraining 0 b) (stLink 3 true) ∧ Runs (.fileskRetraining 0 b) (stLink 5 false))
    ∧ Runs (.millinerFirmwareUpdate (img true true)) State.reset ∧ Runs (.lifetimeHistogramUpdate []) State.reset ∧ Runs (.lifetimeHistogramUpdate [(512, 1)]) State.reset ∧ Runs (.lifetimeHistogramUpdate [(2232, 1)]) State.reset := by
  have r := h State.reset
  have d (s : State) (hs : s.groups = []) := (h s).2.2.2.2.1 7 |>.2.2.2.2.2.1 (by rw [hs]; intro e k; cases k)
  have c (n : Nat) := (h (stDie { spareCores := n })).2.2.2.2.2.1 191 (fun e k => by cases k)
  have l (st : Nat) (b : Bool) := (h (stLink st b)).2.2.2.2.2.2.1 0
  refine ⟨fun b => ⟨?_, ?_, ?_⟩, (r.2.2.2.2.1 7).2.2.1.elim fun _ k => runs_becomes k.1, fun ch => ⟨runs_becomes ((r.2.2.2.2.1 7).2.2.2.1 ch).1, runs_becomes ((r.2.2.2.2.1 7).2.2.2.1 ch).2⟩,
    runs_becomes ((r.2.2.2.2.1 7).2.2.2.2.1 (.l2, 256 + 32 * 7) (.head _)), runs_becomes ((r.2.2.2.2.1 7).2.2.2.2.1 (.stack 1, 196 + 8 * 7) (by repeat constructor)), fun b => ⟨?_, ?_⟩,
    runs_becomes (((h stOn).2.2.2.2.1 7).2.2.2.2.2.2 ⟨_, .head _, rfl, rfl, rfl⟩),
    runs_becomes ((c 1).1 (by decide)), runs_becomes ((c 0).2 rfl (show 191 ∉ [] from List.not_mem_nil)),
    runs_becomes ((l 2 false).1 (.inl rfl) rfl), runs_becomes ((l 4 false).2.1 rfl rfl), runs_becomes ((l 3 true).2.2.1 rfl), fun b => ⟨?_, ?_, runs_becomes ((l 5 false).2.2.2.2.2 b (.inr (.inr rfl)))⟩,
    runs_becomes (r.2.2.2.2.2.2.2.1 (img true true)), runs_becomes r.2.2.2.2.2.2.2.2.1, runs_becomes (r.2.2.2.2.2.2.2.2.2 512 1 (by decide) (by decide) (by decide)), runs_becomes (r.2.2.2.2.2.2.2.2.2 2232 1 (by decide) (by decide) (by decide))⟩ <;> cases b
  · exact r.2.1.elim fun _ k => runs_becomes k.1
  · exact r.1.elim fun _ k => runs_becomes k.1
  · exact r.2.2.2.1.elim fun _ k => runs_becomes k.1
  · exact r.2.2.1.elim fun _ k => runs_becomes k.1
  · exact (r.2.2.2.2.1 7).2.1.elim fun _ k => runs_becomes k.1
  · exact (r.2.2.2.2.1 7).1.elim fun _ k => runs_becomes k.1
  · exact runs_becomes ((d (stDie { up := true }) rfl).1 rfl)
  · exact runs_becomes ((d (stDie { up := true }) rfl).2.2.2 rfl)
  · exact runs_becomes ((d (stDie { up := false, updating := true }) rfl).2.1 rfl)
  · exact runs_becomes ((d (stDie { up := false, updating := true }) rfl).2.2.1 rfl)
  · exact runs_becomes ((l 4 true).2.2.2.1 rfl).1
  · exact runs_becomes ((l 4 true).2.2.2.1 rfl).2
  · exact runs_becomes ((l 3 true).2.2.2.2.1 (.inr rfl)).1
  · exact runs_becomes ((l 3 true).2.2.2.2.1 (.inr rfl)).2

/-- A word no instruction has, under no hints and under two immediates and a mode; a word whose operand field alone is wrong. -/
theorem witness_reservedWords (h : Obligations.ReservedWords) : Runs (.reservedWord 0#32) (st0 {}) ∧ Runs (.reservedWord 0x7FFFFFFF#32) (st0 { imm := [1#20, 2#20] }) ∧ Runs (.reservedWord 0x7B000000#32) (st0 {}) ∧ decode 0x7F000000#32 = none ∧ decode 0x01F00000#32 = none := by
  have u (h : Hints) (hb : h.bad = false) (ha : Accepts.ok { imm := 2, mode := true, ord := true, cache := true, type := true } h = true) (hp : h.pred = none) : Issuing (st0 h) (run0 h) (cx0 h) { imm := 2, mode := true, ord := true, cache := true, type := true } true := st_issuing rfl hb ha hp
  exact ⟨runs_traps ((h.1 0#32 _ _ _ (u {} rfl rfl rfl).1).1 rfl), runs_traps ((h.1 0x7FFFFFFF#32 _ _ _ (u { imm := [1#20, 2#20] } rfl rfl rfl).1).1 rfl), runs_traps ((h.1 0x7B000000#32 _ _ _ (u {} rfl rfl rfl).1).2 rfl rfl rfl),
    (h.2.1 0x7F000000#32 (by decide)).1, h.2.2 0x01F00000#32 (by decide) (by decide)⟩

/-- A vector subtraction written out, decoded and encoded again. -/
theorem witness_decodeEncode (h : Obligations.DecodeEncode) : (∃ w, encodeWord (.himm { h := 0xFFFFF#20 }) = some w ∧ decode w = some (.himm { h := 0xFFFFF#20 }))
    ∧ (∃ i, decode 0x10000001#32 = some i ∧ i.wf = true ∧ encodeWord i = some 0x10000001#32) ∧ decode 0#32 ≠ some (.reservedWord 0#32) := by
  refine ⟨⟨_, rfl, h.1 (.himm { h := 0xFFFFF#20 }) _ rfl rfl (fun v e => by cases e)⟩, ⟨_, rfl, h.2.1 0x10000001#32 _ rfl⟩, h.2.2 0#32 0#32⟩

/-- A word where the next step fetches it, and the run that fetches it. -/
def stWord : State := State.reset.withFetchWord 32 0x01012345
def cur (s : State) : Run × Cx := s.fetching.getD (run0 {}, cx0 {})
theorem cur_word {s : State} (k : s.fetching.isSome = true) : s.fetching = some (cur s) := by
  unfold cur
  cases e : s.fetching with
  | none => rw [e] at k; cases k
  | some _ => rfl
/-- The same with no page in the domain. -/
def stBare : State := { stWord with lds := State.reset.lds }

theorem tr_dev {r : Except Stop (Tr × State)} {a : Nat} (k : (match r with | .ok (.ok (.dev b) _, _) => b == a | _ => false) = true) : ∃ us v, r = .ok (.ok (.dev a) us, v) := by
  revert k
  split
  · exact fun k => ⟨_, _, by rw [beq_iff_eq.1 k]⟩
  · exact fun k => by cases k
/-- An empty word fetched in the middle of a page, one whose fetch stops; an event on the agenda, and a word there. -/
theorem witness_stepRunsDecoded (h : Obligations.StepRunsDecoded) : (∃ u a us v, (trans 0#16 (cur stWord).2.pc { x := true, user := true }).run stWord = .ok (.ok (.dev a) us, v) ∧ step stWord = keepPast stWord (exec (.himm { h := 0x12345#20 }) u)) ∧ (∃ e, step stBare = keepPast stBare (.next (stBare.stopped (cur stBare).2 (cur stBare).1 e)))
    ∧ step { State.reset with agenda := [.powerLimit true] } = keepPast { State.reset with agenda := [.powerLimit true] } (exec (.powerLimit true) State.reset) ∧ step { State.reset with agenda := [.himm { h := 0#20 }] } = .fault .wordInAgenda := by
  refine ⟨?_, ?_, ((h { State.reset with agenda := [.powerLimit true] }).2.1 _ _ rfl).1 rfl, ((h { State.reset with agenda := [.himm { h := 0#20 }] }).2.1 _ _ rfl).2 rfl⟩
  · obtain ⟨us, v, e⟩ := tr_dev (r := (trans 0#16 (cur stWord).2.pc { x := true, user := true }).run stWord) (a := (stWord.fetchSpot.getD (0, 0#64, 0)).2.2) (by decide)
    have r := (h stWord).1 (cur stWord).1 (cur stWord).2 rfl (cur_word (by decide)) |>.1 (valOf 0#32 (fetchWord (cur stWord).2.g (cur stWord).2.pc) stWord) _ (run_end 0#32 _ _ (by decide))
    have d : decode (valOf 0#32 (fetchWord (cur stWord).2.g (cur stWord).2.pc) stWord) = some (.himm { h := 0x12345#20 }) := by
      rw [r.2.2.2.2 _ us v e rfl rfl]
      decide
    refine ⟨endOf (fetchWord (cur stWord).2.g (cur stWord).2.pc) stWord, _, us, v, e, r.1.trans ?_⟩
    rw [d]
  · cases e : (fetchWord (cur stBare).2.g (cur stBare).2.pc).run stBare with
    | ok v =>
      have k : ((fetchWord (cur stBare).2.g (cur stBare).2.pc).run stBare).toBool = false := by decide
      rw [e] at k
      cases k
    | error e1 => exact ⟨e1, (h stBare).1 _ _ rfl (cur_word (by decide)) |>.2 e1 e⟩

/-- A step from reset leaves memory's form. -/
theorem witness_memoryKept (h : Obligations.MemoryKept) : ∃ t, step State.reset = .next t ∧ t.memOk := ⟨_, rfl, h State.reset _ ⟨rfl, rfl⟩ rfl⟩

/-- Words of the opcode table, its fixed bits and its operand fields set, and the instructions they stand for (1 of 13). -/
theorem test_decode1 : ∀ e ∈ ([
    (0x010088BF#32, .himm { h := 35007#20 }),
    (0x0116A000#32, .hpred { p := 3#3, s := false, c := 5#3 }),
    (0x0120D000#32, .hmode { v := false, r := 0#2, s := false, f := true, m := 5#3 }),
    (0x01370000#32, .hord { o := 3#3, c := 4#3 }),
    (0x014C0000#32, .hcache { p := 3#2 }),
    (0x01568000#32, .htype { t := 13#5 }),
    (0x029A50BB#32, .bra { z := false, u := true, p := 1#3, s := true, o := 151739#19 }),
    (0x83D27E57#32, .call { z := true, u := true, p := 5#3, s := false, o := 163415#19 }),
    (0x04000000#32, .ret { z := false }),
    (0x84012801#32, .jmpi { z := true, l := false, a := 37#6 }),
    (0x04000002#32, .exit { z := false }),
    (0x84000003#32, .yield { z := true }),
    (0x0403C804#32, .sleep { z := false, l := true, a := 57#6 }),
    (0x84000005#32, .nop { z := true }),
    (0x04000006#32, .bkpt { z := false }),
    (0x84006807#32, .trap { z := true, l := false, a := 13#6 }),
    (0x04000008#32, .trapret { z := false }),
    (0x84000009#32, .drain { z := true }),
    (0x05030E76#32, .loop { z := false, l := true, a := 33#6, i := 1654#11 }),
    (0x86A0067D#32, .csrr { z := true, d := 40#6, i := 1661#11 })] : List (W32 × Instr)), decode e.1 = some e.2 := by decide

/-- Words of the opcode table, its fixed bits and its operand fields set, and the instructions they stand for (2 of 13). -/
theorem test_decode2 : ∀ e ∈ ([
    (0x0702C9AE#32, .csrw { z := false, l := true, a := 25#6, i := 430#11 }),
    (0x888353E9#32, .tlaunch { z := true, t := 32#6, p := 53#6, l := false, q := 31#6, k := false, h := 9#4 }),
    (0x09F11F75#32, .tsucc { z := false, t := 60#6, p := 17#6, l := true, q := 59#6, k := true, h := 5#4 }),
    (0x8A62D2E1#32, .icinv { z := true, t := 24#6, p := 45#6, l := false, q := 23#6, k := false, h := 1#4 }),
    (0x0B000000#32, .ifence { z := false }),
    (0x8C000000#32, .fence { z := true }),
    (0x10B0B000#32, .salu0Add { z := false, d := 44#6, l := false, a := 22#6, m := false, b := 0#6 }),
    (0x902395C1#32, .salu0Sub { z := true, d := 8#6, l := true, a := 50#6, m := true, b := 28#6 }),
    (0x10907382#32, .salu0And { z := false, d := 36#6, l := false, a := 14#6, m := false, b := 56#6 }),
    (0x90035543#32, .salu0Or { z := true, d := 0#6, l := true, a := 42#6, m := true, b := 20#6 }),
    (0x10703304#32, .salu0Xor { z := false, d := 28#6, l := false, a := 6#6, m := false, b := 48#6 }),
    (0x90E314C5#32, .salu0Andn { z := true, d := 56#6, l := true, a := 34#6, m := true, b := 12#6 }),
    (0x1051F286#32, .salu0Shl { z := false, d := 20#6, l := false, a := 62#6, m := false, b := 40#6 }),
    (0x90C2D447#32, .salu0Shr { z := true, d := 48#6, l := true, a := 26#6, m := true, b := 4#6 }),
    (0x1031B208#32, .salu0Sar { z := false, d := 12#6, l := false, a := 54#6, m := false, b := 32#6 }),
    (0x90A297C9#32, .rotl { z := true, d := 40#6, l := true, a := 18#6, m := true, b := 60#6 }),
    (0x1011718A#32, .salu0Min { z := false, d := 4#6, l := false, a := 46#6, m := false, b := 24#6 }),
    (0x9082574B#32, .salu0Max { z := true, d := 32#6, l := true, a := 10#6, m := true, b := 52#6 }),
    (0x10F1310C#32, .minn { z := false, d := 60#6, l := false, a := 38#6, m := false, b := 16#6 }),
    (0x906216CD#32, .maxn { z := true, d := 24#6, l := true, a := 2#6, m := true, b := 44#6 })] : List (W32 × Instr)), decode e.1 = some e.2 := by decide

/-- Words of the opcode table, its fixed bits and its operand fields set, and the instructions they stand for (3 of 13). -/
theorem test_decode3 : ∀ e ∈ ([
    (0x10D0F00E#32, .salu0Mov { z := false, d := 52#6, l := false, a := 30#6 }),
    (0x9143D640#32, .mul { z := true, d := 16#6, l := true, a := 58#6, m := true, b := 36#6 }),
    (0x11B0B001#32, .mulh { z := false, d := 44#6, l := false, a := 22#6, m := false, b := 0#6 }),
    (0x912395C2#32, .mulhn { z := true, d := 8#6, l := true, a := 50#6, m := true, b := 28#6 }),
    (0x11907383#32, .div { z := false, d := 36#6, l := false, a := 14#6, m := false, b := 56#6 }),
    (0x91035544#32, .divn { z := true, d := 0#6, l := true, a := 42#6, m := true, b := 20#6 }),
    (0x11703305#32, .rem { z := false, d := 28#6, l := false, a := 6#6, m := false, b := 48#6 }),
    (0x91E314C6#32, .remn { z := true, d := 56#6, l := true, a := 34#6, m := true, b := 12#6 }),
    (0x1151F007#32, .popc { z := false, d := 20#6, l := false, a := 62#6 }),
    (0x91C2D008#32, .clz { z := true, d := 48#6, l := true, a := 26#6 }),
    (0x1131B009#32, .ctz { z := false, d := 12#6, l := false, a := 54#6 }),
    (0x91A2900A#32, .brev { z := true, d := 40#6, l := true, a := 18#6 }),
    (0x1111718B#32, .bfe { z := false, d := 4#6, l := false, a := 46#6, m := false, b := 24#6 }),
    (0x9182574C#32, .bfi { z := true, d := 32#6, l := true, a := 10#6, m := true, b := 52#6 }),
    (0x11F1300D#32, .abs { z := false, d := 60#6, l := false, a := 38#6 }),
    (0x9162100E#32, .neg { z := true, d := 24#6, l := true, a := 2#6 }),
    (0x1210F089#32, .scmp { z := false, p := 4#3, l := false, a := 30#6, m := false, b := 8#6, c := 9#4 }),
    (0x9343D6CF#32, .addi { z := true, d := 16#6, l := true, a := 58#6, i := 1743#11 }),
    (0x14B0B46B#32, .andi { z := false, d := 44#6, l := false, a := 22#6, i := 1131#11 }),
    (0x95239207#32, .ori { z := true, d := 8#6, l := true, a := 50#6, i := 519#11 })] : List (W32 × Instr)), decode e.1 = some e.2 := by decide

/-- Words of the opcode table, its fixed bits and its operand fields set, and the instructions they stand for (4 of 13). -/
theorem test_decode4 : ∀ e ∈ ([
    (0x169077A3#32, .xori { z := false, d := 36#6, l := false, a := 14#6, i := 1955#11 }),
    (0x9703503F#32, .shli { z := true, d := 0#6, l := true, a := 42#6, n := 63#6 }),
    (0x1770321B#32, .shri { z := false, d := 28#6, l := false, a := 6#6, n := 27#6 }),
    (0x97E31437#32, .sari { z := true, d := 56#6, l := true, a := 34#6, n := 55#6 }),
    (0x1751F613#32, .rotli { z := false, d := 20#6, l := false, a := 62#6, n := 19#6 }),
    (0x98C00085#32, .movi { z := true, d := 48#6, i := 133#11 }),
    (0x19300621#32, .lea { z := false, d := 12#6, i := 1569#11 }),
    (0x9AA003BD#32, .vgive { z := true, d := 40#6, n := 957#11 }),
    (0x1B100159#32, .vclaim { z := false, d := 4#6, n := 345#11 }),
    (0x9C000075#32, .vfree { z := true, c := 0#4, f := 117#7 }),
    (0x1DF00005#32, .vstat { z := false, d := 60#6, k := 5#11 }),
    (0x9EF184AE#32, .vmovs { z := true, d := 24#5, l := true, a := 66#7, k := 87#7 }),
    (0x1EE8BD00#32, .vmovsFirst { z := false, d := 20#5, l := false, a := 94#7 }),
    (0x9EE1F41F#32, .vmovsD { z := true, d := 16#5, l := true, a := 122#7, k := 15#7 }),
    (0x1ED82D01#32, .vmovsFirstD { z := false, d := 12#5, l := false, a := 22#7 }),
    (0xA01165B8#32, .iadd { z := true, d := 8#7, l := true, a := 50#7, m := true, b := 92#7 }),
    (0x21489CF0#32, .isub { z := false, d := 36#7, l := false, a := 78#7, m := false, b := 120#7 }),
    (0xA281D528#32, .imul { z := true, d := 64#7, l := true, a := 106#7, m := true, b := 20#7 }),
    (0x22B80C61#32, .imulh { z := false, d := 92#7, l := false, a := 6#7, m := false, b := 48#7 }),
    (0xA3F14598#32, .imad { z := true, d := 120#7, l := true, a := 34#7, m := true, b := 76#7 })] : List (W32 × Instr)), decode e.1 = some e.2 := by decide

/-- Words of the opcode table, its fixed bits and its operand fields set, and the instructions they stand for (5 of 13). -/
theorem test_decode5 : ∀ e ∈ ([
    (0x24287CD0#32, .idiv { z := false, d := 20#7, l := false, a := 62#7, m := false, b := 104#7 }),
    (0xA561B508#32, .irem { z := true, d := 48#7, l := true, a := 90#7, m := true, b := 4#7 }),
    (0x2698EC40#32, .imin { z := false, d := 76#7, l := false, a := 118#7, m := false, b := 32#7 }),
    (0xA7D12578#32, .imax { z := true, d := 104#7, l := true, a := 18#7, m := true, b := 60#7 }),
    (0x28085CB0#32, .and { z := false, d := 4#7, l := false, a := 46#7, m := false, b := 88#7 }),
    (0xA84195E9#32, .andn { z := true, d := 32#7, l := true, a := 74#7, m := true, b := 116#7 }),
    (0x2978CC20#32, .or { z := false, d := 60#7, l := false, a := 102#7, m := false, b := 16#7 }),
    (0xA9B10559#32, .orn { z := true, d := 88#7, l := true, a := 2#7, m := true, b := 44#7 }),
    (0x2AE83C90#32, .xor { z := false, d := 116#7, l := false, a := 30#7, m := false, b := 72#7 }),
    (0xAA2175C9#32, .xnor { z := true, d := 16#7, l := true, a := 58#7, m := true, b := 100#7 }),
    (0x2B58AC00#32, .shl { z := false, d := 44#7, l := false, a := 86#7, m := false, b := 0#7 }),
    (0xAC91E538#32, .shr { z := true, d := 72#7, l := true, a := 114#7, m := true, b := 28#7 }),
    (0x2CC81C71#32, .sar { z := false, d := 100#7, l := false, a := 14#7, m := false, b := 56#7 }),
    (0xAD5A7ED2#32, .icmp { z := true, c := 5#4, p := 5#3, l := false, a := 63#7, m := false, b := 105#7 }),
    (0x2D63B70B#32, .icmpand { z := false, c := 6#4, p := 1#3, l := true, a := 91#7, m := true, b := 5#7 }),
    (0xAE71C518#32, .sel { z := true, d := 56#7, l := true, a := 98#7, m := true, b := 12#7 }),
    (0x2EA8FC51#32, .selNotP0 { z := false, d := 84#7, l := false, a := 126#7, m := false, b := 40#7 }),
    (0xAFE1345E#32, .iaddi { z := true, d := 112#7, l := true, a := 26#7, i := 47#8 }),
    (0x30186CC0#32, .fadd { z := false, d := 12#7, l := false, a := 54#7, m := false, b := 96#7 }),
    (0xB151A5F8#32, .fsub { z := true, d := 40#7, l := true, a := 82#7, m := true, b := 124#7 })] : List (W32 × Instr)), decode e.1 = some e.2 := by decide

/-- Words of the opcode table, its fixed bits and its operand fields set, and the instructions they stand for (6 of 13). -/
theorem test_decode6 : ∀ e ∈ ([
    (0x3288DC30#32, .fmul { z := false, d := 68#7, l := false, a := 110#7, m := false, b := 24#7 }),
    (0xB3C11568#32, .ffma { z := true, d := 96#7, l := true, a := 10#7, m := true, b := 52#7 }),
    (0x33F84CA1#32, .fnma { z := false, d := 124#7, l := false, a := 38#7, m := false, b := 80#7 }),
    (0xB43185D8#32, .fmin { z := true, d := 24#7, l := true, a := 66#7, m := true, b := 108#7 }),
    (0x3468BC11#32, .fminnan { z := false, d := 52#7, l := false, a := 94#7, m := false, b := 8#7 }),
    (0xB5A1F548#32, .fmax { z := true, d := 80#7, l := true, a := 122#7, m := true, b := 36#7 }),
    (0x35D82C81#32, .fmaxnan { z := false, d := 108#7, l := false, a := 22#7, m := false, b := 64#7 }),
    (0xB63A8EE2#32, .fcmp { z := true, c := 3#4, p := 5#3, l := false, a := 71#7, m := false, b := 113#7 }),
    (0x3643C71B#32, .fcmpand { z := false, c := 4#4, p := 1#3, l := true, a := 99#7, m := true, b := 13#7 }),
    (0xB781D528#32, .fdiv { z := true, d := 64#7, l := true, a := 106#7, m := true, b := 20#7 }),
    (0x38B80C00#32, .funAbs { z := false, d := 92#7, l := false, a := 6#7 }),
    (0xB8F14402#32, .funNeg { z := true, d := 120#7, l := true, a := 34#7 }),
    (0x38287C04#32, .funSqrt { z := false, d := 20#7, l := false, a := 62#7 }),
    (0xB861B406#32, .funRcp { z := true, d := 48#7, l := true, a := 90#7 }),
    (0x3898EC08#32, .funRsq { z := false, d := 76#7, l := false, a := 118#7 }),
    (0xB8D1240A#32, .funExp2 { z := true, d := 104#7, l := true, a := 18#7 }),
    (0x38085C0C#32, .funLog2 { z := false, d := 4#7, l := false, a := 46#7 }),
    (0xB841940E#32, .funSin { z := true, d := 32#7, l := true, a := 74#7 }),
    (0x3878CC10#32, .funCos { z := false, d := 60#7, l := false, a := 102#7 }),
    (0xB8B10412#32, .funTanh { z := true, d := 88#7, l := true, a := 2#7 })] : List (W32 × Instr)), decode e.1 = some e.2 := by decide

/-- Words of the opcode table, its fixed bits and its operand fields set, and the instructions they stand for (7 of 13). -/
theorem test_decode7 : ∀ e ∈ ([
    (0x38E83C14#32, .funFloor { z := false, d := 116#7, l := false, a := 30#7 }),
    (0xB8217416#32, .funCeil { z := true, d := 16#7, l := true, a := 58#7 }),
    (0x3858AC18#32, .funTrunc { z := false, d := 44#7, l := false, a := 86#7 }),
    (0xB891E41A#32, .funRint { z := true, d := 72#7, l := true, a := 114#7 }),
    (0x38C81C1C#32, .funFrac { z := false, d := 100#7, l := false, a := 14#7 }),
    (0xB90155A8#32, .dadd { z := true, d := 0#7, l := true, a := 42#7, m := true, b := 84#7 }),
    (0x39388CE1#32, .dsub { z := false, d := 28#7, l := false, a := 70#7, m := false, b := 112#7 }),
    (0xBA71C518#32, .dmul { z := true, d := 56#7, l := true, a := 98#7, m := true, b := 12#7 }),
    (0x3BA8FC50#32, .dfma { z := false, d := 84#7, l := false, a := 126#7, m := false, b := 40#7 }),
    (0xBBE13589#32, .dnma { z := true, d := 112#7, l := true, a := 26#7, m := true, b := 68#7 }),
    (0x3C186C00#32, .iunMov { z := false, d := 12#7, l := false, a := 54#7 }),
    (0xBC51A402#32, .iunNot { z := true, d := 40#7, l := true, a := 82#7 }),
    (0x3C88DC04#32, .iunNeg { z := false, d := 68#7, l := false, a := 110#7 }),
    (0xBCC11406#32, .iunAbs { z := true, d := 96#7, l := true, a := 10#7 }),
    (0x3CF84C08#32, .iunPopc { z := false, d := 124#7, l := false, a := 38#7 }),
    (0xBC31840A#32, .iunClz { z := true, d := 24#7, l := true, a := 66#7 }),
    (0x3C68BC0C#32, .iunCtz { z := false, d := 52#7, l := false, a := 94#7 }),
    (0xBCA1F40E#32, .iunBrev { z := true, d := 80#7, l := true, a := 122#7 }),
    (0x3CD82C10#32, .iunBswap { z := false, d := 108#7, l := false, a := 22#7 }),
    (0xBC11642E#32, .iunXnib { z := true, d := 8#7, l := true, a := 50#7, k := 7#3 })] : List (W32 × Instr)), decode e.1 = some e.2 := by decide

/-- Words of the opcode table, its fixed bits and its operand fields set, and the instructions they stand for (8 of 13). -/
theorem test_decode8 : ∀ e ∈ ([
    (0x3C489C36#32, .iunXnibn { z := false, d := 36#7, l := false, a := 78#7, k := 3#3 }),
    (0xBC81D446#32, .iunXbyte { z := true, d := 64#7, l := true, a := 106#7, k := 3#2 }),
    (0x3CB80C4E#32, .iunXbyten { z := false, d := 92#7, l := false, a := 6#7, k := 3#2 }),
    (0xBCF1446E#32, .iunInsnib { z := true, d := 120#7, l := true, a := 34#7, k := 7#3 }),
    (0x3D03A7FA#32, .dcmp { z := false, c := 0#4, p := 1#3, l := true, a := 83#7, m := true, b := 125#7 }),
    (0xBD1ADE33#32, .dcmpand { z := true, c := 1#4, p := 5#3, l := false, a := 111#7, m := false, b := 25#7 }),
    (0x3E98EC00#32, .dunAbs { z := false, d := 76#7, l := false, a := 118#7 }),
    (0xBED12402#32, .dunNeg { z := true, d := 104#7, l := true, a := 18#7 }),
    (0x3E085C04#32, .dunSqrt { z := false, d := 4#7, l := false, a := 46#7 }),
    (0xBE419406#32, .dunFloor { z := true, d := 32#7, l := true, a := 74#7 }),
    (0x3E78CC08#32, .dunCeil { z := false, d := 60#7, l := false, a := 102#7 }),
    (0xBEB1040A#32, .dunTrunc { z := true, d := 88#7, l := true, a := 2#7 }),
    (0x3EE83C0C#32, .dunRint { z := false, d := 116#7, l := false, a := 30#7 }),
    (0xBF2175C8#32, .ddiv { z := true, d := 16#7, l := true, a := 58#7, m := true, b := 100#7 }),
    (0x4058AC54#32, .cvt { z := false, d := 44#7, l := false, a := 86#7, g := 2#3, t := 10#4, u := false }),
    (0xC191E4AE#32, .cvtn { z := true, d := 72#7, l := true, a := 114#7, c := 7#3 }),
    (0x42C81CF0#32, .cvtb { z := false, d := 100#7, l := false, a := 14#7, m := false, c := 24#5 }),
    (0xC20155E9#32, .cvtbHdr { z := true, d := 0#7, l := true, a := 42#7, m := true, c := 20#5 }),
    (0x43388CB6#32, .cvtm { z := false, d := 28#7, l := false, a := 70#7, k := 91#8 }),
    (0xC471C518#32, .shflAbs { z := true, d := 56#7, l := true, a := 98#7, m := true, b := 12#7 })] : List (W32 × Instr)), decode e.1 = some e.2 := by decide

/-- Words of the opcode table, its fixed bits and its operand fields set, and the instructions they stand for (9 of 13). -/
theorem test_decode9 : ∀ e ∈ ([
    (0x44A8FC51#32, .shflRel { z := false, d := 84#7, l := false, a := 126#7, m := false, b := 40#7 }),
    (0xC5E1345E#32, .shfliBc { z := true, d := 112#7, l := true, a := 26#7, k := 47#6 }),
    (0x45186C96#32, .shfliRot { z := false, d := 12#7, l := false, a := 54#7, k := 11#6 }),
    (0xC551A54E#32, .shfliRev { z := true, d := 40#7, l := true, a := 82#7, k := 39#6 }),
    (0x4588DD86#32, .shfliSwap { z := false, d := 68#7, l := false, a := 110#7, k := 3#6 }),
    (0xC6C0000A#32, .voteMask { z := true, d := 0#5, p := 5#3 }),
    (0x46F80012#32, .voteCount { z := false, d := 28#5, p := 1#3 }),
    (0xC6F0002A#32, .voteFirst { z := true, d := 24#5, p := 5#3 }),
    (0x46E80032#32, .voteLast { z := false, d := 20#5, p := 1#3 }),
    (0xC6E0004A#32, .voteParity { z := true, d := 16#5, p := 5#3 }),
    (0x46D80052#32, .voteFull { z := false, d := 12#5, p := 1#3 }),
    (0xC6D0006A#32, .voteEmpty { z := true, d := 8#5, p := 5#3 }),
    (0x47489C60#32, .reduxAdd { z := false, d := 36#7, l := false, a := 78#7, s := 3#3 }),
    (0xC781D4E2#32, .reduxMin { z := true, d := 64#7, l := true, a := 106#7, s := 7#3 }),
    (0x47B80C64#32, .reduxMax { z := false, d := 92#7, l := false, a := 6#7, s := 3#3 }),
    (0xC7F144E6#32, .reduxAnd { z := true, d := 120#7, l := true, a := 34#7, s := 7#3 }),
    (0x47287C68#32, .reduxOr { z := false, d := 20#7, l := false, a := 62#7, s := 3#3 }),
    (0xC761B4EA#32, .reduxXor { z := true, d := 48#7, l := true, a := 90#7, s := 7#3 }),
    (0x4898EC70#32, .scanAdd { z := false, d := 76#7, l := false, a := 118#7, s := 3#3, e := true }),
    (0xC8D124E2#32, .scanMin { z := true, d := 104#7, l := true, a := 18#7, s := 7#3, e := false })] : List (W32 × Instr)), decode e.1 = some e.2 := by decide

/-- Words of the opcode table, its fixed bits and its operand fields set, and the instructions they stand for (10 of 13). -/
theorem test_decode10 : ∀ e ∈ ([
    (0x48085C74#32, .scanMax { z := false, d := 4#7, l := false, a := 46#7, s := 3#3, e := true }),
    (0xC84194E6#32, .scanAnd { z := true, d := 32#7, l := true, a := 74#7, s := 7#3, e := false }),
    (0x4878CC78#32, .scanOr { z := false, d := 60#7, l := false, a := 102#7, s := 3#3, e := true }),
    (0xC8B104EA#32, .scanXor { z := true, d := 88#7, l := true, a := 2#7, s := 7#3, e := false }),
    (0x49E83C90#32, .matchPair { z := false, d := 116#7, l := false, a := 30#7, m := false, b := 72#7 }),
    (0xC92175C9#32, .matchMask { z := true, d := 16#7, l := true, a := 58#7, m := true, b := 100#7 }),
    (0x4A01820C#32, .pmovTop { z := false, l := true, a := 65#7, k := 6#3 }),
    (0xCA90002A#32, .pmovFromp { z := true, d := 72#7, k := 5#3 }),
    (0x4A000842#32, .pmovAnd { z := false, j := 4#3, k := 1#3 }),
    (0xCA00006A#32, .pmovOr { z := true, j := 0#3, k := 5#3 }),
    (0x4A000882#32, .pmovXor { z := false, j := 4#3, k := 1#3 }),
    (0xCA0000AA#32, .pmovNot { z := true, j := 0#3, k := 5#3 }),
    (0x4A01D2CC#32, .pmovFroms { z := false, l := true, a := 9#5, k := 6#3 }),
    (0xD0E00AE9#32, .ldb { z := true, d := 112#7, a := 5#7, l := false, s := 7#3, k := false, h := 9#4 }),
    (0x51184375#32, .ldh { z := false, d := 12#7, a := 33#7, l := true, s := 3#3, k := true, h := 5#4 }),
    (0xD2507AE1#32, .ldw { z := true, d := 40#7, a := 61#7, l := false, s := 7#3, k := false, h := 1#4 }),
    (0x5388B37D#32, .ldd { z := false, d := 68#7, a := 89#7, l := true, s := 3#3, k := true, h := 13#4 }),
    (0xD4C0EAE9#32, .ldq { z := true, d := 96#7, a := 117#7, l := false, s := 7#3, k := false, h := 9#4 }),
    (0x55F84C00#32, .stb { z := false, d := 124#7, n := false, a := 38#7, l := false, s := 0#3, k := false }),
    (0xD6318590#32, .sth { z := true, d := 24#7, n := true, a := 66#7, l := true, s := 4#3, k := true })] : List (W32 × Instr)), decode e.1 = some e.2 := by decide

/-- Words of the opcode table, its fixed bits and its operand fields set, and the instructions they stand for (11 of 13). -/
theorem test_decode11 : ∀ e ∈ ([
    (0x5768BC00#32, .stw { z := false, d := 52#7, n := false, a := 94#7, l := false, s := 0#3, k := false }),
    (0xD8A1F590#32, .std { z := true, d := 80#7, n := true, a := 122#7, l := true, s := 4#3, k := true }),
    (0x59D82C00#32, .stq { z := false, d := 108#7, n := false, a := 22#7, l := false, s := 0#3, k := false }),
    (0xDA103AE1#32, .ldv { z := true, d := 8#7, a := 29#7, l := false, s := 7#3, k := false, h := 1#4 }),
    (0x5B0048C0#32, .pref { z := false, a := 36#7, l := false, s := 6#3, k := false }),
    (0xDC81D59E#32, .aadd { z := true, d := 64#7, n := true, a := 106#7, l := true, s := 4#3, k := true, h := 14#4 }),
    (0x5DB80C0A#32, .amin { z := false, d := 92#7, n := false, a := 6#7, l := false, s := 0#3, k := false, h := 10#4 }),
    (0xDEF14596#32, .amax { z := true, d := 120#7, n := true, a := 34#7, l := true, s := 4#3, k := true, h := 6#4 }),
    (0x5F287C02#32, .aand { z := false, d := 20#7, n := false, a := 62#7, l := false, s := 0#3, k := false, h := 2#4 }),
    (0xE061B59E#32, .aor { z := true, d := 48#7, n := true, a := 90#7, l := true, s := 4#3, k := true, h := 14#4 }),
    (0x6198EC0A#32, .axor { z := false, d := 76#7, n := false, a := 118#7, l := false, s := 0#3, k := false, h := 10#4 }),
    (0xE2D12596#32, .axchg { z := true, d := 104#7, n := true, a := 18#7, l := true, s := 4#3, k := true, h := 6#4 }),
    (0x63085C02#32, .acas { z := false, d := 4#7, n := false, a := 46#7, l := false, s := 0#3, k := false, h := 2#4 }),
    (0xE441959E#32, .afadd { z := true, d := 32#7, n := true, a := 74#7, l := true, s := 4#3, k := true, h := 14#4 }),
    (0x6578A375#32, .kld { z := false, d := 60#7, a := 81#7, l := true, s := 3#3, k := true, h := 5#4 }),
    (0xE6B10596#32, .kst { z := true, d := 88#7, n := true, a := 2#7, l := true, s := 4#3, k := true, h := 6#4 }),
    (0x67E83C02#32, .krec { z := false, d := 116#7, n := false, a := 30#7, l := false, s := 0#3, k := false, h := 2#4 }),
    (0xE842500F#32, .cpy { z := true, t := 16#6, p := 37#6, l := false, h := 15#4 }),
    (0x69B01D75#32, .cpyq { z := false, t := 44#6, p := 1#6, l := true, q := 43#6, k := true, h := 5#4 }),
    (0xEA21D0E0#32, .cwait { z := true, t := 8#6, p := 29#6, l := false, q := 7#6, k := false })] : List (W32 × Instr)), decode e.1 = some e.2 := by decide

/-- Words of the opcode table, its fixed bits and its operand fields set, and the instructions they stand for (12 of 13). -/
theorem test_decode12 : ∀ e ∈ ([
    (0x6B939C7D#32, .ctest { z := false, t := 36#6, p := 57#6, l := true, q := 35#6, k := true, h := 13#4 }),
    (0xEC01500F#32, .ccancel { z := true, t := 0#6, p := 21#6, l := false, h := 15#4 }),
    (0x6D73180B#32, .mma { z := false, t := 28#6, p := 49#6, l := true, h := 11#4 }),
    (0xEEE0D6E1#32, .mrdy { z := true, t := 56#6, p := 13#6, l := false, q := 55#6, k := false, h := 1#4 }),
    (0x6F529800#32, .mwait { z := false, t := 20#6, p := 41#6, l := true }),
    (0xF0C055E9#32, .macc { z := true, t := 48#6, p := 5#6, l := false, q := 47#6, k := false, h := 9#4 }),
    (0x7132180B#32, .mstat { z := false, t := 12#6, p := 33#6, l := true, h := 11#4 }),
    (0xF2007A96#32, .wload { z := true, l := false, a := 61#7, c := 18#6, w := 3#2 }),
    (0x7201B377#32, .wloadScratch { z := false, l := true, a := 89#7, c := 46#6, w := 3#2 }),
    (0xF3C11406#32, .wupd { z := true, d := 96#7, l := true, a := 10#7, w := 3#2, x := false }),
    (0x74F84C06#32, .wqry { z := false, d := 124#7, l := false, a := 38#7, w := 3#2 }),
    (0xF4318407#32, .wqryExcl { z := true, d := 24#7, l := true, a := 66#7, w := 3#2 }),
    (0x7568BC18#32, .wfind { z := false, d := 52#7, l := false, a := 94#7, p := 3#3, w := 0#2 }),
    (0xF6A1F406#32, .wcut { z := true, d := 80#7, l := true, a := 122#7, w := 3#2 }),
    (0x77D80002#32, .wopRoot { z := false, d := 108#7, w := 1#2 }),
    (0xF7000008#32, .wopClear { z := true, w := 0#2 }),
    (0x77489C16#32, .wopGet { z := false, d := 36#7, l := false, a := 78#7, w := 3#2 }),
    (0xF781D41E#32, .wopSet { z := true, d := 64#7, l := true, a := 106#7, w := 3#2, x := false }),
    (0x7701E224#32, .wopSave { z := false, l := true, a := 17#5, w := 2#2 }),
    (0xF700DA2C#32, .wopRestore { z := true, l := false, a := 13#5, w := 2#2 })] : List (W32 × Instr)), decode e.1 = some e.2 := by decide

/-- Words of the opcode table, its fixed bits and its operand fields set, and the instructions they stand for (13 of 13). -/
theorem test_decode13 : ∀ e ∈ ([
    (0x77280032#32, .wopStat { z := false, d := 20#7, w := 1#2 }),
    (0xF760003A#32, .wopCutptr { z := true, d := 48#7, w := 1#2 }),
    (0x7832180B#32, .nwake { z := false, t := 12#6, p := 33#6, l := true, h := 11#4 }),
    (0xF9A3D4E1#32, .nsig { z := true, t := 40#6, p := 61#6, l := false, q := 39#6, k := false, h := 1#4 }),
    (0x7A11987D#32, .ndep { z := false, t := 4#6, p := 25#6, l := true, q := 3#6, k := true, h := 13#4 }),
    (0xFB0353E0#32, .njoin { z := true, t := 0#5, p := 53#6, l := false, q := 31#6, k := false }),
    (0x7CF11800#32, .nwait { z := false, t := 60#6, p := 17#6, l := true }),
    (0xFD016800#32, .barInit { z := true, l := false, a := 45#6 }),
    (0x7DD0F001#32, .barArv { z := false, d := 52#6, l := false, a := 30#6 }),
    (0xFD012802#32, .barWait { z := true, l := false, a := 37#6 }),
    (0x7D020803#32, .barSync { z := false, l := true, a := 1#6 }),
    (0xFD239004#32, .barFarv { z := true, d := 8#6, l := true, a := 50#6 }),
    (0x7D03C805#32, .barFwait { z := false, l := true, a := 57#6 }),
    (0xFD00A806#32, .barFsync { z := true, l := false, a := 21#6 }),
    (0x7D703007#32, .barTest { z := false, d := 28#6, l := false, a := 6#6 }),
    (0xFE006800#32, .bandInit { z := true, l := false, a := 13#6 }),
    (0x7E034801#32, .bandPut { z := false, l := true, a := 41#6 }),
    (0xFE002802#32, .bandTake { z := true, l := false, a := 5#6 }),
    (0x7E030803#32, .bandDone { z := false, l := true, a := 33#6 }),
    (0xFEA29004#32, .bandTest { z := true, d := 40#6, l := true, a := 18#6 })] : List (W32 × Instr)), decode e.1 = some e.2 := by decide

/-- Words whose fields the spec reserves: neither well-formed nor decoded; the values next to them are. -/
theorem test_illFormed : (∀ e ∈ ([(0x01207000#32 ||| 0x8000#32, .hmode { v := false, r := 0#2, s := false, f := true, m := 7#3 }), (0x01300000#32 ||| 0xA0000#32, .hord { o := 5#3, c := 0#3 }), (0x01300000#32 ||| 0x18000#32, .hord { o := 0#3, c := 6#3 }),
      (0x01578000#32, .htype { t := 15#5 }), (0x02100000#32, .bra { z := false, u := false, p := 1#3, s := false, o := 0#19 }), (0x03080000#32, .call { z := false, u := false, p := 0#3, s := true, o := 0#19 }), (0x1200000A#32, .scmp { z := false, p := 0#3, l := false, a := 0#6, m := false, b := 0#6, c := 10#4 }),
      (0x1D000007#32, .vstat { z := false, d := 0#6, k := 7#11 }), (0x2D800000#32, .icmp { z := false, c := 8#4, p := 0#3, l := false, a := 0#7, m := false, b := 0#7 }), (0x2D800001#32, .icmpand { z := false, c := 8#4, p := 0#3, l := false, a := 0#7, m := false, b := 0#7 }),
      (0x36800000#32, .fcmp { z := false, c := 8#4, p := 0#3, l := false, a := 0#7, m := false, b := 0#7 }), (0x36800001#32, .fcmpand { z := false, c := 8#4, p := 0#3, l := false, a := 0#7, m := false, b := 0#7 }),
      (0x3D800000#32, .dcmp { z := false, c := 8#4, p := 0#3, l := false, a := 0#7, m := false, b := 0#7 }), (0x3D800001#32, .dcmpand { z := false, c := 8#4, p := 0#3, l := false, a := 0#7, m := false, b := 0#7 })] : List (W32 × Instr)), e.2.wf = false ∧ decode e.1 = none)
    ∧ (∀ i ∈ ([.hmode { v := false, r := 0#2, s := false, f := true, m := 6#3 }, .hord { o := 4#3, c := 5#3 }, .htype { t := 14#5 }, .bra { z := false, u := false, p := 0#3, s := false, o := 0#19 }, .scmp { z := false, p := 0#3, l := false, a := 0#6, m := false, b := 0#6, c := 9#4 },
      .vstat { z := false, d := 0#6, k := 6#11 }, .icmp { z := false, c := 7#4, p := 0#3, l := false, a := 0#7, m := false, b := 0#7 }] : List Instr), i.wf = true) := by decide

/-- The source codes and roundings CVT has not. -/
theorem test_illFormedCvt : ∀ f ∈ ([{ z := false, d := 0#7, l := false, a := 0#7, t := 12#4, g := 0#3, u := false }, { z := false, d := 0#7, l := false, a := 0#7, t := 0#4, g := 4#3, u := true }] : List FCvt), (Instr.cvt f).wf = false := by decide

/-- The words of the spec's fragment (its stage 5), each field as the chapter on encodings reads it. -/
theorem test_fragment : decode (0b0#1 ++ 0x52#7 ++ 1#7 ++ 0b0#1 ++ 6#7 ++ 0b0#1 ++ 2#3 ++ 1#5) = decode 0x52020C41#32 ∧ decode (0b0#1 ++ 0x20#7 ++ 3#7 ++ 0b1#1 ++ 1#7 ++ 0b1#1 ++ 2#7 ++ 0b0#1) = decode 0x20070304#32
    ∧ decode (0b1#1 ++ 0x57#7 ++ 4#7 ++ 0b1#1 ++ 6#7 ++ 0b1#1 ++ 4#3 ++ 0#5) = decode 0xD7090D80#32 := by decide
/-- And the instructions they are. -/
theorem test_fragmentRuns : decode 0x20070304#32 = some (.iadd { z := false, d := 3#7, l := true, a := 1#7, m := true, b := 2#7 }) ∧ decode 0x01530000#32 = some (.htype { t := 6#5 }) ∧ decode 0x84000002#32 = some (.exit { z := true }) := by decide

/-- The obligation's words. -/
theorem test_decodeWords : Obligations.DecodeWords := ⟨by decide, by decide, by decide, by decide, by decide, by decide, by decide, by decide⟩

/-! Instructions on one state: scalars s1 and s2, or the values of v1, v2 and v3 by lane; what s3, or v3 at some lanes, holds after. -/

def withScalars (a b c : W64) : Group := { grp0 with sval := [(96, 0#64), (97, a), (98, b), (99, c)] }
noncomputable def scalarAfter (i : Instr) (a b c : W64) : Option W64 :=
  match exec i (stOf (withScalars a b c) {}) with
  | .next t => look (t.grp 0).sval 99
  | _ => none
def withVectors (a b c : List W32) : Group := { grp0 with vval := [(0, gen 16 (fun _ => 0#32)), (1, gen 16 (fun t => a.getD t 7#32)), (2, gen 16 (fun t => b.getD t 2#32)), (3, gen 16 (fun t => c.getD t 0#32))] }
noncomputable def vectorAfter (h : Hints) (i : Instr) (a b c : List W32) (n : Nat) : Option (List W32) :=
  match exec i (stOf (withVectors a b c) h) with
  | .next t => (look (t.grp 0).vval 3).map (·.take n)
  | _ => none
def s312 : FS3 := { z := false, d := 3#6, l := false, a := 1#6, m := false, b := 2#6 }
def v312 : FV3 := { z := false, d := 3#7, l := false, a := 1#7, m := false, b := 2#7 }
def u31 : FS2 := { z := false, d := 3#6, l := false, a := 1#6 }

/-- Scalar arithmetic at its edges, by hand from R124 to R127. -/
theorem test_scalars : scalarAfter (.salu0Add s312) 0xFFFFFFFFFFFFFFFF#64 2#64 0#64 = some 1#64 ∧ scalarAfter (.salu0Sub s312) 1#64 2#64 0#64 = some 0xFFFFFFFFFFFFFFFF#64 ∧ scalarAfter (.salu0Andn s312) 0xFF#64 0x0F#64 0#64 = some 0xF0#64
    ∧ scalarAfter (.salu0Shl s312) 1#64 64#64 0#64 = some 0#64 ∧ scalarAfter (.salu0Sar s312) 0x8000000000000000#64 200#64 0#64 = some 0xFFFFFFFFFFFFFFFF#64 ∧ scalarAfter (.rotl s312) 0x8000000000000001#64 65#64 0#64 = some 3#64
    ∧ scalarAfter (.salu0Min s312) 0x8000000000000000#64 1#64 0#64 = some 0x8000000000000000#64 ∧ scalarAfter (.minn s312) 0x8000000000000000#64 1#64 0#64 = some 1#64 := by decide
theorem test_products : scalarAfter (.mul s312) 0x100000001#64 0x100000001#64 0#64 = some 0x200000001#64 ∧ scalarAfter (.mulh s312) 0xFFFFFFFFFFFFFFFF#64 2#64 0#64 = some 0xFFFFFFFFFFFFFFFF#64 ∧ scalarAfter (.mulhn s312) 0xFFFFFFFFFFFFFFFF#64 2#64 0#64 = some 1#64
    ∧ scalarAfter (.div s312) 0xFFFFFFFFFFFFFFF9#64 2#64 0#64 = some 0xFFFFFFFFFFFFFFFD#64 ∧ scalarAfter (.rem s312) 0xFFFFFFFFFFFFFFF9#64 2#64 0#64 = some 0xFFFFFFFFFFFFFFFF#64 ∧ scalarAfter (.divn s312) 5#64 0#64 9#64 = some 0#64 ∧ scalarAfter (.remn s312) 5#64 0#64 9#64 = some 5#64
    ∧ scalarAfter (.div s312) 0x8000000000000000#64 0xFFFFFFFFFFFFFFFF#64 0#64 = some 0x8000000000000000#64 := by decide
theorem test_bitCounts : scalarAfter (.popc u31) 0xF0F#64 0#64 0#64 = some 8#64 ∧ scalarAfter (.clz u31) 0#64 0#64 0#64 = some 64#64 ∧ scalarAfter (.ctz u31) 8#64 0#64 0#64 = some 3#64 ∧ scalarAfter (.brev u31) 1#64 0#64 0#64 = some 0x8000000000000000#64 ∧ scalarAfter (.neg u31) 1#64 0#64 0#64 = some 0xFFFFFFFFFFFFFFFF#64 := by decide
/-- Fields: position 4, length 4, signed and not; a length that ends past bit 63; an insertion into the old value. -/
theorem test_fields : scalarAfter (.bfe s312) 0xFFF#64 0x2104#64 0#64 = some 0xFFFFFFFFFFFFFFFF#64 ∧ scalarAfter (.bfe s312) 0xFFF#64 0x104#64 0#64 = some 0xF#64 ∧ scalarAfter (.bfe s312) 0xC000000000000000#64 0x103E#64 0#64 = some 3#64 ∧ scalarAfter (.bfi s312) 0#64 0x104#64 0xFFF#64 = some 0xF0F#64 := by decide
/-- Immediates: sign-extended, shifted, and relative to the word's own address (R130 to R132). -/
theorem test_immediates : scalarAfter (.addi { z := false, d := 3#6, l := false, a := 1#6, i := 0x7FF#11 }) 1#64 0#64 9#64 = some 0#64 ∧ scalarAfter (.movi { z := false, d := 3#6, i := 0x7FB#11 }) 0#64 0#64 0#64 = some 0xFFFFFFFFFFFFFFFB#64 ∧ scalarAfter (.lea { z := false, d := 3#6, i := 12#11 }) 0#64 0#64 0#64 = some 0x20030#64 := by decide
/-- The chapter's division edges (0x0000 and 0x0004 of its listing), with the trap off. -/
theorem test_divisionEdges : vectorAfter {} (.idiv v312) [7#32, 0xFFFFFFF9#32, 5#32, 0x80000000#32] [2#32, 2#32, 0#32, 0xFFFFFFFF#32] [] 5 = some [3#32, 0xFFFFFFFD#32, 0#32, 0x80000000#32, 3#32]
    ∧ vectorAfter {} (.irem v312) [7#32, 0xFFFFFFF9#32, 5#32, 0x80000000#32] [2#32, 2#32, 0#32, 0xFFFFFFFF#32] [] 5 = some [1#32, 0xFFFFFFFF#32, 5#32, 0#32, 1#32] := by decide
/-- The chapter's question on the high half of a product, as i32 and as n32; a clamp. -/
theorem test_highHalf : vectorAfter {} (.imulh v312) [0xFFFFFFFF#32] [0xFFFFFFFF#32] [] 1 = some [0#32] ∧ vectorAfter { type := some { t := 6#5 } } (.imulh v312) [0xFFFFFFFF#32] [0xFFFFFFFF#32] [] 1 = some [0xFFFFFFFE#32]
    ∧ vectorAfter { mode := some { v := false, r := 0#2, s := true, f := false, m := 0#3 } } (.iadd v312) [0x7FFFFFFF#32] [1#32] [] 1 = some [0x7FFFFFFF#32] ∧ vectorAfter {} (.iadd v312) [0x7FFFFFFF#32] [1#32] [] 1 = some [0x80000000#32] := by decide
/-- Sums and products that round: a tie to even, an overflow, infinity minus infinity, a subnormal read as zero under FTZ (R55 to R57, R139). -/
theorem test_floats : vectorAfter {} (.fadd v312) [0x3F800000#32, 0x7F7FFFFF#32, 0x7F800000#32, 0x3F800001#32] [0x33800000#32, 0x7F7FFFFF#32, 0xFF800000#32, 0x33800000#32] [] 4 = some [0x3F800000#32, 0x7F800000#32, 0x7FC00000#32, 0x3F800002#32]
    ∧ vectorAfter { mode := some { v := false, r := 0#2, s := false, f := true, m := 0#3 } } (.fmul v312) [0x00000001#32] [0x7F000000#32] [] 1 = some [0#32] ∧ vectorAfter {} (.fdiv v312) [0x3F800000#32, 0x3F800000#32] [0x40400000#32, 0x80000000#32] [] 2 = some [0x3EAAAAAB#32, 0xFF800000#32] := by decide
/-- The least number of each pair, a NaN yielding the other, zeros by sign (R140); a fused product with its addend (R139). -/
theorem test_floatChoices : vectorAfter {} (.fmin v312) [0x80000000#32, 0x7FC00000#32] [0#32, 0x40000000#32] [] 2 = some [0x80000000#32, 0x40000000#32] ∧ vectorAfter {} (.ffma v312) [0x3F800001#32] [0x3F800001#32] [0xBF800002#32] 1 = some [0x28800000#32] := by decide
/-- A selection on p0, whose threads 0 to 7 are set (R137). -/
theorem test_selection : vectorAfter {} (.sel v312) [] [] [] 9 = some [7#32, 7#32, 7#32, 7#32, 7#32, 7#32, 7#32, 7#32, 2#32] := by decide

/-- The chapter's block conversion: control word 0x3004, the largest magnitude 0.75; then four elements at scale 2^-3 (CVTB's listing). -/
def cvtbGrp (v16 : W32) : Group := { grp0 with sval := [(96 + 5, 0x3004#64)], vval := (List.range 80).map (fun r => (r, gen 16 (fun _ => if r = 4 || r = 9 then 0x3F400000#32 else if r = 5 then 0xBF000000#32 else if r = 6 then 0x3EA00000#32 else if r = 7 then 0x3D800000#32 else if r = 16 then v16 else 0#32))) }
noncomputable def v16After (w : W32) (v16 : W32) : Option W32 :=
  match exec ((decode w).getD (.reservedWord w)) (stOf (cvtbGrp v16) {}) with
  | .next t => (look (t.grp 0).vval 16).map (·.getD 3 0#32)
  | _ => none
theorem test_blockHeader : v16After 0x422012CB#32 1#32 = some 0x0000FD24#32 := by decide
theorem test_blockPack : v16After 0x422008CA#32 0x0000FD24#32 = some 0x02C6FD24#32 := by decide

/-- A step from the state right after reset, one word placed where it fetches: a NOP and a scalar XOR leave the group at the same next word. -/
noncomputable def pcAfter (w : Nat) : Option W64 :=
  match step (State.reset.withFetchWord 32 w) with
  | .next t => (t.grp 0).pcs.head?
  | _ => none
theorem test_stepNop : pcAfter 0x84000005 = (pcAfter 0x10060204) ∧ (pcAfter 0x84000005).isSome = true := by decide
/-- A branch five words back. -/
theorem test_stepBranch : (pcAfter 0x0207FFFB).map (· + 24#64) = pcAfter 0x04000005 := by decide
/-- A trap after the effect at a LOOP's last word goes on at the loop's first word, and past the loop on the last pass (R113, R338). -/
noncomputable def trappcAtEnd (n : W64) : Option W64 :=
  match exec (.trap { z := false, l := false, a := 1#6 }) (stOf { grp0 with loops := [{ start := 0x1FFF8#64, stop := 0x20000#64 }], lc := [n, 0#64, 0#64], traphandler := 0x3000#64 } {}) with
  | .next t => some (t.grp 0).trappc
  | _ => none
theorem test_trapAtLoopEnd : trappcAtEnd 2#64 = some 0x1FFF8#64 ∧ trappcAtEnd 1#64 = some 0x20004#64 := by decide
/-- An event: a power limit steps the core clock down. -/
noncomputable def clockAfter (b : Bool) : Option Nat := match exec (.powerLimit b) (State.reset.setDie 0 { coreClk := 1700 }) with | .next t => some (t.die 0).coreClk | _ => none
theorem test_powerLimit : clockAfter true = some 1699 := by decide

def u31v : FV2 := { z := false, d := 3#7, l := false, a := 1#7 }
/-- The exact cases of the functions (R142, R143), the nearest square root of 2, the rounding functions at −1.5 and 2.5. -/
theorem test_functions : vectorAfter {} (.funExp2 u31v) (0x40400000#32 :: List.replicate 15 0xC0000000#32) [] [] 2 = some [0x41000000#32, 0x3E800000#32] ∧ vectorAfter {} (.funLog2 u31v) (List.replicate 16 0x41000000#32) [] [] 1 = some [0x40400000#32]
    ∧ vectorAfter {} (.funRcp u31v) (0x40800000#32 :: List.replicate 15 0x80000000#32) [] [] 2 = some [0x3E800000#32, 0xFF800000#32] ∧ vectorAfter {} (.funSqrt u31v) [0x40000000#32, 0x80000000#32] [] [] 2 = some [0x3FB504F3#32, 0x80000000#32]
    ∧ vectorAfter {} (.funSin u31v) (0x3E800000#32 :: List.replicate 15 0x3F400000#32) [] [] 2 = some [0x3F800000#32, 0xBF800000#32] ∧ vectorAfter {} (.funFloor u31v) [0xBFC00000#32] [] [] 1 = some [0xC0000000#32] ∧ vectorAfter {} (.funRint u31v) [0x40200000#32, 0xBFC00000#32] [] [] 2 = some [0x40000000#32, 0xC0000000#32] := by decide
/-- Nibbles, reversed bits and counts (R135). -/
theorem test_unary : vectorAfter {} (.iunXnib { z := false, d := 3#7, l := false, a := 1#7, k := 3#3 }) [0x0000F000#32] [] [] 1 = some [0xFFFFFFFF#32] ∧ vectorAfter {} (.iunInsnib { z := false, d := 3#7, l := false, a := 1#7, k := 7#3 }) [0x5#32] [] [0x12345678#32] 1 = some [0x52345678#32]
    ∧ vectorAfter {} (.iunBrev u31v) [1#32] [] [] 1 = some [0x80000000#32] ∧ vectorAfter {} (.iunCtz u31v) [0#32] [] [] 1 = some [32#32] ∧ vectorAfter {} (.iunBswap u31v) [0x01020304#32] [] [] 1 = some [0x04030201#32] := by decide
/-- Elements of other threads: an index taken modulo W, a rotation the other way (R146). -/
theorem test_shuffles : vectorAfter {} (.shflAbs v312) [10#32, 11#32, 12#32] [17#32, 2#32] [] 2 = some [11#32, 12#32] ∧ vectorAfter {} (.shflRel v312) [10#32, 11#32, 12#32] [1#32, 0xFFFFFFFF#32] [] 2 = some [11#32, 10#32] := by decide

end Sys2Proof.Tests
end

section
/-! PROOF. The fields of a word that was appended from its fields, and of a word cut into them. The type of an appended word
is its total width, not the sum the lemmas write: `no_index` lets `simp` find them all the same. -/

namespace Sys2Proof

/-! ## A word that is appended -/

theorem extract_append_high {v w : Nat} (x : BitVec v) (y : BitVec w) {s n : Nat} (h : w ≤ s) :
    (no_index (x ++ y)).extractLsb' s n = x.extractLsb' (s - w) n :=
  BitVec.extractLsb'_append_eq_of_le h

theorem extract_append_low {v w : Nat} (x : BitVec v) (y : BitVec w) {s n : Nat} (h : s + n ≤ w) :
    (no_index (x ++ y)).extractLsb' s n = y.extractLsb' s n :=
  BitVec.extractLsb'_append_eq_of_add_le h

theorem bit_append_high {v w : Nat} (x : BitVec v) (y : BitVec w) {s : Nat} (h : w ≤ s) :
    (no_index (x ++ y)).getLsbD s = x.getLsbD (s - w) := by
  rw [BitVec.getLsbD_append, if_neg (by omega)]

theorem bit_append_low {v w : Nat} (x : BitVec v) (y : BitVec w) {s : Nat} (h : s < w) :
    (no_index (x ++ y)).getLsbD s = y.getLsbD s := by
  rw [BitVec.getLsbD_append, if_pos h]

theorem bit_ofBool (b : Bool) : (BitVec.ofBool b).getLsbD 0 = b := by cases b <;> rfl

/-! ## A word that is cut -/

theorem extract_extract {u : Nat} (x : BitVec u) {s n t m : Nat} (h : t + m ≤ n) :
    (x.extractLsb' s n).extractLsb' t m = x.extractLsb' (s + t) m := by
  refine BitVec.eq_of_getLsbD_eq fun i hi => ?_
  simp [hi, show t + i < n by omega, Nat.add_assoc]

theorem extract_one {u : Nat} (x : BitVec u) (k : Nat) :
    x.extractLsb' k 1 = BitVec.ofBool (x.getLsbD k) := by
  refine BitVec.eq_of_getLsbD_eq fun i hi => ?_
  obtain rfl : i = 0 := by omega
  simp

/-- Two words are equal when their upper and their lower parts are. -/
theorem eq_iff_parts {n k m : Nat} (c x : BitVec n) (h : k + m = n) :
    c = x ↔ x.extractLsb' k m = c.extractLsb' k m ∧ x.extractLsb' 0 k = c.extractLsb' 0 k := by
  refine ⟨by rintro rfl; exact ⟨rfl, rfl⟩, fun ⟨hm, hk⟩ => BitVec.eq_of_getLsbD_eq fun i hi => ?_⟩
  by_cases hik : i < k
  · simpa [hik] using (congrArg (BitVec.getLsbD · i) hk).symm
  · have hb := congrArg (BitVec.getLsbD · (i - k)) hm
    simpa [show i - k < m by omega, show k + (i - k) = i by omega] using hb.symm

theorem append_eq_iff {v w : Nat} (x : BitVec v) (y : BitVec w) (z : BitVec (v + w)) :
    @Eq (no_index (BitVec (v + w))) (no_index (x ++ y)) z ↔
      x = z.extractLsb' w v ∧ y = z.extractLsb' 0 w := by
  rw [eq_iff_parts (x ++ y) z (Nat.add_comm w v), extract_append_high x y (Nat.le_refl w),
    extract_append_low x y (by omega), Nat.sub_self, BitVec.extractLsb'_eq_self,
    BitVec.extractLsb'_eq_self, eq_comm, eq_comm (a := z.extractLsb' 0 w)]

/-- A field across the seam of two appended words has a value when each side has its part of it. -/
theorem extract_append_span_eq {v w : Nat} (x : BitVec v) (y : BitVec w) {s n : Nat} (c : BitVec n)
    (hl : s < w) (hh : w < s + n) :
    (no_index (x ++ y)).extractLsb' s n = c ↔
      x.extractLsb' 0 (s + n - w) = c.extractLsb' (w - s) (s + n - w) ∧
        y.extractLsb' s (w - s) = c.extractLsb' 0 (w - s) := by
  rw [eq_comm, eq_iff_parts c _ (show w - s + (s + n - w) = n by omega),
    extract_extract _ (by omega), extract_extract _ (by omega), extract_append_high x y (by omega),
    extract_append_low x y (by omega), Nat.add_sub_cancel' hl.le, Nat.sub_self, Nat.add_zero]

/-- A constant that begins with the OP of the word. -/
theorem eq_extract_iff_op (w : W32) {s n : Nat} (hs : s < 24) (hn : s + n = 31) (c : BitVec n) :
    c = w.extractLsb' s n ↔ w.extractLsb' 24 7 = c.extractLsb' (24 - s) 7 ∧
      w.extractLsb' s (24 - s) = c.extractLsb' 0 (24 - s) := by
  rw [eq_iff_parts c _ (show 24 - s + 7 = n by omega), extract_extract _ (by omega),
    extract_extract _ (by omega), Nat.add_sub_cancel' hs.le, Nat.add_zero]

/-- The first twelve bits of a hint word: bit 31, the OP and the kind of hint. -/
theorem eq_extract_iff_hint (w : W32) (c : BitVec 12) :
    c = w.extractLsb' 20 12 ↔ w.extractLsb' 31 1 = c.extractLsb' 11 1 ∧
      w.extractLsb' 24 7 = c.extractLsb' 4 7 ∧ w.extractLsb' 20 4 = c.extractLsb' 0 4 := by
  rw [eq_iff_parts c _ (show 11 + 1 = 12 by rfl),
    eq_comm (a := (w.extractLsb' 20 12).extractLsb' 0 11),
    eq_iff_parts (c.extractLsb' 0 11) _ (show 4 + 7 = 11 by rfl)]
  simp [extract_extract]

/-! ## Encoding and decoding -/

/-- What `decodeRow` answers for each OP: its row of the table, or no instruction (R40). -/
theorem decodeRow_rows :
  decodeRow 0x00 = (fun _ => none) ∧ decodeRow 0x01 = decodeOp01 ∧ decodeRow 0x02 = decodeOp02 ∧ decodeRow 0x03 = decodeOp03 ∧
  decodeRow 0x04 = decodeOp04 ∧ decodeRow 0x05 = decodeOp05 ∧ decodeRow 0x06 = decodeOp06 ∧ decodeRow 0x07 = decodeOp07 ∧
  decodeRow 0x08 = decodeOp08 ∧ decodeRow 0x09 = decodeOp09 ∧ decodeRow 0x0A = decodeOp0A ∧ decodeRow 0x0B = decodeOp0B ∧
  decodeRow 0x0C = decodeOp0C ∧ decodeRow 0x0D = (fun _ => none) ∧ decodeRow 0x0E = (fun _ => none) ∧ decodeRow 0x0F = (fun _ => none) ∧
  decodeRow 0x10 = decodeOp10 ∧ decodeRow 0x11 = decodeOp11 ∧ decodeRow 0x12 = decodeOp12 ∧ decodeRow 0x13 = decodeOp13 ∧
  decodeRow 0x14 = decodeOp14 ∧ decodeRow 0x15 = decodeOp15 ∧ decodeRow 0x16 = decodeOp16 ∧ decodeRow 0x17 = decodeOp17 ∧
  decodeRow 0x18 = decodeOp18 ∧ decodeRow 0x19 = decodeOp19 ∧ decodeRow 0x1A = decodeOp1A ∧ decodeRow 0x1B = decodeOp1B ∧
  decodeRow 0x1C = decodeOp1C ∧ decodeRow 0x1D = decodeOp1D ∧ decodeRow 0x1E = decodeOp1E ∧ decodeRow 0x1F = (fun _ => none) ∧
  decodeRow 0x20 = decodeOp20 ∧ decodeRow 0x21 = decodeOp21 ∧ decodeRow 0x22 = decodeOp22 ∧ decodeRow 0x23 = decodeOp23 ∧
  decodeRow 0x24 = decodeOp24 ∧ decodeRow 0x25 = decodeOp25 ∧ decodeRow 0x26 = decodeOp26 ∧ decodeRow 0x27 = decodeOp27 ∧
  decodeRow 0x28 = decodeOp28 ∧ decodeRow 0x29 = decodeOp29 ∧ decodeRow 0x2A = decodeOp2A ∧ decodeRow 0x2B = decodeOp2B ∧
  decodeRow 0x2C = decodeOp2C ∧ decodeRow 0x2D = decodeOp2D ∧ decodeRow 0x2E = decodeOp2E ∧ decodeRow 0x2F = decodeOp2F ∧
  decodeRow 0x30 = decodeOp30 ∧ decodeRow 0x31 = decodeOp31 ∧ decodeRow 0x32 = decodeOp32 ∧ decodeRow 0x33 = decodeOp33 ∧
  decodeRow 0x34 = decodeOp34 ∧ decodeRow 0x35 = decodeOp35 ∧ decodeRow 0x36 = decodeOp36 ∧ decodeRow 0x37 = decodeOp37 ∧
  decodeRow 0x38 = decodeOp38 ∧ decodeRow 0x39 = decodeOp39 ∧ decodeRow 0x3A = decodeOp3A ∧ decodeRow 0x3B = decodeOp3B ∧
  decodeRow 0x3C = decodeOp3C ∧ decodeRow 0x3D = decodeOp3D ∧ decodeRow 0x3E = decodeOp3E ∧ decodeRow 0x3F = decodeOp3F ∧
  decodeRow 0x40 = decodeOp40 ∧ decodeRow 0x41 = decodeOp41 ∧ decodeRow 0x42 = decodeOp42 ∧ decodeRow 0x43 = decodeOp43 ∧
  decodeRow 0x44 = decodeOp44 ∧ decodeRow 0x45 = decodeOp45 ∧ decodeRow 0x46 = decodeOp46 ∧ decodeRow 0x47 = decodeOp47 ∧
  decodeRow 0x48 = decodeOp48 ∧ decodeRow 0x49 = decodeOp49 ∧ decodeRow 0x4A = decodeOp4A ∧ decodeRow 0x4B = (fun _ => none) ∧
  decodeRow 0x4C = (fun _ => none) ∧ decodeRow 0x4D = (fun _ => none) ∧ decodeRow 0x4E = (fun _ => none) ∧ decodeRow 0x4F = (fun _ => none) ∧
  decodeRow 0x50 = decodeOp50 ∧ decodeRow 0x51 = decodeOp51 ∧ decodeRow 0x52 = decodeOp52 ∧ decodeRow 0x53 = decodeOp53 ∧
  decodeRow 0x54 = decodeOp54 ∧ decodeRow 0x55 = decodeOp55 ∧ decodeRow 0x56 = decodeOp56 ∧ decodeRow 0x57 = decodeOp57 ∧
  decodeRow 0x58 = decodeOp58 ∧ decodeRow 0x59 = decodeOp59 ∧ decodeRow 0x5A = decodeOp5A ∧ decodeRow 0x5B = decodeOp5B ∧
  decodeRow 0x5C = decodeOp5C ∧ decodeRow 0x5D = decodeOp5D ∧ decodeRow 0x5E = decodeOp5E ∧ decodeRow 0x5F = decodeOp5F ∧
  decodeRow 0x60 = decodeOp60 ∧ decodeRow 0x61 = decodeOp61 ∧ decodeRow 0x62 = decodeOp62 ∧ decodeRow 0x63 = decodeOp63 ∧
  decodeRow 0x64 = decodeOp64 ∧ decodeRow 0x65 = decodeOp65 ∧ decodeRow 0x66 = decodeOp66 ∧ decodeRow 0x67 = decodeOp67 ∧
  decodeRow 0x68 = decodeOp68 ∧ decodeRow 0x69 = decodeOp69 ∧ decodeRow 0x6A = decodeOp6A ∧ decodeRow 0x6B = decodeOp6B ∧
  decodeRow 0x6C = decodeOp6C ∧ decodeRow 0x6D = decodeOp6D ∧ decodeRow 0x6E = decodeOp6E ∧ decodeRow 0x6F = decodeOp6F ∧
  decodeRow 0x70 = decodeOp70 ∧ decodeRow 0x71 = decodeOp71 ∧ decodeRow 0x72 = decodeOp72 ∧ decodeRow 0x73 = decodeOp73 ∧
  decodeRow 0x74 = decodeOp74 ∧ decodeRow 0x75 = decodeOp75 ∧ decodeRow 0x76 = decodeOp76 ∧ decodeRow 0x77 = decodeOp77 ∧
  decodeRow 0x78 = decodeOp78 ∧ decodeRow 0x79 = decodeOp79 ∧ decodeRow 0x7A = decodeOp7A ∧ decodeRow 0x7B = decodeOp7B ∧
  decodeRow 0x7C = decodeOp7C ∧ decodeRow 0x7D = decodeOp7D ∧ decodeRow 0x7E = decodeOp7E ∧ decodeRow 0x7F = (fun _ => none) := by
  and_intros <;> rfl

/-- A well-formed instruction passes the check that ends `decode`. -/
theorem filter_wf_some {i : Instr} (h : i.wf = true) : (some i).filter Instr.wf = some i := by
  rw [Option.filter_some, if_pos h]

/-- R22: each field of an instruction's word is read back from where `encodeWord` put it, and so the row of its OP finds the
constants of its own line and of no earlier one. -/
theorem decode_encodeWord (i : Instr) (w : W32) (hwf : i.wf = true) (he : encodeWord i = some w)
    (hv : ∀ v, i ≠ .reservedWord v) : decode w = some i := by
  cases i
  case reservedWord v => exact absurd rfl (hv v)
  all_goals cases he
  all_goals
    simp only [decode, extract_append_high, extract_append_low, extract_append_span_eq,
      bit_append_high, bit_append_low, bit_ofBool, BitVec.extractLsb'_eq_self, BitVec.reduceGetLsb,
      BitVec.reduceExtractLsb', BitVec.reduceToNat, BitVec.reduceEq, Nat.reduceLeDiff,
      Nat.reduceLT, Nat.reduceSub, Nat.reduceAdd, and_self, and_true, true_and, and_false,
      false_and, ↓reduceIte, decodeRow_rows,
      decodeOp01, decodeOp02, decodeOp03, decodeOp04, decodeOp05, decodeOp06, decodeOp07,
      decodeOp08, decodeOp09, decodeOp0A, decodeOp0B, decodeOp0C, decodeOp10, decodeOp11,
      decodeOp12, decodeOp13, decodeOp14, decodeOp15, decodeOp16, decodeOp17, decodeOp18,
      decodeOp19, decodeOp1A, decodeOp1B, decodeOp1C, decodeOp1D, decodeOp1E, decodeOp20,
      decodeOp21, decodeOp22, decodeOp23, decodeOp24, decodeOp25, decodeOp26, decodeOp27,
      decodeOp28, decodeOp29, decodeOp2A, decodeOp2B, decodeOp2C, decodeOp2D, decodeOp2E,
      decodeOp2F, decodeOp30, decodeOp31, decodeOp32, decodeOp33, decodeOp34, decodeOp35,
      decodeOp36, decodeOp37, decodeOp38, decodeOp39, decodeOp3A, decodeOp3B, decodeOp3C,
      decodeOp3D, decodeOp3E, decodeOp3F, decodeOp40, decodeOp41, decodeOp42, decodeOp43,
      decodeOp44, decodeOp45, decodeOp46, decodeOp47, decodeOp48, decodeOp49, decodeOp4A,
      decodeOp50, decodeOp51, decodeOp52, decodeOp53, decodeOp54, decodeOp55, decodeOp56,
      decodeOp57, decodeOp58, decodeOp59, decodeOp5A, decodeOp5B, decodeOp5C, decodeOp5D,
      decodeOp5E, decodeOp5F, decodeOp60, decodeOp61, decodeOp62, decodeOp63, decodeOp64,
      decodeOp65, decodeOp66, decodeOp67, decodeOp68, decodeOp69, decodeOp6A, decodeOp6B,
      decodeOp6C, decodeOp6D, decodeOp6E, decodeOp6F, decodeOp70, decodeOp71, decodeOp72,
      decodeOp73, decodeOp74, decodeOp75, decodeOp76, decodeOp77, decodeOp78, decodeOp79,
      decodeOp7A, decodeOp7B, decodeOp7C, decodeOp7D, decodeOp7E]
    exact filter_wf_some hwf

/-- The instruction is a word that stands for none (R40). -/
def isReserved : Instr → Bool
  | .reservedWord _ => true
  | _ => false

theorem ne_reservedWord {i : Instr} (h : isReserved i = false) (v : W32) : i ≠ .reservedWord v := by
  rintro rfl
  cases h

theorem some_ite_eq_some {c : Prop} [Decidable c] {a i : Instr} {x : Option Instr} :
    (if c then some a else x) = some i ↔ (c ∧ a = i) ∨ (¬ c ∧ x = some i) := by
  by_cases h : c <;> simp [h]

/-- R40: whatever line of its OP's row a word meets, that line's constants and the fields it names are the whole word; and no
line answers a reserved word. -/
theorem encodeWord_of_decodeRow (w : W32) (i : Instr) (n : Nat) (hn : n < 128)
    (hop : w.extractLsb' 24 7 = BitVec.ofNat 7 n) (h : decodeRow n w = some i) :
    encodeWord i = some w ∧ isReserved i = false := by
  interval_cases n
  all_goals
    simp only [decodeRow_rows, some_ite_eq_some,
      decodeOp01, decodeOp02, decodeOp03, decodeOp04, decodeOp05, decodeOp06, decodeOp07,
      decodeOp08, decodeOp09, decodeOp0A, decodeOp0B, decodeOp0C, decodeOp10, decodeOp11,
      decodeOp12, decodeOp13, decodeOp14, decodeOp15, decodeOp16, decodeOp17, decodeOp18,
      decodeOp19, decodeOp1A, decodeOp1B, decodeOp1C, decodeOp1D, decodeOp1E, decodeOp20,
      decodeOp21, decodeOp22, decodeOp23, decodeOp24, decodeOp25, decodeOp26, decodeOp27,
      decodeOp28, decodeOp29, decodeOp2A, decodeOp2B, decodeOp2C, decodeOp2D, decodeOp2E,
      decodeOp2F, decodeOp30, decodeOp31, decodeOp32, decodeOp33, decodeOp34, decodeOp35,
      decodeOp36, decodeOp37, decodeOp38, decodeOp39, decodeOp3A, decodeOp3B, decodeOp3C,
      decodeOp3D, decodeOp3E, decodeOp3F, decodeOp40, decodeOp41, decodeOp42, decodeOp43,
      decodeOp44, decodeOp45, decodeOp46, decodeOp47, decodeOp48, decodeOp49, decodeOp4A,
      decodeOp50, decodeOp51, decodeOp52, decodeOp53, decodeOp54, decodeOp55, decodeOp56,
      decodeOp57, decodeOp58, decodeOp59, decodeOp5A, decodeOp5B, decodeOp5C, decodeOp5D,
      decodeOp5E, decodeOp5F, decodeOp60, decodeOp61, decodeOp62, decodeOp63, decodeOp64,
      decodeOp65, decodeOp66, decodeOp67, decodeOp68, decodeOp69, decodeOp6A, decodeOp6B,
      decodeOp6C, decodeOp6D, decodeOp6E, decodeOp6F, decodeOp70, decodeOp71, decodeOp72,
      decodeOp73, decodeOp74, decodeOp75, decodeOp76, decodeOp77, decodeOp78, decodeOp79,
      decodeOp7A, decodeOp7B, decodeOp7C, decodeOp7D, decodeOp7E] at h
    repeat' rcases h with ⟨hc, rfl⟩ | ⟨-, h⟩
  all_goals
    refine ⟨congrArg some ?_, rfl⟩
    simp only [append_eq_iff, eq_extract_iff_op, eq_extract_iff_hint, extract_extract, extract_one,
      Nat.reduceAdd, Nat.reduceSub, Nat.reduceLT, Nat.reduceLeDiff, BitVec.reduceExtractLsb',
      BitVec.reduceGetLsb, BitVec.ofBool_false, BitVec.ofBool_true, BitVec.ofNat_eq_ofNat,
      and_self, *]

/-- What a decoded word says: the instruction is well-formed, and the row of the word's OP answers it. -/
theorem wf_and_row_of_decode {w : W32} {i : Instr} (h : decode w = some i) :
    i.wf = true ∧ decodeRow (w.extractLsb' 24 7).toNat w = some i :=
  (Option.filter_eq_some_iff.1 h).symm

/-- The word of a decoded instruction is the word it came from, and it is no reserved word. -/
theorem encodeWord_of_decode {w : W32} {i : Instr} (h : decode w = some i) :
    encodeWord i = some w ∧ isReserved i = false :=
  encodeWord_of_decodeRow w i _ (w.extractLsb' 24 7).isLt
    (by rw [BitVec.ofNat_toNat, BitVec.setWidth_eq]) (wf_and_row_of_decode h).2

/-- A word whose OP has no line that answers decodes to nothing. -/
theorem decode_of_row_none {w : W32} {n : Nat} (hop : (w.extractLsb' 24 7).toNat = n)
    (h : decodeRow n w = none) : decode w = none := by
  rw [decode, hop, h, Option.filter_none]

end Sys2Proof

namespace Sys2Proof.Machine

/-- Settles O57: a field read back is the field that was put there, line by line of the table, and the fields and constants of
a line are the whole word. -/
theorem decodeEncode : Obligations.DecodeEncode := by
  unfold Obligations.DecodeEncode
  refine ⟨decode_encodeWord, fun w i h => ⟨(wf_and_row_of_decode h).1, (encodeWord_of_decode h).1⟩,
    fun w v h => ne_reservedWord (encodeWord_of_decode h).2 v rfl⟩

/-- Settles O56: each word is the word of the instruction it spells; OP 0x00 has no line. -/
theorem decodeWords : Obligations.DecodeWords := by
  unfold Obligations.DecodeWords
  refine ⟨?_, ?_, ?_, ?_, ?_, ?_, ?_, decode_of_row_none (n := 0) rfl (by rw [decodeRow_rows.1])⟩
  all_goals exact decode_encodeWord _ _ (by decide) (by decide) nofun

end Sys2Proof.Machine
end

section
/-! PROOF. Words that stand for no instruction (R40, R41). -/

namespace Sys2Proof.Machine

/-- A unit without hints has no hint its word does not accept. -/
theorem accepts_no_hints (a : Accepts) : a.ok {} = true := by
  simp [Accepts.ok]

theorem operandHints_no_hints (op : Nat) : operandHints op {} = true := by
  simp [operandHints]

/-- R41: a reserved word without a fault of an operand field raises ILLEGAL_INSTRUCTION. -/
theorem traps_reservedWord {w : W32} {s : State} {run : Run} {cx : Cx}
    (hu : UnitOk s run cx { imm := 2, mode := true, ord := true, cache := true, type := true } true)
    (hf : operandFault w = false) : Traps (.reservedWord w) s run cx 1 0#64 := by
  refine issue_static_error hu (e := .trap 1 0#64 0 0 0 0#64) ?_
  rw [run_bind_ok (run_getG cx.g s)]
  simp only [hf, Bool.false_and]
  rfl

/-- R41: one with such a fault, and with no hint, raises ILLEGAL_OPERAND. -/
theorem traps_operandFault {w : W32} {s : State} {run : Run} {cx : Cx}
    (hu : UnitOk s run cx { imm := 2, mode := true, ord := true, cache := true, type := true } true)
    (hf : operandFault w = true) (hh : cx.h = {}) (hm : (s.grp cx.g).mill = none) :
    Traps (.reservedWord w) s run cx 2 0#64 := by
  refine issue_static_error hu (e := .trap 2 0#64 0 0 0 0#64) ?_
  rw [run_bind_ok (run_getG cx.g s)]
  simp only [hf, hh, hm, accepts_no_hints, operandHints_no_hints, Option.isNone_none, Bool.true_or,
    Bool.and_self]
  rfl

theorem opOfWord (w : W32) : wf32 w 30 24 = (w.extractLsb' 24 7).toNat := by
  simp [wf32, bits, Nat.shiftRight_eq_div_pow]

/-- R40: a word of a reserved OP is no instruction's word, and no operand field of it is at fault. -/
theorem decode_reservedOp {w : W32} {n : Nat} (hop : (w.extractLsb' 24 7).toNat = n)
    (hn : n ∈ [0x00, 0x0D, 0x0E, 0x0F, 0x1F, 0x4B, 0x4C, 0x4D, 0x4E, 0x4F, 0x7F]) :
    decode w = none ∧ operandFault w = false := by
  refine ⟨decode_of_row_none hop ?_, ?_⟩
  · fin_cases hn <;> simp only [decodeRow_rows]
  · rw [operandFault, opOfWord, hop]
    fin_cases hn <;> rfl

/-- R31: a hint word of a kind that does not exist is no instruction's word. -/
theorem decode_hint_unknown {w : W32} (hop : w.extractLsb' 24 7 = 0x01#7)
    (hk : (w.extractLsb' 20 4).toNat ∉ [0, 1, 2, 3, 4, 5]) : decode w = none := by
  have hne (k : BitVec 4) (h : k.toNat ∈ [0, 1, 2, 3, 4, 5]) : w.extractLsb' 20 4 ≠ k :=
    fun he => hk (he ▸ h)
  refine decode_of_row_none (n := 1) (by rw [hop]; rfl) ?_
  simp only [decodeRow_rows, decodeOp01, hne 0#4 (by decide), hne 1#4 (by decide),
    hne 2#4 (by decide), hne 3#4 (by decide), hne 4#4 (by decide), hne 5#4 (by decide), false_and,
    and_false, if_false]

/-- Settles O55: the checks of a reserved word decide which of the two traps it raises; the rows of the reserved OPs are empty. -/
theorem reservedWords : Obligations.ReservedWords := by
  unfold Obligations.ReservedWords
  refine ⟨fun w s run cx hu => ⟨traps_reservedWord hu, traps_operandFault hu⟩, fun w hop => ?_,
    fun w hop hk => decode_hint_unknown hop hk⟩
  exact decode_reservedOp rfl (List.mem_map_of_mem (f := BitVec.toNat) hop)

end Sys2Proof.Machine
end
section
/-! PROOF. Units whose effect stays within their group, units whose hints are refused, and the scalar immediate forms and
last-use marks (R27, R30, R31, R130 to R132). -/

namespace Sys2Proof.Machine

/-! ## Issuing -/

/-- A unit whose body only changes its own group issues, and its threads go on at the next word. -/
theorem issue_does {z : Bool} {op : Nat} {acc : Accepts} {mill : Bool} {static : Cx → M Unit} {body : Cx → M Ctl} {s : State}
    {run : Run} {cx : Cx} {y : Group} (h : Issuing s run cx acc mill) (hs : (static cx).run s = .ok ((), s))
    (hb : (body cx).run s = .ok ({}, s.setGrp cx.g y)) (p : SamePlace (s.grp cx.g) y) :
    ∃ t, issue z op acc mill static body s = .next t ∧ Leaves (s.setGrp cx.g y) t cx cx.next :=
  issue_leaves h.unit h.calm h.loop hs hb p rfl rfl rfl rfl

/-- A unit with a hint that its target does not accept, one too many of them, or an HPRED under an open shadow (R30, R32, R424). -/
theorem issue_hints_refused {z : Bool} {op : Nat} {acc : Accepts} {mill : Bool} {static : Cx → M Unit} {body : Cx → M Ctl}
    {s : State} {run : Run} {cx : Cx} (hc : s.current = some (run, cx)) (hp : run.probe = false)
    (hg : (!cx.h.bad && acc.ok cx.h && !(cx.h.pred.isSome && (s.grp cx.g).shadow.isSome)) = false) :
    issue z op acc mill static body s = .next (s.stopped cx run (.trap 1 0#64 0 0 0 0#64)) := by
  have hu : (unitBody cx acc mill static body).run s = .error (.trap 1 0#64 0 0 0 0#64) := by
    unfold unitBody
    rw [run_bind_ok (run_getG cx.g s), hg, Bool.false_and, StateT.run_bind, run_guard_false]
    rfl
  rw [issue, hc]
  simp only [hu, hp]
  rfl

theorem skipMarks_eq {cx : Cx} (n : Nat) (k : M Ctl) (h : cx.exe ≠ 0#64) : skipMarks cx n k = k := if_neg h

/-! ## Immediates (R31) -/

theorem toNat_append_eq {v w : Nat} (x : BitVec v) (y : BitVec w) :
    (x ++ y).toNat = x.toNat * 2 ^ w + y.toNat := by
  rw [BitVec.toNat_append, ← Nat.shiftLeft_add_eq_or_of_lt y.isLt, Nat.shiftLeft_eq]

/-- The model's sign extension of a number of at most 64 bits. -/
theorem sextN_toNat {n : Nat} (h64 : n ≤ 64) (b : BitVec n) : sextN b.toNat n = b.signExtend 64 := by
  have hlt := b.isLt
  have hle : 2 ^ n ≤ 2 ^ 64 := Nat.pow_le_pow_right (by omega) h64
  apply BitVec.eq_of_toNat_eq
  rw [BitVec.toNat_signExtend, BitVec.toNat_setWidth_of_le h64, BitVec.msb_eq_decide, sextN]
  by_cases hs : 2 ^ (n - 1) ≤ b.toNat
  · simp only [hs, decide_true, if_true, n64, BitVec.toNat_ofNat]
    omega
  · simp only [hs, decide_false, if_false, n64, BitVec.toNat_ofNat, Bool.false_eq_true]
    omega

/-- What `immS` reads where the hints widen the field as R31 has it. -/
theorem immS_eq {h : Hints} {w : Nat} {i : BitVec w} {imm : W64} (hw : w + 40 ≤ 64)
    (hi : (h.imm = [] ∧ imm = i.signExtend 64) ∨ (∃ a, h.imm = [a] ∧ imm = (a ++ i).signExtend 64)
      ∨ (∃ a b, h.imm = [a, b] ∧ imm = (a ++ b ++ i).signExtend 64)) : immS h w i.toNat = imm := by
  unfold immS immBits
  rcases hi with ⟨hh, rfl⟩ | ⟨a, hh, rfl⟩ | ⟨a, b, hh, rfl⟩ <;> simp only [hh]
  · exact sextN_toNat (by omega) i
  · rw [← toNat_append_eq, Nat.add_comm w 20]
    exact sextN_toNat (by omega) (a ++ i)
  · rw [← sextN_toNat (by omega) (a ++ b ++ i), toNat_append_eq, toNat_append_eq]
    congr 1
    · ring
    · omega

/-! ## Scalar units -/

/-- A scalar unit with one unmarked source. -/
theorem run_scalarUnary {s : State} {cx : Cx} {n d : Nat} {v : W64} (r : W64 → W64) (hx : cx.exe ≠ 0#64)
    (ha : ScalarOk (s.grp cx.g) n v) (hd : pendingReg (s.grp cx.g) (96 + d) = none) :
    (skipMarks cx (countMarks false false) (thenNext (do
      let a ← readS cx n
      applyMarks cx (countMarks false false) (scalarMark false n)
      writeS cx d (r a)))).run s = .ok ({}, s.setGrp cx.g ((s.grp cx.g).setS d (r v))) := by
  rw [skipMarks_eq _ _ hx, thenNext]
  refine run_bind_ok (a := ()) ?_
  rw [run_bind_ok (run_readS ha)]
  exact (run_bind_ok (run_applyMarks_nil _)).trans (run_writeS _ hd)

/-- A scalar unit that only writes its destination. -/
theorem run_scalarWrite {s : State} {cx : Cx} {d : Nat} (v : W64) (hx : cx.exe ≠ 0#64)
    (hd : pendingReg (s.grp cx.g) (96 + d) = none) :
    (skipIfNone cx (thenNext (writeS cx d v))).run s = .ok ({}, s.setGrp cx.g ((s.grp cx.g).setS d v)) := by
  rw [skip_eq _ hx, thenNext]
  exact run_bind_ok (run_writeS v hd)

theorem scalarImm_does {op : Nat} {r : W64 → W64 → W64} {f : FSI} {s : State} {run : Run} {cx : Cx} {a imm : W64}
    (h : Issuing s run cx { imm := 2 } true) (hl : f.l = false) (ha : ScalarOk (s.grp cx.g) f.a.toNat a)
    (hd : pendingReg (s.grp cx.g) (96 + f.d.toNat) = none) (hi : immS cx.h 11 f.i.toNat = imm) :
    ∃ t, scalarImm op r f s = .next t ∧ Leaves (s.setGrp cx.g ((s.grp cx.g).setS f.d.toNat (r a imm))) t cx cx.next := by
  rw [← hi, scalarImm, hl]
  exact issue_does h rfl (run_scalarUnary (r · (immS cx.h 11 f.i.toNat)) h.some ha hd) (samePlace_setS _ _ _)

theorem scalarShift_does {r : W64 → W64 → W64} {f : FSN} {s : State} {run : Run} {cx : Cx} {a : W64}
    (h : Issuing s run cx {} true) (hl : f.l = false) (ha : ScalarOk (s.grp cx.g) f.a.toNat a)
    (hd : pendingReg (s.grp cx.g) (96 + f.d.toNat) = none) :
    ∃ t, scalarShift r f s = .next t
      ∧ Leaves (s.setGrp cx.g ((s.grp cx.g).setS f.d.toNat (r a (n64 f.n.toNat)))) t cx cx.next := by
  rw [scalarShift, hl]
  exact issue_does h rfl (run_scalarUnary (r · (n64 f.n.toNat)) h.some ha hd) (samePlace_setS _ _ _)

/-- R130 to R132. -/
theorem scalarImmediates : scalarImmediatesRule := by
  intro s run cx i imm h hi
  have himm : immS cx.h 11 i.toNat = imm := immS_eq (by decide) hi
  refine ⟨fun r hr f a hf hl ha hd => ?_, fun f hf hd => ?_⟩
  · subst hf
    simp only [List.mem_cons, List.not_mem_nil, or_false] at hr
    rcases hr with rfl | rfl | rfl | rfl <;> exact scalarImm_does h hl ha hd himm
  · subst hf
    rw [← himm]
    exact ⟨issue_does h rfl (run_scalarWrite _ h.some hd) (samePlace_setS _ _ _),
      issue_does h rfl (run_scalarWrite _ h.some hd) (samePlace_setS _ _ _)⟩

/-- A shift by an immediate takes no HIMM (R131). -/
theorem scalarShift_himm {r : W64 → W64 → W64} {f : FSN} {s : State} {run : Run} {cx : Cx}
    (hc : s.current = some (run, cx)) (hp : run.probe = false) (hi : cx.h.imm ≠ []) :
    scalarShift r f s = .next (s.stopped cx run (.trap 1 0#64 0 0 0 0#64)) := by
  refine issue_hints_refused hc hp ?_
  have : Accepts.ok {} cx.h = false := by simp [Accepts.ok, hi]
  rw [this, Bool.and_false, Bool.false_and]

/-- A word of OP 0x17 with a bit of its reserved field set meets no line of the row. -/
theorem decode_shift_reserved {w : W32} (hop : w.extractLsb' 24 7 = 0x17#7) (hr : w.extractLsb' 6 3 ≠ 0#3) :
    decode w = none := by
  refine decode_of_row_none (n := 0x17) (by rw [hop]; rfl) ?_
  have hne (k : BitVec 5) (hk : k.extractLsb' 0 3 = 0#3) : w.extractLsb' 6 5 ≠ k := by
    rintro rfl
    exact hr (by rw [← hk, extract_extract _ (by decide)])
  simp only [decodeRow_rows, decodeOp17, hne 0#5 rfl, hne 8#5 rfl, hne 16#5 rfl, hne 24#5 rfl, if_false]

theorem toNat_shiftAmount (n : BitVec 6) : (n64 n.toNat).toNat = n.toNat := by
  have := n.isLt
  simp only [n64, BitVec.toNat_ofNat]
  omega

/-- R131. -/
theorem scalarShiftImmediates : scalarShiftImmediatesRule := by
  refine ⟨fun r hr f s run cx => ?_, fun w hop hr => decode_shift_reserved hop hr⟩
  have hlt := f.n.isLt
  have shl (a : W64) : a <<< f.n.toNat = shl64 a (n64 f.n.toNat) := by
    rw [shl64, toNat_shiftAmount, if_pos hlt]
  have shr (a : W64) : a >>> f.n.toNat = shr64 a (n64 f.n.toNat) := by
    rw [shr64, toNat_shiftAmount, if_pos hlt]
  have sar (a : W64) : a.sshiftRight f.n.toNat = sar64 a (n64 f.n.toNat) := by
    rw [sar64, toNat_shiftAmount, Nat.min_eq_left (by omega)]
  have rotl (a : W64) : a.rotateLeft f.n.toNat = rotl64 a (n64 f.n.toNat) := by
    rw [rotl64, toNat_shiftAmount, Nat.mod_eq_of_lt hlt]
  simp only [List.mem_cons, List.not_mem_nil, or_false] at hr
  refine ⟨fun a h hl ha hd => ?_, fun hc hp hi => ?_⟩
  · rcases hr with rfl | rfl | rfl | rfl <;> simp only [shl, shr, sar, rotl] <;>
      exact scalarShift_does h hl ha hd
  · rcases hr with rfl | rfl | rfl | rfl <;> exact scalarShift_himm hc hp hi

/-! ## Last-use marks on scalar sources (R27) -/

theorem mem_scalarMark {l : Bool} {n r : Nat} (h : r ∈ scalarMark l n) : 96 ≤ r := by
  unfold scalarMark at h
  split at h
  · obtain rfl := List.mem_singleton.1 h
    omega
  · cases h

theorem countMarks_eq (l m : Bool) (a b : Nat) : countMarks l m = (scalarMark l a ++ scalarMark m b).length := by
  cases l <;> cases m <;> rfl

/-- No matrix command has a scalar open where the pinned registers are v registers. -/
theorem unpinned_of_scalar {x : Group} (hp : x.pinned.all (fun e => decide (e.2 < 80)) = true) {r : Nat} (hr : 96 ≤ r) :
    x.pinned.all (fun e => e.2 != r) = true := by
  refine List.all_eq_true.2 fun e he => ?_
  have := List.all_eq_true.1 hp e he
  simp only [decide_eq_true_eq, bne_iff_ne] at *
  omega

theorem marked_nil (x : Group) (e : W64) (k : Nat) : x.marked e k [] = x := rfl

/-- A two-source scalar unit: the sources are read, the marks done, the destination written. -/
theorem scalar3_does {op : Nat} {r : W64 → W64 → W64} {f : FS3} {s : State} {run : Run} {cx : Cx} {a b : W64}
    (h : Issuing s run cx {} true) (hm : (s.grp cx.g).mill = none)
    (hp : (s.grp cx.g).pinned.all (fun e => decide (e.2 < 80)) = true)
    (ha : ScalarOk (s.grp cx.g) f.a.toNat a) (hb : ScalarOk (s.grp cx.g) f.b.toNat b)
    (hd : pendingReg (s.grp cx.g) (96 + f.d.toNat) = none) :
    let regs := scalarMark f.l f.a.toNat ++ scalarMark f.m f.b.toNat
    ∃ t, scalar3 op r f s = .next t
      ∧ Leaves (s.setGrp cx.g (((s.grp cx.g).marked cx.exe regs.length regs).setS f.d.toNat (r a b))) t cx cx.next := by
  intro regs
  have hmarks := run_applyMarks (cx := cx) (countMarks f.l f.m) regs hm fun q hq =>
    unpinned_of_scalar hp ((List.mem_append.1 hq).elim mem_scalarMark mem_scalarMark)
  obtain ⟨t, ht, hg, hset⟩ : ∃ t, (applyMarks cx (countMarks f.l f.m) regs).run s = .ok ((), t)
      ∧ t.grp cx.g = (s.grp cx.g).marked cx.exe regs.length regs ∧ ∀ y, t.setGrp cx.g y = s.setGrp cx.g y := by
    refine ⟨_, hmarks, ?_, fun y => ?_⟩
    · rw [countMarks_eq f.l f.m f.a.toNat f.b.toNat]
      cases he : regs with
      | nil => rfl
      | cons q qs => simp [regs, he]
    · split
      · rfl
      · rw [setGrp_setGrp]
  refine issue_does h rfl ?_ ((samePlace_marked _ _ _ _).trans (samePlace_setS _ _ _))
  rw [skipMarks_eq _ _ h.some, run_bind_ok (run_readS ha), run_bind_ok (run_readS hb)]
  rw [run_bind_ok (run_pure _ s), run_bind_ok ht]
  refine run_bind_ok (a := ()) ?_
  rw [run_writeS _ (by rw [hg]; exact pending_marked _ _ _ hd), hg, hset]

/-- A strict and a weak comparison pick the same of two words, where equal measures are equal words. -/
theorem pick_lt_eq_pick_le {α β : Type} [LinearOrder β] {f : α → β} (hf : f.Injective) (a b : α) :
    (if f a < f b then a else b) = (if f a ≤ f b then a else b) ∧
      (if f a < f b then b else a) = (if f a ≤ f b then b else a) := by
  rcases lt_trichotomy (f a) (f b) with h | h | h
  · simp [h, h.le]
  · simp [hf h]
  · simp [h.not_ge, h.le]

theorem toInt_injective : (BitVec.toInt (n := 64)).Injective := fun _ _ => BitVec.eq_of_toInt_eq
theorem toNat_injective : (BitVec.toNat (w := 64)).Injective := fun _ _ => BitVec.eq_of_toNat_eq

/-- An arithmetic shift by the width leaves the sign in every bit. -/
theorem sshiftRight_width {n : Nat} (a : BitVec n) :
    a.sshiftRight n = if a.msb then BitVec.allOnes n else 0#n := by
  refine BitVec.eq_of_getLsbD_eq fun i hi => ?_
  rw [BitVec.getLsbD_sshiftRight, if_neg (show ¬ n + i < n by omega)]
  cases a.msb
  · simp
  · rw [if_pos rfl, BitVec.getLsbD_allOnes]
    simp [hi]

theorem sar64_eq (a b : W64) : sar64 a b =
    if b.toNat < 64 then a.sshiftRight b.toNat else if a.getLsbD 63 then BitVec.allOnes 64 else 0#64 := by
  unfold sar64
  split
  · rw [Nat.min_eq_left (by omega)]
  · rw [Nat.min_eq_right (by omega), sshiftRight_width, BitVec.msb_eq_getLsbD_last]

/-- R27: marks on the rows of SALU0 and on MUL. -/
theorem scalarLastUse : scalarLastUseRule := by
  intro r hr f s run cx a b h hm hp ha hb hd regs
  have smin := (pick_lt_eq_pick_le toInt_injective a b).1
  have smax := (pick_lt_eq_pick_le toInt_injective a b).2
  have umin := (pick_lt_eq_pick_le toNat_injective a b).1
  have umax := (pick_lt_eq_pick_le toNat_injective a b).2
  simp only [salu0Rows, List.cons_append, List.nil_append, List.mem_cons, List.not_mem_nil, or_false] at hr
  rcases hr with rfl | rfl | rfl | rfl | rfl | rfl | rfl | rfl | rfl | rfl | rfl | rfl | rfl | rfl | rfl <;>
    simp only [← sar64_eq, BitVec.slt, BitVec.ult, decide_eq_true_eq, smin, smax, umin, umax] <;>
    exact scalar3_does h hm hp ha hb hd

/-- Settles O3: the immediates as R31 widens them, each shape of scalar unit by its reads, marks and write. -/
theorem scalarImmediatesAndMarks : Obligations.ScalarImmediatesAndMarks := by
  unfold Obligations.ScalarImmediatesAndMarks
  exact ⟨scalarImmediates, scalarShiftImmediates, scalarLastUse⟩

end Sys2Proof.Machine
end
section
/-! PROOF. CSRR and CSRW of every control register (R43 to R45, R120, R186, R340). -/

namespace Sys2Proof.Machine

/-! ## What the registers read -/

theorem setAt_eq_set {α : Type} (l : List α) (n : Nat) (v : α) : setAt l n v = l.set n v := by
  induction l generalizing n with
  | nil => rfl
  | cons a l ih => cases n with
    | zero => rfl
    | succ n => exact congrArg (a :: ·) (ih n)

theorem storesOut_eq (x : Group) :
    let out (k : Nat) : Nat := x.sb.countP (fun e => !e.acked.getLsbD k)
    storesOut x = BitVec.ofNat 64 (out 1 + out 2 * 2 ^ 12 + out 3 * 2 ^ 24 + out 4 * 2 ^ 36 + out 5 * 2 ^ 48) := by
  simp only [storesOut, List.countP_eq_length_filter]
  rfl

/-- The registers that a milliner has too, but for DIECLK, and what a group reads from each. -/
def csrShared (x : Group) : List (Nat × W64) :=
  let out (k : Nat) : Nat := x.sb.countP (fun e => !e.acked.getLsbD k)
  [(0x00, x.name), (0x08, x.gstatus &&& 31#64),
    (0x0B, BitVec.ofNat 64 (out 1 + out 2 * 2 ^ 12 + out 3 * 2 ^ 24 + out 4 * 2 ^ 36 + out 5 * 2 ^ 48)),
    (0x10, x.lc.getD 0 0#64), (0x11, x.lc.getD 1 0#64), (0x12, x.lc.getD 2 0#64), (0x20, x.trappc),
    (0x21, x.trapcause), (0x22, x.trapinfo), (0x23, x.trapmask), (0x24, x.traphandler), (0x28, x.cmdseq)]

/-- The registers that only a task's group has, and what it reads from each. -/
def csrOwn (s : State) (x : Group) : List (Nat × W64) :=
  let t := s.team x.team
  let tcb := (s.task x.task).tcb
  [(0x01, tcb.namebase + BitVec.ofNat 64 (t.gridpos * tcb.groups)), (0x02, BitVec.ofNat 64 t.gridpos),
    (0x03, BitVec.ofNat 64 x.w), (0x04, BitVec.ofNat 64 x.role), (0x09, BitVec.ofNat 64 x.floor),
    (0x0A, BitVec.ofNat 64 (x.vval.length - x.spilled.length)), (0x18, x.sigword.setWidth 64),
    (0x19, x.sighandler)]

theorem run_readCsr_shared {s : State} {g : Nat} {r : Nat × W64} (hr : r ∈ csrShared (s.grp g)) :
    (readCsr g r.1).run s = .ok (r.2, s) := by
  simp only [csrShared, ← storesOut_eq, List.mem_cons, List.not_mem_nil, or_false] at hr
  rcases hr with rfl | rfl | rfl | rfl | rfl | rfl | rfl | rfl | rfl | rfl | rfl | rfl <;> rfl

theorem run_readCsr_own {s : State} {g : Nat} {r : Nat × W64} (hr : r ∈ csrOwn s (s.grp g)) :
    (readCsr g r.1).run s = .ok (r.2, s) := by
  simp only [csrOwn, List.mem_cons, List.not_mem_nil, or_false] at hr
  rcases hr with rfl | rfl | rfl | rfl | rfl | rfl | rfl | rfl <;> rfl

/-! ## Which registers there are -/

/-- The numbers that name a register CSRR can read. -/
theorem csr_readable_iff (s : State) (x : Group) (n : Nat) :
    (csrKnown n && (x.mill.isNone || csrMill n)) = true ↔
      n ∈ (if x.mill = none then csrShared x ++ csrOwn s x else csrShared x).map (·.1) ++ [0x30] := by
  cases x.mill <;>
    simp [csrShared, csrOwn, csrKnown, csrMill] <;> omega

/-! ## CSRR -/

theorem csrr_does {f : FDI} {s : State} {run : Run} {cx : Cx} {v : W64} (h : Issuing s run cx {} true)
    (hn : (csrKnown f.i.toNat && ((s.grp cx.g).mill.isNone || csrMill f.i.toNat)) = true)
    (hd : pendingReg (s.grp cx.g) (96 + f.d.toNat) = none) (hv : (readCsr cx.g f.i.toNat).run s = .ok (v, s)) :
    Does (.csrr f) s cx ((s.grp cx.g).setS f.d.toNat v) := by
  refine issue_does h ?_ ?_ (samePlace_setS _ _ _)
  · rw [run_bind_ok (run_getG cx.g s)]
    exact run_guard hn _ s
  · rw [skip_eq _ h.some]
    refine run_bind_ok (a := ()) ?_
    rw [run_bind_ok hv]
    exact run_writeS v hd

/-- DIECLK moves its die's clock on (log 15) and reads it. -/
theorem csrr_clock {f : FDI} {s : State} {run : Run} {cx : Cx} (h : Issuing s run cx {} true)
    (hd : pendingReg (s.grp cx.g) (96 + f.d.toNat) = none) (hf : f.i.toNat = 0x30) :
    let r := s.clock (dieOf (s.grp cx.g))
    Comes (.csrr f) s (r.2.setGrp cx.g ((s.grp cx.g).setS f.d.toNat r.1)) cx := by
  intro r
  have hcalm : Calm r.2 cx.g := ⟨h.calm.samples, h.calm.recs, h.calm.step, h.calm.claims⟩
  refine issue_comes (c := {}) h.unit (calm_setGrp hcalm (samePlace_setS (r.2.grp cx.g) f.d.toNat r.1))
    ?_ ?_ ?_ rfl rfl rfl rfl rfl
  · rw [State.grp_setGrp]
    exact h.loop
  · rw [run_bind_ok (run_getG cx.g s), hf]
    exact run_guard (by cases (s.grp cx.g).mill <;> rfl) _ s
  · rw [skip_eq _ h.some, hf]
    refine run_bind_ok (a := ()) ?_
    have hv : (readCsr cx.g 0x30).run s = .ok (r.1, r.2) := rfl
    rw [run_bind_ok hv]
    exact run_writeS (s := r.2) r.1 hd

theorem csrr_unknown {f : FDI} {s : State} {run : Run} {cx : Cx} (h : UnitOk s run cx {} true)
    (hn : (csrKnown f.i.toNat && ((s.grp cx.g).mill.isNone || csrMill f.i.toNat)) = false) :
    Traps (.csrr f) s run cx 1 0#64 := by
  refine issue_static_error h (e := .trap 1 0#64 0 0 0 0#64) ?_
  rw [run_bind_ok (run_getG cx.g s), hn]
  rfl

/-! ## CSRW -/

/-- The registers that a milliner can write too, and what writing each leaves. -/
def csrSharedWrites (y : Group) (v : W64) : List (Nat × Group) :=
  [(0x08, { y with gstatus := v &&& 31#64 }), (0x10, { y with lc := y.lc.set 0 v }),
    (0x11, { y with lc := y.lc.set 1 v }), (0x12, { y with lc := y.lc.set 2 v }), (0x20, { y with trappc := v }),
    (0x23, { y with trapmask := v &&& 7#64 }), (0x24, { y with traphandler := v &&& ~~~3#64 })]

/-- The registers that only a task's group can write. -/
def csrOwnWrites (y : Group) (v : W64) : List (Nat × Group) :=
  [(0x18, { y with sigword := v.setWidth 32 }), (0x19, { y with sighandler := v &&& ~~~3#64 })]

theorem writeCsr_rows {y : Group} {v : W64} {r : Nat × Group}
    (hr : r ∈ csrSharedWrites y v ++ csrOwnWrites y v) : r.2 = writeCsr y r.1 v := by
  simp only [csrSharedWrites, csrOwnWrites, ← setAt_eq_set, List.cons_append, List.nil_append, List.mem_cons,
    List.not_mem_nil, or_false] at hr
  rcases hr with rfl | rfl | rfl | rfl | rfl | rfl | rfl | rfl | rfl <;> rfl

/-- The numbers that name a register CSRW can write. -/
theorem csr_writable_iff (x y : Group) (v : W64) (n : Nat) :
    (csrWritable n && (x.mill.isNone || csrMill n)) = true ↔
      n ∈ (if x.mill = none then csrSharedWrites y v ++ csrOwnWrites y v else csrSharedWrites y v).map (·.1) := by
  cases x.mill <;>
    simp [csrSharedWrites, csrOwnWrites, csrWritable, csrMill] <;> omega

theorem samePlace_writeCsr (y : Group) (n : Nat) (v : W64) : SamePlace y (writeCsr y n v) := by
  unfold writeCsr
  split <;> exact ⟨rfl, rfl, rfl, rfl, rfl⟩

/-- The marks of an instruction with one scalar source: a milliner has none (R27). -/
theorem run_applyScalarMark {s : State} {cx : Cx} {l : Bool} {n : Nat}
    (hp : (s.grp cx.g).pinned.all (fun e => decide (e.2 < 80)) = true) :
    ∃ t, (applyMarks cx 1 (scalarMark l n)).run s = .ok ((), t)
      ∧ t.grp cx.g = (if (s.grp cx.g).mill = none then (s.grp cx.g).marked cx.exe 1 (scalarMark l n) else s.grp cx.g)
      ∧ ∀ y, t.setGrp cx.g y = s.setGrp cx.g y := by
  by_cases hm : (s.grp cx.g).mill = none
  · refine ⟨_, run_applyMarks 1 _ hm fun q hq => unpinned_of_scalar hp (mem_scalarMark hq), ?_, ?_⟩
    · rw [if_pos hm]
      cases l <;> simp [scalarMark, marked_nil]
    · intro y
      split
      · rfl
      · rw [setGrp_setGrp]
  · refine ⟨s, ?_, (if_neg hm).symm, fun _ => rfl⟩
    unfold applyMarks
    rw [run_bind_ok (run_getG cx.g s), if_pos (by simp [Option.isSome_iff_ne_none, hm])]
    rfl

theorem csrw_does {f : FAI} {s : State} {run : Run} {cx : Cx} {v : W64} (h : Issuing s run cx {} true)
    (hn : (csrWritable f.i.toNat && ((s.grp cx.g).mill.isNone || csrMill f.i.toNat)) = true)
    (hv : ScalarOk (s.grp cx.g) f.a.toNat v)
    (hp : (s.grp cx.g).pinned.all (fun e => decide (e.2 < 80)) = true) :
    let x := s.grp cx.g
    let y := if x.mill = none then x.marked cx.exe 1 (scalarMark f.l f.a.toNat) else x
    Does (.csrw f) s cx (writeCsr y f.i.toNat v) := by
  intro x y
  obtain ⟨t, ht, hg, hset⟩ := run_applyScalarMark (l := f.l) (n := f.a.toNat) hp
  have hxy : SamePlace x y := by
    unfold y
    split
    · exact samePlace_marked _ _ _ _
    · exact ⟨rfl, rfl, rfl, rfl, rfl⟩
  refine issue_does h ?_ ?_ (hxy.trans (samePlace_writeCsr _ _ _))
  · rw [run_bind_ok (run_getG cx.g s)]
    exact run_guard hn _ s
  · rw [skipMarks_eq _ _ h.some]
    refine run_bind_ok (a := ()) ?_
    rw [run_bind_ok (run_readS hv), run_bind_ok ht, run_modG, State.modGrp_eq, hg, hset]

theorem csrw_unknown {f : FAI} {s : State} {run : Run} {cx : Cx} (h : UnitOk s run cx {} true)
    (hn : (csrWritable f.i.toNat && ((s.grp cx.g).mill.isNone || csrMill f.i.toNat)) = false) :
    Traps (.csrw f) s run cx 1 0#64 := by
  refine issue_static_error h (e := .trap 1 0#64 0 0 0 0#64) ?_
  rw [run_bind_ok (run_getG cx.g s), hn]
  rfl

/-- Settles O20: the two tables of registers, row by row, and the numbers that neither names. -/
theorem controlRegisters : Obligations.ControlRegisters := by
  unfold Obligations.ControlRegisters
  intro s run cx x t tcb out all own
  have readable (n : Nat) := csr_readable_iff s x n
  constructor
  · refine fun f => ⟨fun h hd r hr hf => ?_, fun h hd hf => ⟨_, _, rfl, csrr_clock h hd hf⟩, fun h hn => ?_⟩
    · refine csrr_does h ((readable _).2 ?_) hd ?_
      · rw [hf]
        exact List.mem_append_left _ (List.mem_map_of_mem (f := (·.1)) hr)
      · rw [hf]
        split at hr
        · exact (List.mem_append.1 hr).elim run_readCsr_shared run_readCsr_own
        · exact run_readCsr_shared hr
    · exact csrr_unknown h (Bool.eq_false_iff.2 fun hk => hn ((readable _).1 hk))
  · intro f v hp y writes ownWrites
    refine ⟨fun h hv _ r hr hf => ?_, fun h hn => ?_⟩
    · have hn : (csrWritable f.i.toNat && (x.mill.isNone || csrMill f.i.toNat)) = true :=
        (csr_writable_iff x y v _).2 (hf ▸ List.mem_map_of_mem (f := (·.1)) hr)
      have hrow : r.2 = writeCsr y f.i.toNat v := by
        rw [hf]
        refine writeCsr_rows ?_
        split at hr
        · exact hr
        · exact List.mem_append_left _ hr
      rw [hrow]
      exact csrw_does h hn hv hp
    · exact csrw_unknown h (Bool.eq_false_iff.2 fun hk => hn ((csr_writable_iff x y v _).1 hk))

end Sys2Proof.Machine
end
section
/-! PROOF. Hint words, their misuse, units that no thread executes, and the words that change nothing (R21, R30 to R32, R104,
R108, R110, R119). -/

namespace Sys2Proof.Machine

/-! ## What issuing and the end of a run leave in place -/

theorem samePlace_settle (x : Group) : SamePlace x (settle x) := by
  rw [settle_frame]
  exact ⟨rfl, rfl, rfl, rfl, rfl⟩

theorem samePlace_tick (act : W64) (x : Group) : SamePlace x (tick act x) := by
  unfold tick
  split <;> exact ⟨rfl, rfl, rfl, rfl, rfl⟩

/-- What stands in a group's `arch` of its place. -/
theorem samePlace_of_arch {x y : Group} (h : y.arch = x.arch) : SamePlace x y :=
  ⟨show siteOf y.arch = siteOf x.arch by rw [h], show y.arch.wait = x.arch.wait by rw [h],
    show y.arch.stepping = x.arch.stepping by rw [h], show y.arch.loops = x.arch.loops by rw [h],
    show y.arch.handler = x.arch.handler by rw [h]⟩

theorem samePlace_issued {cx : Cx} {op : Nat} {c : Ctl} {x : Group} (loop : atLoopEnd x cx.pc = false) :
    SamePlace x (issued cx op c x) :=
  ((samePlace_tick cx.act x).trans (samePlace_settle _)).trans (samePlace_of_arch (issued_arch loop))

/-- The state with a unit issued and its words counted, before its run goes on or ends. -/
def State.afterIssue (s : State) (cx : Cx) (run : Run) (op : Nat) (c : Ctl) : State :=
  (s.setGrp cx.g (issued cx op c (s.grp cx.g))).countWords cx run (run.words + cx.h.count + 1)

theorem calm_afterIssue {s : State} {cx : Cx} {run : Run} {op : Nat} {c : Ctl} (calm : Calm s cx.g)
    (loop : atLoopEnd (s.grp cx.g) cx.pc = false) : Calm (s.afterIssue cx run op c) cx.g := by
  have h := calm_setGrp calm (samePlace_issued (op := op) (c := c) loop)
  exact ⟨h.samples, h.recs, h.step, h.claims⟩

/-- A unit that ends its run: nothing but the end of the run follows its effect. -/
theorem finish_over {s : State} {cx : Cx} {run : Run} {z : Bool} {op : Nat} {c : Ctl} (calm : Calm s cx.g)
    (loop : atLoopEnd (s.grp cx.g) cx.pc = false) (he : c.ends = true) (hx : c.exits = false) (ht : c.trapret = false)
    (hp : c.post = none) (hs : c.stopAfter = none) :
    s.finish cx run z op c = (s.afterIssue cx run op c).runOver cx.g cx.act := by
  have h1 := calm_afterIssue (run := run) (op := op) (c := c) calm loop
  have h2 := sameArch_runOver h1.recs cx.g cx.act
  have hsample (n : Nat) (b : Bool) : (s.setGrp cx.g (issued cx op c (s.grp cx.g))).sampleUnit cx n (s.wordAt cx) b
      = s.setGrp cx.g (issued cx op c (s.grp cx.g)) := by
    have hl := (calm_setGrp calm (samePlace_issued (op := op) (c := c) loop)).samples
    unfold State.sampleUnit
    simp only [hl]
  have hstep : (((s.afterIssue cx run op c).runOver cx.g cx.act).grp cx.g).stepping = false :=
    (congrArg Group.stepping (h2.arch cx.g)).trans h1.step
  unfold State.finish
  simp only [State.modGrp_eq, hsample, he, hx, Bool.or_true, Bool.true_or, Bool.and_true, Bool.not_false, if_true]
  change (((((s.afterIssue cx run op c).nextRun cx run _ true c).grantClaims _ 16).afterUnit cx c).stepOver cx.g cx.pc) = _
  have hnext : (s.afterIssue cx run op c).nextRun cx run (run.words + cx.h.count + 1) true c
      = (s.afterIssue cx run op c).runOver cx.g cx.act := by
    simp only [State.nextRun, hx, Bool.false_eq_true, if_false, if_true]
  rw [hnext, grantClaims_none (h2.claims h1.claims)]
  simp only [State.afterUnit, hs, ht, hp, Bool.false_eq_true, if_false, State.stepOver, hstep, Bool.false_and]

/-- A group of which a run on the same partition has ended waits for one more. -/
def waitedOn (g site k : Nat) (x : Group) : Group :=
  if k != g && resident x && siteOf x == site then { x with waited := x.waited + 1 } else x

theorem waitedOn_self (g site : Nat) (x : Group) : waitedOn g site g x = x := by simp [waitedOn]

theorem grp_map_groups {s : State} {f : Nat → Group → Group} {g : Nat} (hf : ∀ x, f g x = x) :
    ({ s with groups := s.groups.map (fun e => (e.1, f e.1 e.2)) } : State).grp g = s.grp g := by
  simp only [State.grp, look_map]
  cases look s.groups g <;> simp [hf]

/-- The group whose run ends: its counts in arbitration move on (R77, R108). -/
theorem grp_runOver (s : State) (g : Nat) (act : W64) : (s.runOver g act).grp g =
    { s.grp g with
      waited := 0, runs := satAdd (s.grp g).runs 1
      ages := gen (s.grp g).w (fun t => if hasLane act t then 0 else lane 0 (s.grp g).ages t + 1) } := by
  have e : (fun (e : Nat × Group) => if e.1 != g && resident e.2 && siteOf e.2 == siteOf (s.grp g) then (e.1, { e.2 with waited := e.2.waited + 1 }) else e)
      = (fun e => (e.1, waitedOn g (siteOf (s.grp g)) e.1 e.2)) := by
    funext e; unfold waitedOn; split <;> rfl
  unfold State.runOver
  simp only [e]
  rw [(endRun_ok _ _).1.grp g, State.modGrp_eq, State.grp_setGrp, grp_map_groups (waitedOn_self g _)]

theorem look_runs_runOver (s : State) (g : Nat) (act : W64) : look (s.runOver g act).runs (siteOf (s.grp g)) = none :=
  look_erase_self _ _

/-! ## Hint words (R21, R30, R31) -/

/-- What a hint word that makes the unit's hints `h` comes to: it is gathered, or the run ends before it (R21). -/
def Gathers (s : State) (run : Run) (cx : Cx) (h : Hints) (o : Host.Outcome State Fault Refusal) : Prop :=
  (run.words + cx.h.n + 1 < 24 ∨ run.words = 0 → o = .next { s with
    runs := ins s.runs (siteOf (s.grp cx.g)) { run with hints := { h with n := cx.h.n + 1 }, pc := cx.pc + 4#64 } })
  ∧ (24 ≤ run.words + cx.h.n + 1 → run.words ≠ 0 → (s.grp cx.g).stepping = false ∨ (s.grp cx.g).halted = true →
    o = .next (s.runOver cx.g cx.act))
  ∧ (24 ≤ run.words + cx.h.n + 1 → run.words ≠ 0 → (s.grp cx.g).stepping = true → (s.grp cx.g).halted = false →
    ∃ lead, o = .next ((s.runOver cx.g cx.act).debugStop cx.g evStepdone 0 run.last 0#64 lead))

theorem hint_gathers {add : Hints → Hints} {s : State} {run : Run} {cx : Cx} (hc : s.current = some (run, cx))
    (hn : (add cx.h).n = cx.h.n) : Gathers s run cx (add cx.h) (hint add s) := by
  have hfull (h24 : 24 ≤ run.words + cx.h.n + 1) (h0 : run.words ≠ 0) :
      hint add s = .next ((s.runOver cx.g cx.act).stepOver cx.g run.last) := by
    simp [hint, hc, hn, h24, h0]
  refine ⟨fun h => ?_, fun h24 h0 hs => ?_, fun h24 h0 hs hh => ⟨leadPc ((s.runOver cx.g cx.act).grp cx.g), ?_⟩⟩
  · have : (24 ≤ run.words + cx.h.n + 1 && run.words != 0) = false := by
      simp only [Bool.and_eq_false_iff, decide_eq_false_iff_not, bne_eq_false_iff_eq]
      omega
    simp only [hint, hc, hn, this, Bool.false_eq_true, if_false]
  · have : ((s.grp cx.g).stepping && !(s.grp cx.g).halted) = false := by
      rcases hs with hs | hs <;> simp [hs]
    rw [hfull h24 h0, State.stepOver, grp_runOver, if_neg (by simpa using this)]
  · rw [hfull h24 h0, State.stepOver, if_pos (by simp [grp_runOver, hs, hh])]

theorem hintWords : hintWordsRule := by
  intro s run cx hc gathers
  exact ⟨fun f => (hint_gathers hc rfl : Gathers s run cx _ (execHimm f s)),
    fun f => (hint_gathers hc rfl : Gathers s run cx _ (execHpred f s)),
    fun f => (hint_gathers hc rfl : Gathers s run cx _ (execHmode f s)),
    fun f => (hint_gathers hc rfl : Gathers s run cx _ (execHord f s)),
    fun f => (hint_gathers hc rfl : Gathers s run cx _ (execHcache f s)),
    fun f => (hint_gathers hc rfl : Gathers s run cx _ (execHtype f s))⟩

/-- R30, R32, R424. -/
theorem hintMisuse : hintMisuseRule := by
  intro f s run cx hc hp h
  refine issue_hints_refused hc hp ?_
  rcases h with h | h | h | h | h | h | ⟨h, h'⟩ <;>
    simp [Accepts.ok, Option.isSome_iff_ne_none, *]

/-! ## Units that no thread executes (R27, R32) -/

/-- A state with a group put back as it is. -/
theorem Leaves.setGrp_self {s t : State} {cx : Cx} {goes : Nat → W64} (h : Leaves s t cx goes) :
    Leaves (s.setGrp cx.g (s.grp cx.g)) t cx goes where
  group := by rw [State.grp_setGrp]; exact h.group
  pcs := by rw [State.grp_setGrp]; exact h.pcs
  others g hg := by rw [State.grp_setGrp_ne _ _ hg.symm]; exact h.others g hg
  rest := by
    have hr := h.rest
    cases s; cases t
    simp only [State.setGrp, State.mk.injEq] at *
    simp_all

/-- A unit that is skipped: its last-use marks are ignored, counted and set LUIGN. -/
theorem issue_skipMarks {z : Bool} {op n : Nat} {acc : Accepts} {mill : Bool} {static : Cx → M Unit} {body : Cx → M Ctl}
    {k : M Ctl} {s : State} {run : Run} {cx : Cx} (h : UnitOk s run cx acc mill) (calm : Calm s cx.g)
    (loop : atLoopEnd (s.grp cx.g) cx.pc = false) (hexe : cx.exe = 0#64) (hm : (s.grp cx.g).mill = none)
    (hs : (static cx).run s = .ok ((), s)) (hb : body cx = skipMarks cx n k) :
    let x := s.grp cx.g
    ∃ t, issue z op acc mill static body s = .next t ∧ Leaves (s.setGrp cx.g
      (if n = 0 then x else { x with gstatus := x.gstatus ||| 2#64, luign := satAdd x.luign n })) t cx cx.next := by
  refine issue_leaves (c := {}) h calm loop hs ?_ ?_ rfl rfl rfl rfl
  · rw [hb, skipMarks, if_pos hexe, ignoreMarks]
    refine (run_bind_ok (run_modG _ _ s)).trans ?_
    simp only [run_pure, State.modGrp_eq, hm, Option.isSome_none, Bool.or_false, beq_iff_eq]
  · split <;> exact ⟨rfl, rfl, rfl, rfl, rfl⟩

theorem run_skipIfNone {cx : Cx} (h : cx.exe = 0#64) (k : M Ctl) (s : State) :
    (skipIfNone cx k).run s = .ok ({}, s) := by
  rw [skipIfNone, if_pos h]
  rfl

theorem run_okMark {l : Bool} {spec : Nat} {s : State} (h : l = true → spec < 80) : (okMark l spec).run s = .ok ((), s) := by
  refine run_guard ?_ _ s
  cases l with
  | false => rfl
  | true => simp [markable, h rfl]

theorem run_okSpec {spec : Nat} {s : State} (h : spec ≠ 95) : (okSpec spec).run s = .ok ((), s) :=
  run_guard (by simpa using h) _ s

theorem okHints_none {h : Hints} (ho : h.ord = none) (ht : h.type = none) (orders types : List Nat) :
    okHints h orders types = true := by simp [okHints, ho, ht]

theorem run_loadStatic {s : State} {cx : Cx} {f : FML} (ho : cx.h.ord = none) (ht : cx.h.type = none)
    (hm : (s.grp cx.g).mill = none) (ha : f.a.toNat ≠ 95) (hl : f.l = true → f.a.toNat < 80) (hd : f.d.toNat < 88)
    (orders types : List Nat) : (show M Unit from do
      okSpec f.a.toNat
      guardM (okHints cx.h orders types) badInstruction
      let x ← getG cx.g
      guardM (millForm x f.d.toNat f.a.toNat f.l) badOperand
      guardM (decide (f.d.toNat < 96) || uniformForm f.d.toNat f.a.toNat) badOperand
      guardM (okLoadDest f.d.toNat (loadSize cx.h 4 2)) badOperand
      okMark f.l f.a.toNat).run s = .ok ((), s) := by
  have hdest : okLoadDest f.d.toNat (loadSize cx.h 4 2) = true := by
    have h96 : ¬ 96 ≤ f.d.toNat := by omega
    have hsize : loadSize cx.h 4 2 = 4 := rfl
    simp only [okLoadDest, h96, if_false, hsize, okRun]
    by_cases h80 : f.d.toNat < 80
    · simp [h80]
      omega
    · simp [h80, hd]
      omega
  rw [run_bind_ok (run_okSpec ha), run_bind_ok (run_guard (okHints_none ho ht _ _) _ s),
    run_bind_ok (run_getG cx.g s), run_bind_ok (run_guard (by simp [millForm, hm]) _ s),
    run_bind_ok (run_guard (by simp; omega) _ s), run_bind_ok (run_guard hdest _ s)]
  exact run_okMark hl

theorem run_storeStatic {s : State} {cx : Cx} {f : FMS} (ho : cx.h.ord = none) (ht : cx.h.type = none)
    (hm : (s.grp cx.g).mill = none) (ha : f.a.toNat ≠ 95) (hd : f.d.toNat ≠ 95) (hl : f.l = true → f.a.toNat < 80)
    (hn : f.n = true → f.d.toNat < 80) (orders : List Nat) : (show M Unit from do
      okSpec f.a.toNat
      okSpec f.d.toNat
      guardM (okHints cx.h orders []) badInstruction
      let x ← getG cx.g
      guardM (millForm x f.d.toNat f.a.toNat f.l) badOperand
      guardM (okStoreData f.d.toNat 4) badOperand
      okMark f.l f.a.toNat
      okMark f.n f.d.toNat).run s = .ok ((), s) := by
  rw [run_bind_ok (run_okSpec ha), run_bind_ok (run_okSpec hd), run_bind_ok (run_guard (okHints_none ho ht _ _) _ s),
    run_bind_ok (run_getG cx.g s), run_bind_ok (run_guard (by simp [millForm, hm]) _ s),
    run_bind_ok (run_guard (show okStoreData f.d.toNat 4 = true from rfl) _ s), run_bind_ok (run_okMark hl)]
  exact run_okMark hn

/-- R27, R32: ADD, LDW, STW and EXIT where every thread is skipped. -/
theorem skippedUnits : skippedUnitsRule := by
  intro s run cx calm loop hexe x hm skips
  refine ⟨fun f h => ?_, fun f h ho ht ha hl hd => ?_, fun f h ho ha hd hl hn => ?_, fun f h => ?_⟩
  · have hk : [f.l, f.m].countP id = countMarks f.l f.m := by cases f.l <;> cases f.m <;> rfl
    unfold skips
    rw [hk]
    exact issue_skipMarks h calm loop hexe hm rfl rfl
  · have hk : [f.l, f.k].countP id = countMarks f.l f.k := by cases f.l <;> cases f.k <;> rfl
    unfold skips
    rw [hk]
    exact issue_skipMarks h calm loop hexe hm (run_loadStatic ho ht hm ha hl hd _ _) rfl
  · have hk : [f.l, f.k, f.n].countP id = countMarks f.l f.k + countMarks f.n false := by
      cases f.l <;> cases f.k <;> cases f.n <;> rfl
    have ht : cx.h.type = none := by
      have := h.hints
      simp only [Accepts.ok, Bool.false_or, Bool.and_eq_true, Option.isNone_iff_eq_none] at this
      exact this.1.2
    unfold skips
    rw [hk]
    exact issue_skipMarks h calm loop hexe hm (run_storeStatic ho ht hm ha hd hl hn _) rfl
  · obtain ⟨t, ht, hleaves⟩ : ∃ t, execExit f s = .next t ∧ Leaves s t cx cx.next :=
      issue_comes (c := {}) h calm loop rfl (run_skipIfNone hexe _ s) rfl rfl rfl rfl rfl
    exact ⟨t, ht, hleaves.setGrp_self⟩

/-! ## Words that change nothing (R104, R108, R110, R119) -/

theorem putResult_fetched (x : Group) (d : Dest) (fs : FMap (List W32)) :
    putResult { x with fetched := fs } d = { putResult x d with fetched := fs } := by
  unfold putResult
  split
  · rfl
  · split <;> rfl

/-- Words fetched ahead are no part of what windows and arrived results move. -/
theorem settle_fetched (x : Group) (fs : FMap (List W32)) :
    settle { x with fetched := fs } = { settle x with fetched := fs } := by
  have put (ds : List Dest) (y : Group) :
      ds.foldl putResult { y with fetched := fs } = { ds.foldl putResult y with fetched := fs } := by
    refine List.foldl_hom (g₁ := putResult) (g₂ := putResult) (fun y : Group => { y with fetched := fs }) fun y d => ?_
    exact putResult_fetched y d fs
  have puts (os : List LOp) (y : Group) : os.foldl (fun x o => o.dests.foldl putResult x) { y with fetched := fs }
      = { os.foldl (fun x o => o.dests.foldl putResult x) y with fetched := fs } := by
    refine List.foldl_hom (g₁ := fun x (o : LOp) => o.dests.foldl putResult x)
      (g₂ := fun x (o : LOp) => o.dests.foldl putResult x) (fun y : Group => { y with fetched := fs }) fun y o => ?_
    exact put o.dests y
  unfold settle
  simp only [puts]

theorem tick_fetched (act : W64) (x : Group) (fs : FMap (List W32)) :
    tick act { x with fetched := fs } = { tick act x with fetched := fs } := by
  unfold tick
  split <;> rfl

/-- What a unit leaves does not tell whether its group kept the words fetched ahead. -/
theorem Leaves.of_fetched {s t : State} {cx : Cx} {goes : Nat → W64} {y : Group} {fs : FMap (List W32)}
    (h : Leaves (s.setGrp cx.g { y with fetched := fs }) t cx goes) : Leaves (s.setGrp cx.g y) t cx goes where
  group := by
    have := h.group
    rw [State.grp_setGrp, tick_fetched, settle_fetched] at this
    rw [State.grp_setGrp]
    exact this
  pcs := by
    have := h.pcs
    rw [State.grp_setGrp] at this ⊢
    exact this
  others g hg := by
    have := h.others g hg
    rw [State.grp_setGrp_ne _ _ hg.symm] at this ⊢
    exact this
  rest := by
    have hr := h.rest
    cases s; cases t
    simp only [State.setGrp, State.mk.injEq] at *
    simp_all

/-- YIELD ends the run, and its partition is without one (R108). -/
theorem yield_leaves {f : FZ} {s : State} {run : Run} {cx : Cx} (h : Issuing s run cx {} true) :
    ∃ t, exec (.yield f) s = .next t ∧ Leaves s t cx cx.next ∧ look t.runs (siteOf (s.grp cx.g)) = none := by
  refine ⟨s.finish cx run f.z 0x04 { ends := true }, issue_next h.unit rfl rfl fun r hl => ?_,
    finish_leaves h.calm h.loop rfl rfl rfl rfl, ?_⟩
  · rw [h.unit.look] at hl
    cases hl
    exact h.unit.rur
  · rw [finish_over h.calm h.loop rfl rfl rfl rfl rfl]
    have hsite : siteOf ((s.afterIssue cx run 0x04 { ends := true }).grp cx.g) = siteOf (s.grp cx.g) := by
      refine Eq.trans ?_ (samePlace_issued (op := 0x04) (c := { ends := true }) h.loop).site
      exact congrArg siteOf (State.grp_setGrp s cx.g _)
    rw [← hsite]
    exact look_runs_runOver _ _ _

/-- DRAIN once every result that is pending has come (R110). -/
theorem drain_does {f : FZ} {s : State} {run : Run} {cx : Cx} (h : Issuing s run cx {} true)
    (ho : (s.grp cx.g).ops.all (fun o => o.ready || o.dests.isEmpty) = true) :
    let x := s.grp cx.g
    Does (.drain f) s cx (settle { x with ops := x.ops.map (fun o => { o with win := [] }), wspill := [] }) := by
  intro x
  have hp : SamePlace x { x with ops := x.ops.map (fun o => { o with win := [] }), wspill := [] } :=
    ⟨rfl, rfl, rfl, rfl, rfl⟩
  refine issue_does h rfl ?_ (hp.trans (samePlace_settle _))
  rw [skip_eq _ h.some, run_bind_ok (run_getG cx.g s), run_bind_ok (run_guard ho _ s), run_bind_ok (run_modG _ _ s)]
  rfl

theorem drain_stalls {f : FZ} {s : State} {run : Run} {cx : Cx} (h : Issuing s run cx {} true)
    (ho : (s.grp cx.g).ops.any (fun o => !o.ready && !o.dests.isEmpty) = true) :
    exec (.drain f) s = .next (s.stopped cx run .stall) := by
  refine issue_body_error h.unit (e := .stall) rfl ?_
  have hall : (s.grp cx.g).ops.all (fun o => o.ready || o.dests.isEmpty) = false := by
    simpa [List.all_eq_not_any_not] using ho
  rw [skip_eq _ h.some, run_bind_ok (run_getG cx.g s), hall]
  rfl

/-- IFENCE once the group's ICINVs have completed (R104). -/
theorem ifence_does {f : FZ} {s : State} {run : Run} {cx : Cx} (h : Issuing s run cx {} true)
    (ho : (s.grp cx.g).icinvs.all (fun i => (s.grp cx.g).ops.all (fun o => o.id != i || o.ready)) = true) :
    Does (.ifence f) s cx { s.grp cx.g with icinvs := [] } := by
  have hg : (s.grp cx.g).icinvs.all (fun id => !((s.grp cx.g).ops.any (fun o => o.id == id && !o.ready))) = true := by
    simpa [List.all_eq_not_any_not] using ho
  have hleaves : ∃ t, execIfence f s = .next t
      ∧ Leaves (s.setGrp cx.g { s.grp cx.g with fetched := [], icinvs := [] }) t cx cx.next := by
    refine issue_does h rfl ?_ ⟨rfl, rfl, rfl, rfl, rfl⟩
    rw [skip_eq _ h.some, run_bind_ok (run_getG cx.g s), run_bind_ok (run_guard hg _ s), run_bind_ok (run_modG _ _ s)]
    rfl
  obtain ⟨t, ht, hl⟩ := hleaves
  exact ⟨t, ht, hl.of_fetched (y := { s.grp cx.g with icinvs := [] })⟩

theorem quietWords : quietWordsRule := by
  intro f s run cx h x
  refine ⟨?_, yield_leaves h, drain_does h, drain_stalls h, ifence_does h⟩
  obtain ⟨t, ht, hl⟩ := issue_comes (c := {}) (z := f.z) (op := 0x04) (static := fun _ => pure ()) (body := fun _ => pure {})
    h.unit h.calm h.loop rfl rfl rfl rfl rfl rfl rfl
  exact ⟨t, ht, hl.setGrp_self⟩

/-- Settles O15: gathering and its end, the refusal every word shares, the units skipped, and the words with no effect of
their own. -/
theorem hintsAndSkips : Obligations.HintsAndSkips := by
  unfold Obligations.HintsAndSkips
  exact ⟨hintWords, hintMisuse, skippedUnits, quietWords⟩

end Sys2Proof.Machine
end
section
/-! PROOF. Vector integer arithmetic, logic and shifts in every element type (R27, R133, R134). -/

namespace Sys2Proof.Machine

/-! ## Lanes without events -/

/-- Lanes that meet no event: the results in place, and SATD where an executing lane was clamped. -/
theorem afterLanes_quiet {s : State} {cx : Cx} {y : Group} {ty fty d n : Nat} {v : Nat → LaneOut} (hy : y.w = n)
    (he : ∀ t, (v t).ev = {}) :
    afterLanes s cx y ty fty d (gen n v) = s.setGrp cx.g
      ((y.result cx.exe d (isWide ty) (gen n (fun t => (v t).v))).sticky ((cx.lanes y).any (fun t => (v t).sat)) 16#64) := by
  have hl : (cx.lanes y).map (fun t => lane { v := 0#64 } (gen n v) t) = (cx.lanes y).map v :=
    List.map_congr_left fun t ht => lane_gen _ _ (by simpa [hy] using (List.mem_filter.1 ht).1)
  have hv : (gen n v).map (·.v) = gen n (fun t => (v t).v) := List.map_map
  unfold afterLanes
  simp only [hl, hv, List.any_map]
  rw [countEvents_zero]
  · rfl
  · simp [Ev.counts, Function.comp_def, he]

/-! ## The lane of an exact integer result (R51, R134) -/

/-- An exact result clamped to the type. -/
def clampTo (ty : Nat) (i : Int) : Int := max (least ty) (min (greatest ty) i)

theorem tyMin_eq (ty : Nat) : tyMin ty = least ty := by
  simp only [tyMin, isSigned, least, decide_eq_true_eq]
  push_cast
  rfl

theorem tyMax_eq (ty : Nat) : tyMax ty = greatest ty := by
  simp only [tyMax, isSigned, greatest, decide_eq_true_eq]
  push_cast
  rfl

theorem least_le_greatest (ty : Nat) : least ty ≤ greatest ty := by
  have h1 : (0 : Int) < 2 ^ (tyBits ty - 1) := by positivity
  have h2 : (0 : Int) < 2 ^ tyBits ty := by positivity
  unfold least greatest
  split <;> omega

theorem clampI_eq (ty : Nat) (i : Int) : clampI (tyMin ty) (tyMax ty) i = clampTo ty i := by
  have := least_le_greatest ty
  rw [tyMin_eq, tyMax_eq, clampI, clampTo]
  split_ifs <;> omega

theorem clamped_iff (ty : Nat) (i : Int) :
    (decide (i < tyMin ty) || decide (tyMax ty < i)) = (clampTo ty i != i) := by
  have := least_le_greatest ty
  rw [tyMin_eq, tyMax_eq, clampTo, Bool.eq_iff_iff]
  simp only [Bool.or_eq_true, decide_eq_true_eq, bne_iff_ne]
  omega

theorem satInt_v {ty : Nat} (h : ty < 8) (sat : Bool) (i : Int) :
    (satInt ty sat i).v = heldAs ty (BitVec.ofInt _ (if sat then clampTo ty i else i)) := by
  cases sat
  · exact holdInt_eq h i
  · simp only [satInt, if_true, clampI_eq, holdInt_eq h]

theorem satInt_sat (ty : Nat) (sat : Bool) (i : Int) : (satInt ty sat i).sat = (sat && clampTo ty i != i) := by
  cases sat
  · rfl
  · simp only [satInt, if_true, clamped_iff, Bool.true_and]

theorem satInt_ev (ty : Nat) (sat : Bool) (i : Int) : (satInt ty sat i).ev = {} := by cases sat <;> rfl
theorem satInt_idz (ty : Nat) (sat : Bool) (i : Int) : (satInt ty sat i).idz = false := by cases sat <;> rfl

/-- A group with exact results in place: wrapped, or clamped with SATD set where `sat`. -/
def Group.exactResult (y : Group) (cx : Cx) (ty d : Nat) (sat : Bool) (r : Nat → Int) : Group :=
  (y.result cx.exe d (isWide ty) (gen y.w (fun t => heldAs ty (BitVec.ofInt _ (if sat then clampTo ty (r t) else r t))))).sticky
    (sat && (cx.lanes y).any (fun t => clampTo ty (r t) != r t)) 16#64

theorem afterLanes_satInt {s : State} {cx : Cx} {y : Group} {ty fty d n : Nat} {sat : Bool} {r : Nat → Int} (h : ty < 8)
    (hy : y.w = n) :
    afterLanes s cx y ty fty d (gen n (fun t => satInt ty sat (r t))) = s.setGrp cx.g (y.exactResult cx ty d sat r) := by
  subst hy
  rw [afterLanes_quiet rfl fun t => satInt_ev _ _ _]
  simp only [satInt_v h, satInt_sat, Group.exactResult]
  cases sat
  · simp only [Bool.false_and, List.any_eq_false.2 fun _ _ => Bool.false_ne_true]
  · simp only [Bool.true_and]

/-! ## Three-operand rows -/

theorem intTypes_contains {ty : Nat} (h : ty < 8) : intTypes.contains ty = true := by
  interval_cases ty <;> rfl

/-- A third source without a mark adds nothing to the marks. -/
theorem marks_unmarked (x : Group) (exe : W64) (wide : Bool) (p q : Bool × Nat) (d : Nat) :
    x.marks exe wide [p, q, (false, d)] = x.marks exe wide [p, q] := by
  simp [Group.marks, List.filter_cons]

theorem VecOk.forget_third {x : Group} {exe : W64} {wide : Bool} {p q : Bool × Nat} {d : Nat}
    (h : VecOk x exe wide [p, q, (false, d)] d) : VecOk x exe wide [p, q] d where
  place r hr := h.place r (by simp only [List.mem_cons, List.not_mem_nil, or_false] at hr ⊢; tauto)
  even hw r hr := h.even hw r (by simp only [List.mem_cons, List.not_mem_nil, or_false] at hr ⊢; tauto)
  marks r hr := h.marks r (by simp only [List.mem_cons, List.not_mem_nil, or_false] at hr ⊢; tauto)
  dest := by rw [← marks_unmarked x exe wide p q d]; exact h.dest
  evenD := h.evenD

/-- A row whose result is a formula on exact integers; only a row that reads D depends on D's old value. -/
theorem exact3_does {op : Nat} {rd sat : Bool} {r : Nat → Int → Int → Int → Int} {f : FV3} {s : State} {run : Run} {cx : Cx}
    {ty : Nat} (hr : rd = false → ∀ n a b d e, r n a b d = r n a b e) (hty : ty = eltType cx 2) (h8 : ty < 8)
    (h : Issuing s run cx { mode := true, type := true } false)
    (hv : VecOk (s.grp cx.g) cx.exe (isWide ty) [(f.l, f.a.toNat), (f.m, f.b.toNat), (false, f.d.toNat)] f.d.toNat) :
    let x := s.grp cx.g
    ∃ t, vec3 op true rd intTypes 2
        (fun ty h a b d => satInt ty (sat && satOf h) (r (tyBits ty) (eltInt ty a) (eltInt ty b) (eltInt ty d))) f s = .next t
      ∧ Leaves (s.setGrp cx.g ((x.marks cx.exe (isWide ty) [(f.l, f.a.toNat), (f.m, f.b.toNat)]).exactResult cx ty f.d.toNat
          (sat && saturates cx) (fun t => r (tyBits ty) (numOf ty (x.el (isWide ty) f.a.toNat t))
            (numOf ty (x.el (isWide ty) f.b.toNat t)) (numOf ty (x.el (isWide ty) f.d.toNat t))))) t cx cx.next := by
  intro x
  obtain ⟨t, ht, hl⟩ := vec3_comes (op := op) (rd := rd) (types := intTypes) (dflt := 2)
    (r := fun ty h a b d => satInt ty (sat && satOf h) (r (tyBits ty) (eltInt ty a) (eltInt ty b) (eltInt ty d)))
    h (intTypes_contains h8) hty hv.forget_third (fun _ => hv.place (false, f.d.toNat) (by simp)) (fun _ _ _ => satInt_idz _ _ _)
  refine ⟨t, ht, ?_⟩
  have hold (t : Nat) : r (tyBits ty) (eltInt ty (x.el (isWide ty) f.a.toNat t)) (eltInt ty (x.el (isWide ty) f.b.toNat t))
        (eltInt ty (if rd then x.el (isWide ty) f.d.toNat t else 0#64))
      = r (tyBits ty) (numOf ty (x.el (isWide ty) f.a.toNat t)) (numOf ty (x.el (isWide ty) f.b.toNat t))
        (numOf ty (x.el (isWide ty) f.d.toNat t)) := by
    rw [eltInt_eq, eltInt_eq]
    cases rd
    · exact hr rfl _ _ _ _ _
    · rw [if_pos rfl, eltInt_eq]
  simp only [saturates_eq, x, hold] at hl
  rw [afterLanes_satInt h8 (marks_w _ _ _ _)] at hl
  exact hl

/-- A row whose result is a bit pattern of the type's width. -/
theorem pattern3_does {op : Nat} {r : Lane3} {p : (n : Nat) → BitVec n → BitVec n → BitVec n} {f : FV3} {s : State}
    {run : Run} {cx : Cx} {ty : Nat}
    (hr : ∀ ty h a b d, ty < 8 → r ty h a b d = { v := heldAs ty (p _ (a.setWidth _) (b.setWidth _)) })
    (hidz : ∀ ty h a b d, (r ty h a b d).idz = false) (hty : ty = eltType cx 2) (h8 : ty < 8)
    (h : Issuing s run cx { mode := true, type := true } false)
    (hv : VecOk (s.grp cx.g) cx.exe (isWide ty) [(f.l, f.a.toNat), (f.m, f.b.toNat)] f.d.toNat) :
    let x := s.grp cx.g
    ∃ t, intOp op r f s = .next t
      ∧ Leaves (s.setGrp cx.g ((x.marks cx.exe (isWide ty) [(f.l, f.a.toNat), (f.m, f.b.toNat)]).result cx.exe f.d.toNat
          (isWide ty) (gen x.w (fun t => heldAs ty (p _ ((x.el (isWide ty) f.a.toNat t).setWidth _)
            ((x.el (isWide ty) f.b.toNat t).setWidth _)))))) t cx cx.next := by
  intro x
  obtain ⟨t, ht, hl⟩ := vec3_comes (op := op) (rd := false) (types := intTypes) (dflt := 2) (r := r)
    h (intTypes_contains h8) hty hv nofun (fun _ _ _ => hidz _ _ _ _ _)
  refine ⟨t, ht, ?_⟩
  simp only [hr _ _ _ _ _ h8] at hl
  rw [afterLanes_plain (marks_w _ _ _ _) (fun _ => rfl) fun _ => rfl] at hl
  exact hl

/-! ## The rows on bit patterns -/

/-- A formula on the numbers of two patterns, as a pattern. -/
theorem bitOp_lane {q : Nat → Nat → Nat → Nat} {p : (n : Nat) → BitVec n → BitVec n → BitVec n}
    (hq : ∀ n a b, BitVec.ofNat n (q n a.toNat b.toNat) = p n a b) (ty : Nat) (h : Hints) (a b d : W64) (h8 : ty < 8) :
    bitOp q ty h a b d = { v := heldAs ty (p _ (a.setWidth _) (b.setWidth _)) } := by
  simp only [bitOp, holdBits_eq h8, eltBits_eq, hq]

theorem notN_toNat {n : Nat} (b : BitVec n) : notN n b.toNat = (~~~b).toNat := by
  rw [BitVec.toNat_not, notN]

theorem ofNat_self {n : Nat} (b : BitVec n) : BitVec.ofNat n b.toNat = b := by simp

theorem shl_pattern (n : Nat) (a b : BitVec n) :
    BitVec.ofNat n (if b.toNat < n then a.toNat * 2 ^ b.toNat else 0) = if b.toNat < n then a <<< b.toNat else 0#n := by
  split
  · exact BitVec.eq_of_toNat_eq (by simp [Nat.shiftLeft_eq])
  · rfl

theorem shr_pattern (n : Nat) (a b : BitVec n) :
    BitVec.ofNat n (if b.toNat < n then a.toNat / 2 ^ b.toNat else 0) = if b.toNat < n then a >>> b.toNat else 0#n := by
  split
  · rw [← Nat.shiftRight_eq_div_pow, ← BitVec.toNat_ushiftRight, ofNat_self]
  · rfl

theorem sar_pattern {n : Nat} (hn : 0 < n) (a b : BitVec n) :
    BitVec.ofInt n (ofBits n true a.toNat / (2 ^ min b.toNat n : Nat)) =
      if b.toNat < n then a.sshiftRight b.toNat else if a.msb then BitVec.allOnes n else 0#n := by
  rw [ofBits_signed a hn, ← Int.shiftRight_eq_div_pow, ← BitVec.toInt_sshiftRight, BitVec.ofInt_toInt]
  split
  · rw [Nat.min_eq_left (by omega)]
  · rw [Nat.min_eq_right (by omega), sshiftRight_width]

/-- SAR's lane: the signed number divided by a power of two, rounded down. -/
def sarLane : Lane3 := fun ty _ a b _ =>
  { v := holdInt ty (ofBits (tyBits ty) true (eltBits ty a) / (2 ^ min (eltBits ty b) (tyBits ty) : Nat)) }

theorem exec_sar (f : FV3) (s : State) : exec (.sar f) s = intOp 0x2C sarLane f s := by
  change execSar f s = _
  rfl

/-- How each bitwise row and shift is executed: by a lane that gives the row's pattern. -/
theorem bitRows_exec {r : (FV3 → Instr) × ((n : Nat) → BitVec n → BitVec n → BitVec n)} (hr : r ∈ bitRows) :
    ∃ op L, (∀ f s, exec (r.1 f) s = intOp op L f s) ∧ (∀ ty h a b d, (L ty h a b d).idz = false)
      ∧ ∀ ty h a b d, ty < 8 → L ty h a b d = { v := heldAs ty (r.2 _ (a.setWidth _) (b.setWidth _)) } := by
  have lane {q : Nat → Nat → Nat → Nat} (hq : ∀ n a b, BitVec.ofNat n (q n a.toNat b.toNat) = r.2 n a b) :=
    bitOp_lane (p := r.2) hq
  simp only [bitRows, List.mem_cons, List.not_mem_nil, or_false] at hr
  rcases hr with rfl | rfl | rfl | rfl | rfl | rfl | rfl | rfl | rfl
  case inr.inr.inr.inr.inr.inr.inr.inr =>
    refine ⟨0x2C, sarLane, exec_sar, fun _ _ _ _ _ => rfl, fun ty h a b d h8 => ?_⟩
    rw [sarLane, holdInt_eq h8, eltBits_eq, eltBits_eq, sar_pattern (tyBits_pos ty)]
  all_goals refine ⟨_, _, fun _ _ => rfl, fun _ _ _ _ _ => rfl, ?_⟩
  · exact lane fun n a b => by rw [← BitVec.toNat_and, ofNat_self]
  · exact lane fun n a b => by rw [notN_toNat, ← BitVec.toNat_and, ofNat_self]
  · exact lane fun n a b => by rw [← BitVec.toNat_or, ofNat_self]
  · exact lane fun n a b => by rw [notN_toNat, ← BitVec.toNat_or, ofNat_self]
  · exact lane fun n a b => by rw [← BitVec.toNat_xor, ofNat_self]
  · exact lane fun n a b => by rw [← BitVec.toNat_xor, notN_toNat, ofNat_self]
  · exact lane shl_pattern
  · exact lane shr_pattern

/-- R134 for the bitwise rows and the shifts. -/
theorem vectorBits : vectorBitsRule := by
  intro r hr f s run cx ty hty h8 h x wide hv
  obtain ⟨op, L, hexec, hidz, hL⟩ := bitRows_exec hr
  obtain ⟨t, ht, hl⟩ := pattern3_does (op := op) hL hidz hty h8 h hv
  exact ⟨t, (hexec f s).trans ht, hl⟩

/-! ## One source -/

/-- The body of a unit with one vector source: read, marks, the lanes, the write. -/
def oneSource (cx : Cx) (rd : Bool) (dflt : Nat) (r : Nat → Hints → W64 → W64 → LaneOut) (l : Bool) (dst src : Nat) : M Ctl :=
  skipMarks cx (countMarks l false) (do
    let ty := unitType cx.h dflt
    let wide := isWide ty
    let n := if wide then 2 else 1
    refillSpecs cx (specRegs dst n) ([(src, n)] ++ (if rd then [(dst, n)] else []))
    let a ← readEl cx cx.exe src wide
    let d ← if rd then readEl cx cx.exe dst wide else pure []
    applyMarks cx (countMarks l false) (specMark l src n)
    let x ← getG cx.g
    finishLanes cx ty ty dst (gen x.w (fun t => r ty cx.h (lane 0#64 a t) (lane 0#64 d t))))

theorem countMarks_one (l : Bool) (a : Nat) : countMarks l false = ([(l, a)].filter (fun p => p.1)).length := by
  cases l <;> rfl

/-- A pair named by an even register, or no v or q register at all (R25). -/
theorem pair_even {n : Nat} {wide : Bool} (h : wide = true → n < 88 → n % 2 = 0) (hw : wide = true) : 88 ≤ n ∨ n % 2 = 0 := by
  by_cases c : n < 88
  · exact .inr (h hw c)
  · exact .inl (by omega)

/-- D's old value, read where the row needs it. -/
theorem run_readOld {s : State} {cx : Cx} {rd wide : Bool} {d : Nat} (hd : rd = true → SourceOk (s.grp cx.g) d (regsOf wide))
    (he : wide = true → d < 88 → d % 2 = 0) :
    ∃ ds, (∀ k : List W64 → M Ctl,
        ((if rd then readEl cx cx.exe d wide >>= k else pure [] >>= k) : M Ctl).run s = (k ds).run s)
      ∧ ∀ k, k < (s.grp cx.g).w → lane 0#64 ds k = if rd then (s.grp cx.g).el wide d k else 0#64 := by
  cases rd
  · exact ⟨[], fun _ => rfl, fun _ _ => rfl⟩
  · exact ⟨_, fun _ => run_bind_ok (run_readEl (hd rfl) (pair_even he)), fun k hk => by rw [lane_gen _ _ hk, if_pos rfl]⟩

/-- A unit with one vector source in which no lane meets a case of R127. -/
theorem oneSource_comes {z rd l : Bool} {op dflt dst src ty : Nat} {acc : Accepts} {types : List Nat}
    {r : Nat → Hints → W64 → W64 → LaneOut} {s : State} {run : Run} {cx : Cx} (h : Issuing s run cx acc false)
    (ht : types.contains ty = true) (hty : ty = eltType cx dflt)
    (hv : VecOk (s.grp cx.g) cx.exe (isWide ty) [(l, src)] dst)
    (hd : rd = true → SourceOk (s.grp cx.g) dst (regsOf (isWide ty))) (hi : ∀ a d, (r ty cx.h a d).idz = false) :
    let x := s.grp cx.g
    ∃ t, issue z op acc false (fun cx => vecStatic cx types dflt dst [(l, src)])
        (fun cx => oneSource cx rd dflt r l dst src) s = .next t
      ∧ Leaves (afterLanes s cx (x.marks cx.exe (isWide ty) [(l, src)]) ty ty dst
          (gen x.w (fun t => r ty cx.h (x.el (isWide ty) src t) (if rd then x.el (isWide ty) dst t else 0#64)))) t cx cx.next := by
  intro x
  have hm : x.mill = none := by simpa using h.unit.mill
  have hsrc := hv.place (l, src) (by simp)
  obtain ⟨ds, hread, hds⟩ := run_readOld (cx := cx) hd hv.evenD
  obtain ⟨t, hmarks, hg, hset⟩ := run_marks (s := s) (cx := cx) hm hv.marks (countMarks_one l src)
  have cal := calm_afterLanes (ty := ty) (fty := ty) (d := dst)
    (outs := gen x.w (fun t => r ty cx.h (x.el (isWide ty) src t) (if rd then x.el (isWide ty) dst t else 0#64)))
    h.calm (x := x) rfl (samePlace_marks x cx.exe (isWide ty) [(l, src)])
  have hrefill : (refillSpecs cx (specRegs dst (if isWide ty then 2 else 1))
      ([(src, if isWide ty then 2 else 1)] ++ (if rd then [(dst, if isWide ty then 2 else 1)] else []))).run s = .ok ((), s) := by
    refine run_refillSpecs fun p hp => ?_
    rcases List.mem_append.1 hp with hp | hp
    · rw [List.mem_singleton.1 hp]
      exact hsrc
    · cases rd
      · cases hp
      · rw [List.mem_singleton.1 hp]
        exact hd rfl
  have hmarks' : (applyMarks cx (countMarks l false) (specMark l src (if isWide ty then 2 else 1))).run s = .ok ((), t) := by
    rw [← hmarks, markRegs, List.flatMap_singleton]
    rfl
  have houts : gen x.w (fun k => r ty cx.h (lane 0#64 (gen x.w (fun t => x.el (isWide ty) src t)) k) (lane 0#64 ds k))
      = gen x.w (fun t => r ty cx.h (x.el (isWide ty) src t) (if rd then x.el (isWide ty) dst t else 0#64)) := by
    refine List.map_congr_left fun k hk => ?_
    rw [lane_gen _ _ (List.mem_range.1 hk), hds k (List.mem_range.1 hk)]
  refine issue_comes (c := {}) h.unit cal.1 (by rw [cal.2.1]; exact h.loop) ?_ ?_ cal.2.2 rfl rfl rfl rfl
  · subst hty
    exact run_vecStatic ht hv.toSourcesOk hv.dest.1 hv.evenD
  · rw [oneSource, skipMarks_eq _ _ h.some]
    simp only [eltType_eq, ← hty]
    rw [run_bind_ok hrefill, run_bind_ok (run_readEl hsrc (pair_even fun w => hv.even w (l, src) (by simp))),
      hread, run_bind_ok hmarks', run_bind_ok (run_getG cx.g t), hg, marks_w, houts,
      run_finishLanes (s := s) (by rw [hg]; exact hv.dest) (pair_even hv.evenD) ?_ hset, hg]
    intro k hk
    rw [hg] at hk
    rw [lane_gen _ _ (by simpa [marks_w] using (List.mem_filter.1 hk).1)]
    exact hi _ _

/-! ## The exact rows -/

theorem toInt_immS {h : Hints} {w : Nat} {i : BitVec w} {imm : Int} (hw : w + 40 ≤ 64)
    (hi : (h.imm = [] ∧ imm = i.toInt) ∨ (∃ a, h.imm = [a] ∧ imm = (a ++ i).toInt)
      ∨ (∃ a b, h.imm = [a, b] ∧ imm = (a ++ b ++ i).toInt)) : (immS h w i.toNat).toInt = imm := by
  rcases hi with ⟨hh, rfl⟩ | ⟨a, hh, rfl⟩ | ⟨a, b, hh, rfl⟩
  · rw [immS_eq hw (.inl ⟨hh, rfl⟩), BitVec.toInt_signExtend_of_le (by omega)]
  · rw [immS_eq hw (.inr (.inl ⟨a, hh, rfl⟩)), BitVec.toInt_signExtend_of_le (by omega)]
  · rw [immS_eq hw (.inr (.inr ⟨a, b, hh, rfl⟩)), BitVec.toInt_signExtend_of_le (by omega)]

/-- IADDI: the widened immediate is the second operand. -/
theorem iaddi_does {f : FVI} {s : State} {run : Run} {cx : Cx} {ty : Nat} {imm : Int} (hty : ty = eltType cx 2) (h8 : ty < 8)
    (h : Issuing s run cx { imm := 2, mode := true, type := true } false)
    (hv : VecOk (s.grp cx.g) cx.exe (isWide ty) [(f.l, f.a.toNat)] f.d.toNat) (hi : (immS cx.h 8 f.i.toNat).toInt = imm) :
    let x := s.grp cx.g
    ∃ t, execIaddi f s = .next t ∧ Leaves (s.setGrp cx.g ((x.marks cx.exe (isWide ty) [(f.l, f.a.toNat)]).exactResult cx ty
      f.d.toNat (saturates cx) (fun t => numOf ty (x.el (isWide ty) f.a.toNat t) + imm))) t cx cx.next := by
  intro x
  obtain ⟨t, ht, hl⟩ := oneSource_comes (z := f.z) (rd := false) (op := 0x2F) (types := intTypes)
    (r := fun ty h a _ => satInt ty (satOf h) (eltInt ty a + (immS h 8 f.i.toNat).toInt))
    h (intTypes_contains h8) hty hv nofun (fun _ _ => satInt_idz _ _ _)
  refine ⟨t, ht, ?_⟩
  simp only [saturates_eq, eltInt_eq, hi] at hl
  rw [afterLanes_satInt h8 (marks_w _ _ _ _)] at hl
  exact hl

/-- IMULH's lane: the upper half of the product. -/
def imulhLane : Lane3 := fun ty _ a b _ => { v := holdInt ty (eltInt ty a * eltInt ty b / (2 ^ tyBits ty : Nat)) }

theorem exec_imulh (f : FV3) (s : State) : exec (.imulh f) s = intOp 0x22 imulhLane f s := by
  change execImulh f s = _
  rfl

theorem imulhLane_eq (ty : Nat) (h : Hints) (a b d : W64) :
    imulhLane ty h a b d = satInt ty false (eltInt ty a * eltInt ty b / 2 ^ tyBits ty) := by
  rw [imulhLane, Nat.cast_pow]
  rfl

/-- How each exact row is executed; IMAD alone reads D. -/
theorem exactRows_exec {r : (FV3 → Instr) × Bool × (Nat → Int → Int → Int → Int)} (hr : r ∈ exactRows) :
    ∃ op rd, (rd = false → ∀ n a b d e, r.2.2 n a b d = r.2.2 n a b e)
      ∧ ∀ f s, exec (r.1 f) s = vec3 op true rd intTypes 2
        (fun ty h a b d => satInt ty (r.2.1 && satOf h) (r.2.2 (tyBits ty) (eltInt ty a) (eltInt ty b) (eltInt ty d))) f s := by
  simp only [exactRows, List.mem_cons, List.not_mem_nil, or_false] at hr
  rcases hr with rfl | rfl | rfl | rfl | rfl | rfl | rfl
  case inr.inr.inr.inl =>
    refine ⟨0x22, false, fun _ _ _ _ _ _ => rfl, fun f s => ?_⟩
    rw [exec_imulh, intOp, show imulhLane = _ from funext fun ty => funext fun h => funext fun a => funext fun b =>
      funext fun d => imulhLane_eq ty h a b d]
    rfl
  case inr.inr.inr.inr.inl => exact ⟨0x23, true, nofun, fun _ _ => rfl⟩
  all_goals exact ⟨_, false, fun _ _ _ _ _ _ => rfl, fun _ _ => rfl⟩

/-- R134 for the exact rows and IADDI. -/
theorem vectorExact : vectorExactRule := by
  intro s run cx ty hty h8 x clamp wide after
  have hafter (srcs : List (Bool × Nat)) (d : Nat) (sat : Bool) (r : Nat → Int) :
      after srcs d sat r = (x.marks cx.exe wide srcs).exactResult cx ty d (sat && saturates cx) r := by
    simp only [after, Group.exactResult, Cx.lanes, marks_w]
    rfl
  simp only [hafter]
  refine ⟨fun h r hr f hv => ?_, fun h f hv imm hi => iaddi_does hty h8 h hv (toInt_immS (by decide) hi)⟩
  obtain ⟨op, rd, hrd, hexec⟩ := exactRows_exec hr
  obtain ⟨t, ht, hl⟩ := exact3_does (op := op) (sat := r.2.1) hrd hty h8 h hv
  exact ⟨t, (hexec f s).trans ht, hl⟩

/-- Settles O4: the exact rows by their clamped lane, the bitwise rows by their patterns. -/
theorem vectorArithmetic : Obligations.VectorArithmetic := by
  unfold Obligations.VectorArithmetic
  exact ⟨vectorExact, vectorBits⟩

end Sys2Proof.Machine
end
section
/-! PROOF. Nibble and byte members, a destination that takes an entry, and the vector words that trap (R41, R135, R155, R160). -/

namespace Sys2Proof.Machine

/-! ## Fields of an element (R135) -/

theorem bits_extract (e : W32) {n : Nat} (lo : Nat) (hn : 0 < n) :
    bits (e.setWidth 64).toNat (lo + n - 1) lo = (e.extractLsb' lo n).toNat := by
  rw [bits, BitVec.toNat_setWidth_of_le (by decide), BitVec.extractLsb'_toNat, Nat.shiftRight_eq_div_pow]
  congr 2
  omega

theorem heldAs_word (p : W32) : heldAs 2 p = p.setWidth 64 := rfl

theorem extract_signed {n : Nat} (hn : 0 < n) (lo ty : Nat) (h : Hints) (e : W32) (d : W64) :
    (extract n lo true ty h (e.setWidth 64) d).v = ((e.extractLsb' lo n).signExtend 32).setWidth 64 := by
  rw [extract, bits_extract e lo hn, ofBits_signed _ hn, holdInt_eq (by decide)]
  rfl

theorem extract_unsigned {n : Nat} (hn : 0 < n) (lo ty : Nat) (h : Hints) (e : W32) (d : W64) :
    (extract n lo false ty h (e.setWidth 64) d).v = ((e.extractLsb' lo n).setWidth 32).setWidth 64 := by
  rw [extract, bits_extract e lo hn, holdInt_eq (by decide), show ofBits n false _ = ((_ : Nat) : Int) from rfl,
    BitVec.ofInt_natCast, BitVec.ofNat_toNat]
  rfl

/-- A member of one source on 32-bit elements whose lanes only give a value. -/
theorem member_does {rd z l : Bool} {op dst src : Nat} {r : Nat → Hints → W64 → W64 → LaneOut} {s : State} {run : Run}
    {cx : Cx} (h2 : eltType cx 2 = 2) (h : Issuing s run cx { mode := true, type := true } false)
    (hv : VecOk (s.grp cx.g) cx.exe false [(l, src)] dst) (hd : rd = true → SourceOk (s.grp cx.g) dst 1)
    (hr : ∀ a d, r 2 cx.h a d = { v := (r 2 cx.h a d).v }) :
    let x := s.grp cx.g
    ∃ t, vec2 op true rd [2] 2 r z l dst src s = .next t
      ∧ Leaves (s.setGrp cx.g ((x.marks cx.exe false [(l, src)]).result cx.exe dst false
          (gen x.w (fun t => (r 2 cx.h ((x.el32 src t).setWidth 64) (if rd then (x.el32 dst t).setWidth 64 else 0#64)).v)))) t cx cx.next := by
  intro x
  obtain ⟨t, ht, hl⟩ := oneSource_comes (z := z) (rd := rd) (op := op) (types := [2]) (r := r) h (by rfl) h2.symm hv hd
    (fun a d => by rw [hr])
  refine ⟨t, ht, ?_⟩
  rwa [afterLanes_plain (marks_w _ _ _ _) (fun _ => by rw [hr]) fun _ => by rw [hr]] at hl

/-! ## One nibble replaced -/

/-- A number with its nibble `k` replaced by `c`. -/
def insNib (k v c : Nat) : Nat := v - bits v (4 * k + 3) (4 * k) * 2 ^ (4 * k) + c * 2 ^ (4 * k)

theorem insNib_parts (k v c : Nat) :
    insNib k v c = 2 ^ (4 * k) * (2 ^ 4 * (v / 2 ^ (4 * k + 4)) + c) + v % 2 ^ (4 * k) := by
  obtain ⟨p, hp⟩ : ∃ p, p = 2 ^ (4 * k) := ⟨_, rfl⟩
  have hb : bits v (4 * k + 3) (4 * k) = v / p % 2 ^ 4 := by
    rw [bits, hp]
    congr 2
    omega
  have hq : v / 2 ^ (4 * k + 4) = v / p / 2 ^ 4 := by rw [Nat.pow_add, hp, Nat.div_div_eq_div_mul]
  have hsplit : v = p * (2 ^ 4 * (v / p / 2 ^ 4)) + v % p + v / p % 2 ^ 4 * p := by
    conv_lhs => rw [← Nat.div_add_mod v p, ← Nat.div_add_mod (v / p) (2 ^ 4)]
    ring
  rw [insNib, hb, hq, ← hp]
  conv_lhs => rw [hsplit]
  rw [← hsplit, Nat.sub_eq_of_eq_add hsplit]
  ring

theorem testBit_insNib {k v c : Nat} (hc : c < 2 ^ 4) (i : Nat) :
    (insNib k v c).testBit i = if i / 4 = k then c.testBit (i % 4) else v.testBit i := by
  rw [insNib_parts, Nat.testBit_two_pow_mul_add _ (Nat.mod_lt _ (by positivity)), Nat.testBit_two_pow_mul_add _ hc]
  split_ifs with h1 h2 h3 h3 h4
  · omega
  · rw [Nat.testBit_mod_two_pow, decide_eq_true h1, Bool.true_and]
  · rw [show i - 4 * k = i % 4 by omega]
  · omega
  · omega
  · rw [Nat.testBit_div_two_pow, show i - 4 * k - 4 + (4 * k + 4) = i by omega]

theorem insNib_lt {k v c : Nat} (hk : k < 8) (hv : v < 2 ^ 32) (hc : c < 2 ^ 4) : insNib k v c < 2 ^ 32 :=
  Nat.lt_pow_two_of_testBit _ fun i hi => by
    rw [testBit_insNib hc, if_neg (by omega)]
    exact Nat.testBit_lt_two_pow (hv.trans_le (Nat.pow_le_pow_right (by decide) hi))

/-- The word with a nibble replaced, as its register holds it. -/
theorem n64_insNib {k v c : Nat} (hk : k < 8) (hv : v < 2 ^ 32) (hc : c < 2 ^ 4) :
    n64 (insNib k v c) = (BitVec.ofNat 32 (insNib k v c)).setWidth 64 := by
  have := insNib_lt hk hv hc
  exact BitVec.eq_of_toNat_eq (by simp [n64]; omega)

/-- INSNIB's lane. -/
def insNibLane (k : Nat) : Nat → Hints → W64 → W64 → LaneOut := fun _ _ a d =>
  { v := n64 (insNib k (d.toNat % 2 ^ 32) (bits a.toNat 3 0)) }

theorem exec_insnib (f : FVK3) (s : State) :
    exec (.iunInsnib f) s = vec2 0x3C true true [2] 2 (insNibLane f.k.toNat) f.z f.l f.d.toNat f.a.toNat s := rfl

theorem insNibLane_word {k : Nat} (hk : k < 8) (ty : Nat) (h : Hints) (a d : W32) :
    (insNibLane k ty h (a.setWidth 64) (d.setWidth 64)).v = (BitVec.ofNat 32 (insNib k d.toNat (a.toNat % 2 ^ 4))).setWidth 64 := by
  have hd : (d.setWidth 64).toNat % 2 ^ 32 = d.toNat := by
    rw [BitVec.toNat_setWidth_of_le (by decide), Nat.mod_eq_of_lt d.isLt]
  have ha : bits (a.setWidth 64).toNat 3 0 = a.toNat % 2 ^ 4 := by
    rw [BitVec.toNat_setWidth_of_le (by decide), bits, Nat.pow_zero, Nat.div_one]
  simp only [insNibLane, hd, ha]
  exact n64_insNib hk d.isLt (Nat.mod_lt _ (by decide))

/-- INSNIB: the bits of the word it leaves. -/
theorem insnib_does {f : FVK3} {s : State} {run : Run} {cx : Cx} (h2 : eltType cx 2 = 2)
    (h : Issuing s run cx { mode := true, type := true } false)
    (hv : VecOk (s.grp cx.g) cx.exe false [(f.l, f.a.toNat)] f.d.toNat) (hd : SourceOk (s.grp cx.g) f.d.toNat 1) :
    let x := s.grp cx.g
    ∃ v : Nat → W32, Does (.iunInsnib f) s cx ((x.marks cx.exe false [(f.l, f.a.toNat)]).result cx.exe f.d.toNat false
        (gen x.w (fun t => (v t).setWidth 64)))
      ∧ ∀ t i, i < 32 → (v t).getLsbD i =
        if i / 4 = f.k.toNat then (x.el32 f.a.toNat t).getLsbD (i % 4) else (x.el32 f.d.toNat t).getLsbD i := by
  intro x
  refine ⟨fun t => BitVec.ofNat 32 (insNib f.k.toNat (x.el32 f.d.toNat t).toNat ((x.el32 f.a.toNat t).toNat % 2 ^ 4)), ?_, ?_⟩
  · obtain ⟨t, ht, hl⟩ := member_does (op := 0x3C) (z := f.z) (r := insNibLane f.k.toNat) h2 h hv (fun _ => hd) fun _ _ => rfl
    refine ⟨t, (exec_insnib f s).trans ht, ?_⟩
    simpa only [if_true, insNibLane_word f.k.isLt] using hl
  · intro t i hi
    rw [BitVec.getLsbD_ofNat, decide_eq_true hi, Bool.true_and, testBit_insNib (Nat.mod_lt _ (by decide)),
      Nat.testBit_mod_two_pow, decide_eq_true (by omega), Bool.true_and]
    rfl

/-- R135 for the nibble and byte members. -/
theorem vectorFields : vectorFieldsRule := by
  intro s run cx h2 h x
  have nibble (f : FVK3) (hv : VecOk x cx.exe false [(f.l, f.a.toNat)] f.d.toNat) (signed : Bool) :=
    member_does (rd := false) (op := 0x3C) (z := f.z) (r := extract 4 (4 * f.k.toNat) signed) h2 h hv nofun fun _ _ => rfl
  have byte (f : FVK2) (hv : VecOk x cx.exe false [(f.l, f.a.toNat)] f.d.toNat) (signed : Bool) :=
    member_does (rd := false) (op := 0x3C) (z := f.z) (r := extract 8 (8 * f.k.toNat) signed) h2 h hv nofun fun _ _ => rfl
  constructor
  · intro f hv nib put
    refine ⟨?_, ?_, insnib_does h2 h hv⟩
    · obtain ⟨t, ht, hl⟩ := nibble f hv true
      exact ⟨t, ht, by simpa only [extract_signed (show 0 < 4 by decide)] using hl⟩
    · obtain ⟨t, ht, hl⟩ := nibble f hv false
      exact ⟨t, ht, by simpa only [extract_unsigned (show 0 < 4 by decide)] using hl⟩
  · intro f hv _ put
    constructor
    · obtain ⟨t, ht, hl⟩ := byte f hv true
      exact ⟨t, ht, by simpa only [extract_signed (show 0 < 8 by decide)] using hl⟩
    · obtain ⟨t, ht, hl⟩ := byte f hv false
      exact ⟨t, ht, by simpa only [extract_unsigned (show 0 < 8 by decide)] using hl⟩

/-! ## Free slices (R158) -/

/-- Writing an entry with what it holds, or where there is none, takes nothing out of the map. -/
theorem sublist_ins_getD {β : Type} (m : FMap β) (n : Nat) (d : β) : m.Sublist (ins m n ((look m n).getD d)) := by
  induction m with
  | nil => exact List.nil_sublist _
  | cons e m ih =>
    obtain ⟨k, v⟩ := e
    rw [ins, look]
    rcases Nat.lt_trichotomy n k with h | h | h
    · rw [if_pos h]
      exact List.sublist_cons_self _ _
    · subst h
      simp
    · rw [if_neg (by omega), if_neg (by omega), if_neg (by omega)]
      exact ih.cons_cons _

/-- Groups the more of which leave the fewer slices free. -/
theorem freeSlices_anti {s t : State} (h : s.groups.Sublist t.groups) (site : Nat) : t.freeSlices site ≤ s.freeSlices site := by
  have sum_le (p : Nat × Group → Bool) (f : Nat × Group → Nat) :
      ((s.groups.filter p).map f).sum ≤ ((t.groups.filter p).map f).sum := by
    refine ((h.filter p).map f).sum_le_sum fun _ _ => ?_
    exact Nat.zero_le _
  unfold State.freeSlices State.siteGroups
  have h1 := sum_le (fun e => resident e.2 && siteOf e.2 == site) (fun e => held e.2)
  have h2 := sum_le (fun e => !alive e.2 && siteOf e.2 == site) (fun e => pinnedGone e.2 * slices e.2.w)
  omega

theorem freeSlices_setGrp_self (s : State) (g site : Nat) : (s.setGrp g (s.grp g)).freeSlices site ≤ s.freeSlices site :=
  freeSlices_anti (sublist_ins_getD s.groups g Group.blank) site

/-! ## A destination that takes an entry (R155, R160) -/

/-- A v register without a value that a write can give an entry: nothing on its way to it, nothing that keeps it, and room for
it in the reservation or among the free slices. -/
def Mappable (s : State) (x : Group) (d : Nat) : Prop :=
  d < 80 ∧ look x.vval d = none ∧ x.spilled.contains d = false ∧ pendingReg x d = none ∧ x.pinned.all (fun e => e.2 != d) = true
    ∧ (entries x < x.floor ∨ slices x.w ≤ s.freeSlices (siteOf x))

theorem Mappable.reg {s : State} {x : Group} {d : Nat} (h : Mappable s x d) : d < 80 := And.left h

/-- Where more slices are free, a register can be given an entry all the same. -/
theorem Mappable.mono {s t : State} {x : Group} {d : Nat} (h : Mappable s x d)
    (hf : s.freeSlices (siteOf x) ≤ t.freeSlices (siteOf x)) : Mappable t x d := by
  obtain ⟨hreg, hun, hwhole, hidle, hpin, hroom⟩ := h
  exact ⟨hreg, hun, hwhole, hidle, hpin, hroom.imp_right hf.trans'⟩

/-- One entry, from the reservation or from the free slices. -/
theorem run_takeEntry {s : State} {g : Nat} (protect : List Nat)
    (h : entries (s.grp g) < (s.grp g).floor ∨ slices (s.grp g).w ≤ s.freeSlices (siteOf (s.grp g))) :
    (takeEntries g protect 1).run s = .ok ((), s) := by
  have grown : max (s.grp g).floor (entries (s.grp g) + 1) - max (s.grp g).floor (entries (s.grp g)) ≤ 1 := by omega
  change (takeNext g 0 protect).run s = _
  unfold takeNext
  rw [run_bind_ok (run_get s)]
  simp only [Nat.add_zero, Bool.or_eq_true, decide_eq_true_eq]
  rcases h with h | h
  · rw [if_pos (.inr h)]
    rfl
  · rw [if_pos ((Nat.mul_le_mul_right _ grown).trans (by rwa [Nat.one_mul]))]
    split <;> rfl

/-- A write of a v register that takes an entry. -/
theorem run_writeV_maps {s : State} {cx : Cx} {m : W64} {r : Nat} (vals : List W32) (protect : List Nat)
    (h : Mappable s (s.grp cx.g) r) :
    (writeV cx m r vals protect).run s = .ok ((), s.setGrp cx.g ((s.grp cx.g).setV m r vals)) := by
  obtain ⟨hreg, hun, hwhole, hidle, hpin, hroom⟩ := h
  have hn : writeNeeds (s.grp cx.g) (putV m r vals (s.grp cx.g)) r = 1 := by
    simp only [writeNeeds, hidle, hun, Option.isSome_none, Option.isNone_none, Bool.true_or, Bool.false_eq_true,
      if_false, if_true]
  rw [← putV_eq vals hreg hidle]
  unfold writeV
  rw [run_bind_ok (run_getG cx.g s)]
  simp only [mustWait_none hidle, hwhole, hidle, Option.isSome_none, Bool.false_and, Bool.or_self, Bool.false_eq_true, if_false]
  rw [run_bind_ok (run_getG cx.g s), hn, run_bind_ok (run_takeEntry _ hroom), run_bind_ok (run_modify _ s), touchReg_none m hpin]
  rfl

/-- A vector result of 32-bit elements into a register that takes an entry. -/
theorem run_writeEl_maps {s : State} {cx : Cx} {d : Nat} (vals : List W64) (h : Mappable s (s.grp cx.g) d) :
    (writeEl cx d false vals).run s = .ok ((), s.setGrp cx.g ((s.grp cx.g).result cx.exe d false vals)) := by
  change (writeD cx d _).run s = _
  unfold writeD
  rw [if_pos h.reg, run_bind_ok (run_writeV_maps _ _ h), run_pushY, State.grp_setGrp, setGrp_setGrp]
  rfl

/-- Lanes that only give a value: the write is all that happens. -/
theorem run_finishLanes_plain {s t : State} {cx : Cx} {ty fty d : Nat} {v : Nat → LaneOut} (hv : ∀ k, v k = { v := (v k).v })
    (hw : (writeEl cx d (isWide ty) (gen (s.grp cx.g).w (fun k => (v k).v))).run s = .ok ((), t)) :
    (finishLanes cx ty fty d (gen (s.grp cx.g).w v)).run s = .ok ({}, t) := by
  have hmap : (gen (s.grp cx.g).w v).map (·.v) = gen (s.grp cx.g).w (fun k => (v k).v) := List.map_map
  have hl : (laneList (s.grp cx.g).w cx.exe).map (fun k => lane { v := 0#64 } (gen (s.grp cx.g).w v) k)
      = (laneList (s.grp cx.g).w cx.exe).map v :=
    List.map_congr_left fun k hk => lane_gen _ _ (by simpa using (List.mem_filter.1 hk).1)
  have hsat : ((laneList (s.grp cx.g).w cx.exe).map v).any (·.sat) = false := by
    rw [List.any_map, List.any_eq_false]
    intro k _
    rw [Function.comp_apply, hv]
    exact Bool.false_ne_true
  have hev : (Ev.counts (((laneList (s.grp cx.g).w cx.exe).map v).map (·.ev))).all (· == 0) = true := by
    have (k : Nat) : (v k).ev = {} := by rw [hv]
    simp [Ev.counts, Function.comp_def, this]
  have hdiv : maskOf (s.grp cx.g).w (fun k => hasLane cx.exe k && (lane { v := 0#64 } (gen (s.grp cx.g).w v) k).idz) = 0#64 :=
    maskOf_false fun k hk => by rw [lane_gen _ _ (List.mem_range.1 hk), hv, Bool.and_false]
  have hnote : (noteEvents cx fty (((laneList (s.grp cx.g).w cx.exe).map v).map (·.ev))).run t = .ok ((), t) := by
    unfold noteEvents
    rw [run_bind_ok (run_getG cx.g t), run_modify, countEvents_zero _ _ _ _ _ _ hev]
  unfold finishLanes
  rw [run_bind_ok (run_getG cx.g s), hmap, run_bind_ok hw]
  simp only [hl, hsat, hdiv]
  rw [run_bind_ok (show (noteSat cx false).run t = .ok ((), t) from rfl), run_bind_ok hnote]
  rfl

/-- An integer row on 32-bit elements whose destination takes an entry once the marks are done. -/
theorem intOp_maps {op : Nat} {r : Lane3} {f : FV3} {s : State} {run : Run} {cx : Cx} (h2 : eltType cx 2 = 2)
    (h : Issuing s run cx { mode := true, type := true } false)
    (hs : SourcesOk (s.grp cx.g) false [(f.l, f.a.toNat), (f.m, f.b.toNat)])
    (hr : ∀ a b d, r 2 cx.h a b d = { v := (r 2 cx.h a b d).v }) :
    let x := s.grp cx.g
    let y := x.marks cx.exe false [(f.l, f.a.toNat), (f.m, f.b.toNat)]
    Mappable (s.setGrp cx.g y) y f.d.toNat →
    ∃ t, intOp op r f s = .next t
      ∧ Leaves (s.setGrp cx.g (y.result cx.exe f.d.toNat false (gen x.w (fun t =>
          (r 2 cx.h ((x.el32 f.a.toNat t).setWidth 64) ((x.el32 f.b.toNat t).setWidth 64) 0#64).v)))) t cx cx.next := by
  intro x y hmap
  have hm : x.mill = none := by simpa using h.unit.mill
  have ha := hs.place (f.l, f.a.toNat) (by simp)
  have hb := hs.place (f.m, f.b.toNat) (by simp)
  obtain ⟨t, hmarks, hg, hset⟩ := run_marks (s := s) (cx := cx) (wide := false) (k := countMarks f.l f.m) hm hs.marks (maskCount _ _ _ _)
  have hmarks' : (applyMarks cx (countMarks f.l f.m) (specMark f.l f.a.toNat 1 ++ specMark f.m f.b.toNat 1)).run s = .ok ((), t) := by
    rw [← hmarks]
    unfold markRegs regsOf
    simp
  have hrefill : (refillSpecs cx (specRegs f.d.toNat 1) [(f.a.toNat, 1), (f.b.toNat, 1)]).run s = .ok ((), s) := by
    refine run_refillSpecs fun p hp => ?_
    simp only [List.mem_cons, List.not_mem_nil, or_false] at hp
    rcases hp with rfl | rfl
    · exact ha
    · exact hb
  have hroom : Mappable t (t.grp cx.g) f.d.toNat := by
    have hfree := freeSlices_setGrp_self t cx.g (siteOf y)
    rw [hg, hset] at hfree
    rw [hg]
    exact hmap.mono hfree
  refine issue_does h ?_ ?_ ((samePlace_marks _ _ _ _).trans (samePlace_result _ _ _ _ _))
  · refine run_vecStatic (x := x) ?_ ?_ (by have := hmap.reg; omega) ?_
    · rw [h2]; rfl
    · rw [h2]; exact hs
    · rw [h2]; exact nofun
  · rw [skipMarks_eq _ _ h.some]
    simp only [eltType_eq, h2, show isWide 2 = false from rfl, Bool.false_eq_true, if_false, List.append_nil]
    rw [run_bind_ok hrefill, run_bind_ok (run_readEl ha nofun), run_bind_ok (run_readEl hb nofun), run_bind_ok (run_pure [] s),
      run_bind_ok hmarks', run_bind_ok (run_getG cx.g t),
      run_finishLanes_plain (fun _ => hr _ _ _) (run_writeEl_maps _ hroom), hset, hg, marks_w]
    congr 4
    refine List.map_congr_left fun k hk => ?_
    rw [lane_gen _ _ (List.mem_range.1 hk), lane_gen _ _ (List.mem_range.1 hk)]
    rfl

theorem ofInt_sum (a b : W32) : BitVec.ofInt 32 (a.toInt + b.toInt) = a + b := by
  rw [BitVec.ofInt_add, BitVec.ofInt_toInt, BitVec.ofInt_toInt]

/-- IADD's lane on 32-bit elements where HMODE is absent. -/
theorem addLane_word {h : Hints} (hm : h.mode = none) (a b : W32) (d : W64) :
    exactOp true (· + ·) 2 h (a.setWidth 64) (b.setWidth 64) d = { v := (a + b).setWidth 64 } := by
  have hsat : satOf h = false := by rw [satOf, fpMode, hm]
  have num (e : W32) : eltInt 2 (e.setWidth 64) = e.toInt := by
    rw [eltInt_eq, numOf, if_pos (by decide)]
    congr 1
    exact BitVec.setWidth_setWidth_of_le _ (by decide) |>.trans (BitVec.setWidth_eq _)
  simp only [exactOp, hsat, Bool.and_false, satInt, Bool.false_eq_true, if_false, num, holdInt_eq (show 2 < 8 by decide)]
  exact congrArg (fun p : W32 => ({ v := heldAs 2 p } : LaneOut)) (ofInt_sum a b)

/-- R155 and R160: a destination that takes an entry. -/
theorem vectorMapsDestination : vectorMapsDestinationRule := by
  intro f s run cx hm h2 h x y hs hreg hun hwhole hidle hpin hroom
  have hsite : siteOf y = siteOf x := (samePlace_marks _ _ _ _).site
  have hw : y.w = x.w := marks_w _ _ _ _
  obtain ⟨t, ht, hl⟩ := intOp_maps (op := 0x20) (r := exactOp true (· + ·)) h2 h hs
    (fun a b d => by
      have hsat : satOf cx.h = false := by rw [satOf, fpMode, hm]
      simp only [exactOp, hsat, Bool.and_false, satInt, Bool.false_eq_true, if_false])
    ⟨hreg, hun, hwhole, hidle, hpin, by rwa [hsite, hw]⟩
  exact ⟨t, ht, by simpa only [addLane_word hm] using hl⟩

/-! ## The words that trap (R24, R26, R41) -/

theorem run_forM_guard {α : Type} (l : List α) (c : α → Bool) (e : Stop) (s : State) :
    (l.forM (fun a => guardM (c a) e)).run s = if l.all c then .ok ((), s) else .error e := by
  induction l with
  | nil => rfl
  | cons a l ih =>
    change (guardM (c a) e >>= fun _ => l.forM (fun a => guardM (c a) e)).run s = _
    cases hc : c a
    · rw [List.all_cons, hc, Bool.false_and]
      rfl
    · rw [run_bind_ok (run_guard rfl _ s), ih, List.all_cons, hc, Bool.true_and]

theorem run_bind_error {α β : Type} {x : M α} {k : α → M β} {s : State} {e : Stop} (h : x.run s = .error e) :
    (x >>= k).run s = .error e := by
  rw [StateT.run_bind, h]
  rfl

/-- A pair that starts at an even register, or what is no pair (R25). -/
def pairOk (spec : Nat) : Bool := decide (88 ≤ spec) || spec % 2 == 0

/-- What makes a word with vector operands no instruction. -/
def vecWord (types : List Nat) (ty d : Nat) (srcs : List (Bool × Nat)) : Bool :=
  srcs.all (fun p => p.2 != 95) && types.contains ty && d != 95

/-- What its entries limit. -/
def vecOperands (ty d : Nat) (srcs : List (Bool × Nat)) : Bool :=
  decide (d ≤ 88) && srcs.all (fun p => !p.1 || markable p.2) && (!isWide ty || (pairOk d && srcs.all (fun p => pairOk p.2)))

theorem vecStatic_noWord {cx : Cx} {types : List Nat} {dflt d : Nat} {srcs : List (Bool × Nat)} {s : State}
    (h : vecWord types (eltType cx dflt) d srcs = false) :
    (vecStatic cx types dflt d srcs).run s = .error (.trap 1 0#64 0 0 0 0#64) := by
  have hspec : (srcs.forM (fun p => okSpec p.2)).run s = _ := run_forM_guard srcs (fun p => p.2 != 95) _ s
  unfold vecStatic
  simp only [eltType_eq]
  cases hs : srcs.all (fun p => p.2 != 95)
  · exact run_bind_error (hspec.trans (by rw [hs]; rfl))
  · rw [run_bind_ok (hspec.trans (by rw [hs]; rfl))]
    cases ht : types.contains (eltType cx dflt)
    · rfl
    · rw [run_bind_ok (run_guard rfl _ s)]
      have hd : (d != 95) = false := by simpa only [vecWord, hs, ht, Bool.true_and] using h
      exact run_bind_error (by rw [okDest, hd]; rfl)

theorem vecStatic_badOperand {cx : Cx} {types : List Nat} {dflt d : Nat} {srcs : List (Bool × Nat)} {s : State}
    (h : vecWord types (eltType cx dflt) d srcs = true) (ho : vecOperands (eltType cx dflt) d srcs = false) :
    (vecStatic cx types dflt d srcs).run s = .error (.trap 2 0#64 0 0 0 0#64) := by
  have hspec : (srcs.forM (fun p => okSpec p.2)).run s = _ := run_forM_guard srcs (fun p => p.2 != 95) _ s
  have hmark : (srcs.forM (fun p => okMark p.1 p.2)).run s = _ := run_forM_guard srcs (fun p => !p.1 || markable p.2) _ s
  have hpair : (srcs.forM (fun p => okPair p.2)).run s = _ := run_forM_guard srcs (fun p => pairOk p.2) _ s
  simp only [vecWord, Bool.and_eq_true] at h
  obtain ⟨⟨hs, ht⟩, hd⟩ := h
  unfold vecStatic
  simp only [eltType_eq]
  rw [run_bind_ok (hspec.trans (by rw [hs]; rfl)), run_bind_ok (run_guard ht _ s)]
  have hdest : (okDest d).run s = (guardM (decide (d ≤ 88)) (.trap 2 0#64 0 0 0 0#64)).run s := by
    rw [okDest, run_bind_ok (run_guard hd _ s)]
  unfold vecOperands at ho
  cases h88 : decide (d ≤ 88)
  · exact run_bind_error (by rw [hdest, h88]; rfl)
  · rw [run_bind_ok (hdest.trans (run_guard h88 _ s))]
    cases hm : srcs.all (fun p => !p.1 || markable p.2)
    · exact run_bind_error (hmark.trans (by rw [hm]; rfl))
    · rw [h88, hm, Bool.true_and, Bool.true_and, Bool.or_eq_false_iff, Bool.not_eq_false'] at ho
      obtain ⟨hw, hp⟩ := ho
      rw [run_bind_ok (hmark.trans (by rw [hm]; rfl)), hw, if_pos rfl]
      cases hpd : pairOk d
      · exact run_bind_error (by rw [okPair, show (decide (88 ≤ d) || d % 2 == 0) = false from hpd]; rfl)
      · rw [run_bind_ok (by exact run_guard hpd _ s)]
        rw [hpd, Bool.true_and] at hp
        exact hpair.trans (by rw [hp]; rfl)

/-- The V3 integer rows are executed as three-operand rows of every integer type. -/
theorem v3Rows_exec {i : FV3 → Instr} (hi : i ∈ exactRows.map (·.1) ++ bitRows.map (·.1) ++ [Instr.idiv, Instr.irem]) :
    ∃ op rd L, ∀ f s, exec (i f) s = vec3 op true rd intTypes 2 L f s := by
  simp only [List.mem_append, List.mem_map, List.mem_cons, List.not_mem_nil, or_false] at hi
  rcases hi with (⟨r, hr, rfl⟩ | ⟨r, hr, rfl⟩) | rfl | rfl
  · obtain ⟨op, rd, -, hexec⟩ := exactRows_exec hr
    exact ⟨op, rd, _, hexec⟩
  · obtain ⟨op, L, hexec, -⟩ := bitRows_exec hr
    exact ⟨op, false, L, hexec⟩
  · exact ⟨0x24, false, divOp false, fun _ _ => rfl⟩
  · exact ⟨0x25, false, divOp true, fun _ _ => rfl⟩

/-- An integer row whose own checks stop it. -/
theorem vec3_static_error {op : Nat} {rd : Bool} {L : Lane3} {f : FV3} {s : State} {run : Run} {cx : Cx} {e : Stop}
    (hu : UnitOk s run cx { mode := true, type := true } false)
    (h : (vecStatic cx intTypes 2 f.d.toNat [(f.l, f.a.toNat), (f.m, f.b.toNat)]).run s = .error e) :
    vec3 op true rd intTypes 2 L f s = .next ((rurSticky s cx.g e).stopped cx run e) :=
  issue_static_error hu h

theorem intTypes_contains_iff (ty : Nat) : intTypes.contains ty = decide (ty < 8) := by
  by_cases h : ty < 8
  · rw [intTypes_contains h, decide_eq_true h]
  · rw [decide_eq_false h]
    simp only [intTypes, List.contains_eq_mem, List.mem_cons, List.not_mem_nil, or_false, decide_eq_false_iff_not]
    omega

/-- R24, R26 and R41 for the V3 integer rows. -/
theorem vectorIllegal : vectorIllegalRule := by
  intro i hi f s run cx hu ty
  obtain ⟨op, rd, L, hexec⟩ := v3Rows_exec hi
  refine ⟨fun hbad => (hexec f s).trans (vec3_static_error hu (vecStatic_noWord ?_)),
    fun ha hb hd hty hbad => (hexec f s).trans (vec3_static_error hu (vecStatic_badOperand ?_ ?_))⟩
  · simp only [vecWord, intTypes_contains_iff, Bool.and_eq_false_iff, decide_eq_false_iff_not, List.all_cons, List.all_nil,
      Bool.and_true, bne_eq_false_iff_eq]
    omega
  · simp only [vecWord, intTypes_contains_iff, Bool.and_eq_true, decide_eq_true_eq, List.all_cons, List.all_nil,
      Bool.and_true, bne_iff_ne]
    exact ⟨⟨⟨ha, hb⟩, hty⟩, hd⟩
  · have hwide : isWide (eltType cx 2) = decide (tyBits ty = 64) := by rw [isWide, beq_eq_decide]
    simp only [vecOperands, hwide, pairOk, markable, List.all_cons, List.all_nil, Bool.and_true, Bool.and_eq_false_iff,
      Bool.or_eq_false_iff, Bool.not_eq_false', decide_eq_false_iff_not, decide_eq_true_eq, beq_eq_false_iff_ne]
    rcases hbad with hd88 | ⟨hl, h1, h2⟩ | ⟨hm, h1, h2⟩ | ⟨hw, hodd⟩
    · exact .inl (.inl (by omega))
    · exact .inl (.inr (.inl ⟨hl, by omega, by omega⟩))
    · exact .inl (.inr (.inr ⟨hm, by omega, by omega⟩))
    · exact .inr ⟨hw, by omega⟩

/-- Settles O6: the fields by their lanes, the entry by R160's count, the traps by the word's own checks. -/
theorem vectorFieldsAndRefusals : Obligations.VectorFieldsAndRefusals := by
  unfold Obligations.VectorFieldsAndRefusals
  exact ⟨vectorFields, vectorMapsDestination, vectorIllegal⟩

end Sys2Proof.Machine
end

section
/-! PROOF. What rounding to a format gives: the patterns of a format, the grid a number is rounded on, overflow, SAT and FTZ
(R55 to R57, R151). -/

namespace Sys2Proof.Machine

/-! ## Patterns (R55) -/

/-- A format with an exponent field of at least two bits and a mantissa field. -/
structure Fmt.Good (f : Fmt) : Prop where
  exp : 2 ≤ f.eb
  mant : 1 ≤ f.mb

-- Elaborated once the text above is done: side by side with its proofs, those below need more memory than the check gives.
set_option Elab.async false in
theorem good_of_mem {f : Fmt} (h : f ∈ [f16, bf16, f32, f64]) : f.Good := by
  simp only [List.mem_cons, List.not_mem_nil, or_false] at h
  rcases h with rfl | rfl | rfl | rfl <;> exact ⟨by decide, by decide⟩

/-- The sign bit of a pattern. -/
def Fmt.sign (f : Fmt) (neg : Bool) : Nat := if neg then f.signBit else 0

/-- The exponent of the least subnormal number: no number of the format has a finer unit. -/
def Fmt.minExp (f : Fmt) : Int := 1 - f.bias - f.mb

theorem signBit_eq (f : Fmt) : f.signBit = 2 ^ f.eb * 2 ^ f.mb := Nat.pow_add ..

theorem infBits_lt_signBit (f : Fmt) : f.infBits < f.signBit := by
  rw [signBit_eq, Fmt.infBits]
  exact Nat.mul_lt_mul_of_pos_right (Nat.sub_lt (by positivity) (by decide)) (by positivity)

theorem two_pow_width (f : Fmt) : 2 ^ f.width = 2 * f.signBit := by
  rw [Fmt.width, Nat.add_assoc, Nat.pow_add]; rfl

theorem sign_add_lt {f : Fmt} {b : Nat} (neg : Bool) (h : b < f.signBit) : f.sign neg + b < 2 ^ f.width := by
  rw [two_pow_width, Fmt.sign]
  split <;> omega

theorem sign_add_div {f : Fmt} {b : Nat} (neg : Bool) (h : b < f.signBit) :
    (f.sign neg + b) / f.signBit = if neg then 1 else 0 := by
  cases neg
  · exact (congrArg (· / f.signBit) (Nat.zero_add b)).trans (Nat.div_eq_of_lt h)
  · exact Nat.div_eq_of_lt_le (by simp [Fmt.sign]) (by simp [Fmt.sign]; omega)

theorem sign_add_mod {f : Fmt} {b : Nat} (neg : Bool) (h : b < f.signBit) : (f.sign neg + b) % f.signBit = b := by
  cases neg
  · exact (congrArg (· % f.signBit) (Nat.zero_add b)).trans (Nat.mod_eq_of_lt h)
  · exact (Nat.add_mod_left ..).trans (Nat.mod_eq_of_lt h)

theorem signBit_le_iff {f : Fmt} {b : Nat} (neg : Bool) (h : b < f.signBit) :
    f.signBit ≤ f.sign neg + b ↔ neg = true := by
  cases neg <;> simp [Fmt.sign, h]

/-- The number of a finite pattern from its fields. -/
theorem decodeF_fields {f : Fmt} (hf : f.Good) (neg : Bool) {ex mant : Nat} (he : ex < 2 ^ f.eb - 1) (hm : mant < 2 ^ f.mb) :
    decodeF f false (f.sign neg + (ex * 2 ^ f.mb + mant)) =
      .fin neg (if ex = 0 then mant else 2 ^ f.mb + mant) (max ex 1 - f.bias - f.mb) := by
  have hlt : ex * 2 ^ f.mb + mant < f.signBit := by
    rw [signBit_eq]
    calc ex * 2 ^ f.mb + mant < (ex + 1) * 2 ^ f.mb := by rw [Nat.add_mul]; omega
      _ ≤ 2 ^ f.eb * 2 ^ f.mb := Nat.mul_le_mul_right _ (by omega)
  have hsign : bits (f.sign neg + (ex * 2 ^ f.mb + mant)) (f.eb + f.mb) (f.eb + f.mb) = if neg then 1 else 0 := by
    rw [bits, show (2 : Nat) ^ (f.eb + f.mb) = f.signBit from rfl, sign_add_div neg hlt, Nat.add_sub_cancel_left]
    cases neg <;> rfl
  have hdvd : f.sign neg = (if neg then 2 ^ f.eb else 0) * 2 ^ f.mb := by
    cases neg
    · simp [Fmt.sign]
    · simp [Fmt.sign, signBit_eq]
  have hparts : f.sign neg + (ex * 2 ^ f.mb + mant) = ((if neg then 2 ^ f.eb else 0) + ex) * 2 ^ f.mb + mant := by
    rw [hdvd]; ring
  have hexp : bits (f.sign neg + (ex * 2 ^ f.mb + mant)) (f.eb + f.mb - 1) f.mb = ex := by
    have := hf.exp
    rw [bits, hparts, show f.eb + f.mb - 1 + 1 - f.mb = f.eb by omega, Nat.mul_comm, Nat.mul_add_div (by positivity),
      Nat.div_eq_of_lt hm]
    cases neg
    · simp only [Bool.false_eq_true, if_false]
      rw [Nat.zero_add, Nat.add_zero, Nat.mod_eq_of_lt (by omega)]
    · simp only [if_true]
      rw [Nat.add_zero, Nat.add_mod_left, Nat.mod_eq_of_lt (by omega)]
  have hmant : (f.sign neg + (ex * 2 ^ f.mb + mant)) % 2 ^ f.mb = mant := by
    rw [hparts, Nat.mul_comm, Nat.mul_add_mod, Nat.mod_eq_of_lt hm]
  have hneg : ((if neg then 1 else 0 : Nat) == 1) = neg := by cases neg <;> rfl
  unfold decodeF
  simp only [hsign, hexp, hmant, hneg, show (ex == 2 ^ f.eb - 1) = false by simp; omega, Bool.false_eq_true, if_false]
  by_cases h0 : ex = 0
  · subst h0
    simp
  · simp only [beq_iff_eq, h0, if_false, show max ex 1 = ex by omega]

/-- A finite number of a format is a whole number of units, less than twice as many as the mantissa field counts. -/
theorem fin_of_decodeF {f : Fmt} {b k : Nat} {s : Bool} {x : Int} (h : decodeF f false b = .fin s k x) :
    k < 2 ^ (f.mb + 1) ∧ f.minExp ≤ x := by
  have hlt : b % 2 ^ f.mb < 2 ^ f.mb := Nat.mod_lt _ (by positivity)
  unfold decodeF at h
  simp only [Bool.false_eq_true, if_false, beq_iff_eq] at h
  rw [Nat.pow_succ]
  split at h
  · split at h <;> cases h
  · split at h
    · cases h
      exact ⟨by omega, le_rfl⟩
    · cases h
      exact ⟨by omega, by unfold Fmt.minExp; omega⟩

/-! ## Integers (R57) -/

/-- Rounding a magnitude `x` to the integer `r`: to nearest with ties to even, toward zero, away from zero. -/
def Nearest (x : ℚ) (r : Nat) : Prop := |r - x| ≤ 1 / 2 ∧ (|r - x| = 1 / 2 → r % 2 = 0)
def Below (x : ℚ) (r : Nat) : Prop := r ≤ x ∧ x < r + 1
def Above (x : ℚ) (r : Nat) : Prop := x ≤ r ∧ r < x + 1

/-- Which of the three a rounding mode asks for. -/
def RoundsTo (rm : Nat) (neg : Bool) (x : ℚ) (r : Nat) : Prop :=
  match rm with
  | 0 => Nearest x r
  | 1 => Below x r
  | 2 => if neg then Below x r else Above x r
  | _ => if neg then Above x r else Below x r

theorem RoundsTo.cases {rm : Nat} {neg : Bool} {x : ℚ} {r : Nat} (h : RoundsTo rm neg x r) :
    Nearest x r ∨ Below x r ∨ Above x r := by
  match rm, neg, h with
  | 0, _, h => exact .inl h
  | 1, _, h => exact .inr (.inl h)
  | 2, true, h => exact .inr (.inl h)
  | 2, false, h => exact .inr (.inr h)
  | _ + 3, true, h => exact .inr (.inr h)
  | _ + 3, false, h => exact .inr (.inl h)

theorem RoundsTo.of_all {x : ℚ} {r : Nat} (hn : Nearest x r) (hb : Below x r) (ha : Above x r) (rm : Nat) (neg : Bool) :
    RoundsTo rm neg x r := by
  match rm, neg with
  | 0, _ => exact hn
  | 1, _ => exact hb
  | 2, true => exact hb
  | 2, false => exact ha
  | _ + 3, true => exact ha
  | _ + 3, false => exact hb

theorem RoundsTo.close {rm : Nat} {neg : Bool} {x : ℚ} {r : Nat} (h : RoundsTo rm neg x r) : r < x + 1 ∧ x < r + 1 := by
  rcases h.cases with h | h | h
  · have := abs_le.1 h.1
    constructor <;> linarith
  · exact ⟨by linarith [h.1], h.2⟩
  · exact ⟨h.2, by linarith [h.1]⟩

theorem roundsTo_self (rm : Nat) (neg : Bool) (n : Nat) : RoundsTo rm neg n n :=
  .of_all ⟨by simp, by simp⟩ ⟨le_rfl, by linarith⟩ ⟨le_rfl, by linarith⟩ rm neg

/-- A number between `n` and `n + 1` is rounded to nearest by what twice its fraction is beside 1. -/
theorem nearest_roundUp (neg : Bool) {x : ℚ} {n twice : Nat} (h0 : n < x) (h1 : x < n + 1)
    (ht : (twice = 0 ∧ x - n < 1 / 2) ∨ (twice = 1 ∧ x - n = 1 / 2) ∨ (twice = 2 ∧ 1 / 2 < x - n)) :
    Nearest x (n + if roundUp 0 neg (n % 2 == 1) false twice then 1 else 0) := by
  have stays : |((n : Nat) : ℚ) - x| = x - n := by rw [abs_sub_comm, abs_of_nonneg (by linarith)]
  have moves : |((n + 1 : Nat) : ℚ) - x| = 1 - (x - n) := by
    push_cast
    rw [abs_of_nonneg (by linarith)]
    ring
  rcases ht with ⟨rfl, ht⟩ | ⟨rfl, ht⟩ | ⟨rfl, ht⟩
  · change Nearest x n
    rw [Nearest, stays]
    exact ⟨ht.le, fun h => absurd h ht.ne⟩
  · by_cases hodd : n % 2 = 1
    · rw [hodd]
      change Nearest x (n + 1)
      rw [Nearest, moves]
      exact ⟨by linarith, fun _ => by omega⟩
    · rw [show (n % 2 == 1) = false by simpa using hodd]
      change Nearest x n
      rw [Nearest, stays]
      exact ⟨ht.le, fun _ => by omega⟩
  · change Nearest x (n + 1)
    rw [Nearest, moves]
    exact ⟨by linarith, fun h => by linarith⟩

/-- A number between `n` and `n + 1` is rounded as `roundUp` says. -/
theorem roundsTo_roundUp (rm : Nat) (neg : Bool) {x : ℚ} {n twice : Nat} (h0 : n < x) (h1 : x < n + 1)
    (ht : (twice = 0 ∧ x - n < 1 / 2) ∨ (twice = 1 ∧ x - n = 1 / 2) ∨ (twice = 2 ∧ 1 / 2 < x - n)) :
    RoundsTo rm neg x (n + if roundUp rm neg (n % 2 == 1) false twice then 1 else 0) := by
  have below : Below x n := ⟨h0.le, h1⟩
  have above : Above x (n + 1) := ⟨by push_cast; linarith, by push_cast; linarith⟩
  match rm, neg with
  | 0, neg => exact nearest_roundUp neg h0 h1 ht
  | 1, _ => exact below
  | 2, true => exact below
  | 2, false => exact above
  | _ + 3, true => exact above
  | _ + 3, false => exact below

/-- Twice a remainder beside its divisor, as `roundUp` takes it. -/
def halves (rest unit : Nat) : Nat := if 2 * rest < unit then 0 else if 2 * rest = unit then 1 else 2

theorem halves_spec {rest unit : Nat} (h : 0 < unit) :
    (halves rest unit = 0 ∧ (rest : ℚ) / unit < 1 / 2) ∨ (halves rest unit = 1 ∧ (rest : ℚ) / unit = 1 / 2)
      ∨ (halves rest unit = 2 ∧ 1 / 2 < (rest : ℚ) / unit) := by
  have hu : (0 : ℚ) < unit := by exact_mod_cast h
  rw [div_lt_iff₀ hu, div_eq_iff hu.ne', lt_div_iff₀ hu, halves]
  rcases Nat.lt_trichotomy (2 * rest) unit with h | h | h
  · have : ((2 * rest : Nat) : ℚ) < unit := by exact_mod_cast h
    exact .inl ⟨if_pos h, by push_cast at this; linarith⟩
  · have : ((2 * rest : Nat) : ℚ) = unit := by exact_mod_cast h
    exact .inr (.inl ⟨by simp [h], by push_cast at this; linarith⟩)
  · have : (unit : ℚ) < ((2 * rest : Nat) : ℚ) := by exact_mod_cast h
    exact .inr (.inr ⟨by rw [if_neg (by omega), if_neg (by omega)], by push_cast at this; linarith⟩)

theorem div_eq_quotient_add (m : Nat) {D : Nat} (h : 0 < D) : (m : ℚ) / D = (m / D : Nat) + ((m % D : Nat) : ℚ) / D := by
  have hD : (D : ℚ) ≠ 0 := by exact_mod_cast h.ne'
  rw [div_eq_iff hD, add_mul, div_mul_cancel₀ _ hD]
  exact_mod_cast (Nat.div_add_mod' m D).symm

/-- A quotient rounded to an integer by its remainder, and whether it is one. -/
theorem quotient_roundsTo (rm : Nat) (neg : Bool) (m : Nat) {D : Nat} (h : 0 < D) :
    RoundsTo rm neg (m / D : ℚ) (m / D + if roundUp rm neg (m / D % 2 == 1) (m % D == 0) (halves (m % D) D) then 1 else 0)
      ∧ ((m % D == 0) = true ↔
        ((m / D + if roundUp rm neg (m / D % 2 == 1) (m % D == 0) (halves (m % D) D) then 1 else 0 : Nat) : ℚ) = m / D) := by
  have hD : (0 : ℚ) < D := by exact_mod_cast h
  have hsplit := div_eq_quotient_add m h
  by_cases h0 : m % D = 0
  · have hm : (m : ℚ) / D = (m / D : Nat) := by rw [hsplit, h0]; simp
    rw [hm, h0]
    exact ⟨roundsTo_self rm neg (m / D), iff_of_true rfl rfl⟩
  · rw [show (m % D == 0) = false by simpa using h0]
    have hpos : 0 < ((m % D : Nat) : ℚ) / D := div_pos (by exact_mod_cast Nat.pos_of_ne_zero h0) hD
    have hone : ((m % D : Nat) : ℚ) / D < 1 := (div_lt_one hD).2 (by exact_mod_cast Nat.mod_lt m h)
    refine ⟨roundsTo_roundUp rm neg (by linarith) (by linarith) ?_, iff_of_false nofun fun he => ?_⟩
    · rw [hsplit, add_sub_cancel_left]
      exact halves_spec h
    · obtain ⟨k, hk⟩ : ∃ k, k = if roundUp rm neg (m / D % 2 == 1) false (halves (m % D) D) then 1 else 0 := ⟨_, rfl⟩
      rw [← hk, hsplit, Nat.cast_add, add_right_inj] at he
      rw [← he] at hpos hone
      have h1 : 0 < k := by exact_mod_cast hpos
      have h2 : k < 1 := by exact_mod_cast hone
      omega

/-- `roundAt` rounds m · 2^e to a whole number of units 2^q, and tells whether that was exact. -/
theorem roundAt_roundsTo (rm : Nat) (neg : Bool) (m : Nat) (e q : Int) :
    RoundsTo rm neg (m * (2 : ℚ) ^ (e - q)) (roundAt rm neg m e q false).1
      ∧ ((roundAt rm neg m e q false).2 = true ↔ ((roundAt rm neg m e q false).1 : ℚ) = m * (2 : ℚ) ^ (e - q)) := by
  by_cases hq : q ≤ e
  · have hx : (m : ℚ) * (2 : ℚ) ^ (e - q) = (m * 2 ^ (e - q).toNat : Nat) := by
      push_cast
      rw [← zpow_natCast, Int.toNat_of_nonneg (by omega)]
    have hr : roundAt rm neg m e q false = (m * 2 ^ (e - q).toNat, true) := by simp [roundAt, hq, roundUp]
    rw [hr, hx]
    exact ⟨roundsTo_self rm neg _, iff_of_true rfl rfl⟩
  · have hx : (m : ℚ) * (2 : ℚ) ^ (e - q) = m / (2 ^ (q - e).toNat : Nat) := by
      push_cast
      rw [← zpow_natCast, Int.toNat_of_nonneg (by omega), ← neg_sub q e, zpow_neg, div_eq_mul_inv]
    have hr : roundAt rm neg m e q false = (m / 2 ^ (q - e).toNat + if roundUp rm neg (m / 2 ^ (q - e).toNat % 2 == 1)
        (m % 2 ^ (q - e).toNat == 0) (halves (m % 2 ^ (q - e).toNat) (2 ^ (q - e).toNat)) then 1 else 0,
        m % 2 ^ (q - e).toNat == 0) := by
      simp only [roundAt, hq, halves, if_false, Bool.not_false, Bool.and_true, beq_iff_eq]
      rfl
    rw [hr, hx]
    exact quotient_roundsTo rm neg m (by positivity)

/-! ## The units a number is rounded to (R57) -/

/-- The exponent of the highest bit of m · 2^e. -/
def topExp (m : Nat) (e : Int) : Int := e + bitLen m - 1

/-- The exponent of the unit that m · 2^e is rounded to: as fine as the mantissa field reaches, and no finer than the format's. -/
def Fmt.unitExp (f : Fmt) (m : Nat) (e : Int) : Int := max (topExp m e - f.mb) f.minExp

theorem two_pow_bitLen_le {m : Nat} (h : m ≠ 0) : 2 ^ bitLen m ≤ 2 * m := by
  rw [bitLen, if_neg h, Nat.pow_succ]
  have := Nat.log2_self_le h
  omega

theorem lt_two_pow_bitLen (m : Nat) : m < 2 ^ bitLen m := by
  by_cases h : m = 0
  · subst h; decide
  · rw [bitLen, if_neg h]
    exact Nat.lt_log2_self

/-- In its unit a number has no more than the mantissa's bits, and all of them where a finer unit exists. -/
theorem scaled_bounds (f : Fmt) {m : Nat} {e : Int} (h : m ≠ 0) :
    (m : ℚ) * 2 ^ (e - f.unitExp m e) < 2 ^ (f.mb + 1)
      ∧ (f.minExp < f.unitExp m e → (2 : ℚ) ^ f.mb ≤ m * 2 ^ (e - f.unitExp m e)) := by
  have hlo : (2 : ℚ) ^ (bitLen m : Int) ≤ 2 * m := by rw [zpow_natCast]; exact_mod_cast two_pow_bitLen_le h
  have hhi : (m : ℚ) < (2 : ℚ) ^ (bitLen m : Int) := by rw [zpow_natCast]; exact_mod_cast lt_two_pow_bitLen m
  constructor
  · calc (m : ℚ) * 2 ^ (e - f.unitExp m e) < 2 ^ (bitLen m : Int) * 2 ^ (e - f.unitExp m e) :=
          mul_lt_mul_of_pos_right hhi (by positivity)
      _ = 2 ^ (bitLen m + (e - f.unitExp m e)) := (zpow_add₀ (by norm_num) _ _).symm
      _ ≤ 2 ^ ((f.mb + 1 : Nat) : Int) := zpow_le_zpow_right₀ (by norm_num) (by unfold Fmt.unitExp topExp; omega)
      _ = 2 ^ (f.mb + 1) := zpow_natCast _ _
  · intro hq
    have he : e - f.unitExp m e = f.mb + 1 - bitLen m := by unfold Fmt.unitExp topExp at *; omega
    rw [he]
    calc (2 : ℚ) ^ f.mb = 2 ^ (bitLen m : Int) * 2 ^ ((f.mb : Int) - bitLen m) := by
          rw [← zpow_add₀ (by norm_num), ← zpow_natCast]; congr 1; ring
      _ ≤ 2 * m * 2 ^ ((f.mb : Int) - bitLen m) := mul_le_mul_of_nonneg_right hlo (by positivity)
      _ = m * 2 ^ ((f.mb : Int) + 1 - bitLen m) := by
          rw [show (f.mb : Int) + 1 - bitLen m = 1 + (f.mb - bitLen m) by ring, zpow_add₀ (by norm_num)]; ring

/-- Where no finer unit is left out below `x`, every number of the format is a whole number of units or lies below all of them
that have the mantissa's bits. -/
def OnGrid (f : Fmt) (x w : ℚ) : Prop := (∃ j : Int, w = j) ∨ (|w| < 2 ^ f.mb ∧ 2 ^ f.mb ≤ x)

theorem onGrid_of_decodeF {f : Fmt} {b k : Nat} {s : Bool} {y q : Int} {x : ℚ} (h : decodeF f false b = .fin s k y)
    (hq : f.minExp ≤ q) (hx : f.minExp < q → 2 ^ f.mb ≤ x) (neg : Bool) :
    OnGrid f x ((if neg then -1 else 1) * ((if s then -1 else 1) * k * (2 : ℚ) ^ y) / 2 ^ q) := by
  obtain ⟨hk, hy⟩ := fin_of_decodeF h
  obtain ⟨u, hu, hv⟩ : ∃ u : Int, |u| = 1 ∧ (if neg then -1 else 1) * ((if s then -1 else 1) * k * (2 : ℚ) ^ y) / 2 ^ q
      = u * (k * 2 ^ (y - q)) := by
    refine ⟨(if neg then -1 else 1) * (if s then -1 else 1), by cases neg <;> cases s <;> rfl, ?_⟩
    rw [zpow_sub₀ (by norm_num)]
    push_cast
    ring
  rw [hv]
  by_cases hyq : q ≤ y
  · refine .inl ⟨u * (k * 2 ^ (y - q).toNat), ?_⟩
    push_cast
    rw [← zpow_natCast, Int.toNat_of_nonneg (by omega)]
  · refine .inr ⟨?_, hx (by omega)⟩
    have hu' : |(u : ℚ)| = 1 := by exact_mod_cast hu
    rw [abs_mul, hu', one_mul, abs_of_nonneg (by positivity)]
    calc (k : ℚ) * 2 ^ (y - q) < 2 ^ (f.mb + 1) * 2 ^ (y - q) :=
          mul_lt_mul_of_pos_right (by exact_mod_cast hk) (by positivity)
      _ ≤ 2 ^ (f.mb + 1) * 2 ^ (-1 : Int) :=
          mul_le_mul_of_nonneg_left (zpow_le_zpow_right₀ (by norm_num) (by omega)) (by positivity)
      _ = 2 ^ f.mb := by rw [pow_succ, zpow_neg_one]; ring

/-! ## No number of the format lies better -/

/-- No number of the grid is nearer, and where another is as near the even one is taken. -/
theorem OnGrid.nearest {f : Fmt} {x w : ℚ} {r : Nat} (h : OnGrid f x w) (hr : Nearest x r) :
    |r - x| ≤ |w - x| ∧ (|r - x| = |w - x| → w ≠ r → r % 2 = 0) := by
  obtain ⟨hhalf, heven⟩ := hr
  have integer (j : Int) (hj : (j : ℚ) ≠ r) : 1 / 2 ≤ |(j : ℚ) - x| := by
    have h1 : (1 : ℚ) ≤ |(j : ℚ) - r| := by
      have : (1 : Int) ≤ |j - r| := Int.one_le_abs (sub_ne_zero.2 fun h => hj (by rw [h]; simp))
      exact_mod_cast this
    have h2 := abs_sub_le (j : ℚ) x r
    rw [abs_sub_comm x] at h2
    linarith
  have whole (j : Int) : |r - x| ≤ |(j : ℚ) - x| := by
    by_cases hj : (j : ℚ) = r
    · rw [hj]
    · exact hhalf.trans (integer j hj)
  rcases h with ⟨j, rfl⟩ | ⟨hw, hx⟩
  · exact ⟨whole j, fun he hj => heven (le_antisymm hhalf (he ▸ integer j hj))⟩
  · have h1 := whole (2 ^ f.mb : Nat)
    have h2 : |((2 ^ f.mb : Nat) : Int) - x| < |w - x| := by
      push_cast
      rw [abs_sub_comm, abs_of_nonneg (by linarith), abs_sub_comm w, abs_of_nonneg (by linarith [(abs_lt.1 hw).2])]
      linarith [(abs_lt.1 hw).2]
    exact ⟨(h1.trans_lt h2).le, fun he => absurd he (h1.trans_lt h2).ne⟩

theorem Below.two_pow_le {f : Fmt} {x : ℚ} {r : Nat} (hr : Below x r) (h : (2 : ℚ) ^ f.mb ≤ x) : (2 : ℚ) ^ f.mb ≤ r := by
  have : ((2 ^ f.mb : Nat) : ℚ) < ((r + 1 : Nat) : ℚ) := by push_cast; linarith [hr.2]
  have : 2 ^ f.mb ≤ r := Nat.lt_succ_iff.1 (by exact_mod_cast this)
  exact_mod_cast this

theorem OnGrid.below {f : Fmt} {x w : ℚ} {r : Nat} (h : OnGrid f x w) (hr : Below x r) (hw : w ≤ x) : w ≤ r := by
  rcases h with ⟨j, rfl⟩ | ⟨hlt, hx⟩
  · have : (j : ℚ) < ((r + 1 : Int) : ℚ) := by push_cast; linarith [hr.2]
    have : j ≤ r := Int.lt_add_one_iff.1 (by exact_mod_cast this)
    exact_mod_cast this
  · linarith [hr.two_pow_le hx, (abs_lt.1 hlt).2]

theorem OnGrid.above {f : Fmt} {x w : ℚ} {r : Nat} (h : OnGrid f x w) (hr : Above x r) (hw : x ≤ w) : r ≤ w := by
  rcases h with ⟨j, rfl⟩ | ⟨hlt, hx⟩
  · have : ((r : Int) : ℚ) < ((j + 1 : Int) : ℚ) := by push_cast; linarith [hr.2]
    have : (r : Int) ≤ j := Int.lt_add_one_iff.1 (by exact_mod_cast this)
    exact_mod_cast this
  · linarith [(abs_lt.1 hlt).2]

theorem OnGrid.abs {f : Fmt} {x w : ℚ} (h : OnGrid f x w) : OnGrid f x |w| := by
  rcases h with ⟨j, rfl⟩ | h
  · exact .inl ⟨|j|, by push_cast; rfl⟩
  · exact .inr (by rwa [abs_abs])

/-! ## What `roundF` gives (R57) -/

/-- The rounded magnitude's pattern: `r` units of a unit whose exponent field is `field`. -/
def Fmt.packed (f : Fmt) (field r : Nat) : Nat := field * 2 ^ f.mb + r - 2 ^ f.mb

/-- The exponent field of a number's unit. -/
def Fmt.fieldOf (f : Fmt) (q : Int) : Nat := (q + f.mb + f.bias).toNat

/-- A magnitude in whole units of its exponent field, as `packed` takes it. -/
structure Fits (f : Fmt) (field r : Nat) : Prop where
  pos : 1 ≤ field
  units : r ≤ 2 ^ (f.mb + 1)
  normal : field = 1 ∨ 2 ^ f.mb ≤ r

theorem Fits.decode {f : Fmt} (hf : f.Good) {field r : Nat} (h : Fits f field r) (neg : Bool)
    (hb : f.packed field r < f.infBits) :
    ∃ k y, decodeF f false (f.sign neg + f.packed field r) = .fin neg k y
      ∧ (k : ℚ) * 2 ^ y = r * 2 ^ ((field : Int) - f.bias - f.mb) := by
  obtain ⟨hfield, hunits, hnormal⟩ := h
  rw [Nat.pow_succ] at hunits
  have exp {ex mant : Nat} (h : ex * 2 ^ f.mb + mant < f.infBits) : ex < 2 ^ f.eb - 1 :=
    lt_of_mul_lt_mul_right (by unfold Fmt.infBits at h; omega) (Nat.zero_le (2 ^ f.mb))
  obtain ⟨n, rfl⟩ : ∃ n, field = n + 1 := ⟨field - 1, by omega⟩
  have hpack : f.packed (n + 1) r = n * 2 ^ f.mb + r := by
    rw [Fmt.packed, Nat.add_mul, one_mul, Nat.add_right_comm, Nat.add_sub_cancel]
  rw [hpack] at hb ⊢
  by_cases hsub : r < 2 ^ f.mb
  · obtain rfl : n = 0 := by omega
    refine ⟨_, _, decodeF_fields hf neg (exp hb) hsub, ?_⟩
    simp
  · by_cases htop : r < 2 * 2 ^ f.mb
    · have hsplit : n * 2 ^ f.mb + r = (n + 1) * 2 ^ f.mb + (r - 2 ^ f.mb) := by rw [Nat.add_mul]; omega
      rw [hsplit] at hb ⊢
      refine ⟨_, _, decodeF_fields hf neg (exp hb) (by omega), ?_⟩
      rw [if_neg (Nat.succ_ne_zero n), Nat.add_sub_cancel' (by omega), max_eq_left (by omega)]
    · obtain rfl : r = 2 * 2 ^ f.mb := by omega
      have hsplit : n * 2 ^ f.mb + 2 * 2 ^ f.mb = (n + 2) * 2 ^ f.mb + 0 := by ring
      rw [hsplit] at hb ⊢
      refine ⟨_, _, decodeF_fields hf neg (exp hb) (by positivity), ?_⟩
      rw [if_neg (by omega), max_eq_left (by omega)]
      push_cast
      rw [show (n : Int) + 2 - f.bias - f.mb = 1 + (n + 1 - f.bias - f.mb) by ring, zpow_add₀ (by norm_num)]
      ring

/-- What rounding a number to its unit leaves. -/
theorem roundAt_fits (f : Fmt) (rm : Nat) (neg : Bool) {m : Nat} (e : Int) (h : m ≠ 0) :
    Fits f (f.fieldOf (f.unitExp m e)) (roundAt rm neg m e (f.unitExp m e) false).1
      ∧ ((f.fieldOf (f.unitExp m e) : Nat) : Int) - f.bias - f.mb = f.unitExp m e := by
  have hmin : f.minExp ≤ f.unitExp m e := le_max_right _ _
  obtain ⟨hlt, hge⟩ := scaled_bounds f (e := e) h
  obtain ⟨hup, hdown⟩ := (roundAt_roundsTo rm neg m e (f.unitExp m e)).1.close
  generalize (roundAt rm neg m e (f.unitExp m e) false).1 = r at *
  have hfield : ((f.fieldOf (f.unitExp m e) : Nat) : Int) = f.unitExp m e + f.mb + f.bias := by
    unfold Fmt.fieldOf
    rw [Int.toNat_of_nonneg (by unfold Fmt.minExp at hmin; omega)]
  refine ⟨⟨by unfold Fmt.minExp at hmin; omega, ?_, ?_⟩, by rw [hfield]; ring⟩
  · have : (r : ℚ) < ((2 ^ (f.mb + 1) + 1 : Nat) : ℚ) := by push_cast; linarith
    exact Nat.lt_succ_iff.1 (by exact_mod_cast this)
  · by_cases hq : f.minExp < f.unitExp m e
    · have : ((2 ^ f.mb : Nat) : ℚ) < ((r + 1 : Nat) : ℚ) := by push_cast; linarith [hge hq]
      exact .inr (Nat.lt_succ_iff.1 (by exact_mod_cast this))
    · have heq : f.unitExp m e = f.minExp := le_antisymm (not_lt.1 hq) hmin
      unfold Fmt.minExp at heq
      exact .inl (by omega)

/-- The pattern of the magnitude of m · 2^e, rounded. -/
def Fmt.magnitude (f : Fmt) (rm : Nat) (neg : Bool) (m : Nat) (e : Int) : Nat :=
  f.packed (f.fieldOf (f.unitExp m e)) (roundAt rm neg m e (f.unitExp m e) false).1

/-- Whether an overflow goes to infinity (R57). -/
def toInfinity (rm : Nat) (neg : Bool) : Bool := rm == 0 || (rm == 2 && !neg) || (rm == 3 && neg)

theorem roundF_zero (f : Fmt) (rm : Nat) (neg : Bool) (e : Int) :
    roundF f rm neg 0 e false = { bits := f.sign neg } := by
  simp [roundF, Fmt.sign]

theorem roundF_overflow {f : Fmt} {rm : Nat} {neg : Bool} {m : Nat} {e : Int} (h : m ≠ 0)
    (ho : f.infBits ≤ f.magnitude rm neg m e) :
    roundF f rm neg m e false = { bits := f.sign neg + (if toInfinity rm neg then f.infBits else f.maxFinite), ovf := true, inexact := true } := by
  unfold roundF
  rw [if_neg (by simp [h])]
  exact if_pos ho

theorem roundF_finite {f : Fmt} {rm : Nat} {neg : Bool} {m : Nat} {e : Int} (h : m ≠ 0)
    (ho : f.magnitude rm neg m e < f.infBits) :
    ∃ tiny, roundF f rm neg m e false =
      { bits := f.sign neg + f.magnitude rm neg m e
        sub := decide ((roundAt rm neg m e (f.unitExp m e) false).1 < 2 ^ f.mb) && (roundAt rm neg m e (f.unitExp m e) false).1 != 0
        tiny := tiny, inexact := !(roundAt rm neg m e (f.unitExp m e) false).2 } := by
  unfold roundF
  rw [if_neg (by simp [h])]
  exact ⟨_, if_neg (not_le.2 ho)⟩

/-- Rounding overflows where the rounded magnitude's pattern is beyond every finite one. -/
theorem roundF_ovf {f : Fmt} {rm : Nat} {neg : Bool} {m : Nat} {e : Int} (h : m ≠ 0) :
    (roundF f rm neg m e false).ovf = true ↔ f.infBits ≤ f.magnitude rm neg m e := by
  by_cases ho : f.infBits ≤ f.magnitude rm neg m e
  · exact iff_of_true (by rw [roundF_overflow h ho]) ho
  · obtain ⟨tiny, hr⟩ := roundF_finite h (not_le.1 ho)
    exact iff_of_false (by rw [hr]; exact Bool.false_ne_true) ho

/-- A rounded pattern is the sign over a magnitude. -/
theorem roundF_bits (f : Fmt) (rm : Nat) (neg : Bool) (m : Nat) (e : Int) :
    ∃ b, b ≤ f.infBits ∧ (roundF f rm neg m e false).bits = f.sign neg + b := by
  by_cases h : m = 0
  · subst h
    exact ⟨0, Nat.zero_le _, by rw [roundF_zero]; rfl⟩
  · by_cases ho : f.infBits ≤ f.magnitude rm neg m e
    · rw [roundF_overflow h ho]
      refine ⟨_, ?_, rfl⟩
      split
      · exact le_rfl
      · exact Nat.sub_le _ _
    · obtain ⟨tiny, hr⟩ := roundF_finite h (not_le.1 ho)
      exact ⟨_, (not_le.1 ho).le, by rw [hr]⟩

/-! ## The five modes -/

/-- The sign as a factor. -/
def signOf (neg : Bool) : ℚ := if neg then -1 else 1

theorem signOf_mul_self (neg : Bool) : signOf neg * signOf neg = 1 := by cases neg <;> norm_num [signOf]
theorem abs_signOf (neg : Bool) : |signOf neg| = 1 := by cases neg <;> norm_num [signOf]

/-- A magnitude rounded to whole units of `u`, beside any other number of the grid, in the terms of R57. -/
theorem roundsTo_best {f : Fmt} {rm r : Nat} {neg : Bool} {x w u : ℚ} (hu : 0 < u) (h : RoundsTo rm neg x r) (hx : 0 ≤ x)
    (hw : OnGrid f x (signOf neg * w / u)) (hrm : rm < 4) :
    let v := signOf neg * (r * u)
    let y := signOf neg * (x * u)
    (rm = 0 → |v - y| ≤ |w - y| ∧ (|v - y| = |w - y| → w ≠ v → r % 2 = 0))
      ∧ (rm = 1 → |v| ≤ |y| ∧ (|w| ≤ |y| → |w| ≤ |v|))
      ∧ (rm = 2 → y ≤ v ∧ (y ≤ w → v ≤ w))
      ∧ (rm = 3 → v ≤ y ∧ (w ≤ y → w ≤ v)) := by
  intro v y
  obtain ⟨z, hz⟩ : ∃ z, z = signOf neg * w / u := ⟨_, rfl⟩
  have hwz : w = signOf neg * (z * u) := by
    rw [hz, div_mul_cancel₀ _ hu.ne', ← mul_assoc, signOf_mul_self, one_mul]
  rw [← hz] at hw
  have dist (a b : ℚ) : |signOf neg * (a * u) - signOf neg * (b * u)| = |a - b| * u := by
    rw [← mul_sub, ← sub_mul, abs_mul, abs_signOf, one_mul, abs_mul, abs_of_pos hu]
  have size (a : ℚ) : |signOf neg * (a * u)| = |a| * u := by
    rw [abs_mul, abs_signOf, one_mul, abs_mul, abs_of_pos hu]
  rw [hwz]
  have hr0 : (0 : ℚ) ≤ r := Nat.cast_nonneg r
  refine ⟨fun h0 => ?_, fun h1 => ?_, fun h2 => ?_, fun h3 => ?_⟩
  · subst h0
    obtain ⟨hbest, htie⟩ := hw.nearest h
    rw [dist, dist]
    refine ⟨mul_le_mul_of_nonneg_right hbest hu.le, fun he hne => htie (mul_right_cancel₀ hu.ne' he) ?_⟩
    exact fun hzr => hne (by rw [hzr])
  · subst h1
    rw [size, size, size, abs_of_nonneg hr0, abs_of_nonneg hx, mul_le_mul_iff_left₀ hu, mul_le_mul_iff_left₀ hu, mul_le_mul_iff_left₀ hu]
    exact ⟨h.1, hw.abs.below h⟩
  · subst h2
    cases neg
    · simp only [v, y, signOf, Bool.false_eq_true, if_false, one_mul, mul_le_mul_iff_left₀ hu]
      exact ⟨h.1, hw.above h⟩
    · simp only [v, y, signOf, if_true, neg_mul, one_mul, neg_le_neg_iff, mul_le_mul_iff_left₀ hu]
      exact ⟨h.1, hw.below h⟩
  · subst h3
    cases neg
    · simp only [v, y, signOf, Bool.false_eq_true, if_false, one_mul, mul_le_mul_iff_left₀ hu]
      exact ⟨h.1, hw.below h⟩
    · simp only [v, y, signOf, if_true, neg_mul, one_mul, neg_le_neg_iff, mul_le_mul_iff_left₀ hu]
      exact ⟨h.1, hw.above h⟩

theorem packed_even {f : Fmt} (hf : f.Good) {field r : Nat} (h : 1 ≤ field) (hr : r % 2 = 0) (neg : Bool) :
    (f.sign neg + f.packed field r) % 2 = 0 := by
  obtain ⟨n, rfl⟩ : ∃ n, field = n + 1 := ⟨field - 1, by omega⟩
  obtain ⟨k, hk⟩ : ∃ k, f.mb = k + 1 := ⟨f.mb - 1, by have := hf.mant; omega⟩
  have hs : f.sign neg = 2 * ((if neg then 2 ^ f.eb else 0) * 2 ^ k) := by
    cases neg
    · simp [Fmt.sign]
    · simp only [Fmt.sign, if_true, signBit_eq, hk, Nat.pow_succ]; ring
  have hp : f.packed (n + 1) r = 2 * (n * 2 ^ k) + r := by
    rw [Fmt.packed, Nat.add_mul, one_mul, Nat.add_right_comm, Nat.add_sub_cancel, hk, Nat.pow_succ]; ring
  rw [hs, hp]
  omega

/-- R57. -/
theorem roundingModes : roundingModesRule := by
  intro f hmem rm neg m e hrm hm r val x hovf
  have hf := good_of_mem hmem
  have hlt : f.magnitude rm neg m e < f.infBits := by
    rw [← not_le, ← roundF_ovf hm]
    exact Bool.eq_false_iff.1 hovf
  obtain ⟨tiny, hr⟩ := roundF_finite hm hlt
  have hbits : r.bits = f.sign neg + f.magnitude rm neg m e := congrArg (·.bits) hr
  have hinexact : r.inexact = !(roundAt rm neg m e (f.unitExp m e) false).2 := congrArg (·.inexact) hr
  obtain ⟨hround, hexact⟩ := roundAt_roundsTo rm neg m e (f.unitExp m e)
  obtain ⟨hfits, hunit⟩ := roundAt_fits f rm neg e hm
  obtain ⟨k, y, hdec, hval⟩ := hfits.decode hf neg hlt
  rw [hunit] at hval
  have hsign : f.magnitude rm neg m e < f.signBit := hlt.trans (infBits_lt_signBit f)
  have hu : (0 : ℚ) < 2 ^ f.unitExp m e := by positivity
  obtain ⟨n, hn⟩ : ∃ n, n = (roundAt rm neg m e (f.unitExp m e) false).1 := ⟨_, rfl⟩
  rw [← hn] at hround hexact hval hfits
  have hx : x = signOf neg * ((m * (2 : ℚ) ^ (e - f.unitExp m e)) * 2 ^ f.unitExp m e) := by
    rw [mul_assoc (m : ℚ), ← zpow_add₀ (by norm_num), sub_add_cancel, ← mul_assoc]
    rfl
  refine ⟨hbits ▸ sign_add_lt neg hsign, signOf neg * (n * 2 ^ f.unitExp m e), ?_, hbits ▸ sign_add_div neg hsign, ?_, ?_⟩
  · simp only [val, hbits, Fmt.magnitude, hdec, ← hval, mul_assoc, signOf]
  · rw [hinexact, hx, Bool.not_eq_false', hexact, mul_right_inj' (by cases neg <;> norm_num [signOf]), mul_left_inj' hu.ne']
  · intro b w _ hw
    obtain ⟨s, j, z, hb, rfl⟩ : ∃ s j z, decodeF f false b = .fin s j z ∧ w = (if s then -1 else 1) * j * (2 : ℚ) ^ z := by
      simp only [val] at hw
      split at hw
      · exact ⟨_, _, _, by assumption, (Option.some.inj hw).symm⟩
      · cases hw
    have hgrid := onGrid_of_decodeF hb (le_max_right _ _) (scaled_bounds f (e := e) hm).2 neg
    rw [hx]
    obtain ⟨h0, h1, h2, h3⟩ := roundsTo_best hu hround (by positivity) hgrid hrm
    refine ⟨fun hz => ⟨(h0 hz).1, fun he hne => ?_⟩, h1, h2, h3⟩
    rw [hbits]
    exact packed_even hf hfits.pos (hn ▸ (h0 hz).2 he hne) neg

/-! ## Overflow, SAT and FTZ (R56, R57, R151) -/

theorem finish_overflow {f : Fmt} {md : FpMode} {neg : Bool} {m : Nat} {e : Int} (hm : m ≠ 0)
    (ho : f.infBits ≤ f.magnitude md.rm neg m e) :
    finish f md (roundF f md.rm neg m e false) =
      (f.sign neg + (if md.sat = false ∧ toInfinity md.rm neg = true then f.infBits else f.maxFinite), { ovf := true }) := by
  have hlt : (if toInfinity md.rm neg then f.infBits else f.maxFinite) < f.signBit := by
    refine lt_of_le_of_lt ?_ (infBits_lt_signBit f)
    split
    · exact le_rfl
    · exact Nat.sub_le _ _
  rw [roundF_overflow hm ho]
  unfold finish
  simp only [if_true, signBit_le_iff neg hlt]
  cases md.sat <;> simp [Fmt.sign]

/-- A subnormal result under FTZ. -/
theorem finish_flushes {f : Fmt} {md : FpMode} {neg : Bool} {m : Nat} {e : Int} (hm : m ≠ 0)
    (ho : f.magnitude md.rm neg m e < f.infBits) (hftz : md.ftz = true)
    (hsub : f.magnitude md.rm neg m e < 2 ^ f.mb) (h0 : f.magnitude md.rm neg m e ≠ 0) :
    finish f md (roundF f md.rm neg m e false) = (f.sign neg, { unf := true }) := by
  obtain ⟨tiny, hr⟩ := roundF_finite hm ho
  obtain ⟨hfits, -⟩ := roundAt_fits f md.rm neg e hm
  rw [hr]
  unfold Fmt.magnitude Fmt.packed at hsub h0
  obtain ⟨n, hn⟩ : ∃ n, f.fieldOf (f.unitExp m e) = n + 1 := ⟨_, (Nat.sub_add_cancel hfits.pos).symm⟩
  have hp : f.fieldOf (f.unitExp m e) * 2 ^ f.mb = n * 2 ^ f.mb + 2 ^ f.mb := by rw [hn]; ring
  have hone : n = 0 := by
    by_contra hne
    have := Nat.le_mul_of_pos_left (2 ^ f.mb) (Nat.pos_of_ne_zero hne)
    omega
  subst hone
  have hmark : (decide ((roundAt md.rm neg m e (f.unitExp m e) false).1 < 2 ^ f.mb)
      && (roundAt md.rm neg m e (f.unitExp m e) false).1 != 0) = true := by
    simp only [Bool.and_eq_true, decide_eq_true_eq, bne_iff_ne]
    omega
  unfold finish
  simp only [hmark, hftz, signBit_le_iff neg (ho.trans (infBits_lt_signBit f)), Bool.false_eq_true, if_false, Bool.and_self, if_true]
  rfl

/-- A number of 2^(bias + 1) or more overflows. -/
theorem infBits_le_magnitude {f : Fmt} (hf : f.Good) {rm : Nat} {neg : Bool} {m : Nat} {e : Int} (hm : m ≠ 0)
    (h : (2 ^ (f.eb - 1) : Nat) < bitLen m + e) : f.infBits ≤ f.magnitude rm neg m e := by
  obtain ⟨hfits, hunit⟩ := roundAt_fits f rm neg e hm
  have hbias : f.bias + 1 = (2 ^ (f.eb - 1) : Nat) := by simp [Fmt.bias]
  have hpow : 2 ^ f.eb = 2 * 2 ^ (f.eb - 1) := by
    rw [← Nat.pow_succ', Nat.succ_eq_add_one, Nat.sub_add_cancel (by have := hf.exp; omega)]
  have hpos : 2 ≤ 2 ^ (f.eb - 1) := by
    calc 2 = 2 ^ 1 := rfl
      _ ≤ 2 ^ (f.eb - 1) := Nat.pow_le_pow_right (by decide) (by have := hf.exp; omega)
  have hq : topExp m e - f.mb ≤ f.unitExp m e := le_max_left _ _
  unfold topExp at hq
  have hfield : 2 ^ f.eb - 1 ≤ f.fieldOf (f.unitExp m e) := by omega
  have hnormal : 2 ^ f.mb ≤ (roundAt rm neg m e (f.unitExp m e) false).1 := hfits.normal.resolve_left (by omega)
  calc f.infBits ≤ f.fieldOf (f.unitExp m e) * 2 ^ f.mb := Nat.mul_le_mul_right _ hfield
    _ ≤ f.magnitude rm neg m e := by unfold Fmt.magnitude Fmt.packed; omega

/-- R56, R57 and R151. -/
theorem roundingOverflow : roundingOverflowRule := by
  intro f hmem md neg m e hrm sign r
  have hf := good_of_mem hmem
  have hround : roundNum f md false (.fin neg m e) = ((finish f md r).1, { (finish f md r).2 with inv := false }) := rfl
  by_cases hm : m = 0
  · have hr : r = { bits := f.sign neg } := by
      simp only [r, hm]
      exact roundF_zero f md.rm neg e
    have hmod : f.sign neg % f.signBit = 0 := sign_add_mod neg (Nat.zero_lt_of_lt (infBits_lt_signBit f))
    rw [hr]
    exact ⟨nofun, fun _ _ _ h => absurd hmod h, fun h => absurd hm h⟩
  · refine ⟨fun ho => ?_, fun ho hftz hsub h0 => ?_, fun _ h => (roundF_ovf hm).2 (infBits_le_magnitude hf hm h)⟩
    · have hinf : toInfinity md.rm neg = true ↔ md.rm = 0 ∨ (md.rm = 2 ∧ neg = false) ∨ (md.rm = 3 ∧ neg = true) := by
        simp [toInfinity, or_assoc]
      rw [hround, finish_overflow hm ((roundF_ovf hm).1 ho)]
      simp only [hinf]
      rfl
    · have hlt : f.magnitude md.rm neg m e < f.infBits := by
        rw [← not_le, ← roundF_ovf hm]
        exact Bool.eq_false_iff.1 ho
      obtain ⟨tiny, hr⟩ := roundF_finite hm hlt
      have hbits : r.bits % f.signBit = f.magnitude md.rm neg m e := by
        rw [show r.bits = f.sign neg + f.magnitude md.rm neg m e from congrArg (·.bits) hr]
        exact sign_add_mod neg (hlt.trans (infBits_lt_signBit f))
      rw [hbits] at hsub h0
      rw [hround, finish_flushes hm hlt hftz hsub h0]
      rfl

/-- Settles O8: a rounded magnitude is a whole number of its unit, and no number of the format lies better. -/
theorem rounding : Obligations.Rounding := by
  unfold Obligations.Rounding
  exact ⟨roundingModes, roundingOverflow⟩

end Sys2Proof.Machine
end

section
/-! PROOF. The sums of the matrix engine's integer operations: slab after slab, and one slab as a sum over its elements
(R53, R58, R64, R66, R251 to R254). -/

namespace Sys2Proof.Machine

/-! ## Words as bytes -/

theorem le32_bytes4 (x : W32) : le32 (bytes4 x) = x := by
  rw [le32, bytes4, leNat_toLe, show 256 ^ 4 = 2 ^ 32 from rfl, Nat.mod_eq_of_lt x.isLt, BitVec.ofNat_toNat, BitVec.setWidth_eq]

theorem length_bytes4 (x : W32) : (bytes4 x).length = 4 := length_toLe 4 _

theorem take_bytes4 (x y : W32) : (bytes4 x ++ bytes4 y).take 4 = bytes4 x := List.take_left' (length_bytes4 x)
theorem drop_bytes4 (x y : W32) : (bytes4 x ++ bytes4 y).drop 4 = bytes4 y := List.drop_left' (length_bytes4 x)

theorem leNat_lt (bs : List W8) : leNat bs < 256 ^ bs.length := by
  induction bs with
  | nil => decide
  | cons b t ih =>
    have := b.isLt
    rw [leNat, List.length_cons, Nat.pow_succ]
    omega

/-! ## Slab after slab -/

theorem floatSlabs_snoc (ftz : Bool) {as bs : List (List Num)} (a b : List Num) (h : as.length = bs.length)
    (x : Nat × Bool × Bool) : floatSlabs ftz (as ++ [a]) (bs ++ [b]) x = floatSlabs ftz [a] [b] (floatSlabs ftz as bs x) := by
  induction as generalizing bs x with
  | nil => rw [List.eq_nil_of_length_eq_zero h.symm]; rfl
  | cons a' as ih =>
    cases bs with
    | nil => cases h
    | cons b' bs => exact ih (Nat.succ.inj h) _

theorem intSlabs_snoc {as bs : List (List Int)} (a b : List Int) (h : as.length = bs.length) (x : Int × Bool) :
    intSlabs (as ++ [a]) (bs ++ [b]) x = intSlabs [a] [b] (intSlabs as bs x) := by
  induction as generalizing bs x with
  | nil => rw [List.eq_nil_of_length_eq_zero h.symm]; rfl
  | cons a' as ih =>
    cases bs with
    | nil => cases h
    | cons b' bs => exact ih (Nat.succ.inj h) _

theorem complexSlabs_snoc (conj : Bool) {as bs : List (List Int)} (a b : List Int) (h : as.length = bs.length)
    (x : Int × Int × Bool) :
    complexSlabs conj (as ++ [a]) (bs ++ [b]) x = complexSlabs conj [a] [b] (complexSlabs conj as bs x) := by
  induction as generalizing bs x with
  | nil => rw [List.eq_nil_of_length_eq_zero h.symm]; rfl
  | cons a' as ih =>
    cases bs with
    | nil => cases h
    | cons b' bs => exact ih (Nat.succ.inj h) _

/-! ## Results fit their word -/

theorem encodeF_f32_lt (rm : Nat) (x : Num) : (encodeF f32 rm x).bits < 2 ^ 32 := by
  cases x with
  | nan => exact show f32.nanBits < 2 ^ 32 by decide
  | inf s => cases s <;> exact of_decide_eq_true rfl
  | fin s m e =>
    obtain ⟨b, hb, hr⟩ := roundF_bits f32 rm s m e
    rw [encodeF, hr]
    exact sign_add_lt s (hb.trans_lt (infBits_lt_signBit f32))

theorem floatSlab_lt (ftz : Bool) (a b : List Num) (acc : Nat) : (floatSlab ftz a b acc).1 < 2 ^ 32 := by
  unfold floatSlab
  simp only []
  split
  · split <;> decide
  · exact encodeF_f32_lt 0 _

theorem floatSlabs_lt (ftz : Bool) (as bs : List (List Num)) {x : Nat × Bool × Bool} (h : x.1 < 2 ^ 32) :
    (floatSlabs ftz as bs x).1 < 2 ^ 32 := by
  induction as generalizing bs x with
  | nil => exact h
  | cons a as ih =>
    cases bs with
    | nil => exact h
    | cons b bs => exact ih bs (floatSlab_lt ftz a b x.1)

/-- A number that INT32 holds. -/
def IsInt32 (i : Int) : Prop := -2 ^ 31 ≤ i ∧ i < 2 ^ 31

theorem isInt32_toInt (x : W32) : IsInt32 x.toInt := ⟨BitVec.le_toInt x, BitVec.toInt_lt⟩

theorem clamp32_eq (i : Int) : clamp32 i = max (-(2 ^ 31)) (min (2 ^ 31 - 1) i) := by
  unfold clamp32 clampI
  split_ifs <;> omega

theorem isInt32_clamp32 (i : Int) : IsInt32 (clamp32 i) := by
  unfold IsInt32
  rw [clamp32_eq]
  omega

theorem toInt_le32_bytes4 {i : Int} (h : IsInt32 i) : (le32 (bytes4 (BitVec.ofInt 32 i))).toInt = i := by
  rw [le32_bytes4, BitVec.toInt_ofInt]
  exact Int.bmod_eq_of_le (by unfold IsInt32 at h; omega) (by unfold IsInt32 at h; omega)

theorem isInt32_intSlabs (as bs : List (List Int)) {x : Int × Bool} (h : IsInt32 x.1) : IsInt32 (intSlabs as bs x).1 := by
  induction as generalizing bs x with
  | nil => exact h
  | cons a as ih =>
    cases bs with
    | nil => exact h
    | cons b bs => exact ih bs (isInt32_clamp32 _)

theorem isInt32_complexSlabs (conj : Bool) (as bs : List (List Int)) {x : Int × Int × Bool} (hr : IsInt32 x.1)
    (hi : IsInt32 x.2.1) : IsInt32 (complexSlabs conj as bs x).1 ∧ IsInt32 (complexSlabs conj as bs x).2.1 := by
  induction as generalizing bs x with
  | nil => exact ⟨hr, hi⟩
  | cons a as ih =>
    cases bs with
    | nil => exact ⟨hr, hi⟩
    | cons b bs => exact ih bs (isInt32_clamp32 _) (isInt32_clamp32 _)

/-! ## One element -/

theorem element_float {pb : List W8} (h : pbFmt pb < 4) (a b : List (List W8)) (c : List W8) :
    element pb a b c =
      let r := floatSlabs (pbFlag pb 5) (a.map (slabFloats (pbFmt pb) (pbFlag pb 5))) (b.map (slabFloats (pbFmt pb) (pbFlag pb 5)))
        (leNat c, false, false)
      (toLe 4 r.1, false, r.2.1, r.2.2) := by
  unfold element
  exact if_pos h

theorem element_int {pb : List W8} (h : pbFmt pb = 4 ∨ pbFmt pb = 5) (a b : List (List W8)) (c : List W8) :
    element pb a b c =
      let r := intSlabs (a.map (slabInts (pbFmt pb))) (b.map (slabInts (pbFmt pb))) ((le32 c).toInt, false)
      (bytes4 (BitVec.ofInt 32 r.1), r.2, false, false) := by
  unfold element
  exact (if_neg (by omega)).trans (if_pos (by omega))

theorem element_complex {pb : List W8} (h : pbFmt pb = 6 ∨ pbFmt pb = 7) (a b : List (List W8)) (c : List W8) :
    element pb a b c =
      let r := complexSlabs (pbFlag pb 1) (a.map (slabInts (pbFmt pb))) (b.map (slabInts (pbFmt pb)))
        ((le32 (c.take 4)).toInt, (le32 (c.drop 4)).toInt, false)
      (bytes4 (BitVec.ofInt 32 r.1) ++ bytes4 (BitVec.ofInt 32 r.2.1), r.2.2, false, false) := by
  unfold element
  exact (if_neg (by omega)).trans ((if_neg (by omega)).trans (if_pos (by omega)))

/-- One more slab: an operation of it on what the slabs before it gave. -/
theorem element_snoc {pb : List W8} (h : pbFmt pb < 8) {as bs : List (List W8)} (a b : List W8) {c : List W8}
    (hl : as.length = bs.length) (hc : c.length = if pbFmt pb = 6 ∨ pbFmt pb = 7 then 8 else 4) :
    let r1 := element pb as bs c
    let r2 := element pb [a] [b] r1.1
    element pb (as ++ [a]) (bs ++ [b]) c = (r2.1, r1.2.1 || r2.2.1, r1.2.2.1 || r2.2.2.1, r1.2.2.2 || r2.2.2.2) := by
  have hmap {α : Type} (g : List W8 → α) : (as.map g).length = (bs.map g).length := by simp [hl]
  intro r1 r2
  rcases (by omega : pbFmt pb < 4 ∨ (pbFmt pb = 4 ∨ pbFmt pb = 5) ∨ (pbFmt pb = 6 ∨ pbFmt pb = 7)) with h4 | h6 | h8
  · have hlt : leNat c < 2 ^ 32 := by
      rw [if_neg (by omega)] at hc
      have := leNat_lt c
      rwa [hc] at this
    have hr := floatSlabs_lt (pbFlag pb 5) (as.map (slabFloats (pbFmt pb) (pbFlag pb 5)))
      (bs.map (slabFloats (pbFmt pb) (pbFlag pb 5))) (x := (leNat c, false, false)) hlt
    simp only [r2, r1, element_float h4, List.map_append, List.map_singleton, floatSlabs_snoc _ _ _ (hmap _), leNat_toLe,
      show (256 : Nat) ^ 4 = 2 ^ 32 from rfl, Nat.mod_eq_of_lt hr]
    rfl
  · have hr := isInt32_intSlabs (as.map (slabInts (pbFmt pb))) (bs.map (slabInts (pbFmt pb)))
      (x := ((le32 c).toInt, false)) (isInt32_toInt _)
    simp only [r2, r1, element_int h6, List.map_append, List.map_singleton, intSlabs_snoc _ _ (hmap _), toInt_le32_bytes4 hr]
    rfl
  · obtain ⟨hr, hi⟩ := isInt32_complexSlabs (pbFlag pb 1) (as.map (slabInts (pbFmt pb))) (bs.map (slabInts (pbFmt pb)))
      (x := ((le32 (c.take 4)).toInt, (le32 (c.drop 4)).toInt, false)) (isInt32_toInt _) (isInt32_toInt _)
    simp only [r2, r1, element_complex h8, List.map_append, List.map_singleton, complexSlabs_snoc _ _ _ (hmap _), take_bytes4,
      drop_bytes4, toInt_le32_bytes4 hr, toInt_le32_bytes4 hi]
    simp [complexSlabs, Bool.or_assoc]

/-! ## The integers of a slab (R53) -/

theorem sext4_eq {n : Nat} (h : n < 16) : sext4 n = (BitVec.ofNat 4 n).toInt := by
  interval_cases n <;> rfl

/-- The `k`-th INT4 of a slab, low nibble first. -/
def nibbleAt (bs : List W8) (k : Nat) : Int := ((bs.getD (k / 2) 0#8).extractLsb' (4 * (k % 2)) 4).toInt

theorem nibbles_getD (bs : List W8) (k : Nat) :
    (bs.flatMap (fun b => [sext4 (b.toNat % 16), sext4 (b.toNat / 16)])).getD k 0 = nibbleAt bs k := by
  induction bs generalizing k with
  | nil => simp [nibbleAt]
  | cons b bs ih =>
    have hb := b.isLt
    match k with
    | 0 =>
      change sext4 (b.toNat % 16) = (b.extractLsb' 0 4).toInt
      rw [sext4_eq (by omega)]
      congr 1
      exact BitVec.eq_of_toNat_eq (by simp)
    | 1 =>
      change sext4 (b.toNat / 16) = (b.extractLsb' 4 4).toInt
      rw [sext4_eq (by omega)]
      congr 1
      exact BitVec.eq_of_toNat_eq (by simp [Nat.shiftRight_eq_div_pow])
    | k + 2 =>
      have hn : nibbleAt (b :: bs) (k + 2) = nibbleAt bs k := by
        rw [nibbleAt, nibbleAt, Nat.add_div_right k (by decide), Nat.add_mod_right]
        rfl
      rw [hn, ← ih k]
      rfl

theorem slabInts_nibbles {fmt : Nat} (h : fmt = 5 ∨ fmt = 7) {bs : List W8} (hl : bs.length = 64) :
    (slabInts fmt bs).length = 128 ∧ ∀ k, (slabInts fmt bs).getD k 0 = nibbleAt bs k := by
  have hs : slabInts fmt bs = bs.flatMap (fun b => [sext4 (b.toNat % 16), sext4 (b.toNat / 16)]) := by
    rcases h with rfl | rfl <;> rfl
  rw [hs]
  exact ⟨by simp [List.length_flatMap, hl], nibbles_getD bs⟩

theorem slabInts_bytes {fmt : Nat} (h : fmt = 4 ∨ fmt = 6) {bs : List W8} (hl : bs.length = 64) :
    (slabInts fmt bs).length = 64 ∧ ∀ k, (slabInts fmt bs).getD k 0 = (bs.getD k 0#8).toInt := by
  have hs : slabInts fmt bs = bs.map sext8 := by rcases h with rfl | rfl <;> rfl
  rw [hs]
  exact ⟨by rw [List.length_map, hl], fun _ => List.getD_map bs 0#8 sext8⟩

/-! ## One slab's products (R58, R66) -/

/-- The sum of `f` below `n`. -/
def sumBelow (n : Nat) (f : Nat → Int) : Int := ((List.range n).map f).sum

theorem sumBelow_succ (n : Nat) (f : Nat → Int) : sumBelow (n + 1) f = f 0 + sumBelow n (fun k => f (k + 1)) := by
  rw [sumBelow, List.range_succ_eq_map, List.map_cons, List.sum_cons, List.map_map]
  rfl

theorem dotI_eq {n : Nat} {xs ys : List Int} (hx : xs.length = n) (hy : ys.length = n) :
    dotI xs ys = sumBelow n (fun k => xs.getD k 0 * ys.getD k 0) := by
  induction n generalizing xs ys with
  | zero => rw [List.eq_nil_of_length_eq_zero hx]; rfl
  | succ n ih =>
    obtain ⟨x, xs, rfl⟩ := List.exists_cons_of_length_eq_add_one hx
    obtain ⟨y, ys, rfl⟩ := List.exists_cons_of_length_eq_add_one hy
    rw [sumBelow_succ, dotI, ih (Nat.succ.inj hx) (Nat.succ.inj hy)]
    rfl

/-- The parts of a product of complex numbers, the second one conjugate where `conj`. -/
def realPart (conj : Bool) (ar ai br bi : Int) : Int := if conj then ar * br + ai * bi else ar * br - ai * bi
def imagPart (conj : Bool) (ar ai br bi : Int) : Int := if conj then ai * br - ar * bi else ar * bi + ai * br

theorem dotC_eq (conj : Bool) {n : Nat} {xs ys : List Int} (hx : xs.length = 2 * n) (hy : ys.length = 2 * n) :
    dotC conj xs ys =
      (sumBelow n (fun k => realPart conj (xs.getD (2 * k) 0) (xs.getD (2 * k + 1) 0) (ys.getD (2 * k) 0) (ys.getD (2 * k + 1) 0)),
        sumBelow n (fun k => imagPart conj (xs.getD (2 * k) 0) (xs.getD (2 * k + 1) 0) (ys.getD (2 * k) 0) (ys.getD (2 * k + 1) 0))) := by
  induction n generalizing xs ys with
  | zero => rw [List.eq_nil_of_length_eq_zero hx]; rfl
  | succ n ih =>
    obtain ⟨ar, xs, rfl⟩ := List.exists_cons_of_length_eq_add_one hx
    obtain ⟨ai, xs, rfl⟩ := List.exists_cons_of_length_eq_add_one (Nat.succ.inj hx)
    obtain ⟨br, ys, rfl⟩ := List.exists_cons_of_length_eq_add_one hy
    obtain ⟨bi, ys, rfl⟩ := List.exists_cons_of_length_eq_add_one (Nat.succ.inj hy)
    have := ih (xs := xs) (ys := ys) (by simp at hx; omega) (by simp at hy; omega)
    rw [sumBelow_succ, sumBelow_succ, dotC, this]
    cases conj <;> rfl

/-- R66: one slab of an integer operation. -/
theorem element_intSlab {pb : List W8} (h : pbFmt pb = 4 ∨ pbFmt pb = 5) {n : Nat} {at_ : List W8 → Nat → Int} {a b : List W8}
    (c : W32) (hslab : ∀ l : List W8, l.length = 64 → (slabInts (pbFmt pb) l).length = n ∧ ∀ k, (slabInts (pbFmt pb) l).getD k 0 = at_ l k)
    (ha : a.length = 64) (hb : b.length = 64) :
    let v := c.toInt + sumBelow n (fun k => at_ a k * at_ b k)
    element pb [a] [b] (bytes4 c) = (bytes4 (BitVec.ofInt 32 (clamp32 v)), clamp32 v != v, false, false) := by
  intro v
  have hv : c.toInt + dotI (slabInts (pbFmt pb) a) (slabInts (pbFmt pb) b) = v := by
    rw [dotI_eq (hslab a ha).1 (hslab b hb).1]
    simp only [(hslab a ha).2, (hslab b hb).2]
    rfl
  rw [element_int h, le32_bytes4]
  simp only [List.map_singleton, intSlabs, hv, Bool.false_or]

/-- R58 and R66: one slab of a complex operation, its two parts clamped apart. -/
theorem element_complexSlab {pb : List W8} (h : pbFmt pb = 6 ∨ pbFmt pb = 7) {n : Nat} {at_ : List W8 → Nat → Int} {a b : List W8}
    (c d : W32) (hslab : ∀ l : List W8, l.length = 64 → (slabInts (pbFmt pb) l).length = 2 * n ∧ ∀ k, (slabInts (pbFmt pb) l).getD k 0 = at_ l k)
    (ha : a.length = 64) (hb : b.length = 64) :
    let re := c.toInt + sumBelow n (fun k => realPart (pbFlag pb 1) (at_ a (2 * k)) (at_ a (2 * k + 1)) (at_ b (2 * k)) (at_ b (2 * k + 1)))
    let im := d.toInt + sumBelow n (fun k => imagPart (pbFlag pb 1) (at_ a (2 * k)) (at_ a (2 * k + 1)) (at_ b (2 * k)) (at_ b (2 * k + 1)))
    element pb [a] [b] (bytes4 c ++ bytes4 d) = (bytes4 (BitVec.ofInt 32 (clamp32 re)) ++ bytes4 (BitVec.ofInt 32 (clamp32 im)),
      (clamp32 re != re) || (clamp32 im != im), false, false) := by
  intro re im
  have hdot := dotC_eq (pbFlag pb 1) (hslab a ha).1 (hslab b hb).1
  simp only [(hslab a ha).2, (hslab b hb).2] at hdot
  rw [element_complex h, take_bytes4, drop_bytes4, le32_bytes4, le32_bytes4]
  simp only [List.map_singleton, complexSlabs, hdot, Bool.false_or]
  rfl

/-- Settles O49: by induction over the slabs, and over the elements of one. -/
theorem matrixSums : Obligations.MatrixSums := by
  unfold Obligations.MatrixSums
  intro pb clamp int8 int4 sum
  have hclamp (i : Int) : clamp i = clamp32 i := (clamp32_eq i).symm
  simp only [hclamp]
  refine ⟨fun h as bs a b c hl _ hc => element_snoc h a b hl hc, fun a b c ha hb => ⟨fun h => ?_, fun h => ?_⟩, ?_⟩
  · exact element_intSlab (.inl h) c (fun l hl => by rw [h]; exact slabInts_bytes (.inl rfl) hl) ha hb
  · exact element_intSlab (.inr h) c (fun l hl => by rw [h]; exact slabInts_nibbles (.inl rfl) hl) ha hb
  · intro a b c d ha hb v hv h
    simp only [List.mem_cons, List.not_mem_nil, or_false] at hv
    rcases hv with rfl | rfl
    · exact element_complexSlab (.inl h) c d (fun l hl => by rw [h]; exact slabInts_bytes (.inr rfl) hl) ha hb
    · exact element_complexSlab (.inr h) c d (fun l hl => by rw [h]; exact slabInts_nibbles (.inr rfl) hl) ha hb

end Sys2Proof.Machine
end

section
/-! PROOF. Units that count floating-point events, CVT and CVTN (R67 to R69, R151). -/

namespace Sys2Proof.Machine

/-! ## Events counted (R151) -/

theorem counting_frame (s : State) (cx : Cx) (ty : Nat) (es : List Ev) : ∃ tk, s.counting cx ty es = { s with tasks := tk } :=
  countEvents_rest ..

theorem run_noteEvents (s : State) (cx : Cx) (ty : Nat) (es : List Ev) :
    (noteEvents cx ty es).run s = .ok ((), s.counting cx ty es) := by
  unfold noteEvents State.counting
  simp only [run_bind_ok (run_getG cx.g s), run_modify, Ev.counts, List.countP_eq_length_filter]

/-- A unit whose body changes its own group and counts events issues, and its threads go on at the next word. -/
theorem issue_counts {z : Bool} {op ty : Nat} {acc : Accepts} {mill : Bool} {static : Cx → M Unit} {body : Cx → M Ctl} {s : State}
    {run : Run} {cx : Cx} {y : Group} {es : List Ev} (h : Issuing s run cx acc mill) (hs : (static cx).run s = .ok ((), s))
    (hb : (body cx).run s = .ok ({}, (s.setGrp cx.g y).counting cx ty es)) (p : SamePlace (s.grp cx.g) y) :
    ∃ t, issue z op acc mill static body s = .next t ∧ Leaves ((s.setGrp cx.g y).counting cx ty es) t cx cx.next := by
  obtain ⟨tk, hu⟩ := counting_frame (s.setGrp cx.g y) cx ty es
  rw [hu] at hb ⊢
  have hg : ({ s.setGrp cx.g y with tasks := tk } : State).grp cx.g = y := State.grp_setGrp s cx.g y
  have calm := calm_setGrp h.calm p
  refine issue_comes (c := {}) h.unit ⟨calm.samples, calm.recs, calm.step, calm.claims⟩ ?_ hs hb rfl rfl rfl rfl rfl
  rw [hg]
  unfold atLoopEnd
  rw [p.loops]
  exact h.loop

/-! ## Lanes -/

theorem gen_congr {α : Type} {n : Nat} {f g : Nat → α} (h : ∀ t < n, f t = g t) : gen n f = gen n g :=
  List.map_congr_left fun t ht => h t (List.mem_range.1 ht)

theorem lanes_congr {α : Type} {cx : Cx} {x : Group} {f g : Nat → α} (h : ∀ t < x.w, f t = g t) :
    (cx.lanes x).map f = (cx.lanes x).map g :=
  List.map_congr_left fun t ht => h t (List.mem_range.1 (List.mem_filter.1 ht).1)

theorem map_gen {α β : Type} (g : α → β) (n : Nat) (f : Nat → α) : (gen n f).map g = gen n (fun t => g (f t)) := List.map_map

theorem lanes_of_w {cx : Cx} {x y : Group} (h : y.w = x.w) : cx.lanes y = cx.lanes x := by
  unfold Cx.lanes
  rw [h]

/-- What a vector result with events leaves: the destination and the last results in place, the events counted. -/
theorem afterLanes_counting {s : State} {cx : Cx} {y : Group} {ty fty d : Nat} {v : Nat → W64 × Ev} {outs : Nat → LaneOut}
    (ho : ∀ t < y.w, outs t = { v := (v t).1, ev := (v t).2 }) :
    afterLanes s cx y ty fty d (gen y.w outs) =
      (s.setGrp cx.g (y.result cx.exe d (isWide ty) (gen y.w (fun t => (v t).1)))).counting cx fty
        ((cx.lanes y).map (fun t => (v t).2)) := by
  have hact : (cx.lanes y).map (fun t => lane { v := 0#64 } (gen y.w outs) t)
      = (cx.lanes y).map (fun t => ({ v := (v t).1, ev := (v t).2 } : LaneOut)) :=
    lanes_congr fun t ht => (lane_gen _ _ ht).trans (ho t ht)
  have hvals : (gen y.w outs).map (·.v) = gen y.w (fun t => (v t).1) := by
    rw [map_gen]
    exact gen_congr fun t ht => by rw [ho t ht]
  have hsat : ((cx.lanes y).map (fun t => ({ v := (v t).1, ev := (v t).2 } : LaneOut))).any (·.sat) = false := by
    rw [List.any_map]
    exact List.any_eq_false.2 fun _ _ => Bool.false_ne_true
  unfold afterLanes State.counting
  simp only [hact, hvals, hsat, List.map_map, State.grp_setGrp, result_cmdseq, Ev.counts, List.countP_eq_length_filter]
  rfl

/-- The end of a vector unit whose lanes give values and events. -/
theorem run_finishCounting {s t : State} {cx : Cx} {y : Group} {ty fty d : Nat} {v : Nat → W64 × Ev} {outs : Nat → LaneOut}
    (hg : t.grp cx.g = y) (hset : ∀ z, t.setGrp cx.g z = s.setGrp cx.g z) (hd : DestOk y d (regsOf (isWide ty)))
    (he : isWide ty = true → d < 88 → d % 2 = 0) (ho : ∀ k < y.w, outs k = { v := (v k).1, ev := (v k).2 }) :
    (finishLanes cx ty fty d (gen y.w outs)).run t =
      .ok ({}, (s.setGrp cx.g (y.result cx.exe d (isWide ty) (gen y.w (fun k => (v k).1)))).counting cx fty
        ((cx.lanes y).map (fun k => (v k).2))) := by
  subst hg
  rw [run_finishLanes (s := s) hd (pair_even he) ?_ hset, afterLanes_counting ho]
  intro k hk
  have hk : k < (t.grp cx.g).w := List.mem_range.1 (List.mem_filter.1 hk).1
  rw [lane_gen _ _ hk, ho k hk]

/-! ## The checks of a word -/

theorem run_okDest {d : Nat} (h : d ≤ 88) (s : State) : (okDest d).run s = .ok ((), s) := by
  unfold okDest
  rw [run_bind_ok (run_guard (by simp; omega) _ s)]
  exact run_guard (by simpa using h) _ s

theorem run_okPair {wide : Bool} {n : Nat} (h : wide = true → n < 88 → n % 2 = 0) (s : State) :
    ((if wide then okPair n else pure ()) : M Unit).run s = .ok ((), s) := by
  cases wide
  · rfl
  · exact run_guard (by have := pair_even h rfl; simpa using this) _ s

theorem run_okPair_then {wide : Bool} {n : Nat} (h : wide = true → n < 88 → n % 2 = 0) (k : Unit → M Unit) (s : State) :
    ((if wide then okPair n >>= k else k ()) : M Unit).run s = (k ()).run s := by
  cases wide
  · rfl
  · exact run_bind_ok (run_okPair h s)

theorem SourcesOk.run_okSpec {x : Group} {wide l : Bool} {a : Nat} (h : SourcesOk x wide [(l, a)]) (s : State) :
    (okSpec a).run s = .ok ((), s) :=
  run_guard (h.place (l, a) (by simp)).notReserved _ s

theorem SourcesOk.run_okMark {x : Group} {wide l : Bool} {a : Nat} (h : SourcesOk x wide [(l, a)]) (s : State) :
    (okMark l a).run s = .ok ((), s) :=
  run_guard (h.markable (p := (l, a)) (by simp)) _ s

theorem run_refillOne {s : State} {cx : Cx} {a k : Nat} (h : SourceOk (s.grp cx.g) a k) (ds : List Nat) :
    (refillSpecs cx ds [(a, k)]).run s = .ok ((), s) :=
  run_refillSpecs fun p hp => by rw [List.mem_singleton.1 hp]; exact h

/-- The marks of a unit with one source. -/
theorem run_markOne {s : State} {cx : Cx} {wide l : Bool} {a : Nat} (hm : (s.grp cx.g).mill = none)
    (h : SourcesOk (s.grp cx.g) wide [(l, a)]) :
    ∃ t, (applyMarks cx (countMarks l false) (specMark l a (if wide then 2 else 1))).run s = .ok ((), t)
      ∧ t.grp cx.g = (s.grp cx.g).marks cx.exe wide [(l, a)] ∧ ∀ y, t.setGrp cx.g y = s.setGrp cx.g y := by
  obtain ⟨t, ht, hg, hset⟩ := run_marks (s := s) (cx := cx) hm h.marks (countMarks_one l a)
  rw [markRegs, List.flatMap_singleton] at ht
  exact ⟨t, ht, hg, hset⟩

/-! ## CVT's lanes (R67, R68) -/

theorem finish_inv (f : Fmt) (md : FpMode) (r : Rounded) : (finish f md r).2.inv = false := by
  unfold finish
  split
  · rfl
  · split <;> rfl

theorem roundNum_fin (f : Fmt) (md : FpMode) (neg : Bool) (m : Nat) (e : Int) :
    roundNum f md false (.fin neg m e) = finish f md (roundF f md.rm neg m e false) := by
  have hinv := finish_inv f md (roundF f md.rm neg m e false)
  change ((finish f md (roundF f md.rm neg m e false)).1, { (finish f md (roundF f md.rm neg m e false)).2 with inv := false }) = _
  generalize finish f md (roundF f md.rm neg m e false) = r at *
  obtain ⟨b, inv, dz, ovf, unf⟩ := r
  obtain rfl : inv = false := hinv
  rfl

theorem holdBits_float {ty : Nat} (h : 8 ≤ ty) (v : Nat) : holdBits ty v = heldF ty v := by
  unfold holdBits heldF
  simp only [show decide (ty < 2) = false by simp; omega, Bool.false_and, Bool.false_eq_true, if_false]
  rfl

theorem fpMode_sat (cx : Cx) : (fpMode cx.h).sat = saturates cx := saturates_eq cx

theorem convert_int_int {src dst : Nat} (hs : src < 8) (hd : dst < 8) (md : FpMode) (x : W64) :
    lane2 dst (convert src dst md x) =
      { v := heldAs dst (BitVec.ofInt _ (if md.sat then clampTo dst (numOf src x) else numOf src x)), ev := {} } := by
  have hsrc : isFloat src = false := by simp [isFloat]; omega
  have hdst : isFloat dst = false := by simp [isFloat]; omega
  simp only [convert, hsrc, hdst, Bool.false_eq_true, if_false, eltInt_eq, clampI_eq, lane2, ← holdInt_eq hd]
  rfl

theorem convert_int_float {src dst : Nat} (hs : src < 8) (hd : 8 ≤ dst) (hd' : dst < 12) (md : FpMode) (x : W64) :
    lane2 dst (convert src dst md x) =
      let r := roundNum (fmtOf dst) md false (.fin (decide (numOf src x < 0)) (numOf src x).natAbs 0)
      { v := heldF dst r.1, ev := r.2 } := by
  have hsrc : isFloat src = false := by simp [isFloat]; omega
  have hdst : isFloat dst = true := by simp [isFloat]; omega
  simp only [convert, hsrc, hdst, Bool.false_eq_true, if_false, if_true, eltInt_eq, lane2, holdBits_float hd, roundNum_fin]

theorem heldAs_zero (ty : Nat) : heldAs ty 0#(tyBits ty) = 0#64 := by
  unfold heldAs
  split
  · rw [BitVec.signExtend_eq_setWidth_of_msb_false BitVec.msb_zero, BitVec.setWidth_zero, BitVec.setWidth_zero]
  · exact BitVec.setWidth_zero ..

/-- What a float becomes as an integer of a type, with its event. -/
def floatToInt (dst rm : Nat) : Num → Int × Ev
  | .nan => (0, { inv := true })
  | .inf neg => (if neg then least dst else greatest dst, { inv := true })
  | .fin neg m e => (clampTo dst (intOf rm neg m e), { inv := clampTo dst (intOf rm neg m e) != intOf rm neg m e })

theorem convert_float_int {src dst : Nat} (hs : 8 ≤ src) (hs' : src < 12) (hd : dst < 8) (md : FpMode) (x : W64) :
    lane2 dst (convert src dst md x) =
      let r := floatToInt dst md.rm (decodeF (fmtOf src) md.ftz (bitsOf src x))
      { v := heldAs dst (BitVec.ofInt _ r.1), ev := r.2 } := by
  have hsrc : isFloat src = true := by simp [isFloat]; omega
  have hdst : isFloat dst = false := by simp [isFloat]; omega
  simp only [convert, hsrc, hdst, Bool.false_eq_true, if_false, if_true, eltBits_eq, ← holdInt_eq hd]
  change lane2 dst (match decodeF (fmtOf src) md.ftz (bitsOf src x) with | .nan => _ | .inf s => _ | .fin s k e => _) = _
  cases decodeF (fmtOf src) md.ftz (bitsOf src x) with
  | nan => rfl
  | inf neg => simp only [floatToInt, tyMin_eq, tyMax_eq]; rfl
  | fin neg m e => simp only [floatToInt, ← clampI_eq, clamped_iff]; rfl

theorem convert_float_float {src dst : Nat} (hs : 8 ≤ src) (hs' : src < 12) (hd : 8 ≤ dst) (hd' : dst < 12) (md : FpMode) (x : W64) :
    lane2 dst (convert src dst md x) =
      let r := roundNum (fmtOf dst) md (isSnan (fmtOf src) (bitsOf src x)) (decodeF (fmtOf src) md.ftz (bitsOf src x))
      { v := heldF dst r.1, ev := r.2 } := by
  have hsrc : isFloat src = true := by simp [isFloat]; omega
  have hdst : isFloat dst = true := by simp [isFloat]; omega
  simp only [convert, hsrc, hdst, if_true, eltBits_eq, lane2, holdBits_float hd]
  rfl

/-! ## CVT -/

/-- CVT, its lanes as given. -/
theorem cvt_comes {f : FCvt} {s : State} {run : Run} {cx : Cx} {src dst : Nat} {v : Nat → W64 × Ev}
    (hsrc : src = f.t.toNat) (hdst : dst = cvtDest f.g.toNat f.u) (h : Issuing s run cx { mode := true } false)
    (hs : SourcesOk (s.grp cx.g) (isWide src) [(f.l, f.a.toNat)]) (he : isWide dst = true → f.d.toNat < 88 → f.d.toNat % 2 = 0) :
    let x := s.grp cx.g
    let y := x.marks cx.exe (isWide src) [(f.l, f.a.toNat)]
    DestOk y f.d.toNat (regsOf (isWide dst)) →
    (∀ t, lane2 dst (convert src dst (fpMode cx.h) (x.el (isWide src) f.a.toNat t)) = { v := (v t).1, ev := (v t).2 }) →
    Comes (.cvt f) s ((s.setGrp cx.g (y.result cx.exe f.d.toNat (isWide dst) (gen x.w (fun t => (v t).1)))).counting cx
      (if isFloat dst then dst else src) ((cx.lanes x).map (fun t => (v t).2))) cx := by
  intro x y hd hv
  have hm : x.mill = none := by simpa using h.unit.mill
  have hplace := hs.place (f.l, f.a.toNat) (by simp)
  obtain ⟨t, hmarks, hg, hset⟩ := run_markOne (cx := cx) hm hs
  have hw : y.w = x.w := marks_w _ _ _ _
  refine issue_counts (z := f.z) (op := 0x40) h (static := _) (body := _) ?_ ?_
    ((samePlace_marks x cx.exe (isWide src) [(f.l, f.a.toNat)]).trans (samePlace_result _ _ _ _ _))
  · rw [← hsrc, ← hdst, run_bind_ok (hs.run_okSpec s), run_bind_ok (run_okDest hd.1 s), run_bind_ok (hs.run_okMark s)]
    exact (run_okPair_then (fun w => hs.even w (f.l, f.a.toNat) (by simp)) _ s).trans (run_okPair he s)
  · rw [skipMarks_eq _ _ h.some, ← hsrc, ← hdst]
    simp only []
    rw [run_bind_ok (run_refillOne (by exact hplace) _), run_bind_ok (run_readEl hplace (pair_even fun w => hs.even w (f.l, f.a.toNat) (by simp))),
      run_bind_ok hmarks, run_bind_ok (run_getG cx.g t), hg,
      run_finishCounting hg hset hd he (v := v) (fun k hk => ?_), hw, lanes_of_w hw]
    rw [lane_gen _ _ (hw ▸ hk)]
    exact hv k

theorem cvtDest_lt {g : Nat} (h : g < 8) (u : Bool) : cvtDest g u < 12 := by
  unfold cvtDest
  split
  · split <;> omega
  · omega

/-- R67 and R68. -/
theorem conversions : conversionsRule := by
  intro f s run cx h x src dst hs12 hu hs he y hd md el num clamp int out
  have hd12 : dst < 12 := cvtDest_lt f.g.isLt f.u
  have hfmt : (if dst < 8 then src else dst) = if isFloat dst then dst else src := by
    by_cases hd8 : dst < 8
    · rw [if_pos hd8, if_neg (by simp [isFloat]; omega)]
    · rw [if_neg hd8, if_pos (by simp [isFloat]; omega)]
  rw [hfmt]
  refine cvt_comes rfl rfl h hs (fun w => he (beq_iff_eq.1 w)) hd fun t => ?_
  simp only [out]
  by_cases hs8 : src < 8
  · rw [if_pos hs8]
    by_cases hd8 : dst < 8
    · rw [if_pos hd8, ← fpMode_sat]
      exact convert_int_int hs8 hd8 md (el t)
    · rw [if_neg hd8]
      exact convert_int_float hs8 (by omega) hd12 md (el t)
  · rw [if_neg hs8]
    by_cases hd8 : dst < 8
    · rw [if_pos hd8]
      refine (convert_float_int (by omega) hs12 hd8 md (el t)).trans ?_
      generalize hn : num t = n
      rw [show decodeF _ _ _ = n from hn]
      cases n with
      | nan => simp only [floatToInt, BitVec.ofInt_ofNat, heldAs_zero]
      | inf neg => rfl
      | fin neg m e => rfl
    · rw [if_neg hd8]
      exact convert_float_float (by omega) hs12 (by omega) hd12 md (el t)

/-! ## CVTN's lanes (R69) -/

theorem isFloat_iff {ty : Nat} (h : ty < 12) : isFloat ty = !decide (ty < 8) := by
  by_cases h8 : ty < 8
  · simp [isFloat, h8]
  · simp only [isFloat, h8, decide_false, Bool.not_false, Bool.and_eq_true, decide_eq_true_eq]
    omega

/-- The pattern of an integer in a type's width. -/
theorem toNat_emod (n : Nat) (i : Int) : (i % (2 ^ n : Nat)).toNat = (BitVec.ofInt n i).toNat := (BitVec.toNat_ofInt ..).symm

/-- What a sum that is rounded already leaves in the type and over, and whether it is NaN, infinite or finite. -/
theorem narrow_cases {ty : Nat} (h : ty < 12) (ftz : Bool) (a q : Nat) :
    let xp := addResidue ftz a q
    let out := narrow ty ftz a q
    match decodeF f32 false xp.1 with
    | .nan => out.1 = (if ty < 8 then 0 else (fmtOf ty).nanBits) ∧ out.2.1 = 0 ∧ out.2.2 = xp.2
    | .inf neg => out.2.1 = 0 ∧ out.2.2 = xp.2
        ∧ out.1 = (if ty < 8 then (BitVec.ofInt (tyBits ty) (if neg then least ty else greatest ty)).toNat
          else (if neg then (fmtOf ty).signBit else 0) + (fmtOf ty).maxFinite)
    | .fin neg m e =>
      if ty < 8 then
        let i := clampTo ty (intOf 0 neg m e)
        out.1 = (BitVec.ofInt (tyBits ty) i).toNat
          ∧ out.2.1 = (roundNum f32 { ftz := ftz } false (addN 0 (.fin neg m e) (.fin (decide (0 < i)) i.natAbs 0))).1
      else
        let b := roundNum (fmtOf ty) { ftz := ftz, sat := true } false (.fin neg m e)
        out.1 = b.1 ∧ out.2.1 = (roundNum f32 { ftz := ftz } false (addN 0 (.fin neg m e) (decodeF (fmtOf ty) false b.1).neg)).1 := by
  intro xp out
  have hout : out = narrow ty ftz a q := rfl
  rw [narrow, show addResidue ftz a q = (xp.1, xp.2) from rfl] at hout
  simp only [isFloat_iff h, Bool.not_eq_true', decide_eq_false_iff_not, ite_not, tyMin_eq, tyMax_eq, toNat_emod] at hout
  cases hx : decodeF f32 false xp.1 with
  | nan =>
    rw [hx] at hout
    rw [hout]
    exact ⟨rfl, rfl, rfl⟩
  | inf neg =>
    rw [hx] at hout
    by_cases h8 : ty < 8
    · simp only [h8, if_true] at hout ⊢
      rw [hout]
      exact ⟨rfl, rfl, rfl⟩
    · simp only [h8, if_false] at hout ⊢
      rw [hout]
      exact ⟨rfl, rfl, rfl⟩
  | fin neg m e =>
    rw [hx] at hout
    by_cases h8 : ty < 8
    · simp only [h8, if_true] at hout ⊢
      rw [hout, ← tyMin_eq, ← tyMax_eq, clampI_eq, ofInt, Int.natAbs_neg, show decide (-_ < (0 : Int)) = _ from decide_eq_decide.2 neg_lt_zero]
      exact ⟨rfl, rfl⟩
    · simp only [h8, if_false] at hout ⊢
      rw [hout]
      exact ⟨rfl, rfl⟩

theorem holdBits_cases (ty v : Nat) : holdBits ty v = if ty < 8 then heldAs ty (BitVec.ofNat _ v) else heldF ty v := by
  split
  · exact holdBits_eq ‹_› v
  · exact holdBits_float (by omega) v

/-! ## CVTN -/

theorem push_pending {x : Group} {k : Nat} (m : W64) (v : List W64) (h : pendingReg x k = none) : pendingReg (x.push m v) k = none := h

theorem result_pending {x : Group} {k : Nat} (m : W64) (d : Nat) (v : List W64) (h : pendingReg x k = none) :
    pendingReg (x.result m d false v) k = none :=
  push_pending _ _ (setV_pending _ _ _ h)

/-- An unmarked second source adds nothing to the marks. -/
theorem marks_second (x : Group) (exe : W64) (wide : Bool) (p : Bool × Nat) (d : Nat) :
    x.marks exe wide [p, (false, d)] = x.marks exe wide [p] := by
  simp [Group.marks, List.filter_cons]

theorem SourcesOk.first {x : Group} {wide : Bool} {p q : Bool × Nat} (h : SourcesOk x wide [p, q]) : SourcesOk x wide [p] where
  place r hr := h.place r (by simp only [List.mem_cons, List.not_mem_nil, or_false] at hr ⊢; tauto)
  even hw r hr := h.even hw r (by simp only [List.mem_cons, List.not_mem_nil, or_false] at hr ⊢; tauto)
  marks r hr := h.marks r (by simp only [List.mem_cons, List.not_mem_nil, or_false] at hr ⊢; tauto)

/-- What CVTN leaves of its group (R69): the results, and the residues in q. -/
def Group.narrowed (x : Group) (exe : W64) (d c : Nat) (vals : Nat → W64) (rest : Nat → W32) : Group :=
  (x.result exe d false (gen x.w vals)).setV exe (80 + c) (gen x.w rest)

/-- CVTN, its lanes by `narrow`. -/
theorem cvtn_comes {f : FCvtn} {s : State} {run : Run} {cx : Cx} {ty : Nat} (h : Issuing s run cx { mode := true, type := true } false)
    (hty : ty = eltType cx 9) (hmem : ty ∈ [0, 1, 4, 5, 8, 9])
    (hv : VecOk (s.grp cx.g) cx.exe false [(f.l, f.a.toNat), (false, 80 + f.c.toNat)] f.d.toNat) (hne : f.d.toNat ≠ 80 + f.c.toNat) :
    let x := s.grp cx.g
    let out (t : Nat) := narrow ty (fpMode cx.h).ftz (x.el32 f.a.toNat t).toNat (x.el32 (80 + f.c.toNat) t).toNat
    Comes (.cvtn f) s ((s.setGrp cx.g ((x.marks cx.exe false [(f.l, f.a.toNat)]).narrowed cx.exe f.d.toNat f.c.toNat
        (fun t => holdBits ty (out t).1) (fun t => n32 (out t).2.1))).counting cx
      (if isFloat ty then ty else 10) ((cx.lanes x).map (fun t => (out t).2.2))) cx := by
  intro x out
  have hm : x.mill = none := by simpa using h.unit.mill
  have hsrc := hv.toSourcesOk.first
  have ha : SourceOk x f.a.toNat 1 := hv.place (f.l, f.a.toNat) (by simp)
  have hq : SourceOk x (80 + f.c.toNat) 1 := hv.place (false, 80 + f.c.toNat) (by simp)
  have hc : f.c.toNat < 8 := f.c.isLt
  obtain ⟨t, hmarks, hg, hset⟩ := run_markOne (cx := cx) hm hsrc
  have hdest := hv.dest
  rw [marks_second] at hdest
  obtain ⟨y, hy⟩ : ∃ y, y = x.marks cx.exe false [(f.l, f.a.toNat)] := ⟨_, rfl⟩
  rw [← hy] at hdest hg ⊢
  have hw : y.w = x.w := by rw [hy]; exact marks_w _ _ _ _
  have hpend : pendingReg x (80 + f.c.toNat) = none := by
    unfold SourceOk at hq
    rw [if_neg (by omega), if_pos (by omega)] at hq
    exact hq 0 (by decide)
  have hpend' : pendingReg y (80 + f.c.toNat) = none := by rw [hy]; exact pending_marked _ _ _ hpend
  refine issue_counts (z := f.z) (op := 0x41) h (static := _) (body := _) ?_ ?_ ?_
  · have htypes : [0, 1, 4, 5, 8, 9].contains (unitType cx.h 9) = true := by
      rw [eltType_eq, ← hty]
      simpa using hmem
    rw [run_bind_ok (hsrc.run_okSpec s), run_bind_ok (run_guard htypes _ s), run_bind_ok (run_okDest hdest.1 s),
      run_bind_ok (hsrc.run_okMark s)]
    exact run_guard (by simpa using hne) _ s
  · rw [skipMarks_eq _ _ h.some, thenNext]
    refine run_bind_ok (a := ()) ?_
    simp only [eltType_eq, ← hty]
    have hrs : gen y.w (fun k => narrow ty (fpMode cx.h).ftz (lane 0#32 (gen x.w (fun t => x.el32 f.a.toNat t)) k).toNat
        (lane 0#32 (gen x.w (fun t => x.el32 (80 + f.c.toNat) t)) k).toNat) = gen y.w out :=
      gen_congr fun k hk => by rw [lane_gen _ _ (hw ▸ hk), lane_gen _ _ (hw ▸ hk)]
    have hev : (cx.lanes y).map (fun k => (lane (0, 0, {}) (gen y.w out) k).2.2) = (cx.lanes y).map (fun k => (out k).2.2) :=
      lanes_congr fun k hk => by rw [lane_gen _ _ hk]
    rw [run_bind_ok (run_refillOne ha _), run_bind_ok (run_readOp (k := 0) ha), run_bind_ok (run_readOp (k := 0) hq),
      run_bind_ok (show (applyMarks cx (countMarks f.l false) (specMark f.l f.a.toNat 1)).run s = _ from hmarks),
      run_bind_ok (run_getG cx.g t), hg, hrs, map_gen, map_gen,
      run_bind_ok (run_writeEl (wide := false) _ (by rw [hg]; exact hdest) nofun), hset, hg,
      run_bind_ok (run_writeQ _ hc (by rw [State.grp_setGrp]; exact result_pending _ _ _ hpend')), State.grp_setGrp, setGrp_setGrp,
      run_noteEvents, lanes_eq, hev, lanes_of_w hw]
    rfl
  · rw [hy]
    exact ((samePlace_marks _ _ _ _).trans (samePlace_result _ _ _ _ _)).trans (samePlace_setV _ _ _ _)

/-- R69. -/
theorem narrowWithResidue : narrowWithResidueRule := by
  intro f s run cx ty h hty hmem x hv hne md flush xp
  have h12 : ty < 12 := by
    simp only [List.mem_cons, List.not_mem_nil, or_false] at hmem
    omega
  let out (t : Nat) := narrow ty (fpMode cx.h).ftz (x.el32 f.a.toNat t).toNat (x.el32 (80 + f.c.toNat) t).toNat
  refine ⟨fun t => (out t).1, fun t => (out t).2.1, fun t => (out t).2.2, fun t => ?_, ?_⟩
  · have hcases := narrow_cases h12 (fpMode cx.h).ftz (x.el32 f.a.toNat t).toNat (x.el32 (80 + f.c.toNat) t).toNat
    exact hcases
  · have hcomes := cvtn_comes h hty hmem hv hne
    have hfmt : (if isFloat ty then ty else 10) = if ty < 8 then 10 else ty := by
      rw [isFloat_iff h12]
      by_cases h8 : ty < 8 <;> simp [h8]
    rw [hfmt] at hcomes
    simp only [holdBits_cases, Group.narrowed, marks_w] at hcomes
    exact hcomes

/-- Settles O11: CVT by its four pairs of types, CVTN by what the rounded sum is. -/
theorem numberConversions : Obligations.NumberConversions := by
  unfold Obligations.NumberConversions
  exact ⟨conversions, narrowWithResidue⟩

end Sys2Proof.Machine
end

section
/-! PROOF. CVTB's headers, blocks and residues, and CVTM (R70 to R72). -/

namespace Sys2Proof.Machine

/-! ## Several registers -/

theorem run_mapM {α β : Type} {f : α → M β} {g : α → β} {s : State} (l : List α) (h : ∀ a ∈ l, (f a).run s = .ok (g a, s)) :
    (l.mapM f).run s = .ok (l.map g, s) := by
  induction l with
  | nil => rfl
  | cons a l ih =>
    rw [List.mapM_cons, run_bind_ok (h a List.mem_cons_self), run_bind_ok (ih fun b hb => h b (List.mem_cons_of_mem a hb))]
    rfl

/-- A v or q register in place, as the elements of its specifier. -/
theorem run_readReg {s : State} {cx : Cx} {need : W64} {spec r : Nat} (hr : r < 88) (h : SourceOk (s.grp cx.g) r 1) :
    (readV cx need spec r).run s = .ok (gen (s.grp cx.g).w (fun t => (s.grp cx.g).el32 r t), s) := by
  unfold SourceOk at h
  by_cases h80 : r < 80
  · rw [if_pos h80] at h
    obtain ⟨hmap, -, hpend⟩ := h 0 (by decide)
    rw [Nat.add_zero] at hmap hpend
    unfold isMapped at hmap
    simp only [Bool.and_eq_true] at hmap
    rw [run_readV hpend (.inr hmap.1.2)]
    simp [storedV, Group.el32, h80, show ¬ 80 ≤ r by omega]
  · rw [if_neg h80, if_pos hr] at h
    rw [run_readV (by exact h 0 (by decide)) (.inl (by omega))]
    simp [storedV, Group.el32, h80, hr, show 80 ≤ r by omega]

/-- Consecutive registers in place, each as the elements of its specifier. -/
theorem run_readRun {s : State} {cx : Cx} {need : W64} {spec a n : Nat} (ha : a + n ≤ 88)
    (h : ∀ k < n, SourceOk (s.grp cx.g) (a + k) 1) :
    ((gen n (fun i => a + i)).mapM (readV cx need spec)).run s
      = .ok (gen n (fun i => gen (s.grp cx.g).w (fun t => (s.grp cx.g).el32 (a + i) t)), s) := by
  rw [run_mapM (g := fun r => gen (s.grp cx.g).w (fun t => (s.grp cx.g).el32 r t)), map_gen]
  intro r hr
  obtain ⟨i, hi, rfl⟩ := List.mem_map.1 hr
  have hi := List.mem_range.1 hi
  exact run_readReg (by omega) (h i hi)

/-- Registers in place one by one are in place together. -/
theorem sourceOk_run {x : Group} {a n : Nat} (ha : a < 80) (hn : a + n ≤ 80) (h : ∀ k < n, SourceOk x (a + k) 1) :
    SourceOk x a n := by
  unfold SourceOk at h ⊢
  rw [if_pos ha]
  intro k hk
  have := h k hk
  rw [if_pos (by omega)] at this
  exact this 0 (by decide)

/-- Several registers written in the lanes of their masks, one after the other. -/
def Group.setVs (x : Group) (ws : List (W64 × Nat × List W32)) : Group := ws.foldl (fun y w => y.setV w.1 w.2.1 w.2.2) x

theorem samePlace_setVs (x : Group) (ws : List (W64 × Nat × List W32)) : SamePlace x (x.setVs ws) := by
  induction ws generalizing x with
  | nil => exact ⟨rfl, rfl, rfl, rfl, rfl⟩
  | cons w ws ih => exact (samePlace_setV _ _ _ _).trans (ih _)

theorem setVs_w (x : Group) (ws : List (W64 × Nat × List W32)) : (x.setVs ws).w = x.w := by
  induction ws generalizing x with
  | nil => rfl
  | cons w ws ih => exact (ih _).trans (setV_w _ _ _ _)

theorem setVs_pending {x : Group} {k : Nat} (ws : List (W64 × Nat × List W32)) (h : pendingReg x k = none) :
    pendingReg (x.setVs ws) k = none := by
  induction ws generalizing x with
  | nil => exact h
  | cons w ws ih => exact ih (setV_pending _ _ _ h)

/-- Mapped v registers that nothing is on its way to, written in the order given. -/
theorem run_writeList {cx : Cx} {m : W64} {later : List Nat} (w : Nat × List W32) (ws : List (Nat × List W32)) {s : State}
    (hpin : (s.grp cx.g).pinned = [])
    (h : ∀ v ∈ w :: ws, isMapped (s.grp cx.g) v.1 = true ∧ pendingReg (s.grp cx.g) v.1 = none) :
    (writeList cx m later (w :: ws)).run s = .ok ((), s.setGrp cx.g ((s.grp cx.g).setVs ((w :: ws).map (fun v => (m, v))))) := by
  induction ws generalizing w s with
  | nil =>
    obtain ⟨hmap, hpend⟩ := h w (by simp)
    have hreg : w.1 < 80 := by
      unfold isMapped at hmap
      simp only [Bool.and_eq_true, decide_eq_true_eq] at hmap
      exact hmap.1.1
    rw [writeList, if_pos hreg, run_bind_ok (run_writeV _ _ hreg hpend hmap (by simp [hpin]))]
    rfl
  | cons v ws ih =>
    obtain ⟨hmap, hpend⟩ := h w (by simp)
    have hreg : w.1 < 80 := by
      unfold isMapped at hmap
      simp only [Bool.and_eq_true, decide_eq_true_eq] at hmap
      exact hmap.1.1
    rw [writeList, if_pos hreg, run_bind_ok (run_writeV _ _ hreg hpend hmap (by simp [hpin])), ih v]
    · rw [State.grp_setGrp, setGrp_setGrp]
      rfl
    · rw [State.grp_setGrp, setV_pinned, hpin]
    · intro u hu
      rw [State.grp_setGrp]
      obtain ⟨hmap, hpend⟩ := h u (List.mem_cons_of_mem _ hu)
      exact ⟨setV_mapped _ _ _ hmap, setV_pending _ _ _ hpend⟩

theorem run_writeRegs {cx : Cx} {m : W64} {ws : List (Nat × List W32)} {s : State} (hne : ws ≠ []) (hpin : (s.grp cx.g).pinned = [])
    (h : ∀ v ∈ ws, isMapped (s.grp cx.g) v.1 = true ∧ pendingReg (s.grp cx.g) v.1 = none) :
    (writeRegs cx m ws).run s = .ok ((), s.setGrp cx.g ((s.grp cx.g).setVs (ws.map (fun v => (m, v))))) := by
  have hall : ws.filter (fun w => isMapped (s.grp cx.g) w.1) = ws := List.filter_eq_self.2 fun v hv => (h v hv).1
  have hlater : ws.filter (fun w => !isMapped (s.grp cx.g) w.1) = [] := by
    rw [List.filter_eq_nil_iff]
    intro v hv
    rw [(h v hv).1]
    exact Bool.false_ne_true
  obtain ⟨w, ws, rfl⟩ := List.exists_cons_of_ne_nil hne
  unfold writeRegs
  rw [run_bind_ok (run_getG cx.g s), hall, hlater, run_bind_ok (run_writeList w ws hpin h)]
  rfl

/-- q registers that nothing is on its way to, each written in lanes of its own. -/
theorem run_writeQs {s : State} {cx : Cx} {m : Nat → W64} {v : Nat → List W32} (l : List Nat) {y : Group}
    (h : ∀ i ∈ l, i < 8 ∧ pendingReg y (80 + i) = none) :
    (l.forM (fun i => writeQ cx (m i) i (v i))).run (s.setGrp cx.g y)
      = .ok ((), s.setGrp cx.g (y.setVs (l.map (fun i => (m i, 80 + i, v i))))) := by
  induction l generalizing y with
  | nil => rfl
  | cons i l ih =>
    obtain ⟨hi, hp⟩ := h i (by simp)
    change (writeQ cx (m i) i (v i) >>= fun _ => l.forM (fun i => writeQ cx (m i) i (v i))).run _ = _
    rw [run_bind_ok (run_writeQ _ hi (by rwa [State.grp_setGrp])), State.grp_setGrp, setGrp_setGrp, ih]
    · rfl
    · exact fun j hj => ⟨(h j (List.mem_cons_of_mem _ hj)).1, setV_pending _ _ _ (h j (List.mem_cons_of_mem _ hj)).2⟩

/-! ## Blocks (R61, R70) -/

/-- The writes of one block of 16 registers a lane. -/
def blockWrites (exe : W64) (n d : Nat) (blk : Nat → Nat) : List (W64 × Nat × List W32) :=
  gen 16 (fun k => (exe, d + k, gen n (fun t => BitVec.ofNat 32 (blk t / 2 ^ (32 * k)))))

/-- The 16 registers from `d` on can be written at once. -/
def BlockOk (x : Group) (d : Nat) : Prop := d % 16 = 0 ∧ d ≤ 64 ∧ ∀ k < 16, isMapped x (d + k) = true ∧ pendingReg x (d + k) = none

theorem run_writeBlocks {s : State} {cx : Cx} {d n : Nat} {blk : Nat → Nat} (h : BlockOk (s.grp cx.g) d)
    (hpin : (s.grp cx.g).pinned = []) :
    (writeBlocks cx d (gen n (fun t => blockWords (blk t)))).run s
      = .ok ((), s.setGrp cx.g ((s.grp cx.g).setVs (blockWrites cx.exe n d blk))) := by
  have hwords : gen 16 (fun k => (d + k, (gen n (fun t => blockWords (blk t))).map (fun b => lane 0#32 b k)))
      = gen 16 (fun k => (d + k, gen n (fun t => BitVec.ofNat 32 (blk t / 2 ^ (32 * k))))) :=
    gen_congr fun k hk => by
      rw [map_gen]
      exact congrArg (Prod.mk (d + k)) (gen_congr fun t _ => lane_gen _ _ hk)
  unfold writeBlocks
  rw [hwords, run_writeRegs (by simp [gen]) hpin, map_gen]
  · rfl
  · intro v hv
    obtain ⟨k, hk, rfl⟩ := List.mem_map.1 hv
    exact h.2.2 k (List.mem_range.1 hk)

/-! ## Marks, where no matrix command has a register open -/

theorem unmaps_pinned (rs : List Nat) (x : Group) : (rs.foldl Group.unmap x).pinned = x.pinned := by
  induction rs generalizing x with
  | nil => rfl
  | cons r rs ih => exact ih _

theorem marked_pinned (x : Group) (e : W64) (k : Nat) (rs : List Nat) : (x.marked e k rs).pinned = x.pinned := by
  unfold Group.marked
  split
  · rfl
  · split
    · exact unmaps_pinned rs x
    · rfl

theorem run_marksUnpinned {s : State} {cx : Cx} (k : Nat) (rs : List Nat) (hm : (s.grp cx.g).mill = none)
    (hp : (s.grp cx.g).pinned = []) :
    ∃ t, (applyMarks cx k rs).run s = .ok ((), t) ∧ t.grp cx.g = (s.grp cx.g).marked cx.exe k rs
      ∧ ∀ y, t.setGrp cx.g y = s.setGrp cx.g y := by
  refine ⟨_, run_applyMarks k rs hm fun r _ => by rw [hp]; rfl, ?_, fun y => ?_⟩
  · cases rs with
    | nil => rfl
    | cons r rs => simp
  · split
    · rfl
    · rw [setGrp_setGrp]

theorem countMarks_countP (l m : Bool) : countMarks l m = [l, m].countP id := by cases l <;> cases m <;> rfl

theorem specMark_ite (l : Bool) (a k : Nat) : specMark l a k = if l then specMark true a k else [] := by cases l <;> rfl

/-! ## The control word (R70) -/

/-- A control word's fields within their limits. -/
def BlockCtl.Legal (ctl : W64) : Prop := 2 ≤ bits ctl.toNat 3 0 ∧ bits ctl.toNat 3 0 ≤ 8 ∧ bits ctl.toNat 31 17 = 0

theorem blockCtl_word (ctl : W64) : blockCtl (ctl.toNat % 2 ^ 32) =
    { m := bits ctl.toNat 3 0, j := bits ctl.toNat 11 4, c := bits ctl.toNat 15 12 + 1, ef := bits ctl.toNat 16 16 == 1,
      ok := bits ctl.toNat 31 17 == 0 && decide (2 ≤ bits ctl.toNat 3 0) && decide (bits ctl.toNat 3 0 ≤ 8) } := by
  have low {hi lo : Nat} (h : hi < 32) (hlo : lo ≤ hi) : bits (ctl.toNat % 2 ^ 32) hi lo = bits ctl.toNat hi lo := by
    have h1 : ctl.toNat % 2 ^ 32 / 2 ^ lo = ctl.toNat / 2 ^ lo % 2 ^ (32 - lo) := by
      rw [← Nat.mod_mul_right_div_self, ← Nat.pow_add, Nat.add_sub_cancel' (by omega)]
    rw [bits, bits, h1, Nat.mod_mod_of_dvd _ (Nat.pow_dvd_pow 2 (by omega))]
  unfold blockCtl
  rw [low (hi := 3) (by decide) (by decide), low (hi := 11) (by decide) (by decide), low (hi := 15) (by decide) (by decide),
    low (hi := 16) (by decide) (by decide), low (hi := 31) (by decide) (by decide)]

theorem blockCtl_ok (ctl : W64) : (blockCtl (ctl.toNat % 2 ^ 32)).ok = true ↔ BlockCtl.Legal ctl := by
  rw [blockCtl_word]
  simp only [BlockCtl.Legal, Bool.and_eq_true, beq_iff_eq, decide_eq_true_eq]
  tauto

/-- The checks of CVTB's word. -/
theorem run_cvtbStatic {f : FCvtb} {pack : Bool} {s : State} (ha : f.a.toNat ≠ 95)
    (hmark : f.l = true → f.a.toNat < 80 ∨ 96 ≤ f.a.toNat) (hd : f.d.toNat % 16 = 0) (h64 : f.d.toNat ≤ 64)
    (hp : pack = true → f.a.toNat < 80) : (cvtbStatic f pack).run s = .ok ((), s) := by
  unfold cvtbStatic
  rw [run_bind_ok (run_okSpec ha), run_bind_ok (run_guard (by simp [hd, h64]) _ s),
    run_bind_ok (show (okMark f.l f.a.toNat).run s = .ok ((), s) from run_guard (by
      cases hl : f.l
      · rfl
      · simpa [markable] using hmark hl) _ s)]
  exact run_guard (by cases pack <;> simp_all) _ s

/-- A unit whose body meets a trap before anything else happens. -/
theorem traps_body {z : Bool} {op : Nat} {acc : Accepts} {mill : Bool} {static : Cx → M Unit} {body : Cx → M Ctl} {s : State}
    {run : Run} {cx : Cx} {i : Instr} (h : UnitOk s run cx acc mill) (he : exec i s = issue z op acc mill static body s)
    (hs : (static cx).run s = .ok ((), s)) (hb : (body cx).run s = .error (.trap 2 0#64 0 0 0 0#64)) : Traps i s run cx 2 0#64 :=
  he.trans (issue_body_error h hs hb)

/-! ## Headers (R70) -/

/-- The scales from −127 to 127, in order. -/
def scales : List Int := (List.range 255).map (fun i : Nat => (i : Int) - 127)

theorem blockScale_fin (m k : Nat) (s : Bool) (p : Int) :
    blockScale m (.fin s k p) = (scales.find? (fun e => decide (intOf 0 false k (p - e) ≤ blockLim m))).getD 127 := by
  rw [scales, List.map_eq_flatMap]
  simp only [blockScale, List.bind_eq_flatMap, List.pure_def, List.map_flatMap, List.map_cons, List.map_nil]

/-- The first scale that has a property, 127 where none below has it. -/
theorem firstScale (p : Int → Bool) :
    let e := (scales.find? p).getD 127
    e ≤ 127 ∧ -127 ≤ e ∧ (∀ i : Int, -127 ≤ i → i < e → p i = false) ∧ (e < 127 → p e = true) := by
  rw [scales, List.find?_map]
  cases hf : (List.range 255).find? (p ∘ fun i : Nat => (i : Int) - 127) with
  | none =>
    refine ⟨by simp, by simp, fun i h0 h1 => ?_, fun h => absurd h (by simp)⟩
    have h1 : i < 127 := h1
    have := List.find?_eq_none.1 hf (i + 127).toNat (List.mem_range.2 (by omega))
    rw [Function.comp_apply, show ((i + 127).toNat : Int) - 127 = i by omega] at this
    simpa using this
  | some k =>
    obtain ⟨hp, hk, hbefore⟩ := List.find?_range_eq_some.1 hf
    have hk := List.mem_range.1 hk
    refine ⟨?_, ?_, fun i h0 h1 => ?_, fun _ => hp⟩
    · change (k : Int) - 127 ≤ 127
      omega
    · change -127 ≤ (k : Int) - 127
      omega
    · have h1 : i < (k : Int) - 127 := h1
      have := hbefore (i + 127).toNat (by omega)
      rw [Function.comp_apply, show ((i + 127).toNat : Int) - 127 = i by omega] at this
      simpa using this

/-- The header's scale is the least one under which the magnitude fits the mantissa (R70). -/
theorem blockScale_spec (m : Nat) (x : Num) :
    -128 ≤ blockScale m x ∧ blockScale m x ≤ 127 ∧ match x with
      | .nan => blockScale m x = -128
      | .inf _ => blockScale m x = 127
      | .fin _ k p => -127 ≤ blockScale m x
          ∧ (∀ i : Int, -127 ≤ i → i < blockScale m x → 2 ^ (m - 1) ≤ intOf 0 false k (p - i))
          ∧ (blockScale m x < 127 → intOf 0 false k (p - blockScale m x) < 2 ^ (m - 1)) := by
  cases x with
  | nan => exact ⟨le_rfl, (by decide : (-128 : Int) ≤ 127), rfl⟩
  | inf s => exact ⟨(by decide : (-128 : Int) ≤ 127), le_rfl, rfl⟩
  | fin s k p =>
    rw [blockScale_fin]
    obtain ⟨hhi, hlo, hbefore, hfits⟩ := firstScale (fun e => decide (intOf 0 false k (p - e) ≤ blockLim m))
    have hlim : blockLim m = 2 ^ (m - 1) - 1 := by
      unfold blockLim
      push_cast
      rfl
    refine ⟨(by decide : (-128 : Int) ≤ -127).trans hlo, hhi, hlo, fun i h0 h1 => ?_, fun h => ?_⟩
    · have := of_decide_eq_false (hbefore i h0 h1)
      omega
    · have := of_decide_eq_true (hfits h)
      exact Int.lt_of_le_sub_one (hlim ▸ this)

/-- The header form whose control word is legal. -/
theorem cvtbHdr_comes {f : FCvtb} {s : State} {run : Run} {cx : Cx} {ctl : W64} (h : Issuing s run cx { mode := true } false)
    (hpin : (s.grp cx.g).pinned = []) (hctl : ScalarOk (s.grp cx.g) f.c.toNat ctl) (hlegal : BlockCtl.Legal ctl)
    (hs : SourcesOk (s.grp cx.g) false [(f.l, f.a.toNat)]) :
    let x := s.grp cx.g
    let y := x.marked cx.exe (countMarks f.l f.m) (specMark f.l f.a.toNat 1 ++ scalarMark f.m f.c.toNat)
    BlockOk y f.d.toNat →
    Comes (.cvtbHdr f) s ((s.setGrp cx.g (y.setVs (blockWrites cx.exe x.w f.d.toNat fun t =>
        0x20 + bits ctl.toNat 3 0 + 256 * scaleByte (blockScale (bits ctl.toNat 3 0) (decodeF f32 (fpMode cx.h).ftz (x.el32 f.a.toNat t).toNat))))).counting
      cx 10 ((cx.lanes x).map (fun t => ({ inv := isSnan f32 (x.el32 f.a.toNat t).toNat } : Ev)))) cx := by
  intro x y hblock
  have hm : x.mill = none := by simpa using h.unit.mill
  have ha : SourceOk x f.a.toNat 1 := hs.place (f.l, f.a.toNat) (by simp)
  obtain ⟨t, hmarks, hg, hset⟩ := run_marksUnpinned (cx := cx) (countMarks f.l f.m)
    (specMark f.l f.a.toNat 1 ++ scalarMark f.m f.c.toNat) hm hpin
  have hw : y.w = x.w := marked_w _ _ _ _
  refine issue_counts (z := f.z) (op := 0x42) h (static := _) (body := _) ?_ ?_
    ((samePlace_marked _ _ _ _).trans (samePlace_setVs _ _))
  · exact run_cvtbStatic (by simpa using ha.notReserved) (fun hl => (hs.marks (f.l, f.a.toNat) (by simp) hl).1) hblock.1 hblock.2.1 nofun
  · rw [skipMarks_eq _ _ h.some, thenNext]
    refine run_bind_ok (a := ()) ?_
    have hev : (cx.lanes x).map (fun k => ({ inv := isSnan f32 (lane 0#32 (gen x.w (fun t => x.el32 f.a.toNat t)) k).toNat } : Ev))
        = (cx.lanes x).map (fun t => ({ inv := isSnan f32 (x.el32 f.a.toNat t).toNat } : Ev)) :=
      lanes_congr fun k hk => by rw [lane_gen _ _ hk]
    rw [run_bind_ok (run_readS hctl)]
    simp only []
    rw [run_bind_ok (run_guard ((blockCtl_ok ctl).2 hlegal) _ s), run_bind_ok (run_refillOne ha _), run_bind_ok (run_readOp (k := 0) ha),
      run_bind_ok hmarks, map_gen, run_bind_ok (run_writeBlocks (by rw [hg]; exact hblock) (by rw [hg, marked_pinned, hpin])),
      run_bind_ok (run_getG cx.g _), run_noteEvents, hset, State.grp_setGrp, hg, lanes_eq]
    have hlanes := lanes_of_w (cx := cx) (x := x) (y := y.setVs (blockWrites cx.exe x.w f.d.toNat fun t => 0x20 + (blockCtl (ctl.toNat % 2 ^ 32)).m
      + 256 * scaleByte (blockScale (blockCtl (ctl.toNat % 2 ^ 32)).m (decodeF f32 (fpMode cx.h).ftz (x.el32 f.a.toNat t).toNat))))
      ((setVs_w _ _).trans hw)
    rw [hlanes, hev, blockCtl_word]

/-! ## Blocks and residues (R70, R71) -/

theorem maskOf_congr {w : Nat} {f g : Nat → Bool} (h : ∀ t < w, f t = g t) : maskOf w f = maskOf w g := by
  apply BitVec.eq_of_getLsbD_eq
  intro i _
  have hf := hasLane_maskOf w f i
  have hg := hasLane_maskOf w g i
  unfold hasLane at hf hg
  rw [hf, hg]
  by_cases hi : i < w
  · rw [h i hi]
  · simp [hi]

/-- One lane of the pack form: the block packed from what its registers, its sources and, with EF, the residues hold. -/
def packedLane (k : BlockCtl) (ftz : Bool) (x : Group) (a d t : Nat) : Nat × List (Nat × Nat) × Ev :=
  packBlock k ftz (((List.range 16).map (fun i => (x.el32 (d + i) t).toNat * 2 ^ (32 * i))).sum)
    (gen k.c (fun i => (x.el32 (a + i) t).toNat)) (if k.ef then gen k.c (fun i => (x.el32 (80 + i) t).toNat) else [])

/-- The column of lane `t` in registers read one by one. -/
theorem column_gen {n w t : Nat} (f : Nat → Nat → W32) (h : t < w) :
    (gen n (fun i => gen w (f i))).map (fun r => (lane 0#32 r t).toNat) = gen n (fun i => (f i t).toNat) := by
  rw [map_gen]
  exact gen_congr fun i _ => by rw [lane_gen _ _ h]

/-- What the pack form reads in lane `t` makes the lane's block. -/
theorem packBlock_lanes (k : BlockCtl) (ftz : Bool) (x : Group) (a d : Nat) {t : Nat} (h : t < x.w) :
    packBlock k ftz
      (((List.range 16).map (fun i => (lane 0#32 (lane [] (gen 16 fun i => gen x.w fun t => x.el32 (d + i) t) i) t).toNat * 2 ^ (32 * i))).sum)
      ((gen k.c fun i => gen x.w fun t => x.el32 (a + i) t).map (fun r => (lane 0#32 r t).toNat))
      ((if k.ef then gen k.c fun i => gen x.w fun t => x.el32 (80 + i) t else []).map (fun r => (lane 0#32 r t).toNat))
      = packedLane k ftz x a d t := by
  have hold : (List.range 16).map (fun i => (lane 0#32 (lane [] (gen 16 fun i => gen x.w fun t => x.el32 (d + i) t) i) t).toNat * 2 ^ (32 * i))
      = (List.range 16).map (fun i => (x.el32 (d + i) t).toNat * 2 ^ (32 * i)) :=
    List.map_congr_left fun i hi => by rw [lane_gen _ _ (List.mem_range.1 hi), lane_gen _ _ h]
  rw [hold, column_gen _ h]
  unfold packedLane
  cases k.ef
  · rfl
  · rw [if_pos rfl, if_pos rfl, column_gen _ h]

/-- The writes of the residues that change, each in the lanes where it does. -/
def residueWrites (exe : W64) (n c : Nat) (out : Nat → Nat × List (Nat × Nat) × Ev) : List (W64 × Nat × List W32) :=
  (List.range c).map (fun i => (exe &&& maskOf n (fun t => (out t).2.1.any (fun r => r.1 == i)), 80 + i,
    gen n (fun t => BitVec.ofNat 32 ((((out t).2.1.find? (fun r => r.1 == i)).map (·.2)).getD 0))))

theorem run_readResidues {s : State} {cx : Cx} {ef : Bool} {c : Nat} (hc : ef = true → c ≤ 8)
    (h : ∀ k < 8, pendingReg (s.grp cx.g) (80 + k) = none) (k : List (List W32) → M Unit) :
    ((if ef then (gen c (fun i => 80 + i)).mapM (readV cx cx.exe 80) >>= k else pure [] >>= k) : M Unit).run s
      = (k (if ef then gen c (fun i => gen (s.grp cx.g).w (fun t => (s.grp cx.g).el32 (80 + i) t)) else [])).run s := by
  cases ef
  · rfl
  · have hc := hc rfl
    refine run_bind_ok (run_readRun (by omega) fun i hi => ?_)
    unfold SourceOk
    rw [if_neg (by omega), if_pos (by omega)]
    intro j hj
    obtain rfl : j = 0 := by omega
    exact h i (by omega)

/-- What the pack form needs of its control word beside the fields' own limits (R70). -/
def BlockCtl.Room (k : BlockCtl) (a : Nat) : Prop := a + k.c ≤ 80 ∧ k.j + k.c ≤ 496 / k.m ∧ (k.ef = true → k.c ≤ 8)

theorem room_guard (k : BlockCtl) (a : Nat) :
    (k.ok && decide (a + k.c ≤ 80) && decide (k.j + k.c ≤ 496 / k.m) && !(k.ef && decide (8 < k.c))) = true
      ↔ k.ok = true ∧ k.Room a := by
  simp only [BlockCtl.Room, Bool.and_eq_true, decide_eq_true_eq, Bool.not_eq_true', Bool.and_eq_false_iff, decide_eq_false_iff_not,
    not_lt, and_assoc]
  cases k.ef <;> simp

/-- The end of the pack form: the blocks, the residues and the events of what its lanes give. -/
theorem run_packed {s t : State} {cx : Cx} {y : Group} {d c : Nat} {out : Nat → Nat × List (Nat × Nat) × Ev} (hg : t.grp cx.g = y)
    (hset : ∀ z, t.setGrp cx.g z = s.setGrp cx.g z) (hblock : BlockOk y d) (hpin : y.pinned = []) (hc : c ≤ 8)
    (hq : ∀ i < 8, pendingReg y (80 + i) = none) :
    let outs := gen y.w out
    (do
      writeBlocks cx d (outs.map (fun o => blockWords o.1))
      (List.range c).forM (fun i =>
        writeQ cx (cx.exe &&& maskOf y.w (fun t => (lane (0, [], {}) outs t).2.1.any (fun r => r.1 == i))) i
          (gen y.w (fun t => n32 ((((lane (0, [], {}) outs t).2.1.find? (fun r => r.1 == i)).map (·.2)).getD 0))))
      noteEvents cx 10 ((laneList y.w cx.exe).map (fun t => (lane (0, [], {}) outs t).2.2)) : M Unit).run t
      = .ok ((), (s.setGrp cx.g ((y.setVs (blockWrites cx.exe y.w d fun t => (out t).1)).setVs (residueWrites cx.exe y.w c out))).counting
          cx 10 ((cx.lanes y).map (fun t => (out t).2.2))) := by
  intro outs
  have hlane : ∀ t < y.w, lane (0, [], {}) outs t = out t := fun t ht => lane_gen _ _ ht
  have hmask (i : Nat) : maskOf y.w (fun t => (lane (0, [], {}) outs t).2.1.any (fun r => r.1 == i))
      = maskOf y.w (fun t => (out t).2.1.any (fun r => r.1 == i)) := maskOf_congr fun t ht => by rw [hlane t ht]
  have hrest (i : Nat) : gen y.w (fun t => n32 ((((lane (0, [], {}) outs t).2.1.find? (fun r => r.1 == i)).map (·.2)).getD 0))
      = gen y.w (fun t => n32 ((((out t).2.1.find? (fun r => r.1 == i)).map (·.2)).getD 0)) :=
    gen_congr fun t ht => by rw [hlane t ht]
  have hev : (cx.lanes y).map (fun t => (lane (0, [], {}) outs t).2.2) = (cx.lanes y).map (fun t => (out t).2.2) :=
    lanes_congr fun t ht => by rw [hlane t ht]
  simp only [hmask, hrest, lanes_eq, hev]
  rw [show outs.map (fun o => blockWords o.1) = gen y.w (fun t => blockWords (out t).1) from map_gen _ _ _,
    run_bind_ok (run_writeBlocks (by rwa [hg]) (by rwa [hg])), hset, hg,
    run_bind_ok (run_writeQs _ fun i hi => ?_), run_noteEvents]
  · rfl
  · have hi := List.mem_range.1 hi
    exact ⟨by omega, setVs_pending _ (hq i (by omega))⟩

/-- The pack form whose control word is legal. -/
theorem cvtb_comes {f : FCvtb} {s : State} {run : Run} {cx : Cx} {ctl : W64} {k : BlockCtl} (h : Issuing s run cx { mode := true } false)
    (hk : k = blockCtl (ctl.toNat % 2 ^ 32)) (hpin : (s.grp cx.g).pinned = []) (hctl : ScalarOk (s.grp cx.g) f.c.toNat ctl)
    (hok : k.ok = true) (hroom : k.Room f.a.toNat) (ha : f.a.toNat < 80)
    (hsrc : ∀ i < k.c, SourceOk (s.grp cx.g) (f.a.toNat + i) 1) (hold : ∀ i < 16, SourceOk (s.grp cx.g) (f.d.toNat + i) 1)
    (hq : ∀ i < 8, pendingReg (s.grp cx.g) (80 + i) = none) :
    let x := s.grp cx.g
    let y := x.marked cx.exe (countMarks f.l f.m) (specMark f.l f.a.toNat k.c ++ scalarMark f.m f.c.toNat)
    let out := packedLane k (fpMode cx.h).ftz x f.a.toNat f.d.toNat
    BlockOk y f.d.toNat →
    Comes (.cvtb f) s ((s.setGrp cx.g ((y.setVs (blockWrites cx.exe x.w f.d.toNat fun t => (out t).1)).setVs
        (residueWrites cx.exe x.w (if k.ef then k.c else 0) out))).counting cx 10 ((cx.lanes x).map (fun t => (out t).2.2))) cx := by
  intro x y out hblock
  obtain ⟨hfit, hpos, hef⟩ := hroom
  have hm : x.mill = none := by simpa using h.unit.mill
  obtain ⟨t, hmarks, hg, hset⟩ := run_marksUnpinned (cx := cx) (countMarks f.l f.m)
    (specMark f.l f.a.toNat k.c ++ scalarMark f.m f.c.toNat) hm hpin
  have hw : y.w = x.w := marked_w _ _ _ _
  refine issue_counts (z := f.z) (op := 0x42) h (static := _) (body := _) ?_ ?_
    ((samePlace_marked _ _ _ _).trans ((samePlace_setVs _ _).trans (samePlace_setVs _ _)))
  · exact run_cvtbStatic (by omega) (fun _ => .inl ha) hblock.1 hblock.2.1 (fun _ => ha)
  · rw [skipMarks_eq _ _ h.some, thenNext]
    refine run_bind_ok (a := ()) ?_
    have hrefill : (refillSpecs cx (specRegs f.d.toNat 16) [(f.d.toNat, 16), (f.a.toNat, k.c)]).run s = .ok ((), s) := by
      refine run_refillSpecs fun p hp => ?_
      simp only [List.mem_cons, List.not_mem_nil, or_false] at hp
      rcases hp with rfl | rfl
      · exact sourceOk_run (by have := hblock.2.1; omega) (by have := hblock.2.1; omega) hold
      · exact sourceOk_run ha hfit hsrc
    rw [run_bind_ok (run_readS hctl)]
    simp only [← hk]
    rw [run_bind_ok (run_guard ((room_guard k _).2 ⟨hok, hfit, hpos, hef⟩) _ s), run_bind_ok hrefill,
      run_bind_ok (run_readRun (by omega) hsrc), run_readResidues hef hq,
      run_bind_ok (run_readRun (by have := hblock.2.1; omega) hold), run_bind_ok hmarks, run_bind_ok (run_getG cx.g t)]
    have houts : gen x.w (fun t => packBlock k (fpMode cx.h).ftz
        (((List.range 16).map (fun i => (lane 0#32 (lane [] (gen 16 fun i => gen x.w fun t => x.el32 (f.d.toNat + i) t) i) t).toNat * 2 ^ (32 * i))).sum)
        ((gen k.c fun i => gen x.w fun t => x.el32 (f.a.toNat + i) t).map (fun r => (lane 0#32 r t).toNat))
        ((if k.ef then gen k.c fun i => gen x.w fun t => x.el32 (80 + i) t else []).map (fun r => (lane 0#32 r t).toNat))) = gen x.w out :=
      gen_congr fun t ht => packBlock_lanes k _ x _ _ ht
    have hpacked := run_packed (out := out) hg hset hblock (by rw [marked_pinned, hpin]) (c := if k.ef then k.c else 0)
      (by cases hk : k.ef <;> simp_all) (fun i hi => pending_marked _ _ _ (hq i hi))
    rw [lanes_of_w hw, show Group.w _ = x.w from hw] at hpacked
    rw [show (t.grp cx.g).w = x.w from (congrArg Group.w hg).trans hw, houts]
    exact hpacked

/-! ## Masses (R72) -/

/-- Half to even, a number below a quarter is 0. -/
theorem intOf_small {m : Nat} {x : Int} (h : x + bitLen m < -1) : intOf 0 false m x = 0 := by
  obtain ⟨d, hd⟩ : ∃ d, d = (-x).toNat := ⟨_, rfl⟩
  have hlt : 4 * m < 2 ^ d := by
    calc 4 * m < 4 * 2 ^ bitLen m := Nat.mul_lt_mul_of_pos_left (lt_two_pow_bitLen m) (by decide)
      _ = 2 ^ (bitLen m + 2) := by rw [Nat.pow_add]; ring
      _ ≤ 2 ^ d := Nat.pow_le_pow_right (by decide) (by omega)
  unfold intOf
  rw [if_neg (by omega), ← hd]
  simp only [Nat.div_eq_of_lt (show m < 2 ^ d by omega), Nat.mod_eq_of_lt (show m < 2 ^ d by omega), if_pos (show 2 * m < 2 ^ d by omega)]
  simp [roundUp]

/-- A number of 2^n or more is no less as an integer. -/
theorem two_pow_le_intOf {m n : Nat} {x : Int} (h0 : m ≠ 0) (h : n + 1 ≤ x + bitLen m) : (2 ^ n : Nat) ≤ intOf 0 false m x := by
  have hm := two_pow_bitLen_le h0
  obtain ⟨b, hb⟩ : ∃ b, bitLen m = b + 1 := ⟨bitLen m - 1, by unfold bitLen; rw [if_neg h0]; omega⟩
  rw [hb, Nat.pow_succ] at hm
  have hm : 2 ^ b ≤ m := by omega
  unfold intOf
  split
  · rename_i hx
    have : 2 ^ n ≤ m * 2 ^ (x - 0).toNat := by
      calc 2 ^ n ≤ 2 ^ (b + (x - 0).toNat) := Nat.pow_le_pow_right (by decide) (by omega)
        _ = 2 ^ b * 2 ^ (x - 0).toNat := Nat.pow_add ..
        _ ≤ m * 2 ^ (x - 0).toNat := Nat.mul_le_mul_right _ hm
    simp only [atExp, Bool.false_eq_true, if_false, one_mul]
    exact_mod_cast this
  · have : 2 ^ n ≤ m / 2 ^ (-x).toNat := by
      rw [Nat.le_div_iff_mul_le (by positivity), ← Nat.pow_add]
      exact (Nat.pow_le_pow_right (by decide) (by omega)).trans hm
    simp only [Bool.false_eq_true, if_false]
    push_cast
    have : ((2 ^ n : Nat) : Int) ≤ ((m / 2 ^ (-x).toNat : Nat) : Int) := by exact_mod_cast this
    push_cast at this
    split <;> omega

/-- A magnitude times 2^k as a mass. -/
def massOf (m : Nat) (x : Int) : Nat := min (intOf 0 false m x).toNat (2 ^ 20 - 1)

theorem massOf_zero (x : Int) : massOf 0 x = 0 := by
  have : intOf 0 false 0 x = 0 := by
    unfold intOf
    split
    · simp [atExp]
    · simp [roundUp]
  rw [massOf, this]
  rfl

/-- The mass of a number, and its event: NaN and what is below zero are invalid. -/
def massNum (k : Int) : Num → Nat × Ev
  | .nan => (0, { inv := true })
  | .inf neg => if neg then (0, { inv := true }) else (2 ^ 20 - 1, {})
  | .fin neg m e => if neg && m != 0 then (0, { inv := true }) else (massOf m (e + k), {})

theorem toMass_eq (ftz : Bool) (k : Int) (a : Nat) : toMass ftz k a = massNum k (decodeF f32 ftz a) := by
  unfold toMass
  cases decodeF f32 ftz a with
  | nan => rfl
  | inf s => rfl
  | fin s m e =>
    simp only [massNum]
    split
    · rfl
    · split
      · rename_i hsmall
        congr 1
        simp only [Bool.or_eq_true, decide_eq_true_eq] at hsmall
        rcases hsmall with rfl | hsmall
        · exact (massOf_zero _).symm
        · rw [massOf, intOf_small hsmall]
          rfl
      · rename_i hsmall
        simp only [Bool.or_eq_true, decide_eq_true_eq, not_or] at hsmall
        split
        · rename_i hbig
          congr 1
          have := two_pow_le_intOf (n := 20) hsmall.1 (show ((20 : Nat) : Int) + 1 ≤ e + k + bitLen m by omega)
          unfold massOf
          omega
        · rfl

theorem massNum_lt (k : Int) (x : Num) : (massNum k x).1 < 2 ^ 20 := by
  unfold massNum
  cases x with
  | nan => exact (by decide : 0 < 2 ^ 20)
  | inf s =>
    cases s
    · exact (by decide : 2 ^ 20 - 1 < 2 ^ 20)
    · exact (by decide : 0 < 2 ^ 20)
  | fin s m e =>
    simp only []
    split
    · exact (by decide : 0 < 2 ^ 20)
    · exact (min_le_right _ _).trans_lt (by decide)

/-- A mass, held in the destination. -/
theorem lane2_massNum (k : Int) (x : Num) : lane2 6 (massNum k x) = { v := BitVec.ofNat 64 (massNum k x).1, ev := (massNum k x).2 } := by
  have hlt : (massNum k x).1 < 2 ^ 32 := (massNum_lt k x).trans (by decide)
  have hheld : holdBits 6 (massNum k x).1 = BitVec.ofNat 64 (massNum k x).1 := by
    rw [holdBits_eq (by decide)]
    change (BitVec.ofNat 32 (massNum k x).1).setWidth 64 = _
    exact BitVec.eq_of_toNat_eq (by simp only [BitVec.toNat_setWidth, BitVec.toNat_ofNat, Nat.mod_eq_of_lt hlt])
  unfold lane2
  rw [hheld]

/-- CVTM. -/
theorem cvtm_comes {f : FVK8} {s : State} {run : Run} {cx : Cx} {k : Int} (h : Issuing s run cx { imm := 2, mode := true } false)
    (hv : VecOk (s.grp cx.g) cx.exe false [(f.l, f.a.toNat)] f.d.toNat) (hk : (immS cx.h 8 f.k.toNat).toInt = k) :
    let x := s.grp cx.g
    let out (t : Nat) := massNum k (decodeF f32 (fpMode cx.h).ftz (x.el32 f.a.toNat t).toNat)
    Comes (.cvtm f) s ((s.setGrp cx.g ((x.marks cx.exe false [(f.l, f.a.toNat)]).result cx.exe f.d.toNat false
      (gen x.w (fun t => BitVec.ofNat 64 (out t).1)))).counting cx 10 ((cx.lanes x).map (fun t => (out t).2))) cx := by
  intro x out
  have hm : x.mill = none := by simpa using h.unit.mill
  have hs := hv.toSourcesOk
  have ha : SourceOk x f.a.toNat 1 := hs.place (f.l, f.a.toNat) (by simp)
  obtain ⟨t, hmarks, hg, hset⟩ := run_markOne (cx := cx) hm hs
  have hw : (x.marks cx.exe false [(f.l, f.a.toNat)]).w = x.w := marks_w _ _ _ _
  refine issue_counts (z := f.z) (op := 0x43) h (static := _) (body := _) ?_ ?_
    ((samePlace_marks x cx.exe false [(f.l, f.a.toNat)]).trans (samePlace_result _ _ _ _ _))
  · rw [run_bind_ok (hs.run_okSpec s), run_bind_ok (run_okDest hv.dest.1 s)]
    exact hs.run_okMark s
  · rw [skipMarks_eq _ _ h.some, run_bind_ok (run_refillOne ha _), run_bind_ok (run_readOp (k := 0) ha),
      run_bind_ok (show (applyMarks cx (countMarks f.l false) (specMark f.l f.a.toNat 1)).run s = _ from hmarks),
      run_bind_ok (run_getG cx.g t), hg,
      run_finishCounting (ty := 6) (v := fun t => (BitVec.ofNat 64 (out t).1, (out t).2)) hg hset hv.dest nofun (fun j hj => ?_),
      hw, lanes_of_w hw]
    · rfl
    · rw [lane_gen _ _ (hw ▸ hj), hk, toMass_eq]
      exact lane2_massNum _ _

/-! ## The statements -/

theorem setVs_blockWrites (x : Group) (exe : W64) (n d : Nat) (blk : Nat → Nat) :
    x.setVs (blockWrites exe n d blk)
      = (List.range 16).foldl (fun y k => y.setV exe (d + k) (gen n (fun t => BitVec.ofNat 32 (blk t / 2 ^ (32 * k))))) x :=
  List.foldl_map

theorem setVs_residueWrites (x : Group) (exe : W64) (n c : Nat) (out : Nat → Nat × List (Nat × Nat) × Ev) :
    x.setVs (residueWrites exe n c out)
      = (List.range c).foldl (fun z i => z.setV (exe &&& maskOf n (fun t => (out t).2.1.any (fun r => r.1 == i))) (80 + i)
          (gen n (fun t => BitVec.ofNat 32 ((((out t).2.1.find? (fun r => r.1 == i)).map (·.2)).getD 0)))) x :=
  List.foldl_map

/-- A control word the header form does not take (R70). -/
theorem cvtbHdr_traps {f : FCvtb} {s : State} {run : Run} {cx : Cx} {ctl : W64} (h : Issuing s run cx { mode := true } false)
    (hctl : ScalarOk (s.grp cx.g) f.c.toNat ctl) (hd : f.d.toNat % 16 = 0) (h64 : f.d.toNat ≤ 64)
    (hs : SourcesOk (s.grp cx.g) false [(f.l, f.a.toNat)]) (hbad : ¬ BlockCtl.Legal ctl) : Traps (.cvtbHdr f) s run cx 2 0#64 := by
  have ha : SourceOk (s.grp cx.g) f.a.toNat 1 := hs.place (f.l, f.a.toNat) (by simp)
  refine traps_body h.unit rfl
    (run_cvtbStatic (by simpa using ha.notReserved) (fun hl => (hs.marks (f.l, f.a.toNat) (by simp) hl).1) hd h64 nofun) ?_
  rw [skipMarks_eq _ _ h.some, thenNext]
  refine run_bind_error ?_
  rw [run_bind_ok (run_readS hctl)]
  simp only []
  rw [Bool.eq_false_iff.2 fun hok => hbad ((blockCtl_ok ctl).1 hok)]
  exact run_bind_error (run_guard_false _ s)

/-- A control word the pack form does not take (R70). -/
theorem cvtb_traps {f : FCvtb} {s : State} {run : Run} {cx : Cx} {ctl : W64} (h : Issuing s run cx { mode := true } false)
    (hctl : ScalarOk (s.grp cx.g) f.c.toNat ctl) (hd : f.d.toNat % 16 = 0) (h64 : f.d.toNat ≤ 64) (ha : f.a.toNat < 80)
    (hbad : ¬ ((blockCtl (ctl.toNat % 2 ^ 32)).ok = true ∧ (blockCtl (ctl.toNat % 2 ^ 32)).Room f.a.toNat)) :
    Traps (.cvtb f) s run cx 2 0#64 := by
  refine traps_body h.unit rfl (run_cvtbStatic (by omega) (fun _ => .inl ha) hd h64 (fun _ => ha)) ?_
  rw [skipMarks_eq _ _ h.some, thenNext]
  refine run_bind_error ?_
  rw [run_bind_ok (run_readS hctl)]
  simp only []
  rw [Bool.eq_false_iff.2 fun hok => hbad ((room_guard _ _).1 hok)]
  exact run_bind_error (run_guard_false _ s)

/-- A legal control word's fields. -/
theorem blockCtl_legal {ctl : W64} (h : BlockCtl.Legal ctl) : blockCtl (ctl.toNat % 2 ^ 32) =
    { m := bits ctl.toNat 3 0, j := bits ctl.toNat 11 4, c := bits ctl.toNat 15 12 + 1, ef := bits ctl.toNat 16 16 == 1, ok := true } := by
  have hok := (blockCtl_ok ctl).2 h
  rw [blockCtl_word] at hok ⊢
  rw [show (bits ctl.toNat 31 17 == 0 && decide (2 ≤ bits ctl.toNat 3 0) && decide (bits ctl.toNat 3 0 ≤ 8)) = true from hok]

/-- Settles O12: CVTB's two forms by what they leave and what they refuse, and CVTM's lanes. -/
theorem blocksAndMasses : Obligations.BlocksAndMasses := by
  unfold Obligations.BlocksAndMasses
  intro s run cx x md sixteen
  have hsixteen (z : Group) (d : Nat) (blk : Nat → Nat) : sixteen z d blk = z.setVs (blockWrites cx.exe x.w d blk) :=
    (setVs_blockWrites _ _ _ _ _).symm
  refine ⟨fun f ctl h hpin hctl => ⟨?_, ?_, ?_⟩, ?_⟩
  · intro hblock hbad hs
    exact cvtbHdr_traps h hctl hblock.1 hblock.2.1 hs hbad
  · intro y hy hs hblock hlegal
    refine ⟨fun t => blockScale (bits ctl.toNat 3 0) (decodeF f32 md.ftz (x.el32 f.a.toNat t).toNat), fun t => blockScale_spec _ _, ?_⟩
    rw [← countMarks_countP, ← specMark_ite] at hy
    rw [hsixteen, hy]
    exact cvtbHdr_comes h hpin hctl hlegal hs (hy ▸ hblock)
  · intro c j ef ha hfit hsrc hblock hold hq y hy hblock'
    have hmark : (if f.l then gen c (fun i => f.a.toNat + i) else []) = specMark f.l f.a.toNat c := by
      cases f.l
      · rfl
      · exact (if_neg (by omega)).symm
    rw [← countMarks_countP, hmark] at hy
    refine ⟨?_, fun hbad => ?_⟩
    · intro hlegal hpos hef k out qs
      have hcomes := cvtb_comes (k := k) h (blockCtl_legal hlegal).symm hpin hctl rfl ⟨hfit, hpos, hef⟩ ha hsrc hold hq (hy ▸ hblock')
      have hqs (z : Group) : qs z = z.setVs (residueWrites cx.exe x.w (if k.ef then k.c else 0) out) := by
        rw [setVs_residueWrites]
        simp only [qs]
        change (if ef then _ else z) = List.foldl _ z (List.range (if ef then c else 0))
        cases ef <;> rfl
      have hout : packedLane k md.ftz x f.a.toNat f.d.toNat = out := rfl
      rw [hsixteen, hqs, hy, ← hout]
      exact hcomes
    · refine cvtb_traps h hctl hblock.1 hblock.2.1 ha ?_
      rw [blockCtl_ok]
      rintro ⟨hlegal, -, hpos, hef⟩
      rw [blockCtl_legal hlegal] at hpos hef
      rcases hbad with hbad | hbad | ⟨hbad, h8⟩
      · exact hbad hlegal
      · exact absurd hpos (not_le.2 hbad)
      · exact absurd (hef hbad) (not_le.2 h8)
  · intro f k h hv hk mass
    have hmass : mass = fun t => massNum k (decodeF f32 md.ftz (x.el32 f.a.toNat t).toNat) := by
      funext t
      cases hnum : decodeF f32 md.ftz (x.el32 f.a.toNat t).toNat <;> simp only [mass, hnum, massNum, massOf]
    rw [hmass]
    exact cvtm_comes h hv (toInt_immS (by decide) hk)

end Sys2Proof.Machine
end
